-- ==== Sys2Proof/Word.lean ====
section
/-! DEFINITION. The word types of Mamal: 32-bit words, bytes, 64-byte lines. -/

namespace Sys2Proof

/-- A 32-bit word: a register, an element of a vitrine, a word of a record. -/
abbrev Word := BitVec 32

/-- A byte. -/
abbrev Byte := BitVec 8

/-- A 64-byte line of the scratchpad window (R421), byte k in bits [8k+7:8k]. -/
abbrev Line := BitVec 512

/-- The 1,024 bits of a mask (R209): bit 32r + c belongs to lane (r, c). -/
abbrev Mask := BitVec 1024

end Sys2Proof
end

