-- ==== Sys2Proof/Syntax.lean ====
section
/-! DEFINITION. The commands of the block: one constructor for each row of spec/opcode_table.json, with its operands.

The 41 instruction rows of a tile program name only the program slot: the instruction itself is the slot's next 64-bit
word, as the hardware takes it (R203, R227). The rows by which the host answers (scratchpad data, translations,
stream-engine returns, save-area reads) carry the answer as their operands, because the memory behind Mamal's ports
belongs to the host (R1). -/

namespace Sys2Proof

/-- A cell of an instance. -/
structure CellAt where
  inst : Nat
  cell : Nat
deriving DecidableEq, Repr

/-- A program slot of a cell (R203). -/
structure Site where
  inst : Nat
  cell : Nat
  slot : Nat
deriving DecidableEq, Repr

/-- The normalisation that a feed request performs on the operand rows before they are rounded (R168, R198): none; by row
records, with the broadcast scalar of eps, rms and, when affine is 1, the vitrine with the rows that hold gamma and
beta_col; or by softmax records. No field of R227 selects it, so the command carries it (DESIGN CHOICE, log entry 93). -/
inductive Prologue where
  | none
  | rows (eps : Nat) (rms : Bool) (affine : Option (Nat × Nat × Nat))
  | softmax
deriving DecidableEq, Repr

/-- Where a feed request stands, with its prologue. -/
structure FeedSite where
  site : Site
  pro  : Prologue
deriving DecidableEq, Repr

/-- The port of the stream engine and the ident under which a request runs (R425). -/
structure SeTag where
  port  : Nat
  ident : Nat
deriving DecidableEq, Repr

/-- One line of the scratchpad as the host returned it (R421): line number, response, data. -/
structure SpLine where
  line : Nat
  resp : BitVec 2
  data : Line
deriving DecidableEq, Repr

/-- An answer of the translation service (R296, R426): status, page number, page size, permissions. -/
structure XlAns where
  status : BitVec 2
  ppn    : BitVec 40
  size   : BitVec 2
  r      : Bool
  w      : Bool
deriving DecidableEq, Repr

/-- What the host answered when Mamal read a save area (R277): a translation fault, or the bytes of the area with
whether any line was answered with an error or a poison indication. -/
structure AreaRead where
  fault : Bool
  bytes : List Byte
deriving DecidableEq, Repr

/-- The fields of a write of HUB.CH_CMD other than its op (R268). -/
structure ChCmd where
  win   : Nat
  cmdId : BitVec 16
  rsv   : BitVec 7
  clear : Bool
deriving DecidableEq, Repr

/-- An access of the control port (R341, R424): 24-bit address, size code, write, write data. -/
structure CtlAcc where
  addr : BitVec 24
  we   : Bool
  data : Word
deriving DecidableEq, Repr

/-- Where an uncorrectable word stood (the rows of R390). -/
inductive UncAt where
  /-- vitrine, mask, scalar, code stage, cask slot, mash buffer or slot state, and the slot whose tile it struck -/
  | cellWork (cell : Nat) (slot : Option Nat)
  /-- the drained tile at this place of the cell's drain queue -/
  | drainEntry (cell : Nat) (tile : Nat)
  /-- the commit buffer of this slot: the scratchpad line that the word belongs to -/
  | commitBuffer (cell slot line : Nat)
  /-- the program buffer or the descriptor registers of this slot -/
  | program (cell slot : Nat)
  /-- the translation-cache entry at this place -/
  | tlb (entry : Nat)
  /-- the staging space of this transfer -/
  | staging (xfer : Nat)
  | keySlot (slot : Nat)
  /-- the hardware context of this resident virtual channel -/
  | hwContext (vc : Nat)
  | vcTable
deriving DecidableEq, Repr

/-- A protected word that was read with erroneous symbols (R369, R377): on a bus (class 1) or in a storage (class 0), how many
of its symbols, and where. -/
structure BadWord where
  bus  : Bool
  errs : Nat
  at_  : UncAt
deriving DecidableEq, Repr

/-- The requester that waits for the answer of a message (R391). -/
inductive ReqBy where
  /-- a launch, transfer request or mailbox record of this cell -/
  | cell (n : Nat)
  | channelWindow
  | keyWindow
  | mailboxWindow
deriving DecidableEq, Repr

/-- One message of a die-link flit (R430, R391), as far as the spec describes messages. -/
inductive LinkMsg where
  /-- a forwarded control access (class 0) -/
  | control (acc : CtlAcc)
  /-- a fence update: SIGF, a transfer or collective signal (class 1): fence index of the receiving instance, increment -/
  | fenceAdd (idx : Nat) (inc : Word)
  /-- a firmware write of a remote fence (class 1) -/
  | fenceSet (idx : Nat) (val : Word)
  /-- a fence-error notice (R391, class 1) -/
  | fenceErr (idx : Nat)
  /-- a channel, launch, transfer, key or mailbox command, or its answer (class 1): who waits, at the sender of a command
  and at the receiver of an answer -/
  | request (by_ : ReqBy) (answer : Bool)
  /-- a mailbox post from a cell's core (class 1): sending cell, mailbox handle, message -/
  | post (cell : Nat) (handle : Word) (msg : List Word)
  /-- a delivery on its way to a cell's core (class 1) -/
  | delivery (mailbox : Nat)
  /-- data of a transfer or collective (class 2) -/
  | xferData (xfer : Nat)
  /-- a collective packet (class 2) -/
  | packet (bytes : List Byte)
  /-- a structure-stream copy (class 3) -/
  | stream
  /-- a completion or fault record for instance 0 (class 4), eight words -/
  | record (ws : List Word)
  /-- an interrupt, power or fault-state update (class 4) -/
  | stateUpdate
deriving DecidableEq, Repr

/-- A flit of the die link (R430): type, class, sequence number, acknowledgement, source and destination instance, payload
bytes used, messages. -/
structure Flit where
  typ  : BitVec 4
  cls  : BitVec 4
  seq  : BitVec 12
  ack  : BitVec 12
  src  : BitVec 3
  dst  : BitVec 3
  used : BitVec 8
  msgs : List LinkMsg
deriving DecidableEq, Repr

/-- The wrapper instructions of a block (R436). -/
inductive Wrapper where
  | bypass | extest | intest | clamp | safe | preload
deriving DecidableEq, Repr

/-- The instruments of the IEEE 1687 network (R436). -/
inductive Instrument where
  | cellSelfTest (cell : Nat) | sramTest | clockMonitor | selfTestResults | linkMargin
deriving DecidableEq, Repr

/-- What the integrator's TAP network does at the test access port of an instance (R435, R436): it loads the instruction
register, gives a block a wrapper instruction, or reaches an instrument. -/
inductive TapOp where
  | ir (code : BitVec 8)
  | wir (block : Nat) (w : Wrapper)
  | instrument (k : Instrument)
deriving DecidableEq, Repr

/-- The commands of the block, one constructor for each row of spec/opcode_table.json. -/
inductive Instr where
  -- instructions of tile programs
  | vldLoad (at_ : Site)
  | vldDrain (at_ : Site)
  | vldFeed (at_ : FeedSite)
  | vst (at_ : Site)
  | cvtMemory (at_ : Site)
  | cvtVitrine (at_ : Site)
  | scl (at_ : Site)
  | sclFold (at_ : Site)
  | rnd (at_ : Site)
  | clp (at_ : Site)
  | cmp (at_ : Site)
  | sel (at_ : Site)
  | perm (at_ : Site)
  | shuf (at_ : Site)
  | pack (at_ : Site)
  | unpk (at_ : Site)
  | fma (at_ : Site)
  | fn (at_ : Site)
  | fnSoftmax (at_ : Site)
  | fnMerge (at_ : Site)
  | redPlain (at_ : Site)
  | redRowRecord (at_ : Site)
  | redSoftmaxRecord (at_ : Site)
  | redOffset (at_ : Site)
  | redSum (at_ : Site)
  | redMerge (at_ : Site)
  | steepGather (at_ : Site)
  | steepSettle (at_ : Site)
  | steepSmoothingSettle (at_ : Site)
  | mash (at_ : Site)
  | kiln (at_ : Site)
  | caskOpen (at_ : Site)
  | caskAdd (at_ : Site)
  | caskDrain (at_ : Site)
  | caskClose (at_ : Site)
  | loop (at_ : Site)
  | waitf (at_ : Site)
  | sigf (at_ : Site)
  | summ (at_ : Site)
  | msk (at_ : Site)
  -- steps of programs, casks and cell ports
  | tileCommit (at_ : Site)
  | caskAddCommit (c : CellAt) (entry : Nat)
  | caskDrainComplete (at_ : Site)
  | caskCloseDone (at_ : Site)
  | waitfPass (at_ : Site)
  | drainBeat (c : CellAt) (tag : BitVec 16) (beat : List Word)
  | feedVectorAccept (c : CellAt)
  | spReadData (c : CellAt) (resp : List (BitVec 2)) (data : List Line)
  | spWriteAck (c : CellAt) (err : Bool)
  | launchRecord (c : CellAt) (ws : List Word)
  | launchAdmit (c : CellAt)
  | launchFetchDone (at_ : Site)
  | transferRequest (c : CellAt) (ws : List Word) (lines : List SpLine)
  | mailboxRecord (c : CellAt) (ws : List Word)
  | mbHeldPostRelease (c : CellAt)
  | outboundWordAccept (c : CellAt)
  | mbDelivery (inst : Nat) (m : Nat)
  -- translation, transfers, collectives
  | xlateAnswer (inst : Nat) (tag : BitVec 10) (ans : XlAns)
  | resolveNotice (inst : Nat) (asid : BitVec 16) (vpn : BitVec 40) (all : Bool)
  | invalidation (inst : Nat) (kind : BitVec 2) (asid : BitVec 16) (vpn : BitVec 40) (pages : Word)
  | xferFencePass (inst : Nat) (x : Nat)
  | xferStagingReserve (inst : Nat)
  | seReadReturn (inst : Nat) (tag : SeTag) (lower upper : BitVec 2 × Line)
  | xferCommitPoint (inst : Nat) (x : Nat)
  | seWriteDone (inst : Nat) (tag : SeTag) (err : Bool)
  | collPoll (inst : Nat) (x : Nat) (gather : Bool) (idx : Nat)
  | collLocalPacket (inst : Nat) (sender : Nat)
  | collTimeout (inst : Nat) (x : Nat)
  -- channels and keys
  | chCreate (w : ChCmd) (xl : XlAns)
  | chCreateDone (inst : Nat) (vc : Nat) (fault : Bool)
  | chStart (w : ChCmd)
  | chPreempt (w : ChCmd)
  | preemptStopDone (inst : Nat) (vc : Nat)
  | contextSaveDone (inst : Nat) (vc : Nat) (fault : Bool)
  | chResume (w : ChCmd)
  | saveCheckDone (inst : Nat) (vc : Nat) (area : AreaRead)
  | chDestroy (w : ChCmd)
  | destroyScrubDone (inst : Nat) (vc : Nat) (fault : Bool)
  | chQuery (w : ChCmd) (led : Option Line)
  | schedAdmit (inst : Nat)
  | restoreDone (inst : Nat) (vc : Nat) (area : AreaRead)
  | schedEvict (inst : Nat)
  | keyLoad (inst : Nat) (word : Word)
  | keyClear (inst : Nat) (word : Word)
  | instanceKeyProvision (inst : Nat) (key : BitVec 256) (lastOnBeat3 : Bool)
  -- mailboxes, structure stream, control port
  | mbAlloc (inst : Nat)
  | mbFree (inst : Nat)
  | mbSend (inst : Nat)
  | mbTake (inst : Nat)
  | ssOpen
  | ssDataWrite (w : Word)
  | ssClose
  | ssCloseDone
  | ssCommit
  | ssCommitDone
  | registerWrite (addr : BitVec 24) (data : Word)
  | rcRead (addr : BitVec 24)
  | ctlForward (xl : XlAns) (led : Option Line)
  | fenceWrite (inst : Nat) (idx : Nat) (val : Word)
  | flushUnbound (c : CellAt)
  -- power and reset
  | pwrWake (inst : Nat) (data : Word)
  | pwrOffRequest (inst : Nat) (data : Word)
  | offReady (inst : Nat)
  | instReset (inst : Nat) (byPin : Bool)
  | instResetDone (inst : Nat) (failed : BitVec 256) (hubFail : Bool)
  | cellReset (inst : Nat) (cell : BitVec 8)
  | cellResetDone (inst : Nat)
  | powerOnReset (inst : Nat) (pos : BitVec 3)
  | powerOnResetDone (inst : Nat) (failed : BitVec 256) (hubFail : Bool)
  -- faults and links
  | fltInject (inst : Nat) (data : Word)
  | residueMismatch (c : CellAt) (cask : Bool) (slot : Option Nat) (index : BitVec 16)
  | lockstepMismatch (c : CellAt) (slot : Option Nat)
  | selfTestDone (c : CellAt) (pass : Bool)
  | hubVoteMismatch (inst : Nat) (copy : Nat) (index : BitVec 16)
  | sePortMismatch (inst : Nat) (port : Nat) (enc : Bool) (x : Option Nat) (index : BitVec 16) (permanent : Bool)
  | uncorrectableWord (inst : Nat) (word : BadWord) (index : BitVec 16) (address : Word)
  | docentAccess (inst : Nat) (errs : Nat) (where_ : UncAt) (index : BitVec 16) (address : Word) (lastWord : Bool)
  | clockLoss (inst : Nat)
  | flitReceive (inst : Nat) (east : Bool) (flit : Flit) (badSymbols : Nat)
  | linkDown (inst : Nat) (east : Bool)
  | linkTrainDone (inst : Nat) (east : Bool) (peer : BitVec 3)
  | pwrTick (inst : Nat)
  | pwrEntryDone (inst : Nat)
  | pwrEventExit (inst : Nat)
  | pwrExitDone (inst : Nat)
  | cellGate (c : CellAt)
  | testStateEnter (inst : Nat) (op : TapOp)
  | ctlErrorResponse (acc : CtlAcc) (size : BitVec 2)
  | reservedKindRecord (c : CellAt) (ws : List Word)
deriving DecidableEq, Repr

end Sys2Proof
end

