-- ==== Sys2Proof/WellFormed.lean ====
section
/-! DEFINITION. The operand ranges that the ports impose: at most 8 instances (R15), 256 cells (R15), 4 slots (R203), beats of
256 elements (R150), 32 mailboxes (R361), 1,024 fences (R313), 8 stream-engine ports with 256 idents each (R425), 4 lines to a
scratchpad beat (R421). -/

namespace Sys2Proof

/-- At most eight instances in a package (R15). -/
def instOk (i : Nat) : Bool := decide (i < 8)

/-- A cell number below 256 (R15). -/
def cellOk (c : CellAt) : Bool := instOk c.inst && decide (c.cell < 256)

/-- Four program slots in a cell (R203). -/
def siteOk (a : Site) : Bool := instOk a.inst && decide (a.cell < 256) && decide (a.slot < 4)

/-- A program slot, when one is named. -/
def slotOk (k : Option Nat) : Bool := match k with
  | some n => decide (n < 4)
  | none => true

/-- A virtual channel number of an instance (R259). -/
def vcOk (i v : Nat) : Bool := instOk i && decide (v < 65536)

/-- The operands of a command fit the ports that carry it. -/
def Instr.wf : Instr → Bool
  | .vldLoad a | .vldDrain a | .vst a | .cvtMemory a | .cvtVitrine a | .scl a | .sclFold a | .rnd a
  | .clp a | .cmp a | .sel a | .perm a | .shuf a | .pack a | .unpk a | .fma a | .fn a | .fnSoftmax a | .fnMerge a
  | .redPlain a | .redRowRecord a | .redSoftmaxRecord a | .redOffset a | .redSum a | .redMerge a | .steepGather a
  | .steepSettle a | .steepSmoothingSettle a | .mash a | .kiln a | .caskOpen a | .caskAdd a | .caskDrain a
  | .caskClose a | .loop a | .waitf a | .sigf a | .summ a | .msk a => siteOk a
  | .tileCommit a | .caskDrainComplete a | .caskCloseDone a | .waitfPass a | .launchFetchDone a => siteOk a
  | .caskAddCommit c e => cellOk c && decide (e < 16)
  | .drainBeat c _ b => cellOk c && decide (b.length = 256)
  | .feedVectorAccept c | .spWriteAck c _ | .launchAdmit c | .mbHeldPostRelease c
  | .outboundWordAccept c | .flushUnbound c | .cellGate c => cellOk c
  | .launchRecord c ws | .mailboxRecord c ws | .reservedKindRecord c ws => cellOk c && decide (0 < ws.length)
  | .transferRequest c ws _ => cellOk c && decide (0 < ws.length)
  | .residueMismatch c _ k _ | .lockstepMismatch c k => cellOk c && slotOk k
  | .selfTestDone c _ => cellOk c
  | .vldFeed a => siteOk a.site
  | .spReadData c r d => cellOk c && decide (0 < r.length ∧ r.length ≤ 4) && decide (r.length = d.length)
  | .mbDelivery i m => instOk i && decide (m < 32)
  | .xlateAnswer i _ _ | .resolveNotice i _ _ _ | .invalidation i _ _ _ _ => instOk i
  | .xferFencePass i _ | .xferStagingReserve i | .xferCommitPoint i _ | .collPoll i _ _ _ | .collTimeout i _ => instOk i
  | .seReadReturn i t _ _ | .seWriteDone i t _ => instOk i && decide (t.port < 8) && decide (t.ident < 256)
  | .collLocalPacket i j => instOk i && instOk j
  | .chCreate w _ | .chStart w | .chPreempt w | .chResume w | .chDestroy w | .chQuery w _ => instOk w.win
  | .chCreateDone i v _ | .contextSaveDone i v _ | .destroyScrubDone i v _ => vcOk i v
  | .preemptStopDone i v => vcOk i v
  | .saveCheckDone i v a | .restoreDone i v a => vcOk i v && (a.fault || decide (a.bytes.length = 2048))
  | .schedAdmit i | .schedEvict i | .keyLoad i _ | .keyClear i _ | .instanceKeyProvision i _ _ => instOk i
  | .mbAlloc i | .mbFree i | .mbSend i | .mbTake i => instOk i
  | .ssOpen | .ssDataWrite _ | .ssClose | .ssCloseDone | .ssCommit | .ssCommitDone => true
  | .registerWrite _ _ | .rcRead _ | .ctlForward _ _ | .ctlErrorResponse _ _ => true
  | .fenceWrite i k _ => instOk i && decide (k < 1024)
  | .pwrWake i _ | .pwrOffRequest i _ | .offReady i | .instReset i _ | .instResetDone i _ _ | .cellReset i _
  | .cellResetDone i | .powerOnReset i _ | .powerOnResetDone i _ _ | .fltInject i _ => instOk i
  | .hubVoteMismatch i k _ => instOk i && decide (k < 3)
  | .sePortMismatch i p _ _ _ _ => instOk i && decide (p < 8)
  | .uncorrectableWord i w _ _ => instOk i && decide (w.errs ≤ 2)
  | .docentAccess i e _ _ _ _ => instOk i && decide (e ≤ 2)
  | .clockLoss i | .flitReceive i _ _ _ | .linkDown i _ | .linkTrainDone i _ _ | .pwrTick i | .pwrEntryDone i
  | .pwrEventExit i | .pwrExitDone i | .testStateEnter i _ => instOk i

/-- The instance whose port takes a command; none for one that comes in at the package's control port (R341). -/
def Instr.die : Instr → Option Nat
  | .vldLoad a | .vldDrain a | .vst a | .cvtMemory a | .cvtVitrine a | .scl a | .sclFold a | .rnd a
  | .clp a | .cmp a | .sel a | .perm a | .shuf a | .pack a | .unpk a | .fma a | .fn a | .fnSoftmax a | .fnMerge a
  | .redPlain a | .redRowRecord a | .redSoftmaxRecord a | .redOffset a | .redSum a | .redMerge a | .steepGather a
  | .steepSettle a | .steepSmoothingSettle a | .mash a | .kiln a | .caskOpen a | .caskAdd a | .caskDrain a
  | .caskClose a | .loop a | .waitf a | .sigf a | .summ a | .msk a | .tileCommit a | .caskAddCommit a _
  | .caskDrainComplete a | .caskCloseDone a | .waitfPass a | .drainBeat a _ _ | .feedVectorAccept a
  | .spReadData a _ _ | .spWriteAck a _ | .launchRecord a _ | .launchAdmit a | .launchFetchDone a
  | .transferRequest a _ _ | .mailboxRecord a _ | .mbHeldPostRelease a | .outboundWordAccept a | .flushUnbound a
  | .residueMismatch a _ _ _ | .lockstepMismatch a _ | .selfTestDone a _ | .cellGate a | .reservedKindRecord a _ => some a.inst
  | .vldFeed a => some a.site.inst
  | .chCreate w _ | .chStart w | .chPreempt w | .chResume w | .chDestroy w | .chQuery w _ => some w.win
  | .mbDelivery i _ | .xlateAnswer i _ _ | .resolveNotice i _ _ _ | .invalidation i _ _ _ _ | .xferFencePass i _
  | .xferStagingReserve i | .seReadReturn i _ _ _ | .xferCommitPoint i _ | .seWriteDone i _ _ | .collPoll i _ _ _
  | .collLocalPacket i _ | .collTimeout i _ | .chCreateDone i _ _ | .preemptStopDone i _ | .contextSaveDone i _ _
  | .saveCheckDone i _ _ | .destroyScrubDone i _ _ | .schedAdmit i | .restoreDone i _ _ | .schedEvict i
  | .keyLoad i _ | .keyClear i _ | .instanceKeyProvision i _ _ | .mbAlloc i | .mbFree i | .mbSend i | .mbTake i
  | .fenceWrite i _ _ | .pwrWake i _ | .pwrOffRequest i _ | .offReady i | .instReset i _ | .instResetDone i _ _
  | .cellReset i _ | .cellResetDone i | .powerOnReset i _ | .powerOnResetDone i _ _ | .fltInject i _
  | .hubVoteMismatch i _ _ | .sePortMismatch i _ _ _ _ _ | .uncorrectableWord i _ _ _ | .docentAccess i _ _ _ _ _
  | .clockLoss i | .flitReceive i _ _ _ | .linkDown i _ | .linkTrainDone i _ _ | .pwrTick i | .pwrEntryDone i
  | .pwrEventExit i | .pwrExitDone i | .testStateEnter i _ => some i
  | .ssOpen | .ssDataWrite _ | .ssClose | .ssCloseDone | .ssCommit | .ssCommitDone | .registerWrite _ _ | .rcRead _
  | .ctlForward _ _ | .ctlErrorResponse _ _ => none

end Sys2Proof
end

