-- ==== Sys2Proof/Decode.lean ====
section
/-! DEFINITION. The words of the table's rows. No row of spec/opcode_table.json gives bits (its "fields" are empty and it
has no "fixed"), because the rows are steps of the block and not encoded words; the 64-bit words of tile programs (R226,
R227) are decoded in Sys2Proof/Machine/TileIsa.lean. -/

namespace Sys2Proof

/-- The command that a word spells by the table's bits: no row gives bits, so no word spells one. -/
def decodeTableWord (_nbits _w : Nat) : Option Instr := none

end Sys2Proof
end

