-- ==== Sys2Proof/Machine/Bits.lean ====
section
/-! DEFINITION. Bit fields, bytes and little-endian words (R38), and sparse tables: a table is a list of (index, value)
pairs in one canonical form, indices strictly rising and no entry equal to what an unlisted index reads as. -/

namespace Sys2Proof.Machine

/-- Bits [hi:lo] of a natural number. -/
def fld (w hi lo : Nat) : Nat := (w >>> lo) % 2 ^ (hi + 1 - lo)

/-- Bit k of a natural number. -/
def bitOf (w k : Nat) : Bool := w.testBit k

/-- The value 1 or 0 of a flag, placed at bit k. -/
def flagAt (b : Bool) (k : Nat) : Nat := if b then 2 ^ k else 0

/-- A field of `bits` bits read as two's complement. -/
def signed (bits v : Nat) : Int := if 2 ^ (bits - 1) ≤ v then (v : Int) - (2 ^ bits : Nat) else (v : Int)

/-- A natural number as k little-endian bytes (R38). -/
def leBytes (k v : Nat) : List Byte := (List.range k).map fun i => BitVec.ofNat 8 (v >>> (8 * i))

/-- The value of little-endian bytes (R38). -/
def ofLeBytes (bs : List Byte) : Nat := bs.foldr (fun b acc => b.toNat + 256 * acc) 0

/-- Byte k of a 64-byte line (R421). -/
def lineByte (l : Line) (k : Nat) : Byte := BitVec.ofNat 8 (l.toNat >>> (8 * k))

/-- All 64 bytes of a line. -/
def lineBytes (l : Line) : List Byte := leBytes 64 l.toNat

/-- 32-bit words as little-endian bytes. -/
def wordsBytes (ws : List Word) : List Byte := ws.flatMap fun w => leBytes 4 w.toNat

/-- The element at place i of a list of words; a place beyond the list reads 0. -/
def wordAt (ws : List Word) (i : Nat) : Word := ws.getD i 0#32

/-- Addition that stops at the largest value of a field of `bits` bits (R101, R177). -/
def satAdd (bits a b : Nat) : Nat := min (a + b) (2 ^ bits - 1)

/-- A sparse table: index and value, in canonical form. -/
abbrev Tbl (α : Type) := List (Nat × α)

/-- The value at index k; an unlisted index reads as d. -/
def Tbl.get {α : Type} (d : α) : Tbl α → Nat → α
  | [], _ => d
  | (i, v) :: t, k => if i = k then v else Tbl.get d t k

/-- Insert or replace the value at index k, indices kept rising. -/
def Tbl.put {α : Type} (k : Nat) (v : α) : Tbl α → Tbl α
  | [] => [(k, v)]
  | (i, w) :: t => if k < i then (k, v) :: (i, w) :: t
                   else if k = i then (k, v) :: t
                   else (i, w) :: Tbl.put k v t

/-- Remove the entry at index k. -/
def Tbl.del {α : Type} (k : Nat) (t : Tbl α) : Tbl α := t.filter fun p => p.1 != k

/-- Write v at index k, keeping the canonical form: the default value removes the entry. -/
def Tbl.set {α : Type} [DecidableEq α] (d : α) (t : Tbl α) (k : Nat) (v : α) : Tbl α :=
  if v = d then Tbl.del k t else Tbl.put k v (Tbl.del k t)

/-- Every index of the table is above k. -/
def Tbl.above {α : Type} (k : Nat) : Tbl α → Bool
  | [] => true
  | (i, _) :: t => decide (k < i) && Tbl.above k t

/-- The canonical form: indices strictly rising, no entry equal to the default. -/
def Tbl.wf {α : Type} [DecidableEq α] (d : α) : Tbl α → Bool
  | [] => true
  | (i, v) :: t => decide (v ≠ d) && Tbl.above i t && Tbl.wf d t

end Sys2Proof.Machine
end

