-- ==== Sys2Proof/Machine/Crypto.lean ====
section
/-! DEFINITION. AES-256, its key wrapping (RFC 3394, R283), AES-256-GCM (R285, R287) and SHA-384 (R354), as the public
standards that the spec names define them. -/

namespace Sys2Proof.Machine

/-- The substitution box of FIPS 197, 32 entries a row, the first least significant. -/
def sboxRows : List Nat :=
  [0xC072A49CAFA2D4ADF04759FA7DC982CA76ABD7FE2B670130C56F6BF27B777C63,
   0x75B227EBE28012079A059618C323C7041531D871F1E5A534CCF73F362693FDB7,
   0xCF584C4A39BECB6A5BB1FC20ED00D153842FE329B3D63B52A05A6E1B1A2C8309,
   0xD2F3FF1021DAB6BCF5389D928F40A351A89F3C507F02F94585334D43FBAAEFD0,
   0xDB0B5EDE14B8EE4688902A22DC4F816073195D643D7EA7C41744975FEC130CCD,
   0x08AE7A65EAF4566CA94ED58D6D37C8E779E4959162ACD3C25C2406490A3A32E0,
   0x9E1DC186B95735610EF6034866B53E708A8BBD4B1F74DDE8C6B4A61C2E2578BA,
   0x16BB54B00F2D99416842E6BF0D89A18CDF2855CEE9871E9B948ED9691198F8E1]

/-- The inverse substitution box. -/
def invSboxRows : List Nat :=
  [0xCBE9DEC444438E3487FF2F9B8239E37CFBD7F3819EA340BF38A53630D56A0952,
   0x25D18B6D49A25B76B224D92866A12E084EC3FA420B954CEE3D23C2A632947B54,
   0x849D8DA75746155EDAB9EDFD5048706C92B6655DCC5CA4D41698688664F6F872,
   0x6B8A130103BDAFC1020F3FCA8F1E2CD00645B3B80558E4F70AD3BC8C00ABD890,
   0x6EDF751CE837F9E28535ADE72274AC9673E6B4F0CECFF297EADC674F4111913A,
   0xF45ACD78FEC0DB9A2079D2C64B3E56FC1BBE18AA0E62B76F89C5291D711AF147,
   0xEF9CC9939F7AE52D0D4AB519A97F51605FEC8027591012B131C7078833A8DD1F,
   0x7D0C2155631469E126D677BA7E042B17619953833CBBEBC8B0F52AAE4D3BE0A0]

/-- The entry of a box for one byte. -/
def boxAt (rows : List Nat) (a : Nat) : Nat := (rows.getD (a / 32) 0 >>> (8 * (a % 32))) % 256

/-- Bytes as a number, the first least significant: how AES blocks are held here. -/
def ofLe (bs : List Nat) : Nat := bs.foldr (fun b acc => b + 256 * acc) 0

/-- The k bytes of a number, the least significant first. -/
def leNat (k v : Nat) : List Nat := (List.range k).map fun i => (v >>> (8 * i)) % 256

/-- Byte i of the block becomes the box's entry for byte `from_ i`. -/
def subBytes (rows : List Nat) (from_ : Nat → Nat) (s : Nat) : Nat :=
  ofLe ((List.range 16).map fun i => boxAt rows ((s >>> (8 * from_ i)) % 256))

/-- ShiftRows and its inverse, as the byte that moves to place i. -/
def shiftRow (i : Nat) : Nat := (i + 4 * (i % 4)) % 16
def unshiftRow (i : Nat) : Nat := (i + 16 - 4 * (i % 4)) % 16

/-- Each byte times x in GF(2^8). -/
def xtimes (s : Nat) : Nat :=
  ((s &&& 0x7F7F7F7F7F7F7F7F7F7F7F7F7F7F7F7F) <<< 1) ^^^ (((s >>> 7) &&& 0x01010101010101010101010101010101) * 0x1B)

/-- Each column rotated by one byte, and by two. -/
def rotCol (s : Nat) : Nat :=
  ((s >>> 8) &&& 0x00FFFFFF00FFFFFF00FFFFFF00FFFFFF) ||| ((s &&& 0x000000FF000000FF000000FF000000FF) <<< 24)
def rotCol2 (s : Nat) : Nat :=
  ((s >>> 16) &&& 0x0000FFFF0000FFFF0000FFFF0000FFFF) ||| ((s &&& 0x0000FFFF0000FFFF0000FFFF0000FFFF) <<< 16)

/-- MixColumns: 2, 3, 1, 1. -/
def mixCols (s : Nat) : Nat :=
  let r := rotCol s
  let q := rotCol2 s
  xtimes (s ^^^ r) ^^^ r ^^^ q ^^^ rotCol q

/-- Its inverse: 14, 11, 13, 9, which is MixColumns after 5, 0, 4, 0. -/
def unmixCols (s : Nat) : Nat :=
  let u := xtimes (xtimes s)
  mixCols (s ^^^ u ^^^ rotCol2 u)

/-- The words of the AES-256 key schedule, newest first: the next one. -/
def keyStep (ws : List Nat) (i : Nat) : List Nat :=
  let sub (w : Nat) : Nat := ofLe ((leNat 4 w).map (boxAt sboxRows))
  let prev := ws.headD 0
  let t :=
    if i % 8 = 0 then sub ((prev >>> 8) ||| ((prev % 256) <<< 24)) ^^^ 2 ^ (i / 8 - 1)
    else if i % 8 = 4 then sub prev
    else prev
  (ws.getD 7 0 ^^^ t) :: ws

/-- The 15 round keys of AES-256. -/
def roundKeys (key : List Nat) : List Nat :=
  let ws0 := ((List.range 8).map fun i => ofLe ((key.drop (4 * i)).take 4)).reverse
  let ws := ((List.range 52).foldl (fun acc i => keyStep acc (i + 8)) ws0).reverse
  (List.range 15).map fun r => ((ws.drop (4 * r)).take 4).foldr (fun w acc => w + 2 ^ 32 * acc) 0

/-- AES-256 encryption of one block of 16 bytes. -/
def aesEnc (rks : List Nat) (b : List Nat) : List Nat :=
  let s13 := (List.range 13).foldl (fun s r => mixCols (subBytes sboxRows shiftRow s) ^^^ rks.getD (r + 1) 0) (ofLe b ^^^ rks.getD 0 0)
  leNat 16 (subBytes sboxRows shiftRow s13 ^^^ rks.getD 14 0)

/-- AES-256 decryption of one block. -/
def aesDec (rks : List Nat) (b : List Nat) : List Nat :=
  let s13 := (List.range 13).foldl (fun s r => unmixCols (subBytes invSboxRows unshiftRow s ^^^ rks.getD (13 - r) 0))
    (ofLe b ^^^ rks.getD 14 0)
  leNat 16 (subBytes invSboxRows unshiftRow s13 ^^^ rks.getD 0 0)

/-- A number as k big-endian bytes. -/
def beNat (k v : Nat) : List Nat := (List.range k).map fun i => (v >>> (8 * (k - 1 - i))) % 256

/-- The number of big-endian bytes. -/
def ofBe (bs : List Nat) : Nat := bs.foldl (fun a b => a * 256 + b) 0

/-- RFC 3394 unwrap: n 64-bit blocks of key data, or none when the integrity value is not 0xA6A6A6A6A6A6A6A6. -/
def keyUnwrap (key wrapped : List Nat) : Option (List Nat) :=
  let rks := roundKeys key
  let n := wrapped.length / 8 - 1
  let a0 := wrapped.take 8
  let r0 := (List.range n).map fun i => (wrapped.drop (8 * (i + 1))).take 8
  let res := (List.range (6 * n)).foldl (fun (p : List Nat × List (List Nat)) q =>
    let t := 6 * n - q
    let i := (t - 1) % n
    let a := beNat 8 (ofBe p.1 ^^^ t)
    let b := aesDec rks (a ++ p.2.getD i [])
    (b.take 8, p.2.set i (b.drop 8))) (a0, r0)
  if ofBe res.1 = 0xA6A6A6A6A6A6A6A6 then some res.2.flatten else none

/-- Multiplication in GF(2^128) of GCM: bit 127 of the number is the block's first bit. -/
def ghashMul (x y : Nat) : Nat :=
  ((List.range 128).foldl (fun (p : Nat × Nat) i =>
    (if x.testBit (127 - i) then p.1 ^^^ p.2 else p.1,
     if p.2.testBit 0 then (p.2 >>> 1) ^^^ (0xE1 <<< 120) else p.2 >>> 1)) (0, y)).1

/-- Bytes in 16-byte blocks, the last padded with zeros; fuel bounds the number of blocks. -/
def blocks16 (bs : List Nat) : List (List Nat) :=
  (List.range ((bs.length + 15) / 16)).map fun i =>
    let b := (bs.drop (16 * i)).take 16
    b ++ List.replicate (16 - b.length) 0

/-- The counter-mode key stream of GCM from counter block `iv ‖ c`, applied to the bytes. -/
def gcmCtr (rks : List Nat) (iv : List Nat) (bs : List Nat) : List Nat :=
  let ks := (List.range ((bs.length + 15) / 16)).flatMap fun i => aesEnc rks (iv ++ beNat 4 (i + 2))
  List.zipWith (· ^^^ ·) bs ks

/-- The 128-bit tag of GCM over AAD and ciphertext. -/
def gcmTag (rks : List Nat) (iv aad ct : List Nat) : List Nat :=
  let h := ofBe (aesEnc rks (List.replicate 16 0))
  let g := (blocks16 aad ++ blocks16 ct ++ [beNat 8 (8 * aad.length) ++ beNat 8 (8 * ct.length)]).foldl
    (fun y b => ghashMul (y ^^^ ofBe b) h) 0
  beNat 16 (g ^^^ ofBe (aesEnc rks (iv ++ [0, 0, 0, 1])))

/-- AES-256-GCM encryption: ciphertext and tag. -/
def gcmSeal (key iv aad pt : List Nat) : List Nat × List Nat :=
  let rks := roundKeys key
  let ct := gcmCtr rks iv pt
  (ct, gcmTag rks iv aad ct)

/-- AES-256-GCM decryption: none when the tag fails. -/
def gcmOpen (key iv aad ct tag : List Nat) : Option (List Nat) :=
  let rks := roundKeys key
  if gcmTag rks iv aad ct = tag then some (gcmCtr rks iv ct) else none

/-! ### SHA-384 (FIPS 180-4) -/

/-- The first n primes. -/
def primes (n : Nat) : List Nat :=
  ((List.range 420).foldl (fun acc i =>
    let k := i + 2
    if acc.all (fun p => k % p != 0) then acc ++ [k] else acc) []).take n

/-- floor of the cube root, by bits. -/
def icbrt (bits n : Nat) : Nat :=
  (List.range bits).foldl (fun r i => let b := r + 2 ^ (bits - 1 - i); if b * b * b ≤ n then b else r) 0

/-- floor of the square root, by bits. -/
def isqrtBits (bits n : Nat) : Nat :=
  (List.range bits).foldl (fun r i => let b := r + 2 ^ (bits - 1 - i); if b * b ≤ n then b else r) 0

/-- The 80 constants: the first 64 fraction bits of the cube roots of the first 80 primes. -/
def shaK : List (BitVec 64) := (primes 80).map fun p => BitVec.ofNat 64 (icbrt 68 (p * 2 ^ 192))

/-- The initial value of SHA-384: the first 64 fraction bits of the square roots of the ninth to sixteenth primes. -/
def shaInit : List (BitVec 64) := ((primes 16).drop 8).map fun p => BitVec.ofNat 64 (isqrtBits 68 (p * 2 ^ 128))

def rotr64 (v : BitVec 64) (s : Nat) : BitVec 64 := v.rotateRight s

/-- The message schedule of one block, newest first. -/
def shaSched (m : List (BitVec 64)) : List (BitVec 64) :=
  ((List.range 64).foldl (fun w _ =>
    let a := w.getD 1 0
    let b := w.getD 14 0
    let s1 := rotr64 a 19 ^^^ rotr64 a 61 ^^^ (a >>> 6)
    let s0 := rotr64 b 1 ^^^ rotr64 b 8 ^^^ (b >>> 7)
    (s1 + w.getD 6 0 + s0 + w.getD 15 0) :: w) m.reverse).reverse

/-- One round on the eight working variables. -/
def shaRound (v : List (BitVec 64)) (kw : BitVec 64 × BitVec 64) : List (BitVec 64) :=
  match v with
  | [a, b, c, d, e, f, g, h] =>
    let t1 := h + (rotr64 e 14 ^^^ rotr64 e 18 ^^^ rotr64 e 41) + ((e &&& f) ^^^ (~~~e &&& g)) + kw.1 + kw.2
    let t2 := (rotr64 a 28 ^^^ rotr64 a 34 ^^^ rotr64 a 39) + ((a &&& b) ^^^ (a &&& c) ^^^ (b &&& c))
    [t1 + t2, a, b, c, d + t1, e, f, g]
  | v => v

/-- One block of 16 words. -/
def shaBlock (ks h m : List (BitVec 64)) : List (BitVec 64) :=
  List.zipWith (· + ·) h ((ks.zip (shaSched m)).foldl shaRound h)

/-- SHA-384 of a byte string: 48 bytes (R354). -/
def sha384 (bs : List Byte) : List Byte :=
  let len := bs.length
  let pad := bs ++ [0x80#8] ++ List.replicate ((239 - len % 128) % 128) 0#8 ++ (beNat 16 (8 * len)).map (BitVec.ofNat 8)
  let ks := shaK
  let h := (List.range (pad.length / 128)).foldl (fun h i =>
    let blk := (pad.drop (128 * i)).take 128
    shaBlock ks h ((List.range 16).map fun j =>
      BitVec.ofNat 64 (ofBe (((blk.drop (8 * j)).take 8).map BitVec.toNat)))) shaInit
  (h.take 6).flatMap fun w => (beNat 8 w.toNat).map (BitVec.ofNat 8)

end Sys2Proof.Machine
end

