-- ==== Sys2Proof/Config.lean ====
section
/-! DEFINITION. What the integrator fixes (the build of the reference integration, R15, R28; the window placement, R423)
and the free values of the model. -/

namespace Sys2Proof.Config

/-- Instances of the package that `State.reset` describes: the reference integration has four dies
(DESIGN CHOICE, log entry 1). -/
def instances : Nat := 4

/-- Cells built at every instance of `State.reset`: the reference integration has 200
(DESIGN CHOICE, log entry 1). -/
def cellsBuilt : Nat := 200

/-- win_base of a cell (R423) in the package that `State.reset` describes: the physical address, in MiB, of window offset
0 (DESIGN CHOICE, log entry 2). -/
def windowBase (inst cell : Nat) : Word := BitVec.ofNat 32 (4096 + 256 * inst + cell)

/-- A free value (log entry 3): what the spec leaves open and the machine goes on with. Nothing constrains it. -/
opaque freeWord (k : Nat) : Word

/-- What a settle writes for a record that no gather produces: a non-finite amax, or bounds that do not fit the amax
(log entry 15). -/
opaque settleFree (a b c : Word) : BitVec 16

/-- The beta of R192 for a drain of a chain cask: the spec gives the drain no field for it (log entry 16). Its arguments
are the group and the row, so that a run and its replay on another channel or cell use the same one (R8, R339). -/
opaque drainBeta (group row : Nat) : BitVec 7

/-- The softmax weight of a logit u under an offset m that no row of R181's table lists (log entry 85). -/
opaque openWeight (u m : Word) : Word

/-- A byte of a line that stayed unreadable (R317): what is computed from it reaches poisoned lines and the ledger only
(log entry 17). Its argument is the byte's place in its tensor, which no address enters (R339). -/
opaque badByte (place : Nat) : Byte

/-- Whether a write of the completion ring meets a fault or an error answer (R291): the host's choice, which no command
carries (log entry 3). Its argument counts the writes. -/
opaque ringFails (tries : Nat) : Bool

/-- The destination bytes that a transfer has written when a host error ends it (R307, R312; log entry 18), from its
handle, its tag and the size of its destination. -/
opaque partialBytes (handle : Word) (tag size : Nat) : Nat

end Sys2Proof.Config
end

