-- ==== Sys2Proof/Machine/Exact.lean ====
section
/-! DEFINITION. Exact values and the rounding modes (R59 to R63). A value is a NaN, an infinity, or a signed fraction;
rounding happens once, on the exact fraction. -/

namespace Sys2Proof.Machine

/-- An exact value: NaN, ±∞, or (−1)^neg × n / d with d > 0; a zero keeps its sign (R40). -/
inductive XV where
  | nan
  | inf (neg : Bool)
  | fin (neg : Bool) (n d : Nat)
deriving DecidableEq, Repr

/-- +0. -/
def XV.zero : XV := .fin false 0 1

def XV.isNan : XV → Bool
  | .nan => true
  | _ => false

def XV.isFin : XV → Bool
  | .fin _ _ _ => true
  | _ => false

def XV.isZero : XV → Bool
  | .fin _ n _ => n == 0
  | _ => false

def XV.isNeg : XV → Bool
  | .nan => false
  | .inf s => s
  | .fin s _ _ => s

/-- Negation; a NaN stays a NaN. -/
def XV.neg : XV → XV
  | .nan => .nan
  | .inf s => .inf !s
  | .fin s n d => .fin (!s) n d

/-- The magnitude. -/
def XV.abs : XV → XV
  | .nan => .nan
  | .inf _ => .inf false
  | .fin _ n d => .fin false n d

/-- The signed numerator of a finite value. -/
def sgnNum (neg : Bool) (n : Nat) : Int := if neg then -(n : Int) else (n : Int)

/-- The value of an integer. -/
def XV.ofInt (i : Int) : XV := .fin (decide (i < 0)) i.natAbs 1

/-- Multiplication by 2^k, exact (R49). -/
def XV.scale (x : XV) (k : Int) : XV :=
  match x with
  | .fin s n d => if 0 ≤ k then .fin s (n * 2 ^ k.toNat) d else .fin s n (d * 2 ^ (-k).toNat)
  | y => y

/-- Exact sum. A zero sum of opposite signs is +0, or −0 when `down` (rounding toward −∞, R68). -/
def XV.add (down : Bool) : XV → XV → XV
  | .nan, _ => .nan
  | _, .nan => .nan
  | .inf a, .inf b => if a = b then .inf a else .nan
  | .inf a, _ => .inf a
  | _, .inf b => .inf b
  | .fin sa na da, .fin sb nb db =>
    let v := sgnNum sa (na * db) + sgnNum sb (nb * da)
    if v = 0 then .fin (if sa = sb then sa else down) 0 1
    else .fin (decide (v < 0)) v.natAbs (da * db)

/-- Exact product; ∞ × 0 is NaN. -/
def XV.mul : XV → XV → XV
  | .nan, _ => .nan
  | _, .nan => .nan
  | .inf a, .inf b => .inf (a != b)
  | .inf a, .fin b n _ => if n = 0 then .nan else .inf (a != b)
  | .fin a n _, .inf b => if n = 0 then .nan else .inf (a != b)
  | .fin a na da, .fin b nb db => .fin (a != b) (na * nb) (da * db)

/-- Exact quotient under IEEE 754: 0/0 and ∞/∞ are NaN, x/0 is ±∞. -/
def XV.div : XV → XV → XV
  | .nan, _ => .nan
  | _, .nan => .nan
  | .inf _, .inf _ => .nan
  | .inf a, .fin b _ _ => .inf (a != b)
  | .fin a _ _, .inf b => .fin (a != b) 0 1
  | .fin a na da, .fin b nb db =>
    if nb = 0 then (if na = 0 then .nan else .inf (a != b))
    else .fin (a != b) (na * db) (da * nb)

/-- Strictly less, as real numbers with infinities; false with a NaN; −0 equals +0. -/
def XV.lt : XV → XV → Bool
  | .nan, _ => false
  | _, .nan => false
  | .inf a, .inf b => a && !b
  | .inf a, .fin _ _ _ => a
  | .fin _ _ _, .inf b => !b
  | .fin sa na da, .fin sb nb db => decide (sgnNum sa (na * db) < sgnNum sb (nb * da))

/-- Equal as real numbers; false with a NaN. -/
def XV.eqv (x y : XV) : Bool := !x.isNan && !y.isNan && !XV.lt x y && !XV.lt y x

/-- The total order of R67 on non-NaN values: −0 counts as less than +0. -/
def XV.below (x y : XV) : Bool := XV.lt x y || (XV.eqv x y && x.isZero && y.isZero && x.isNeg && !y.isNeg)

/-- Maximum under R67; a NaN operand gives NaN. -/
def XV.max (x y : XV) : XV := if x.isNan || y.isNan then .nan else if XV.below x y then y else x

/-- Minimum under R67. -/
def XV.min (x y : XV) : XV := if x.isNan || y.isNan then .nan else if XV.below y x then y else x

/-- floor(log2 (n / d)) for n, d > 0, exact. -/
def floorLog2 (n d : Nat) : Int :=
  let k : Int := (Nat.log2 n : Int) - (Nat.log2 d : Int)
  let ge : Bool := if 0 ≤ k then decide (d * 2 ^ k.toNat ≤ n) else decide (d ≤ n * 2 ^ (-k).toNat)
  if ge then k else k - 1

/-- n / d in steps of 2^t: whole steps w, and the rest rn / rd of a step (R59). -/
def stepsOf (n d : Nat) (t : Int) : Nat × Nat × Nat :=
  let a := if 0 ≤ t then n else n * 2 ^ (-t).toNat
  let b := if 0 ≤ t then d * 2 ^ t.toNat else d
  (a / b, a % b, b)

/-- The magnitude selected by a rounding mode (R60, R61): w whole steps, rest rn / rd, sign, and the 16-bit draw of
stochastic rounding. -/
def roundSteps (rnd : Nat) (neg : Bool) (w rn rd : Nat) (r16 : Nat) : Nat :=
  match rnd with
  | 0 => if rd < 2 * rn || (2 * rn == rd && w % 2 == 1) then w + 1 else w
  | 1 => w
  | 2 => if rn = 0 then w else if w % 2 = 1 then w else w + 1
  | 3 => if 0x10000 ≤ rn * 0x10000 / rd + r16 then w + 1 else w
  | 4 => if 0 < rn && !neg then w + 1 else w
  | _ => if 0 < rn && neg then w + 1 else w

/-- The magnitude code of n / d rounded onto the grid of a floating-point format with m mantissa bits and smallest
normal exponent emin, the exponent unbounded above (R59): the code's exponent and mantissa fields as one number. -/
def roundFloat (m : Nat) (emin : Int) (rnd : Nat) (neg : Bool) (n d : Nat) (r16 : Nat) : Nat :=
  if n = 0 then 0
  else
    let e := max (floorLog2 n d) emin
    let s := stepsOf n d (e - m)
    (e - emin).toNat * 2 ^ m + roundSteps rnd neg s.1 s.2.1 s.2.2 r16

/-- A floating-point format of R39. -/
structure FltFmt where
  m       : Nat
  eb      : Nat
  bias    : Nat
  maxCode : Nat
  hasInf  : Bool
  hasNan  : Bool
deriving DecidableEq, Repr

def FltFmt.emin (f : FltFmt) : Int := 1 - (f.bias : Int)

def FltFmt.signBit (f : FltFmt) : Nat := f.m + f.eb

def fltF32  : FltFmt := { m := 23, eb := 8, bias := 127, maxCode := 0x7F7FFFFF, hasInf := true, hasNan := true }
def fltBF16 : FltFmt := { m := 7, eb := 8, bias := 127, maxCode := 0x7F7F, hasInf := true, hasNan := true }
def fltF16  : FltFmt := { m := 10, eb := 5, bias := 15, maxCode := 0x7BFF, hasInf := true, hasNan := true }
def fltE5M2 : FltFmt := { m := 2, eb := 5, bias := 15, maxCode := 0x7B, hasInf := true, hasNan := true }
def fltE4M3 : FltFmt := { m := 3, eb := 4, bias := 7, maxCode := 0x7E, hasInf := false, hasNan := true }
def fltE3M2 : FltFmt := { m := 2, eb := 3, bias := 3, maxCode := 0x1F, hasInf := false, hasNan := false }
def fltE2M3 : FltFmt := { m := 3, eb := 2, bias := 1, maxCode := 0x1F, hasInf := false, hasNan := false }
def fltE2M1 : FltFmt := { m := 1, eb := 2, bias := 1, maxCode := 0x7, hasInf := false, hasNan := false }

/-- The value of a magnitude code of a format, as a fraction (R39): subnormals included. -/
def FltFmt.magnitude (f : FltFmt) (mag : Nat) : Nat × Nat :=
  let e := mag >>> f.m
  let mant := mag % 2 ^ f.m
  let sig := if e = 0 then mant else mant + 2 ^ f.m
  let p : Int := (if e = 0 then f.emin else (e : Int) - f.bias) - f.m
  if 0 ≤ p then (sig * 2 ^ p.toNat, 1) else (sig, 2 ^ (-p).toNat)

/-- The exact value of a code of a floating-point format (R39 to R41). -/
def FltFmt.decode (f : FltFmt) (code : Nat) : XV :=
  let neg := bitOf code f.signBit
  let mag := code % 2 ^ f.signBit
  if f.hasInf && decide (f.maxCode < mag) then (if mag = f.maxCode + 1 then .inf neg else .nan)
  else if f.hasNan && decide (f.maxCode < mag) then .nan
  else let q := f.magnitude mag; .fin neg q.1 q.2

/-- The code of an infinity in a format that has one. -/
def FltFmt.infCode (f : FltFmt) (neg : Bool) : Nat := flagAt neg f.signBit + (f.maxCode + 1)

/-- The canonical NaN of a format that has a NaN encoding (R39, R41): 0x7F in E4M3, the quiet NaN elsewhere. -/
def FltFmt.nanCode (f : FltFmt) : Nat := if f.hasInf then f.maxCode + 1 + 2 ^ (f.m - 1) else 0x7F

/-- A binary32 element as an exact value. -/
def f32 (w : Word) : XV := fltF32.decode w.toNat

/-- The canonical NaN of binary32 (R41). -/
def f32Nan : Word := 0x7FC00000#32

/-- A value rounded into binary32 (R59 to R64) under a rounding mode, with `sat` for finite overflow. -/
def toF32 (rnd : Nat) (sat : Bool) (x : XV) : Word :=
  match x with
  | .nan => f32Nan
  | .inf s => BitVec.ofNat 32 (fltF32.infCode s)
  | .fin s n d =>
    let c := roundFloat 23 (-126) rnd s n d 0
    if c ≤ fltF32.maxCode then BitVec.ofNat 32 (flagAt s 31 + c)
    else if sat then BitVec.ofNat 32 (flagAt s 31 + fltF32.maxCode)
    else BitVec.ofNat 32 (fltF32.infCode s)

/-- The single RNE rounding into binary32. -/
def rne (x : XV) : Word := toF32 0 false x

/-- Whether a finite value overflows binary32 under a rounding mode (R62). -/
def f32Overflows (rnd : Nat) (x : XV) : Bool :=
  match x with
  | .fin s n d => decide (fltF32.maxCode < roundFloat 23 (-126) rnd s n d 0)
  | _ => false

def f32IsNan (w : Word) : Bool := (f32 w).isNan

def f32IsInf (w : Word) : Bool :=
  match f32 w with
  | .inf _ => true
  | _ => false

def f32IsFinite (w : Word) : Bool := (f32 w).isFin

/-- IEEE 754 binary32 addition, RNE, subnormals kept (R40, R136). -/
def fAdd (a b : Word) : Word := rne (XV.add false (f32 a) (f32 b))

/-- Negation of a binary32 element: its sign bit. -/
def fNeg (a : Word) : Word := a ^^^ 0x80000000#32

def fSub (a b : Word) : Word := fAdd a (fNeg b)

/-- ceil of a finite fraction toward +∞, as an integer. -/
def ceilFr (neg : Bool) (n d : Nat) : Int := if neg then -((n / d : Nat) : Int) else (((n + d - 1) / d : Nat) : Int)

/-- floor of a finite fraction toward −∞. -/
def floorFr (neg : Bool) (n d : Nat) : Int := if neg then -(((n + d - 1) / d : Nat) : Int) else ((n / d : Nat) : Int)

end Sys2Proof.Machine
end

