-- ==== Sys2Proof/Machine/Formats.lean ====
section
/-! DEFINITION. The numeric word, the element formats with their decoders and encoders, and the choice of a scale
exponent (02_formats.md, 03_scaling.md R71 to R79). -/

namespace Sys2Proof.Machine

/-- The element formats of R37. -/
inductive Fmt where
  | binary32 | bf16 | binary16 | e4m3 | e5m2 | e3m2 | e2m3 | e2m1 | int8 | int4 | uint8zp | uint4zp | tw64
  | codebook (t : Nat)
deriving DecidableEq, Repr

/-- The format of a 6-bit code (R37); reserved codes name none. -/
def Fmt.ofCode (c : Nat) : Option Fmt :=
  match c with
  | 0x00 => some .binary32
  | 0x01 => some .bf16
  | 0x02 => some .binary16
  | 0x03 => some .e4m3
  | 0x04 => some .e5m2
  | 0x05 => some .e3m2
  | 0x06 => some .e2m3
  | 0x07 => some .e2m1
  | 0x08 => some .int8
  | 0x09 => some .int4
  | 0x0A => some .uint8zp
  | 0x0B => some .uint4zp
  | 0x10 => some .tw64
  | c => if 0x20 ≤ c ∧ c ≤ 0x27 then some (.codebook (c - 0x20)) else none

/-- Bits per element (R37). -/
def Fmt.bits : Fmt → Nat
  | .binary32 => 32
  | .bf16 | .binary16 => 16
  | .e4m3 | .e5m2 | .int8 | .uint8zp => 8
  | .e3m2 | .e2m3 => 6
  | .e2m1 | .int4 | .uint4zp | .codebook _ => 4
  | .tw64 => 64

/-- The parameters of a floating-point format (R39). -/
def Fmt.flt : Fmt → Option FltFmt
  | .binary32 => some fltF32
  | .bf16 => some fltBF16
  | .binary16 => some fltF16
  | .e4m3 => some fltE4M3
  | .e5m2 => some fltE5M2
  | .e3m2 => some fltE3M2
  | .e2m3 => some fltE2M3
  | .e2m1 => some fltE2M1
  | _ => none

def Fmt.isCodebook : Fmt → Bool
  | .codebook _ => true
  | _ => false

def Fmt.isZp : Fmt → Bool
  | .uint8zp | .uint4zp => true
  | _ => false

/-- Whether the format has a NaN encoding (R39, R45). -/
def Fmt.hasNan : Fmt → Bool
  | .binary32 | .bf16 | .binary16 | .e4m3 | .e5m2 | .tw64 => true
  | _ => false

/-- The fields of a numeric word (R34). -/
structure NumWord where
  fmtCode : Nat
  mode    : Nat
  blk16   : Bool
  rnd     : Nat
  sat     : Bool
  rule    : Bool
  rsv     : Bool
deriving DecidableEq, Repr

def NumWord.of (w : Nat) : NumWord :=
  { fmtCode := fld w 5 0, mode := fld w 8 6, blk16 := bitOf w 9, rnd := fld w 12 10, sat := bitOf w 13,
    rule := bitOf w 14, rsv := bitOf w 15 }

/-- The rows of R35. -/
def NumWord.rowOk (n : NumWord) (f : Fmt) : Bool :=
  let m012 := decide (n.mode ≤ 2) && !n.blk16
  let r5 := decide (n.rnd ≤ 5)
  let rNo3 := r5 && decide (n.rnd ≠ 3)
  match f with
  | .binary32 => m012 && rNo3
  | .bf16 | .binary16 => m012 && r5
  | .e4m3 | .e5m2 | .e3m2 | .e2m3 | .e2m1 | .int8 =>
    r5 && (m012 || decide (n.mode = 3) || (decide (n.mode = 4) && !n.blk16) || (decide (n.mode = 5) && n.blk16))
  | .int4 => r5 && (m012 || decide (n.mode = 3) || (decide (n.mode = 5) && n.blk16))
  | .uint8zp | .uint4zp => r5 && (decide (n.mode = 1) || decide (n.mode = 2)) && !n.blk16
  | .tw64 => decide (n.mode = 0) && !n.blk16 && rNo3
  | .codebook _ => decide (n.rnd = 0) && (m012 || decide (n.mode = 3) || (decide (n.mode = 5) && n.blk16))

/-- The format of a legal numeric word, none for an illegal one (R35). -/
def NumWord.fmt (n : NumWord) : Option Fmt :=
  match Fmt.ofCode n.fmtCode with
  | none => none
  | some f => if !n.rsv && !(n.rule && decide (n.mode = 0)) && n.rowOk f then some f else none

/-- Elements in a block (R53). -/
def NumWord.block (n : NumWord) : Nat := if n.blk16 then 16 else 32

/-- Block-scaled modes. -/
def NumWord.isBlock (n : NumWord) : Bool := decide (3 ≤ n.mode)

/-- Checked scale streams: modes 3 and 5 (R49, R121). -/
def NumWord.checked (n : NumWord) : Bool := decide (n.mode = 3) || decide (n.mode = 5)

/-- The exact value of a twin-word pair (R45, R46): the sum of two finite parts, a zero pair keeping hi's sign, and
the IEEE sum when either part is non-finite. -/
def twVal (hi lo : Word) : XV :=
  match f32 hi, f32 lo with
  | .fin sa na da, .fin sb nb db =>
    if na = 0 ∧ nb = 0 then .fin sa 0 1 else XV.add false (.fin sa na da) (.fin sb nb db)
  | a, b => XV.add false a b

/-- hi and lo of an exact value, each by one RNE rounding: hi of the value, lo of what hi leaves. -/
def splitTw (x : XV) : Word × Word :=
  match x with
  | .nan => (f32Nan, 0#32)
  | _ =>
    let h := rne x
    if f32IsFinite h then
      (h, if (f32 h).isZero then 0#32 else
        let l := rne (XV.add false x (f32 h).neg)
        if (f32 l).isZero then 0#32 else l)
    else (h, 0#32)

/-- An exact value as a normalised twin-word pair (R45, R46). A value that no pair holds is rounded to the nearest pair
part by part, and where lo's rounding makes the pair's own sum round to another hi, that sum is split again, so that only
a normalised pair is written; the spec gives lo no rule there (DESIGN CHOICE, log entry 86). -/
def toTw (x : XV) : Word × Word :=
  let p := splitTw x
  if f32IsFinite p.1 then splitTw (twVal p.1 p.2) else p

/-- Entry c of codebook t (R47): a finite binary16 value of the decode tables. -/
def codebookEntry (tabs : List (BitVec 16)) (t c : Nat) : XV := fltF16.decode (tabs.getD (16 * t + c) 0#16).toNat

/-- d(c) of R51: a code's own decoding, the zero point subtracted (R43) and MXINT8's factor applied in mode 4 (R42). -/
def decodeCode (tabs : List (BitVec 16)) (f : Fmt) (mode : Nat) (zp : Nat) (code : Nat) : XV :=
  match f with
  | .int8 => if mode = 4 then (XV.ofInt (signed 8 code)).scale (-6) else XV.ofInt (signed 8 code)
  | .int4 => XV.ofInt (signed 4 code)
  | .uint8zp | .uint4zp => XV.ofInt ((code : Int) - zp)
  | .tw64 => twVal (BitVec.ofNat 32 (code >>> 32)) (BitVec.ofNat 32 code)
  | .codebook t => codebookEntry tabs t code
  | f => match f.flt with
    | some ff => ff.decode code
    | none => .nan

/-- An element's value under its scale exponent, `none` for a scale marked as NaN (R51); a value at or above the
binary32 RNE overflow threshold becomes ±∞ (R52). A TW64 element has no scale and keeps its exact sum. -/
def applyScale (f : Fmt) (x : XV) (k : Option Int) : XV :=
  match k with
  | none => .nan
  | some k =>
    if f = .tw64 then x
    else
      let y := x.scale k
      match y with
      | .fin s n d => if fltF32.maxCode < roundFloat 23 (-126) 0 s n d 0 then .inf s else .fin s n d
      | z => z

/-- What an encode of one element wrote: the code; counted as a saturation; the NaN rule of R64 applies; a NaN or
infinity was written; the finite input took a finite code, so R102's terms count. -/
structure Enc where
  code    : Nat
  sat     : Bool
  nanRule : Bool
  nonfin  : Bool
  quant   : Bool
deriving DecidableEq, Repr

def Enc.ok (c : Nat) : Enc := { code := c, sat := false, nanRule := false, nonfin := false, quant := true }
def Enc.clamped (c : Nat) : Enc := { code := c, sat := true, nanRule := false, nonfin := false, quant := true }
def Enc.clampedInf (c : Nat) : Enc := { code := c, sat := true, nanRule := false, nonfin := true, quant := false }
def Enc.special (c : Nat) : Enc := { code := c, sat := false, nanRule := false, nonfin := true, quant := false }
def Enc.nanBlock : Enc := { code := 0, sat := false, nanRule := true, nonfin := true, quant := false }

/-- Encode into a floating-point format (R59 to R64). -/
def encodeFlt (ff : FltFmt) (rnd : Nat) (sat : Bool) (r16 : Nat) (x : XV) : Enc :=
  match x with
  | .nan => if ff.hasNan then .special ff.nanCode else .nanBlock
  | .inf s =>
    if ff.hasInf then .special (ff.infCode s)
    else if sat then .clampedInf (flagAt s ff.signBit + ff.maxCode)
    else if ff.hasNan then .special ff.nanCode else .nanBlock
  | .fin s n d =>
    let c := roundFloat ff.m ff.emin rnd s n d r16
    if c ≤ ff.maxCode then .ok (flagAt s ff.signBit + c)
    else if sat then .clamped (flagAt s ff.signBit + ff.maxCode)
    else if ff.hasInf then .special (ff.infCode s)
    else if ff.hasNan then .special ff.nanCode else .nanBlock

/-- The rounded integer of a finite value (R60 with a step of 1). -/
def roundInt (rnd : Nat) (r16 : Nat) (s : Bool) (n d : Nat) : Int :=
  let q := roundSteps rnd s (n / d) (n % d) d r16
  if s then -(q : Int) else (q : Int)

/-- Encode into a symmetric integer format of `bits` bits and limit `lim` (R42): −128 is no result of an encode, so the
value −128, an INT8 code under output bias 0 included (R160), clamps to −127 as a saturation (DEDUCED, log entry 91). -/
def encodeInt (bits lim : Nat) (rnd : Nat) (sat : Bool) (r16 : Nat) (x : XV) : Enc :=
  let put (i : Int) : Nat := (i % (2 ^ bits : Nat)).toNat
  match x with
  | .nan => .nanBlock
  | .inf s => if sat then .clampedInf (put (if s then -(lim : Int) else (lim : Int))) else .nanBlock
  | .fin s n d =>
    let q := roundInt rnd r16 s n d
    if q.natAbs ≤ lim then .ok (put q)
    else if sat then .clamped (put (if s then -(lim : Int) else (lim : Int))) else .nanBlock

/-- Encode into an unsigned format with zero point z (R43, R62, R64). A negative element of a DEGENERATE group under sat = 0 follows
the NaN rule of R64, not the count of R87 (DESIGN CHOICE, log entry 108). -/
def encodeZp (lim : Nat) (z : Nat) (rnd : Nat) (sat : Bool) (r16 : Nat) (x : XV) : Enc :=
  match x with
  | .nan => .nanBlock
  | .inf s => if sat then .clampedInf (if s then 0 else lim) else .nanBlock
  | .fin s n d =>
    let c := roundInt rnd r16 s n d + z
    if 0 ≤ c ∧ c ≤ lim then .ok c.toNat
    else if sat then .clamped (if s then 0 else lim) else .nanBlock

/-- The codes of a codebook, nearest first by exact distance, the lowest index among equals (R48). -/
def codebookNearest (tabs : List (BitVec 16)) (t : Nat) (y : XV) : Nat :=
  (List.range 16).foldl (fun best c =>
    let dc := (XV.add false (codebookEntry tabs t c) y.neg).abs
    let db := (XV.add false (codebookEntry tabs t best) y.neg).abs
    if XV.lt dc db then c else best) 0

/-- The lowest code of a codebook that holds its largest (or smallest) entry. -/
def codebookExtreme (tabs : List (BitVec 16)) (t : Nat) (smallest : Bool) : Nat :=
  (List.range 16).foldl (fun best c =>
    let e := codebookEntry tabs t c
    let b := codebookEntry tabs t best
    if (if smallest then XV.lt e b else XV.lt b e) then c else best) 0

/-- Encode into a codebook (R48, R64). A clamp to an extreme entry counts as a saturation, an infinite input under
sat = 1 included (DEDUCED, log entry 12). -/
def encodeCodebook (tabs : List (BitVec 16)) (t : Nat) (sat : Bool) (x : XV) : Enc :=
  let hi := codebookExtreme tabs t false
  let lo := codebookExtreme tabs t true
  match x with
  | .nan => .nanBlock
  | .inf s => if sat then .clampedInf (if s then lo else hi) else .nanBlock
  | .fin s n d =>
    let y := XV.fin s n d
    if XV.lt (codebookEntry tabs t hi) y then .clamped hi
    else if XV.lt y (codebookEntry tabs t lo) then .clamped lo
    else .ok (codebookNearest tabs t y)

/-- Encode the exact quotient x / s into a code (R59 to R64). -/
def encodeElem (tabs : List (BitVec 16)) (f : Fmt) (mode zp rnd : Nat) (sat : Bool) (r16 : Nat) (x : XV) : Enc :=
  match f with
  | .int8 => encodeInt 8 127 rnd sat r16 (if mode = 4 then x.scale 6 else x)
  | .int4 => encodeInt 4 7 rnd sat r16 x
  | .uint8zp => encodeZp 255 zp rnd sat r16 x
  | .uint4zp => encodeZp 15 zp rnd sat r16 x
  | .codebook t => encodeCodebook tabs t sat x
  | .tw64 =>
    let p := toTw x
    let c := p.1.toNat * 2 ^ 32 + p.2.toNat
    if f32IsFinite p.1 then .ok c else .special c
  | f => match f.flt with
    | some ff => encodeFlt ff rnd sat r16 x
    | none => .nanBlock

/-- One term of sqerr_sum (R102): the squared exact error in scale units, toward zero to a multiple of 2^-16, capped
at 2^32. -/
def sqerrTerm (x v : XV) : Nat :=
  match XV.add false x v.neg with
  | .fin _ n d => min (n * n * 65536 / (d * d)) (2 ^ 48)
  | _ => 0

/-- fmt_max of R74 as a fraction; a codebook's is its largest magnitude. -/
def fmtMax (tabs : List (BitVec 16)) (f : Fmt) (mode : Nat) : Nat × Nat :=
  match f with
  | .int8 => if mode = 4 then (127, 64) else (127, 1)
  | .int4 => (7, 1)
  | .uint8zp => (255, 1)
  | .uint4zp => (15, 1)
  | .tw64 => fltF32.magnitude fltF32.maxCode
  | .codebook t => (List.range 16).foldl (fun (q : Nat × Nat) c =>
      match codebookEntry tabs t c with
      | .fin _ n d => if q.1 * d < n * q.2 then (n, d) else q
      | _ => q) (0, 1)
  | f => match f.flt with
    | some ff => ff.magnitude ff.maxCode
    | none => (0, 1)

/-- The scale exponent k of a group with amax = an / ad > 0 (R75): no-clip rule, or the MX rule when `mx`. -/
def scaleK (an ad : Nat) (mxn mxd : Nat) (mx : Bool) : Int :=
  let a := floorLog2 an ad
  let e := floorLog2 mxn mxd
  if mx then a - e
  else
    -- ma > mf, with both mantissas in [1, 2)
    let l := XV.scale (.fin false an ad) (-a)
    let r := XV.scale (.fin false mxn mxd) (-e)
    if XV.lt r l then a - e + 1 else a - e

/-- A value clamped to 0..hi, and whether clamping changed it (R76). -/
def clampByte (hi : Nat) (v : Int) : Nat × Bool :=
  if v < 0 then (0, true) else if (hi : Int) < v then (hi, true) else (v.toNat, false)

/-- The scale byte of a block for its amax (R76, R78, R79): `none` for a block with no finite nonzero element. t is the
tensor-level byte of mode 5. An all-zero codebook takes the lowest byte (R74). -/
def blockByte (tabs : List (BitVec 16)) (f : Fmt) (n : NumWord) (t : Nat) (amax : Option (Nat × Nat)) : Nat × Bool :=
  match amax with
  | none => (0, false)
  | some (an, ad) =>
    let mx := fmtMax tabs f n.mode
    if mx.1 = 0 then (0, false)
    else
      let k := scaleK an ad mx.1 mx.2 n.rule
      if n.mode = 4 then clampByte 254 (k + 127)
      else if n.mode = 5 then clampByte 126 (k - ((t : Int) - 63) + 63)
      else clampByte 126 (k + 63)

/-- The scale exponent that a stored byte gives: plain and checked bytes (bias 63, 127 is NaN), E8M0 (bias 127). -/
def scaleExp (mode : Nat) (b : Nat) : Option Int :=
  if mode = 4 then (if b = 255 then none else some ((b : Int) - 127))
  else if b % 128 = 127 then none else some (((b % 128 : Nat) : Int) - 63)

/-- The scale exponent of an element of mode 5: block byte and tensor byte together (R51). -/
def addExp (a b : Option Int) : Option Int :=
  match a, b with
  | some x, some y => some (x + y)
  | _, _ => none

/-- An exponent fold of one byte (R98, R99): NaN markers and the top bit of plain and checked bytes unchanged; `none`
when the folded byte leaves its range. The 8-bit field also spells −128, −127 and 127, for which R98 gives no outcome:
they are added like any other (DESIGN CHOICE, log entry 92). -/
def foldByte (mode : Nat) (delta : Int) (b : Nat) : Option Nat :=
  if mode = 4 then
    if b = 255 then some b
    else
      let v := (b : Int) + delta
      if 0 ≤ v ∧ v ≤ 254 then some v.toNat else none
  else if b % 128 = 127 then some b
  else
    let v := ((b % 128 : Nat) : Int) + delta
    if 0 ≤ v ∧ v ≤ 126 then some (b / 128 * 128 + v.toNat) else none

end Sys2Proof.Machine
end

