-- ==== Sys2Proof/Machine/Twin.lean ====
section
/-! DEFINITION. Twin-word addition and scaling (R136, R137, R182), the function lanes (R69, R70), the mash butterflies
(R89) and the reductions of one group (R247 to R253). -/

namespace Sys2Proof.Machine

/-- A TW64 value (R45). -/
structure Tw where
  hi : Word
  lo : Word
deriving DecidableEq, Repr

/-- (+0, +0). -/
def Tw.zero : Tw := { hi := 0#32, lo := 0#32 }

/-- The canonical TW64 NaN. -/
def Tw.nan : Tw := { hi := f32Nan, lo := 0#32 }

/-- A binary32 element as a pair (x, +0) (R46). -/
def Tw.of32 (x : Word) : Tw := { hi := x, lo := 0#32 }

def Tw.val (x : Tw) : XV := twVal x.hi x.lo

def Tw.ofVal (x : XV) : Tw := let p := toTw x; { hi := p.1, lo := p.2 }

def Tw.neg (x : Tw) : Tw := { hi := fNeg x.hi, lo := fNeg x.lo }

/-- s + e = a + b exactly (R136). -/
def twoSum (a b : Word) : Word × Word :=
  let s := fAdd a b
  let bb := fSub s a
  (s, fAdd (fSub a (fSub s bb)) (fSub b bb))

/-- s + e = a + b exactly when |a| ≥ |b| or a = 0 (R136). -/
def fastTwoSum (a b : Word) : Word × Word :=
  let s := fAdd a b
  (s, fSub b (fSub s a))

/-- tw_nonfinite of R137: the pair of the value that R46 gives to the sum. -/
def twNonfinite (x y : Tw) : Tw :=
  match XV.add false x.val y.val with
  | .inf s => { hi := BitVec.ofNat 32 (fltF32.infCode s), lo := 0#32 }
  | _ => .nan

/-- tw_overflow of R137: ±∞ with the sign of the exact sum of the hi parts, of all four parts if that is zero, and +∞
if that is zero as well. -/
def twOverflow (x y : Tw) : Tw :=
  let h := XV.add false (f32 x.hi) (f32 y.hi)
  let all := XV.add false (XV.add false h (f32 x.lo)) (f32 y.lo)
  let s := if !h.isZero then h.isNeg else if !all.isZero then all.isNeg else false
  { hi := BitVec.ofNat 32 (fltF32.infCode s), lo := 0#32 }

def twAllFinite (x y : Tw) : Bool := f32IsFinite x.hi && f32IsFinite x.lo && f32IsFinite y.hi && f32IsFinite y.lo

/-- tw_add of R136, operation by operation. -/
def twAdd (x y : Tw) : Tw :=
  if !twAllFinite x y then twNonfinite x y
  else
    let s := twoSum x.hi y.hi
    let t := twoSum x.lo y.lo
    let c := fAdd s.2 t.1
    let v := fastTwoSum s.1 c
    let w := fAdd t.2 v.2
    let z := fastTwoSum v.1 w
    if f32IsInf s.1 || f32IsInf t.1 || f32IsInf c || f32IsInf v.1 || f32IsInf w || f32IsInf z.1 then twOverflow x y
    else if (f32 z.1).isZero then { hi := z.1, lo := 0#32 }
    else { hi := z.1, lo := z.2 }

/-- Whether tw_add returned through tw_nonfinite or tw_overflow, which sets NONFINITE (R137). -/
def twAddFlags (x y : Tw) : Bool := !f32IsFinite (twAdd x y).hi

/-- tw_scale of R182 by a factor that is +0, a power of two no greater than 1, or NaN; any other factor, which R182 says never
arises, goes through the same arithmetic (DESIGN CHOICE, log entry 116). -/
def twScale (x : Tw) (a : Word) : Tw :=
  if f32IsNan a || !(f32IsFinite x.hi && f32IsFinite x.lo) then
    if f32IsNan a || f32IsNan x.hi || f32IsNan x.lo || (f32 a).isZero then .nan
    else Tw.ofVal x.val
  else if (f32 a).isZero then .zero
  else
    let v := XV.mul x.val (f32 a)
    let h := rne v
    if (f32 h).isZero then { hi := h, lo := 0#32 }
    else { hi := h, lo := rne (XV.add false v (f32 h).neg) }

/-! ### The function lanes: correctly rounded RNE results (R69) -/

/-- Fixed-point bounds of ln 2 with p fractional bits: the series of 1 / (k 2^k), lower and upper. -/
def ln2Bounds (p : Nat) : Nat × Nat :=
  let lo := (List.range (p + 8)).foldl (fun acc i => acc + 2 ^ p / ((i + 1) * 2 ^ (i + 1))) 0
  (lo, lo + (p + 8) + 1)

/-- Fixed-point bounds of e^t for t in [tl, th] ⊂ [0, 1), p fractional bits: n terms of the series, floors below and
ceilings above, and twice the last term for the rest. -/
def expBounds (p n tl th : Nat) : Nat × Nat :=
  let step (acc : Nat × Nat × Nat × Nat) (i : Nat) : Nat × Nat × Nat × Nat :=
    let a := acc.1 * tl / (2 ^ p * (i + 1))
    let b := (acc.2.1 * th + 2 ^ p * (i + 1) - 1) / (2 ^ p * (i + 1))
    (a, b, acc.2.2.1 + a, acc.2.2.2 + b)
  let r := (List.range n).foldl step (2 ^ p, 2 ^ p, 2 ^ p, 2 ^ p)
  (r.2.2.1, r.2.2.2 + 2 * r.2.1 + 2)

/-- Bounds of 2^(fn/fd) for a fraction in [0, 1), p fractional bits. -/
def exp2Bounds (p fn fd : Nat) : Nat × Nat :=
  let l := ln2Bounds p
  expBounds p (p / 2 + 16) (fn * l.1 / fd) ((fn * l.2 + fd - 1) / fd)

/-- Refine until both bounds of a positive value round alike: fuel steps of doubled precision, the lower bound after
that (log entry 13). `bounds p` gives the value's bounds with p fractional bits; `k` scales by 2^k. -/
def refine (bounds : Nat → Nat × Nat) (k : Int) : Nat → Nat → Word
  | 0, p => rne (XV.scale (.fin false (bounds p).1 (2 ^ p)) k)
  | fuel + 1, p =>
    let b := bounds p
    let l := rne (XV.scale (.fin false b.1 (2 ^ p)) k)
    let u := rne (XV.scale (.fin false b.2 (2 ^ p)) k)
    if l = u then l else refine bounds k fuel (2 * p)

/-- 2^x for an exact x, correctly rounded to binary32 under RNE (R69, R70, R181). -/
def exp2 (x : XV) : Word :=
  match x with
  | .nan => f32Nan
  | .inf true => 0#32
  | .inf false => 0x7F800000#32
  | .fin s n d =>
    let i := floorFr s n d
    if 128 ≤ i then 0x7F800000#32
    else if i < -151 then 0#32
    else
      -- x = i + f with f = fn / d in [0, 1)
      let fn := (sgnNum s n - i * d).toNat
      if fn = 0 then rne (XV.scale (.fin false 1 1) i)
      else refine (fun p => exp2Bounds p fn d) i 4 96

/-- Bounds of ln m for m = mn / md in [1, 2): 2 atanh((m − 1) / (m + 1)), p fractional bits. -/
def lnBounds (p mn md : Nat) : Nat × Nat :=
  let un := mn - md
  let ud := mn + md
  let zl := un * 2 ^ p / ud
  let zh := (un * 2 ^ p + ud - 1) / ud
  let step (acc : Nat × Nat × Nat × Nat) (i : Nat) : Nat × Nat × Nat × Nat :=
    -- acc: power z^(2i+1) low and high, sums low and high
    let a := acc.2.2.1 + acc.1 / (2 * i + 1)
    let b := acc.2.2.2 + acc.2.1 / (2 * i + 1) + 1
    (acc.1 * zl / 2 ^ p * zl / 2 ^ p, acc.2.1 * zh / 2 ^ p * zh / 2 ^ p + 2, a, b)
  let r := (List.range (p / 2 + 8)).foldl step (zl, zh, 0, 0)
  (2 * r.2.2.1, 2 * r.2.2.2 + 4 * r.2.1 + 4)

/-- Refine a signed value e + log2 m: bounds are of log2 m ≥ 0 with p fractional bits. -/
def refineLog (e : Int) (mn md : Nat) : Nat → Nat → Word
  | 0, p =>
    let b := lnBounds p mn md
    let l := ln2Bounds p
    rne (XV.add false (XV.ofInt e) (.fin false b.1 l.2))
  | fuel + 1, p =>
    let b := lnBounds p mn md
    let l := ln2Bounds p
    let lo := rne (XV.add false (XV.ofInt e) (.fin false b.1 l.2))
    let up := rne (XV.add false (XV.ofInt e) (.fin false b.2 l.1))
    if lo = up then lo else refineLog e mn md fuel (2 * p)

/-- log2 of an exact positive value, correctly rounded (R69, R70). -/
def log2v (x : XV) : Word :=
  match x with
  | .nan => f32Nan
  | .inf true => f32Nan
  | .inf false => 0x7F800000#32
  | .fin s n d =>
    if n = 0 then 0xFF800000#32
    else if s then f32Nan
    else
      let e := floorLog2 n d
      let m := XV.scale (.fin false n d) (-e)
      match m with
      | .fin _ mn md => if mn = md then rne (XV.ofInt e) else refineLog e mn md 4 128
      | _ => f32Nan

/-- 1 / x, correctly rounded (R69, R70). -/
def recip (x : XV) : Word := rne (XV.div (.fin false 1 1) x)

/-- The integer square root, by bits from the top. -/
def isqrt (bits n : Nat) : Nat :=
  (List.range bits).foldl (fun r i =>
    let b := r + 2 ^ (bits - 1 - i)
    if b * b ≤ n then b else r) 0

/-- 1 / √x, correctly rounded (R69, R70): the root of d / n in 2^-160 steps with a sticky bit: at least 96 bits
of it for every binary32 value. -/
def rsqrt (x : XV) : Word :=
  match x with
  | .nan => f32Nan
  | .inf true => f32Nan
  | .inf false => 0#32
  | .fin s n d =>
    if n = 0 then (if s then 0xFF800000#32 else 0x7F800000#32)
    else if s then f32Nan
    else
      -- 1/x = d/n; q = floor(d·2^320/n); root of q is in 2^-160 steps
      let q := d * 2 ^ 320 / n
      let r := isqrt 240 q
      let exact := r * r == q && q * n == d * 2 ^ 320
      rne (.fin false (2 * r + if exact then 0 else 1) (2 ^ 161))

/-! ### Chains (07_chains.md) -/

/-- ceil of R180: toward +∞, a zero result is +0. -/
def ceil32 (x : Word) : Word :=
  match f32 x with
  | .fin s n d =>
    let i := ceilFr s n d
    if i = 0 then 0#32 else rne (XV.ofInt i)
  | .inf s => BitVec.ofNat 32 (fltF32.infCode s)
  | .nan => f32Nan

/-- max of two binary32 elements under R67. -/
def fMax (a b : Word) : Word := rne (XV.max (f32 a) (f32 b))

/-- min of two binary32 elements under R67. -/
def fMin (a b : Word) : Word := rne (XV.min (f32 a) (f32 b))

/-- The correction factor α of R182. -/
def corr (mOld mNew : Word) : Word :=
  if f32IsNan mOld || f32IsNan mNew then f32Nan
  else if mOld = mNew || XV.eqv (f32 mOld) (f32 mNew) then 0x3F800000#32
  else match f32 mOld, f32 mNew with
    | .inf true, _ => 0#32
    | .fin _ _ _, .inf false => 0#32
    | .fin a na da, .fin b nb db =>
      let df := XV.add false (.fin a na da) (XV.neg (.fin b nb db))
      if XV.lt df .zero then exp2 df else f32Nan
    | _, _ => f32Nan

/-- Whether α is the NaN of the last row of R182, for which FN sets NONFINITE. -/
def corrUnlisted (mOld mNew : Word) : Bool := f32IsNan (corr mOld mNew) && !f32IsNan mOld && !f32IsNan mNew

/-- The weight of a valid lane with base-2 logit u under offset m (R181). A −∞ entry takes +0 under every offset, exactly
as an invalid lane (R179; DEDUCED, log entry 87). A NaN or +∞ under a finite offset, and a NaN under +∞, stand in no row of
the table: a free value (log entry 85). -/
def weight (u m : Word) : Word :=
  match f32 m, f32 u with
  | .nan, .inf true => 0#32
  | .nan, _ => f32Nan
  | .inf true, _ => 0#32
  | .inf false, .nan => Config.openWeight u m
  | .inf false, .inf false => 0x3F800000#32
  | .inf false, _ => 0#32
  | .fin _ _ _, .nan => Config.openWeight u m
  | .fin _ _ _, .inf false => Config.openWeight u m
  | .fin _ _ _, .inf true => 0#32
  | .fin a na da, .fin b nb db => exp2 (XV.add false (.fin b nb db) (XV.neg (.fin a na da)))

/-- The weight of FN in softmax form with lse = 1: lse2 stands in place of the offset (R237). -/
def weightLse (u l : Word) : Word :=
  match f32 l, f32 u with
  | .nan, _ => f32Nan
  | .inf false, .inf false => 0x3F800000#32
  | .inf _, _ => 0#32
  | .fin _ _ _, .nan => f32Nan
  | .fin _ _ _, .inf true => 0#32
  | .fin _ _ _, .inf false => 0x7F800000#32
  | .fin a na da, .fin b nb db => exp2 (XV.add false (.fin b nb db) (XV.neg (.fin a na da)))

/-! ### Reductions of one group (R247 to R253); the list holds the valid elements in ascending order -/

/-- red_sum of R249. -/
def redSum (squares : Bool) (xs : List Word) : Tw :=
  xs.foldl (fun S x =>
    if !squares then twAdd S (.of32 x)
    else
      let h0 := rne (XV.mul (f32 x) (f32 x))
      let l0 := rne (XV.add false (XV.mul (f32 x) (f32 x)) (f32 (fNeg h0)))
      let h := if f32IsNan x then x else h0
      let l := if f32IsNan x || f32IsInf h then 0#32 else l0
      twAdd S { hi := h, lo := l }) .zero

/-- Largest valid value (R248, R251). -/
def redMax (xs : List Word) : Word := xs.foldl (fun a x => fMax a x) 0xFF800000#32

/-- Smallest valid value. -/
def redMin (xs : List Word) : Word := xs.foldl (fun a x => fMin a x) 0x7F800000#32

/-- The pair order of R252: whether b beats the present winner a (both with lower index first). -/
def beats (b a : Word) : Bool :=
  if f32IsNan a then false else if f32IsNan b then true else XV.below (f32 a) (f32 b)

/-- ARGMAX over (index, value) pairs in ascending index (R248, R251, R252). -/
def redArgmax (xs : List (Nat × Word)) : Word :=
  match xs with
  | [] => 0xFFFFFFFF#32
  | x :: rest => BitVec.ofNat 32 (rest.foldl (fun a b => if beats b.2 a.2 then b else a) x).1

/-- A pair divided by a count, one rounding (R168, R253). -/
def twDivCount (s : Tw) (n : Nat) : Word := rne (XV.div s.val (.fin false n 1))

/-- MEAN of R253; an empty group gives the canonical NaN (R251). -/
def redMean (xs : List Word) : Word :=
  if xs.isEmpty then f32Nan else twDivCount (redSum false xs) xs.length

/-- fma on binary32 with one rounding (R68). -/
def fFma (rnd : Nat) (sat : Bool) (a b c : Word) : Word :=
  toF32 rnd sat (XV.add (rnd == 5) (XV.mul (f32 a) (f32 b)) (f32 c))

/-- VAR of R253: the population variance, a negative result replaced by +0. -/
def redVar (xs : List Word) : Word :=
  if xs.isEmpty then f32Nan
  else
    let m := redMean xs
    let q := twDivCount (redSum true xs) xs.length
    let v := fFma 0 false (fNeg m) m q
    if XV.lt (f32 v) .zero then 0#32 else v

/-! ### The mash unit (R89 to R91) -/

/-- One butterfly stage s over a segment. -/
def mashStage (v : List Tw) (s : Nat) : List Tw :=
  (List.range v.length).map fun i =>
    if i.testBit s then twAdd (v.getD (i - 2 ^ s) .zero) (v.getD i .zero).neg
    else twAdd (v.getD i .zero) (v.getD (i + 2 ^ s) .zero)

/-- A mash of one segment of n = 2^m elements under a sign vector (R89); a NaN or infinite input makes every output the
canonical NaN (R91). -/
def mashSegment (m : Nat) (inv : Bool) (sign : Nat) (x : List Word) : List Word :=
  if x.any (fun w => !f32IsFinite w) then x.map fun _ => f32Nan
  else
    let start := x.zipIdx.map fun p => Tw.of32 (if !inv && sign.testBit p.2 then fNeg p.1 else p.1)
    let v := (List.range m).foldl mashStage start
    let sh : Int := if inv then ((m / 2 : Nat) : Int) else (((m + 1) / 2 : Nat) : Int)
    v.zipIdx.map fun p =>
      let y := rne (p.1.val.scale (-sh))
      if inv && sign.testBit p.2 && !f32IsNan y then fNeg y else y

end Sys2Proof.Machine
end

