-- ==== Sys2Proof/Machine/State.lean ====
section
/-! DEFINITION. The state of a package of Mamal: cells with their program slots, the hub of each instance, the
package-wide registers of instance 0, and the queue of waiting commands. -/

namespace Sys2Proof.Machine

/-! ### The ledger (R101) -/

/-- The ledger of a channel (R101); also the updates that a tile gathers until its commit (R103). -/
structure Led where
  flags  : BitVec 7
  sat    : Nat
  quant  : Nat
  sqerr  : Nat
  constG : Nat
  degenG : Nat
  clampG : Nat
  waits  : Nat
  ticks  : Nat
  fp     : Nat
  tiles  : Nat
deriving DecidableEq, Repr

/-- Every ledger field at its reset value 0 (R101, R104). -/
def Led.zero : Led :=
  { flags := 0, sat := 0, quant := 0, sqerr := 0, constG := 0, degenG := 0, clampG := 0, waits := 0, ticks := 0,
    fp := 0, tiles := 0 }

/-! ### The cell -/

/-- Who asked for an access of the scratchpad port (R22). -/
inductive SpWho where
  /-- a program slot: fetch, VLD, lookahead, CASK_DRAIN, or a commit's write-out -/
  | slot (s : Nat)
  /-- the cask unit, for the add at the head of this cask entry: its load, or the store of its sums (R130) -/
  | add (entry : Nat)
  /-- the scrub of a destroyed channel's casks (R144) -/
  | scrub (v : Nat)
  /-- nobody waits: a request whose tile was abandoned -/
  | nobody
deriving DecidableEq, Repr

/-- A read request on the scratchpad port: its first line, its 1 to 4 lines, who asked, its priority (R22, R421). -/
structure SpRead where
  line : Nat
  n    : Nat
  who  : SpWho
  rank : Nat
deriving DecidableEq, Repr

/-- One line of a write request: data, byte enables, poison (R421). -/
structure SpOut where
  data   : Line
  be     : BitVec 64
  poison : Bool
deriving DecidableEq, Repr

/-- A write request on the scratchpad port: its first line, its 1 to 4 lines, who asked, its priority (R22, R421); and, of a
tile's write-out, the instruction whose bytes it carries, with its loop iteration (R302). -/
structure SpWrite where
  line  : Nat
  outs  : List SpOut
  who   : SpWho
  rank  : Nat
  index : Nat
  iter  : Nat
deriving DecidableEq, Repr

/-- What bound a drained tile (R151). -/
inductive Binder where
  | slot (s : Nat)
  | add (entry : Nat)
deriving DecidableEq, Repr

/-- A drained tile of the drain queue (R150): tag, beats held, the instruction's unit that bound it. A bound tile of
which no beat has arrived has no beats (R151). -/
structure DrainTile where
  id    : Nat
  tag   : BitVec 16
  beats : List (List Word)
  bound : Option Binder
deriving DecidableEq, Repr

/-- One row of a chain cask's row state (R183): committed and issued offset and positions, committed row sum. -/
structure RowState where
  mC   : Word
  mI   : Word
  posC : Nat
  posI : Nat
  l    : Tw
deriving DecidableEq, Repr

/-- The source of a cask add (R126): a bound drained tile, or the tile captured from vitrines at issue. -/
inductive AddSrc where
  | tile (id : Nat)
  | words (ts : List Tw)
deriving DecidableEq, Repr

/-- An add that has issued and not committed (R129, R130, R189): the slot, instruction and loop iteration that issued
it, its source, the captured step vector (32 rows of 7 columns; none for a plain cask), the lines of the committed half
loaded so far (`none` before the load starts), the cask tile slot of the load (R122), whether the store of its sums has
begun, and the ledger events of the feed requests whose product it consumes (R159). -/
structure CaskAdd where
  slot  : Nat
  index : Nat
  iter  : Nat
  src   : AddSrc
  step  : List (List Word)
  load  : Option (List SpLine)
  tslot : Nat
  storing : Bool
  led   : Led
deriving DecidableEq, Repr

/-- An entry of the cask table (R124, R183). The owner is the virtual channel, whose hardware context is Vc.ctx. `no` is the
model's own number of the open, which tells two openings of one entry apart; `wins` the program slots whose feed requests
hold open windows that adds of the cask inherited (R143, R229). -/
structure Cask where
  no      : Nat
  owner   : Nat
  group   : Nat
  base    : Nat
  A       : Nat
  I       : Nat
  D       : Nat
  init    : Bool
  bound   : Bool
  chain   : Bool
  rows    : List RowState
  adds    : List CaskAdd
  wins    : List Nat
  closing : Bool
deriving DecidableEq, Repr

/-- A cask tile slot (R122), 0 or 1, that still holds the sums of an add that has committed: the add of an entry that
made its D this value. -/
structure CaskSlot where
  at_   : Nat
  entry : Nat
  d     : Nat
  sums  : List Tw
deriving DecidableEq, Repr

/-- One operand vector ready at the feed port (R420). -/
structure FeedVec where
  fmt   : Nat
  side  : Bool
  slot  : Nat
  first : Bool
  last  : Bool
  lanes : List Nat
deriving DecidableEq, Repr

/-- An outbound word of the scalar/summary port (R422); of a delivery record, its mailbox handle (R364). -/
structure OutWord where
  data : Word
  kind : BitVec 2
  last : Bool
  box  : Option Word
deriving DecidableEq, Repr

/-! ### The program slot (R203) -/

/-- An active loop (R213): first body instruction, body length, its descriptor register and dimension mask, the
present linear iteration and the total. -/
structure LoopSt where
  start : Nat
  len   : Nat
  d     : Nat
  dims  : Nat
  it    : Nat
  total : Nat
deriving DecidableEq, Repr

/-- The mash run of a slot (R239): its parameters, the sign vectors of its segments, the input tiles held in the mash
buffer, whether an input of "none" has been seen, and the outputs written. -/
structure MashRun where
  m      : Nat
  inv    : Bool
  sign   : Nat
  signs  : List Mask
  tiles  : List (List Word)
  closed : Bool
  count  : Nat
  outs   : Nat
deriving DecidableEq, Repr

/-- No mash run has begun in the slot. -/
def MashRun.none : MashRun :=
  { m := 0, inv := false, sign := 0, signs := [], tiles := [], closed := false, count := 0, outs := 0 }

/-- A consumer of the slot that waits for drained beats (R151): the drained tile it bound, and either the vitrine that
a VLD in drain form fills with its lane enables, or the dst field of the MASH that takes the tile as its input and whether
its output is due (R239). -/
inductive FillKind where
  | vit (i : Nat) (en : Mask)
  | mash (dst : Nat) (due : Bool) (en : Mask)
deriving DecidableEq, Repr

structure Fill where
  id   : Nat
  kind : FillKind
deriving DecidableEq, Repr

/-- A summary that a tile holds for its commit (R217, R244); value `none` is ledger word 0x00 at the commit (kind 2). -/
structure Summ where
  code : BitVec 16
  val  : Option Word
deriving DecidableEq, Repr

/-- A steep record (R81): amax, vmin, vmax, the three flags in bits [31:29], count. -/
structure Steep where
  amax  : Word
  vmin  : Word
  vmax  : Word
  flags : Nat
  count : Nat
deriving DecidableEq, Repr

/-- The record updates of a gather held for the commit of its tile (R82): the instruction, whether it accumulates, the object
and tile index of its commit CRC (R338), and for each record its window offset and what the gather folded. -/
structure Gather where
  index : Nat
  accum : Bool
  obj   : Nat
  lane  : Nat
  recs  : List (Nat × Steep)
deriving DecidableEq, Repr

/-- A byte of a tile's output held in the commit buffer: window offset, value, the instruction that wrote it. -/
structure TileWrite where
  addr  : Nat
  byte  : Byte
  index : Nat
deriving DecidableEq, Repr

/-- The tile in progress of a slot (R217): first instruction, outputs held in the commit buffer (byte writes by window offset
in commit order, ledger updates with the fingerprint sum, SIGF increments, summaries), the drained tiles it bound and those a
re-run keeps for binding again, the operand vectors accepted and those a re-run does not present again, the translations it
used (first 4 KiB page and number of pages, R298), the cask entry that a drain releases, with the number of its open (R131),
the record updates of gathers (R82), the feed requests performed, those of them whose ledger events an add has taken, and the
events that the slot held when the tile began (R159), the state a re-run starts from (R219). -/
structure TileBuf where
  start  : Nat
  writes : List TileWrite
  used   : List (Nat × Nat)
  led    : Led
  sigs   : List (Nat × Word)
  sums   : List Summ
  bound  : List Nat
  kept   : List Nat
  fed    : Nat
  fedOld : Nat
  closes : Option (Nat × Nat)
  gathers : List Gather
  feeds  : Nat
  given  : List Nat
  feed0  : Led
  loop0  : Option LoopSt
  mash0  : MashRun
deriving DecidableEq, Repr

/-- An empty tile that starts at instruction i, in a slot that holds the feed events `f`. -/
def TileBuf.at (i : Nat) (l : Option LoopSt) (m : MashRun) (f : Led) : TileBuf :=
  { start := i, writes := [], used := [], led := Led.zero, sigs := [], sums := [], bound := [], kept := [], fed := 0, fedOld := 0,
    closes := none, gathers := [], feeds := 0, given := [], feed0 := f,
    loop0 := l, mash0 := m }

/-- What a running slot waits for (R207, R212). -/
inductive Wait where
  /-- nothing: the next instruction may issue, or the tile may commit -/
  | ready
  /-- scratchpad lines -/
  | lines
  /-- a translation that missed -/
  | xlate
  /-- a translation that the host answered PENDING: its resolve notice (R296) -/
  | resolve
  /-- WAITF: fence, target, tick count when the wait began -/
  | fence (f : Nat) (target : Word) (since : Nat)
  /-- CASK_DRAIN: its adds, then its data -/
  | drain
  /-- CASK_CLOSE of this entry, and the number of its open -/
  | close (entry no : Nat)
  /-- a read of a cask's range waits for the slot's earlier adds that write it (R218) -/
  | adds
  /-- the tile commits: its gathers read the records onto which they accumulate (R82) -/
  | gather
  /-- the tile is past its commit point: acknowledgements outstanding, and, when a write failed, the code and the
  instruction -/
  | commit (left : Nat) (err : Option (Nat × Nat))
  /-- the program's buffer and descriptors are being fetched again (R390) -/
  | refetch
  /-- an instruction ended with an error while earlier adds of the slot have not committed: code, index, counters -/
  | fail (code index : Nat) (counters : List Nat)
deriving DecidableEq, Repr

/-- The phase of a slot (R203, R205). -/
inductive Phase where
  | idle
  /-- program and descriptor lines are being fetched -/
  | fetching
  | running
  /-- the program has ended; its end summary waits for a free place (R244): code, preempted, index, counters -/
  | ending (code : Nat) (preempted : Bool) (index : Nat) (counters : List Nat)
deriving DecidableEq, Repr

/-- A program slot (R203). `prologue` is that of the feed request that issued last (R168, R198); `feedOld` and `feedNew` are
the ledger events of feed requests that no consumer has taken (R159): of earlier tiles, and of the tile in progress by the
request's number in it. -/
structure Slot where
  phase    : Phase
  launch   : List Word
  prog     : List (BitVec 64)
  descs    : List Line
  idx      : Nat
  loop     : Option LoopSt
  tile     : TileBuf
  mash     : MashRun
  readBuf  : List SpLine
  fills    : List Fill
  prologue : Prologue
  feedOld  : Led
  feedNew  : List (Nat × Led)
  wait     : Wait
  empty    : Bool
deriving DecidableEq, Repr

/-- A slot that holds no program (R203, R207: reset). -/
def Slot.idle : Slot :=
  { phase := .idle, launch := [], prog := [], descs := [], idx := 0, loop := none,
    tile := TileBuf.at 0 none MashRun.none Led.zero, mash := MashRun.none, readBuf := [], fills := [], prologue := .none,
    feedOld := Led.zero, feedNew := [], wait := .ready, empty := false }

/-- The response word that an inbound record of the scalar/summary port still waits for (R205, R422): a launch in the
queue, a launch whose program is being fetched into this slot, a held mailbox post; or the word's code, 0 for acceptance,
behind a response that is not known yet. -/
inductive RespWait where
  | queued
  | fetching (slot : Nat)
  | held
  | done (code : Nat)
deriving DecidableEq, Repr

/-- A fault of a cell whose recovery is in progress (R381 to R383, R392): the fields of its record, and the slot whose
program buffer or descriptors are to be fetched again (R390). -/
structure CellFault where
  code   : Nat
  cls    : Nat
  index  : Nat
  address : Word
  handle : Word
  time   : Nat
  second : Bool
  prog   : Option Nat
deriving DecidableEq, Repr

/-- A cell. `fault` is the fault under recovery, `faults` the other faults whose records its retirement posts (R388, R393),
`recov` the slots whose re-runs have not committed (R382), `retire` the channels that a retirement waits for and the number
migrated (R383). `addQ` lists the adds that have not committed, in issue order, by slot and cask entry (R129, R217);
`tileSlot` is the cask tile slot that the next load takes (R122) and `opens` the model's own count of casks opened. A vitrine
is listed as its 1,024 elements in row order, or as [] when every element is 0. -/
structure Cell where
  slots      : List Slot
  vits       : Tbl (List Word)
  masks      : Tbl Mask
  launchQ    : List (List Word)
  drain      : List DrainTile
  owed       : List (BitVec 16 × Nat)
  casks      : Tbl Cask
  caskSlots  : List CaskSlot
  tileSlot   : Nat
  opens      : Nat
  addQ       : List (Nat × Nat)
  feedQ      : List FeedVec
  spReads    : List SpRead
  spWrites   : List SpWrite
  outQ       : List OutWord
  respQ      : List RespWait
  heldPost   : Option (List Word)
  scaleCheck : Word
  stallFeed  : Word
  stallDrain : Word
  gated      : Bool
  paused     : Bool
  fault      : Option CellFault
  faults     : List CellFault
  recov      : List Nat
  retire     : Option (List Nat × Nat)
deriving DecidableEq, Repr

/-- A cell after reset (R116, R125, R156, R177, R207). -/
def Cell.reset : Cell :=
  { slots := [Slot.idle, Slot.idle, Slot.idle, Slot.idle], vits := [], masks := [], launchQ := [], drain := [],
    owed := [], casks := [], caskSlots := [], tileSlot := 0, opens := 0, addQ := [], feedQ := [], spReads := [],
    spWrites := [], outQ := [], respQ := [],
    heldPost := none, scaleCheck := 0, stallFeed := 0, stallDrain := 0, gated := false, paused := false,
    fault := none, faults := [], recov := [], retire := none }

/-! ### Channels (10_channels.md) -/

/-- The states of a virtual channel (R263). -/
inductive VcState where
  | free | created | ready | running | suspending | preempted | destroying | failed
deriving DecidableEq, Repr

/-- A channel command in progress (R265): op, cmd_id, instance of the window that took it. -/
structure VcCmd where
  op    : Nat
  cmdId : BitVec 16
  win   : Nat
deriving DecidableEq, Repr

/-- A virtual channel: the entry of the table, and while it is resident its hardware context, with the context's number `ctx`
(R259 to R263, R272, R275). -/
structure Vc where
  st       : VcState
  gen      : Nat
  weight   : Nat
  asid     : BitVec 16
  key      : Nat
  keyEn    : Bool
  saveVa   : Nat
  saves    : Nat
  led      : Led
  seed     : BitVec 64
  slice    : Nat
  since    : Nat
  ctx      : Option Nat
  cmd      : Option VcCmd
  destroy  : List VcCmd
  sched    : Bool
  migrate  : Bool
  stopped  : Bool
  savedAt  : Nat
  resume   : List (Nat × List Word)
  xrecs    : List (List Word)
  /-- the seal of the save area as it was last written (R275; log entry 79) -/
  areaSeal : Nat
deriving DecidableEq, Repr

/-- The channel holds a hardware context (R261, R269). -/
def Vc.resident (c : Vc) : Bool := c.ctx.isSome

/-- A free virtual channel number that has never been used (R260, R263). -/
def Vc.free : Vc :=
  { st := .free, gen := 1, weight := 0, asid := 0, key := 0, keyEn := false, saveVa := 0, saves := 0,
    led := Led.zero, seed := 0, slice := 0, since := 0, ctx := none, cmd := none, destroy := [],
    sched := false, migrate := false, stopped := false, savedAt := 0, resume := [], xrecs := [], areaSeal := 0 }

/-! ### The hub of an instance -/

/-- A fence counter (R313, R314): value, and the code of its error state, 0 when clear. -/
structure Fence where
  value : Word
  err   : Nat
deriving DecidableEq, Repr

/-- A fence after power-on reset (R416). -/
def Fence.zero : Fence := { value := 0, err := 0 }

/-- An entry of the translation cache (R297): address space ID, first 4 KiB page, number of 4 KiB pages, first physical
4 KiB page, permissions. -/
structure TlbEntry where
  asid  : BitVec 16
  vpn   : Nat
  pages : Nat
  ppn   : Nat
  r     : Bool
  w     : Bool
deriving DecidableEq, Repr

/-- Who waits for a translation: a slot of a cell, a transfer, or nobody when the access was abandoned. -/
inductive XlWho where
  | slot (cell slot : Nat)
  | xfer (id : Nat)
  | nobody
deriving DecidableEq, Repr

/-- A translation request outstanding at the port, or answered PENDING and waiting for its notice (R296, R426). -/
structure XlReq where
  tag     : Nat
  asid    : BitVec 16
  vpn     : Nat
  write   : Bool
  pending : Bool
  who     : XlWho
deriving DecidableEq, Repr

/-- The steps of a transfer (R307). -/
inductive XPhase where
  /-- step 1: queued, its fence wait not passed -/
  | waiting
  /-- step 1: fence passed, staging space not yet reserved (R308) -/
  | ready
  /-- step 2 -/
  | translating
  /-- step 3 -/
  | reading
  /-- a collective that exchanges packets (R331 to R333) -/
  | exchanging
  /-- step 5 -/
  | writing
  /-- the use-table writes of step 6 -/
  | finishing
deriving DecidableEq, Repr

/-- A line write at a stream-engine port (R425). -/
structure SeWrite where
  addr   : Nat
  data   : Line
  be     : BitVec 64
  poison : Bool
deriving DecidableEq, Repr

/-- A line read outstanding at a stream-engine port: virtual line address, physical line address, tier, whether it
is the second issue after an uncorrectable answer (R317), and, of a read of the receive window, the slot that is polled (R332). -/
structure SeRead where
  va    : Nat
  pa    : Nat
  tier  : Nat
  again : Bool
  poll  : Option Nat
deriving DecidableEq, Repr

/-- A request of a stream-engine port (R425), of 1 to 64 consecutive lines: port and ident, chosen when it is issued, the
transfer that made it (none once the transfer has ended or repeated it), its lines: the reads not yet answered, or the
writes; and whether it repeats a request that a fault struck (R380). -/
structure SeReq where
  port   : Nat
  ident  : Nat
  xfer   : Option Nat
  reads  : List SeRead
  writes : List SeWrite
  again  : Bool
deriving DecidableEq, Repr

/-- A request that waits to be issued. -/
def SeReq.waiting (rs : List SeRead) (ws : List SeWrite) : SeReq :=
  { port := 0, ident := 0, xfer := none, reads := rs, writes := ws, again := false }

/-- A line that a transfer has read: virtual line address, data, whether the line is unreadable (R317). -/
structure SeLine where
  va   : Nat
  data : Line
  bad  : Bool
deriving DecidableEq, Repr

/-- What a page of a transfer belongs to: its descriptors (R293), or the windows and result record of a plan (R326). -/
inductive XSide where
  | src | dst | send | recv | result
deriving DecidableEq, Repr

/-- A page of a transfer: virtual 4 KiB page, access, what it belongs to, its physical page once translated, and the range
of pages of the translation that it used (R298). -/
structure XPage where
  vpn   : Nat
  write : Bool
  side  : XSide
  ppn   : Option Nat
  used  : Nat × Nat
deriving DecidableEq, Repr

/-- What a transfer writes in one stage, as transfer tiles (R309); the next stage waits for its completions. `send` marks
the sends of a collective, from whose end its timeout counts (R336). -/
structure XStage where
  tiles : List (List SeWrite)
  send  : Bool
deriving DecidableEq, Repr

/-- A segment result or packet of a collective kept in staging (R330): slot index and bytes. -/
structure CollPkt where
  slot  : Nat
  bytes : List Byte
deriving DecidableEq, Repr

/-- The read of an awaited slot that is in progress (R332): the slot's index, whether its header has been accepted, and the
lines that have returned: first the header's, then those of the payload. -/
structure Poll where
  slot : Nat
  head : Bool
  got  : List SeLine
deriving DecidableEq, Repr

/-- A transfer or collective that an instance has accepted (R305 to R312, R326 to R336); `tiles` are the transfer tiles that
wait for their turn at the stream engine, each with its requests (R272), `ctr` is the first counter value of its segments
(R285), `inbox` the packets of local peers that wait until its receive window can be written (R331), `polls` the slots being
read (R332). -/
structure Xfer where
  id       : Nat
  vc       : Nat
  cell     : Nat
  words    : List Word
  src      : Line
  dst      : Line
  sign     : List Byte
  plan     : Line
  phase    : XPhase
  waited   : Bool
  since    : Nat
  ticks    : Nat
  space    : Nat
  pages    : List XPage
  tiles    : List (List SeReq)
  got      : List SeLine
  stages   : List XStage
  failed   : Bool
  bytes    : Nat
  poisoned : Nat
  firstBad : Nat
  led      : Led
  accepted : List CollPkt
  results  : List CollPkt
  sentAt   : Option Nat
  ctr      : Nat
  inbox    : List (List Byte)
  polls    : List Poll
deriving DecidableEq, Repr

/-- A mailbox (R361 to R366): allocated, generation, agents, pending, message words, messages taken, a delivery record
queued at its cell. -/
structure Mbox where
  alloc    : Bool
  gen      : Nat
  sender   : Nat
  receiver : Nat
  pending  : Bool
  msg      : List Word
  taken    : Nat
  sending  : Bool
deriving DecidableEq, Repr

/-- A mailbox after power-on reset (R366). -/
def Mbox.free : Mbox :=
  { alloc := false, gen := 1, sender := 0, receiver := 0, pending := false, msg := [0, 0, 0, 0], taken := 0,
    sending := false }

/-- A key slot (R281, R282): owner, key material when it holds a key, and whether an uncorrectable word scrubbed it
(R390). -/
structure KeySlot where
  owner   : Option Nat
  hasKey  : Bool
  key     : BitVec 256
  keyId   : BitVec 32
  nonce   : BitVec 32
  counter : Nat
  bad     : Bool
deriving DecidableEq, Repr

/-- A key slot that holds nothing (R281). -/
def KeySlot.empty : KeySlot :=
  { owner := none, hasKey := false, key := 0, keyId := 0, nonce := 0, counter := 0, bad := false }

/-- The channel command window (R268): HUB.CH_ARG0 to 5, CH_RESULT, CH_HANDLE, qstate, lost, CH_DATA0 to 15, and the
command that keeps it busy, with its op. -/
structure ChWin where
  args   : List Word
  result : Word
  handle : Word
  qstate : Nat
  lost   : Bool
  data   : List Word
  busy   : Option (Nat × ChCmd)
deriving DecidableEq, Repr

/-- The window's registers at reset (R268). -/
def ChWin.reset : ChWin :=
  { args := List.replicate 6 0, result := 0, handle := 0, qstate := 0, lost := false, data := List.replicate 16 0,
    busy := none }

/-- A range of the tier map (R303, R350). -/
structure TierRange where
  base  : Nat
  pages : Nat
  tier  : Nat
  encReq : Bool
deriving DecidableEq, Repr

/-- What an instance holds of the full stream in force (R347 to R351, R358). -/
structure Stream where
  inForce  : Bool
  countM1  : Nat
  tabs     : List (BitVec 16)
  mcode    : List Word
  cellMap  : List Byte
  ranges   : List TierRange
  useTable : Option Nat
  epoch    : Nat
  power    : List Word
  digest   : List Byte
deriving DecidableEq, Repr

/-- No structure stream in force (R356, R360). -/
def Stream.none : Stream :=
  { inForce := false, countM1 := 0, tabs := [], mcode := [], cellMap := [], ranges := [], useTable := .none, epoch := 0,
    power := [], digest := [] }

/-- The power controller (R402 to R410). `wake` is the cause of the exit in progress, or of a wake that met an entry;
`evWrite` a write of HUB.PWR_NEXT_EVENT that met one (R406). -/
structure Power where
  state       : Nat
  busy        : Bool
  target      : Nat
  cause       : Nat
  dormantExit : Bool
  earlyWake   : Bool
  offRefused  : Bool
  next        : Word
  ctrl        : Word
  wake        : Option Nat
  evWrite     : Option Word
  offTaken    : Bool
  offReady    : Bool
deriving DecidableEq, Repr

/-- The power registers at reset (R409). -/
def Power.reset : Power :=
  { state := 0, busy := false, target := 0, cause := 0, dormantExit := false, earlyWake := false, offRefused := false,
    next := 0, ctrl := 0x203, wake := none, evWrite := none, offTaken := false, offReady := false }

/-- A fault of a stream-engine port whose repeat is in progress (R380, R385, R387, R392): the fields of its record, the transfers
whose requests are repeated, and the channels whose save area is written or read again. -/
structure PortFault where
  port   : Nat
  cls    : Nat
  index  : Nat
  handle : Word
  time   : Nat
  second : Bool
  perm   : Bool
  xfers  : List Nat
  vcs    : List Nat
deriving DecidableEq, Repr

/-- The fault manager (R388, R392 to R394). `suspects` are the hub-control copies that have disagreed once, `injected`
the armed injection, `sweepPos` the docent's position in its sweep (R378, R416), `mends` the repeats in progress (R380). -/
structure Flt where
  failstop  : Bool
  clockLost : Bool
  degraded  : Bool
  suspects  : List Nat
  logValid  : Bool
  log       : List Word
  ports     : BitVec 8
  lastCode  : Nat
  ctrl      : Nat
  corr      : Nat
  reruns    : Nat
  repeats   : Nat
  quiesced  : BitVec 256
  sweeps    : Word
  ledgerOr  : BitVec 7
  injected  : Option Word
  sweepPos  : Nat
  mends     : List PortFault
deriving DecidableEq, Repr

/-- The fault registers at power-on reset (R394, R416). -/
def Flt.reset : Flt :=
  { failstop := false, clockLost := false, degraded := false, suspects := [], logValid := false,
    log := List.replicate 6 0, ports := 0, lastCode := 0, ctrl := 2, corr := 0, reruns := 0, repeats := 0,
    quiesced := 0, sweeps := 0, ledgerOr := 0, injected := none, sweepPos := 0, mends := [] }

/-- A die-link port (R31, R430, R431): up, peer ID, next sequence numbers, failed receptions of the flit now expected,
replay buffer, whether the port is in training, and the flits that it has sent, in order. -/
structure Port where
  up      : Bool
  peer    : Nat
  txSeq   : BitVec 12
  rxSeq   : BitVec 12
  resends : Nat
  replay  : List Flit
  training : Bool
  sent    : List Flit
deriving DecidableEq, Repr

/-- A die-link port that is down (R31). -/
def Port.down : Port := { up := false, peer := 0, txSeq := 0, rxSeq := 0, resends := 0, replay := [], training := false, sent := [] }

/-- HUB.RST_STAT and the reset in progress (R411 to R416): 0 none, 1 instance, 2 power-on. -/
structure Rst where
  phase    : Nat
  waiting  : Bool
  cellBusy : List Nat
  refused  : Bool
  lastCell : Nat
deriving DecidableEq, Repr

/-- No reset in progress. -/
def Rst.reset : Rst := { phase := 0, waiting := false, cellBusy := [], refused := false, lastCell := 0 }

/-- A write by the hub into host memory that no transfer carries: save areas, scrubs (R275, R278). Address space ID,
virtual address, bytes. -/
structure HubWrite where
  asid  : BitVec 16
  va    : Nat
  bytes : List Byte
deriving DecidableEq, Repr

/-- What an instance does beyond itself: a completion record for the ring of instance 0 (R289), a fault record with whether
HUB.FLT_LOG of its instance took it (R393, R394), an update of a package fence (R313, R314), a cell map that a patch gives an
instance (R359), the last word of a mailbox's delivery (R364), a request that only reads at an instance (R241, R405). -/
inductive Eff where
  | record (ws : List Word)
  | fault (ws : List Word) (logged : Bool)
  | fenceAdd (f : Nat) (inc : Word)
  | fenceErr (f : Nat) (code : Nat)
  | patch (die : Nat) (map : List Byte)
  | taken (handle : Word)
  | ask (die : Nat)
deriving DecidableEq, Repr

/-- The hub of an instance with its cells. `linkIn` are the messages of other dies and `notices` the resolve notices that wait
until the instance is in RUN (R405, R426). `tapIr` is the instruction register of the test access port, `wir` the wrapper
instructions of the blocks, 0 the hub and n + 1 cell n (R435, R436). `seReqs` are the requests outstanding at the
stream-engine ports (R425), `seRound` the channels that the present round of R272 has still to serve, with their tiles left,
`seWrites` the lines written, with their transfer. `keyWait` and `mbWait` are a key command and a mailbox command, each with
its handle, that wait for an instance in reset or asleep, `mbFreeing` the mailbox whose delivery an MB_FREE waits for (R284,
R364, R366). Tied inputs are `winBase`, win_base of each cell, and `idcMfr`, IDC_MFR (R423, R428). -/
structure Inst where
  id         : Nat
  cellsBuilt : Nat
  cells      : Tbl Cell
  inService  : BitVec 256
  stream     : Stream
  vcs        : Tbl Vc
  readyQ     : List Nat
  schedCtrl  : Word
  win        : ChWin
  keys       : Tbl KeySlot
  keyHandle  : Word
  keyCode    : Nat
  keyWrap    : List Word
  keyWait    : Option (Word × Word)
  instKey    : Option (BitVec 256)
  keyResp    : Option (BitVec 2)
  fences     : Tbl Fence
  mboxes     : Tbl Mbox
  mbArg0     : Word
  mbArg1     : Word
  mbCode     : Nat
  mbHandle   : Word
  mbFreeing  : Option Nat
  mbWait     : Option (Nat × Word)
  dbMask     : Word
  tlb        : List TlbEntry
  xreqs      : List XlReq
  invAcks    : Nat
  invOwed    : Nat
  xfers      : List Xfer
  xferSeq    : Nat
  seReqs     : List SeReq
  seRound    : List (Nat × Nat)
  seWrites   : List (Nat × SeWrite)
  held       : List (List Byte)
  collCtrl   : Word
  collOut    : Nat
  linkOut    : List (Nat × List Byte)
  linkIn     : List Eff
  notices    : List (BitVec 16 × Nat × Bool)
  hubWrites  : List HubWrite
  intStat    : BitVec 4
  intEn      : BitVec 4
  pwr        : Power
  flt        : Flt
  rst        : Rst
  east       : Port
  west       : Port
  lstDone    : Bool
  lstFail    : BitVec 256
  test       : Bool
  tapIr      : BitVec 8
  wir        : Tbl Wrapper
  ticks      : Nat
  winBase    : List Word
  idcMfr     : BitVec 11
deriving DecidableEq, Repr

/-! ### Instance 0's registers of the package -/

/-- The load window (R353, R356): state code, code, lost, staged words, a word beyond 65,536 was written, fault offset,
frozen digest, patches. -/
structure LoadWin where
  st       : Nat
  code     : Nat
  lost     : Bool
  words    : List Word
  overrun  : Bool
  faultOff : Nat
  digest   : List Byte
  patches  : Nat
deriving DecidableEq, Repr

/-- The load window at reset (R353, R356). -/
def LoadWin.reset : LoadWin :=
  { st := 0, code := 0, lost := false, words := [], overrun := false, faultOff := 0, digest := [], patches := 0 }

/-- The completion ring's registers (R291) with the sequence number of R290, and the records written: ring slot address
and the eight words. -/
structure Ring where
  baseLo : Word
  baseHi : Word
  ctrl   : Word
  head   : Word
  tail   : Word
  lost   : Word
  seq    : BitVec 16
  out    : List (Nat × List Word)
  /-- the model's own count of the writes tried, so that each has its own free answer (log entry 3) -/
  tries  : Nat
deriving DecidableEq, Repr

/-- The ring registers at reset (R291). -/
def Ring.reset : Ring :=
  { baseLo := 0, baseHi := 0, ctrl := 6, head := 0, tail := 0, lost := 0, seq := 0, out := [], tries := 0 }

/-- A response of the control port (R424): ctl_err, ctl_rdata. -/
structure CtlResp where
  err  : Bool
  data : Word
deriving DecidableEq, Repr

/-- An access of the control port that is outstanding (R342, R344): the access, the die whose hub holds it, and its answer
once it has one, which then waits for those of the accesses before it. -/
structure Fwd where
  acc : CtlAcc
  at_ : Nat
  ans : Option CtlResp
deriving DecidableEq, Repr

/-- The state of the package. `fwd` are the outstanding accesses of the control port in issue order (R342), `resp` the
responses that the last answer released, in that order. -/
structure State where
  pending    : List Instr
  insts      : List Inst
  ss         : LoadWin
  ring       : Ring
  ctlErr     : Word
  ctlErrAddr : Word
  fwd        : List Fwd
  resp       : List CtlResp
  freeCtr    : Nat
deriving DecidableEq, Repr

/-- Faults of the model: none. Every command completes; one that names an instance or a cell which the package does not have
changes nothing, or ends as R343 and R344 state (log entry 100). -/
inductive Fault where
deriving DecidableEq, Repr

/-- Refusals of the model. -/
inductive Refusal where
  /-- a command without a meaning yet, raised by the dispatcher alone; safe -/
  | notModelled (mnemonic : String)
deriving DecidableEq, Repr

/-- All cells below n, as a map of 256 bits (R31). -/
def cellsBelow (n : Nat) : BitVec 256 := BitVec.ofNat 256 (2 ^ n - 1)

/-- An instance right after its power-on reset has ended (R412, R416): die k of a package of n. Its lane self-test
passed and its links have trained (log entry 1); its tied inputs are those of log entry 2. -/
def Inst.reset (n k built : Nat) : Inst :=
  { id := k, cellsBuilt := built, cells := [], inService := cellsBelow built, stream := Stream.none, vcs := [],
    readyQ := [], schedCtrl := 0x00640400, win := ChWin.reset, keys := [], keyHandle := 0, keyCode := 0,
    keyWrap := List.replicate 12 0, keyWait := none, instKey := none, keyResp := none, fences := [], mboxes := [], mbArg0 := 0,
    mbArg1 := 0, mbCode := 0, mbHandle := 0, mbFreeing := none, mbWait := none, dbMask := 0xFFFFFFFF, tlb := [], xreqs := [],
    invAcks := 0, invOwed := 0, xfers := [], xferSeq := 0, seReqs := [], seRound := [], seWrites := [], held := [],
    collCtrl := 0x20, collOut := 0, linkOut := [], linkIn := [], notices := [],
    hubWrites := [], intStat := 0, intEn := 0, pwr := Power.reset, flt := Flt.reset, rst := Rst.reset,
    east := { Port.down with up := decide (1 < n), peer := if 1 < n then (k + 1) % n else 0 },
    west := { Port.down with up := decide (1 < n), peer := if 1 < n then (k + n - 1) % n else 0 },
    lstDone := true, lstFail := 0, test := false, tapIr := 1, wir := [], ticks := 0,
    winBase := (List.range built).map (Config.windowBase k),
    idcMfr := 0 }

/-- The package right after the power-on reset of every instance has ended (R412). -/
def State.reset : State :=
  { pending := [], insts := (List.range Config.instances).map fun k => Inst.reset Config.instances k Config.cellsBuilt,
    ss := LoadWin.reset, ring := Ring.reset, ctlErr := 0, ctlErrAddr := 0, fwd := [], resp := [], freeCtr := 0 }

end Sys2Proof.Machine
end

