-- ==== Sys2Proof/Machine/Flags.lean ====
section
/-! DEFINITION. The ledger's flags and counts and their sums (R65, R101 to R103), the error codes (R395). -/

namespace Sys2Proof.Machine

/-- The ledger flags of R101. -/
def flNonfinite  : BitVec 7 := 1
def flConst      : BitVec 7 := 2
def flDegenerate : BitVec 7 := 4
def flEmpty      : BitVec 7 := 8
def flRowMasked  : BitVec 7 := 16
def flClamped    : BitVec 7 := 32
def flPoison     : BitVec 7 := 64

/-- A ledger update that sets flags only. -/
def Led.flag (f : BitVec 7) : Led := { Led.zero with flags := f }

/-- A flag under a condition. -/
def Led.flagIf (c : Bool) (f : BitVec 7) : Led := if c then Led.flag f else Led.zero

/-- NONFINITE under a condition (R65). -/
def Led.nonfin (c : Bool) : Led := Led.flagIf c flNonfinite

/-- The sum of ledger updates: flags are joined, counts saturate at their largest value (R101), the fingerprint adds
modulo 2^64 (R338). -/
def Led.add (a b : Led) : Led :=
  { flags := a.flags ||| b.flags, sat := satAdd 32 a.sat b.sat, quant := satAdd 64 a.quant b.quant,
    sqerr := satAdd 64 a.sqerr b.sqerr, constG := satAdd 32 a.constG b.constG, degenG := satAdd 32 a.degenG b.degenG,
    clampG := satAdd 32 a.clampG b.clampG, waits := satAdd 32 a.waits b.waits, ticks := satAdd 64 a.ticks b.ticks,
    fp := (a.fp + b.fp) % 2 ^ 64, tiles := satAdd 64 a.tiles b.tiles }

/-- The sum of a list of updates. -/
def Led.sum (ls : List Led) : Led := ls.foldl Led.add Led.zero

/-- The 64 bytes of a ledger (R101). -/
def Led.bytes (l : Led) : List Byte :=
  leBytes 4 l.flags.toNat ++ leBytes 4 l.sat ++ leBytes 8 l.quant ++ leBytes 8 l.sqerr ++ leBytes 4 l.constG
    ++ leBytes 4 l.degenG ++ leBytes 4 l.clampG ++ leBytes 4 l.waits ++ leBytes 8 l.ticks ++ leBytes 8 l.fp
    ++ leBytes 8 l.tiles

/-- A ledger read back from its 64 bytes (R101, R104). -/
def Led.ofBytes (bs : List Byte) : Led :=
  let at_ (o k : Nat) : Nat := ofLeBytes ((bs.drop o).take k)
  { flags := BitVec.ofNat 7 (at_ 0 4), sat := at_ 4 4, quant := at_ 8 8, sqerr := at_ 16 8, constG := at_ 24 4,
    degenG := at_ 28 4, clampG := at_ 32 4, waits := at_ 36 4, ticks := at_ 40 8, fp := at_ 48 8, tiles := at_ 56 8 }

/-- The reset of CH_QUERY's clear option: every field but the fingerprint (R104). -/
def Led.cleared (l : Led) : Led := { Led.zero with fp := l.fp }

/-! ### Error codes (R395) -/

def errFmt : Nat := 0x0001
def errDesc : Nat := 0x0002
def errSpRange : Nat := 0x0003
def errProg : Nat := 0x0004
def errGather : Nat := 0x0005
def errMash : Nat := 0x0006
def errScaleRange : Nat := 0x0007
def errScaleSeq : Nat := 0x0010
def errScaleTail : Nat := 0x0011
def errCaskBusy : Nat := 0x0020
def errCaskOverlap : Nat := 0x0021
def errCaskLimit : Nat := 0x0022
def errCaskFull : Nat := 0x0023
def errCaskNone : Nat := 0x0024
def errCaskOverrun : Nat := 0x0025
def errCaskEarly : Nat := 0x0026
def errChainOrder : Nat := 0x0027
def errChainLimit : Nat := 0x0028
def errChArg : Nat := 0x0030
def errChStale : Nat := 0x0031
def errChState : Nat := 0x0032
def errChBusy : Nat := 0x0033
def errChFull : Nat := 0x0034
def errChSlots : Nat := 0x0035
def errChSaveFault : Nat := 0x0036
def errChSaveBad : Nat := 0x0037
def errNoStream : Nat := 0x0038
def errCellRetired : Nat := 0x0039
def errKeySlot : Nat := 0x0040
def errKeyUnwrap : Nat := 0x0041
def errKeyReuse : Nat := 0x0042
def errKeyAuth : Nat := 0x0043
def errKeyExhausted : Nat := 0x0044
def errXlate : Nat := 0x0050
def errPoison : Nat := 0x0051
def errMemRead : Nat := 0x0052
def errMemWrite : Nat := 0x0053
def errTierMix : Nat := 0x0054
def errSealRequired : Nat := 0x0055
def errXferFull : Nat := 0x0056
def errXferShape : Nat := 0x0057
def errXferSize : Nat := 0x0058
def errCollPlan : Nat := 0x0060
def errCollCheck : Nat := 0x0061
def errCollMismatch : Nat := 0x0062
def errCollTimeout : Nat := 0x0063
def errCtlSize : Nat := 0x0070
def errCtlAddr : Nat := 0x0071
def errCtlUnreachable : Nat := 0x0072
def errMbArg : Nat := 0x0078
def errMbFull : Nat := 0x0079
def errMbStale : Nat := 0x007A
def errMbSender : Nat := 0x007B
def errMbState : Nat := 0x007C
def errSsFormat : Nat := 0x0080
def errSsRelease : Nat := 0x0081
def errSsPatch : Nat := 0x0082
def errSsBusy : Nat := 0x0083
def errSsTopology : Nat := 0x0084
def errSsCells : Nat := 0x0085
def errHwUncorrectable : Nat := 0x00F0
def errInstFailed : Nat := 0x00F1

end Sys2Proof.Machine
end

