-- ==== Sys2Proof/Machine/Streams.lean ====
section
/-! DEFINITION. The sequence of checked scale streams (R109, R110), the counter-based generator arx4 (R321, R322) and
CRC-64/ECMA-182 (R337). -/

namespace Sys2Proof.Machine

/-- lfsr_step of R109. -/
def lfsrStep (s : Nat) : Nat :=
  let fb := (s ^^^ (s >>> 2) ^^^ (s >>> 3) ^^^ (s >>> 5)) % 2
  (s >>> 1) ||| (fb <<< 15)

/-- mulmod of R110: product of polynomials modulo x^16 + x^5 + x^3 + x^2 + 1. -/
def mulmod (a b : Nat) : Nat :=
  let acc := (List.range 16).foldl (fun r i => if b.testBit i then r ^^^ (a <<< i) else r) 0
  (List.range 15).foldl (fun r j => let i := 30 - j; if r.testBit i then r ^^^ (0x1002D <<< (i - 16)) else r) acc

/-- The seed in use: a zero seed is replaced by 0xACE1 (R107). -/
def seedInUse (seed : Nat) : Nat := if seed % 65536 = 0 then 0xACE1 else seed % 65536

/-- state_at of R110: S_j, by the jump table x^(2^i) mod C, for the low 32 bits of j, as the u32 of the procedure holds them (DESIGN
CHOICE for positions past 2^32, log entry 110). -/
def stateAt (seed j : Nat) : Nat :=
  let rj := (List.range 32).foldl (fun (p : Nat × Nat) i =>
    (if j.testBit i then mulmod p.1 p.2 else p.1, mulmod p.2 p.2)) (1, 2)
  ((List.range 16).foldl (fun (p : Nat × Nat) k =>
    (if rj.1.testBit k then p.1 ^^^ p.2 else p.1, lfsrStep p.2)) (0, seedInUse seed)).1

/-- The sequence bit of position p (R109). -/
def seqBit (seed p : Nat) : Bool := (stateAt seed p).testBit 0

def rotl32 (v : BitVec 32) (s : Nat) : BitVec 32 := v.rotateLeft s

/-- One round of arx4 (R321); i is the round number. -/
def arxRound (k0 k1 dc : BitVec 32) (x : BitVec 32 × BitVec 32 × BitVec 32 × BitVec 32) (i : Nat) :
    BitVec 32 × BitVec 32 × BitVec 32 × BitVec 32 :=
  let a := x.1 + k0
  let b := x.2.1 + k1
  let c := x.2.2.1 + dc
  let d := x.2.2.2 + BitVec.ofNat 32 i
  let a := a + b
  let d := rotl32 (d ^^^ a) 16
  let c := c + d
  let b := rotl32 (b ^^^ c) 12
  let a := a + b
  let d := rotl32 (d ^^^ a) 8
  let c := c + d
  let b := rotl32 (b ^^^ c) 7
  (a, b, c, d)

/-- rng16 of R321: key, domain, step, tag, element index. -/
def rng16 (key : Nat) (dom : Nat) (step tag : Nat) (idx : Nat) : Nat :=
  let dc : BitVec 32 := 0x9E3779B9#32 * BitVec.ofNat 32 (dom + 1)
  let r := (List.range 4).foldl (arxRound (BitVec.ofNat 32 key) (BitVec.ofNat 32 (key >>> 32)) dc)
    (BitVec.ofNat 32 idx, BitVec.ofNat 32 (idx >>> 32), BitVec.ofNat 32 tag, BitVec.ofNat 32 step)
  r.1.toNat >>> 16

/-- One byte into the CRC-64/ECMA-182 register (R337): polynomial 0x42F0E1EBA9EA3693, most significant bit first. -/
def crcByte (crc : Nat) (b : Byte) : Nat :=
  (List.range 8).foldl (fun c _ =>
    let s := (c <<< 1) % 2 ^ 64
    if c.testBit 63 then s ^^^ 0x42F0E1EBA9EA3693 else s) (crc ^^^ (b.toNat <<< 56))

/-- CRC-64/ECMA-182 of a byte string: initial value 0, no reflection, no final inversion (R337). -/
def crc64 (bs : List Byte) : Nat := bs.foldl crcByte 0

end Sys2Proof.Machine
end

