-- ==== Sys2Proof/Machine/Tensor.lean ====
section
/-! DEFINITION. The tensor descriptor and its addresses (R292 to R295), scale tensors with their tails (R106, R107), the
tail mask (R215), the reading of a tile with its checked scale stream (R51, R52, R111 to R115). -/

namespace Sys2Proof.Machine

/-- The fields of a tensor descriptor (R292); `rsv` when a reserved bit is set. -/
structure Desc where
  base  : Nat
  virt  : Bool
  obj   : Nat
  num   : Nat
  shift : Int
  key   : Nat
  keyEn : Bool
  seed  : Nat
  e0    : Nat
  e1    : Nat
  e2    : Nat
  e3    : Nat
  s1    : Nat
  s2    : Nat
  s3    : Nat
  scale : Nat
  aux   : Nat
  rsv   : Bool
deriving DecidableEq, Repr

/-- A descriptor read from its 64 bytes (R292). -/
def Desc.of (l : Line) : Desc :=
  let w := l.toNat
  { base := fld w 51 0, virt := bitOf w 52, obj := fld w 63 53, num := fld w 79 64, shift := signed 7 (fld w 86 80),
    key := fld w 99 88, keyEn := bitOf w 100, seed := fld w 127 112, e0 := fld w 159 128, e1 := fld w 191 160,
    e2 := fld w 223 192, e3 := fld w 255 224, s1 := fld w 295 256, s2 := fld w 335 296, s3 := fld w 375 336,
    scale := fld w 435 384, aux := fld w 499 448,
    rsv := bitOf w 87 || decide (fld w 111 101 ≠ 0) || decide (fld w 383 376 ≠ 0) || decide (fld w 447 436 ≠ 0)
      || decide (fld w 511 500 ≠ 0) }

/-- The numeric word of a descriptor (R34, R292). -/
def Desc.nw (d : Desc) : NumWord := NumWord.of d.num

/-- An extent of 0 (R225). -/
def Desc.isEmpty (d : Desc) : Bool := decide (d.e0 = 0 ∨ d.e1 = 0 ∨ d.e2 = 0 ∨ d.e3 = 0)

/-- Bits per element; 0 for an illegal word. -/
def Desc.bits (d : Desc) : Nat := match Fmt.ofCode d.nw.fmtCode with
  | some f => f.bits
  | none => 0

def ceilDiv (a b : Nat) : Nat := (a + b - 1) / b

/-- Blocks per row (R106). -/
def Desc.bpr (d : Desc) : Nat := ceilDiv d.e0 d.nw.block

/-- Bytes of a row (R294). -/
def Desc.rowBytes (d : Desc) : Nat :=
  if d.nw.isBlock then d.bpr * (d.nw.block * d.bits / 8) else ceilDiv (d.e0 * d.bits) 8

/-- The linear row index (R106). -/
def Desc.row (d : Desc) (i1 i2 i3 : Nat) : Nat := i1 + d.e1 * (i2 + d.e2 * i3)

/-- The number of positions N of the block-scale tensor (R106), 0 where the mode has none. -/
def Desc.positions (d : Desc) : Nat := if d.nw.isBlock then d.bpr * d.e1 * d.e2 * d.e3 else 0

/-- The address of the row of element (·, i1, i2, i3) (R294). Virtual addresses have 52 bits. -/
def Desc.rowAddr (d : Desc) (i1 i2 i3 : Nat) : Nat := d.base + i1 * d.s1 + i2 * d.s2 + i3 * d.s3

/-- A written descriptor overlaps itself (R295). -/
def Desc.selfOverlap (d : Desc) : Bool :=
  let sp0 := d.rowBytes
  let sp1 := if d.e1 = 1 then sp0 else d.s1 * (d.e1 - 1) + sp0
  let sp2 := if d.e2 = 1 then sp1 else d.s2 * (d.e2 - 1) + sp1
  (decide (1 < d.e1) && decide (d.s1 < sp0)) || (decide (1 < d.e2) && decide (d.s2 < sp1))
    || (decide (1 < d.e3) && decide (d.s3 < sp2))

/-- DESC_ILLEGAL of R295. -/
def Desc.illegal (d : Desc) (written auxUsed : Bool) : Bool :=
  let sz := d.bits / 8
  let off (x : Nat) : Bool := decide (x % sz ≠ 0)
  d.rsv
    || (decide (16 ≤ d.bits) && (off d.base || (decide (1 < d.e1) && off d.s1) || (decide (1 < d.e2) && off d.s2)
        || (decide (1 < d.e3) && off d.s3)))
    || ((decide (d.nw.mode = 1) || decide (d.nw.mode = 2)) && decide (d.scale % 2 = 1))
    || (auxUsed && decide (d.aux % 32 ≠ 0))
    || (written && d.selfOverlap)

/-- The tile index of a descriptor (R214). -/
structure TIdx where
  t0 : Nat
  t1 : Nat
  t2 : Nat
  t3 : Nat
deriving DecidableEq, Repr

/-- The tail mask of a descriptor at a tile (R215). -/
def tailMask (d : Desc) (t : TIdx) : Mask :=
  if t.t2 < d.e2 ∧ t.t3 < d.e3 then
    let nr := min 32 (d.e1 - 32 * t.t1)
    let nc := min 32 (d.e0 - 32 * t.t0)
    (List.range nr).foldl (fun m r => m ||| BitVec.ofNat 1024 ((2 ^ nc - 1) <<< (32 * r))) 0
  else 0

/-- Every lane. -/
def fullMask : Mask := BitVec.allOnes 1024

/-- Lane (r, c) of a mask (R209). -/
def laneOn (m : Mask) (r c : Nat) : Bool := m.getLsbD (32 * r + c)

/-- Some lane of row r. -/
def rowOn (m : Mask) (r : Nat) : Bool := decide ((m.toNat >>> (32 * r)) % 2 ^ 32 ≠ 0)

/-- The linear index of element (i0, i1, i2, i3) (R106, R322). -/
def Desc.linear (d : Desc) (i0 i1 i2 i3 : Nat) : Nat := i0 + d.e0 * d.row i1 i2 i3

/-- The linear index of lane (r, c) of a tile. -/
def Desc.laneIndex (d : Desc) (t : TIdx) (r c : Nat) : Nat := d.linear (32 * t.t0 + c) (32 * t.t1 + r) t.t2 t.t3

/-- The address of row r of a tile, at its column 0: 32 codes of any format fill whole bytes (R54, R294). -/
def Desc.tileRow (d : Desc) (t : TIdx) (r : Nat) : Nat :=
  d.rowAddr (32 * t.t1 + r) t.t2 t.t3 + 32 * t.t0 * d.bits / 8

/-- Byte j of a tile row holds a bit of one of its lanes in `m` (R224). -/
def byteTouched (bits : Nat) (m : Mask) (r j : Nat) : Bool :=
  (List.range 32).any fun c => laneOn m r c && decide (c * bits < 8 * j + 8) && decide (8 * j < (c + 1) * bits)

/-- The addresses of the bytes of the lanes in `m`, row by row. -/
def Desc.laneBytes (d : Desc) (t : TIdx) (m : Mask) : List Nat :=
  (List.range 32).flatMap fun r =>
    if rowOn m r then
      ((List.range (4 * d.bits)).filter (byteTouched d.bits m r)).map fun j => d.tileRow t r + j
    else []

/-- The position of the block of lane (r, c) (R106). -/
def Desc.posOf (d : Desc) (t : TIdx) (r c : Nat) : Nat :=
  d.row (32 * t.t1 + r) t.t2 t.t3 * d.bpr + (32 * t.t0 + c) / d.nw.block

/-- The first columns of the blocks of a tile row. -/
def Desc.blockCols (d : Desc) : List Nat := if d.nw.blk16 then [0, 16] else [0]

/-- The positions of the blocks of a tile that have a first lane in `m`'s rows and lie inside the extent. -/
def Desc.tilePositions (d : Desc) (t : TIdx) (m : Mask) : List Nat :=
  (List.range 32).flatMap fun r =>
    (d.blockCols.filter fun c => (List.range d.nw.block).any fun j => laneOn m r (c + j)).map fun c => d.posOf t r c

/-- Positions p to p + 15 of every listed position, without repeats (R111). -/
def windowOf (ps : List Nat) : List Nat := (ps.flatMap fun p => (List.range 16).map (p + ·)).eraseDups

/-- The 16 tail positions, when a window reaches one or the tail is read anyway (R111). -/
def Desc.streamPositions (d : Desc) (ps : List Nat) (tail : Bool) : List Nat :=
  let n := d.positions
  let w := windowOf ps
  let blocks := w.filter (· < n)
  if tail || w.any (fun p => decide (n ≤ p)) then blocks ++ (List.range 16).map (n + ·) else blocks

/-- The value of bits [6:0] that R107 prescribes for tail byte i; t is tensor_scale. -/
def Desc.tailField (d : Desc) (t : Nat) (i : Nat) : Nat :=
  let n := d.positions
  let s := seedInUse d.seed
  match i with
  | 0 => if d.nw.mode = 5 then t else 0
  | 1 => n % 128
  | 2 => (n >>> 7) % 128
  | 3 => (n >>> 14) % 128
  | 4 => (n >>> 21) % 128
  | 5 => s % 128
  | 6 => (s >>> 7) % 128
  | 7 => (s >>> 14) % 4
  | 8 => d.nw.fmtCode
  | 9 => d.nw.mode + flagAt d.nw.blk16 3
  | _ => 0

/-- A byte of a checked stream with the sequence bit of its position (R107, R108, R109). -/
def seqByte (seed p low : Nat) : Byte := BitVec.ofNat 8 (low % 128 + flagAt (seqBit seed p) 7)

/-- The tail bytes with their addresses (R107, R108). -/
def Desc.tailBytes (d : Desc) (t : Nat) : List (Nat × Byte) :=
  let n := d.positions
  (List.range 16).map fun i => (d.scale + n + i, seqByte d.seed (n + i) (d.tailField t i))

/-- The failure of a checked stream among its compared positions: the lowest failing position, and whether only tail
fields failed (R111, R115, R116). -/
def Desc.streamFail (d : Desc) (rd : Nat → Nat) (ps : List Nat) : Option (Nat × Bool) :=
  let n := d.positions
  let seqBad (p : Nat) : Bool := (rd (d.scale + p)).testBit 7 != seqBit d.seed p
  let fieldBad (p : Nat) : Bool := decide (n ≤ p) && !(decide (p = n) && decide (d.nw.mode = 5))
    && decide (rd (d.scale + p) % 128 ≠ d.tailField 0 (p - n))
  match ps.filter fun p => seqBad p || fieldBad p with
  | [] => none
  | p :: rest => some (rest.foldl min p, !ps.any seqBad)

/-- What a tile reads of a tensor (R223): element bytes of enabled lanes; scale entries of modes 1 and 2; block bytes
and, for a checked stream, the windows of every block inside the extent (R111, R114), with the tail in mode 5. The
compared positions come second. -/
def Desc.readPlan (d : Desc) (t : TIdx) (en : Mask) : List Nat × List Nat :=
  let elems := d.laneBytes t en
  let mode := d.nw.mode
  if mode = 1 then (elems ++ (if en = 0 then [] else [d.scale, d.scale + 1]), [])
  else if mode = 2 then
    (elems ++ ((List.range 32).filter (rowOn en)).flatMap (fun r =>
      let a := d.scale + 2 * (32 * t.t1 + r)
      [a, a + 1]), [])
  else if mode = 4 then (elems ++ (d.tilePositions t en).map (d.scale + ·), [])
  else if mode = 3 ∨ mode = 5 then
    let ps := d.streamPositions (d.tilePositions t (tailMask d t)) (decide (mode = 5))
    (elems ++ ps.map (d.scale + ·), ps)
  else (elems, [])

/-- The code of lane (r, c) (R54). -/
def Desc.codeAt (d : Desc) (rd : Nat → Nat) (t : TIdx) (r c : Nat) : Nat :=
  let bit := c * d.bits
  let a := d.tileRow t r + bit / 8
  let k := if d.bits < 8 then (if bit % 8 + d.bits ≤ 8 then 1 else 2) else d.bits / 8
  let v := (List.range k).foldl (fun acc i => acc + rd (a + i) * 256 ^ i) 0
  (v >>> (bit % 8)) % 2 ^ d.bits

/-- The scale entry for dimension-1 index i1 in modes 1 and 2 (R50): exponent and zero point. -/
def Desc.supplied (d : Desc) (f : Fmt) (rd : Nat → Nat) (i1 : Nat) : Option Int × Nat :=
  let a := if d.nw.mode = 2 then d.scale + 2 * i1 else d.scale
  let zp := if f = .uint8zp then rd (a + 1) else if f = .uint4zp then rd (a + 1) % 16 else 0
  (scaleExp d.nw.mode (rd a), zp)

/-- The tensor-level byte t of mode 5, from the tail (R107). -/
def Desc.tensorByte (d : Desc) (rd : Nat → Nat) : Nat := rd (d.scale + d.positions) % 128

/-- The full scale exponent of lane (r, c) and its zero point (R51). -/
def Desc.laneScale (d : Desc) (f : Fmt) (rd : Nat → Nat) (t : TIdx) (r c : Nat) : Option Int × Nat :=
  match d.nw.mode with
  | 0 => (some 0, 0)
  | 1 | 2 => d.supplied f rd (32 * t.t1 + r)
  | 5 => (addExp (scaleExp 5 (rd (d.scale + d.posOf t r c))) (scaleExp 5 (d.tensorByte rd)), 0)
  | m => (scaleExp m (rd (d.scale + d.posOf t r c)), 0)

/-- The exact value of lane (r, c) (R51, R52). -/
def Desc.laneVal (d : Desc) (tabs : List (BitVec 16)) (f : Fmt) (rd : Nat → Nat) (t : TIdx) (r c : Nat) : XV :=
  let s := d.laneScale f rd t r c
  applyScale f (decodeCode tabs f d.nw.mode s.2 (d.codeAt rd t r c)) s.1

/-- All lanes in row order. -/
def lanes : List (Nat × Nat) := (List.range 32).flatMap fun r => (List.range 32).map fun c => (r, c)

/-- The exact values of the enabled lanes of a tile; none at a disabled lane. -/
def Desc.tileVals (d : Desc) (tabs : List (BitVec 16)) (f : Fmt) (rd : Nat → Nat) (t : TIdx) (en : Mask) :
    List (Option XV) :=
  lanes.map fun p => if laneOn en p.1 p.2 then some (d.laneVal tabs f rd t p.1 p.2) else none

/-- NONFINITE of a decode: an enabled element is a NaN or an infinity (R65). -/
def decodeLed (vs : List (Option XV)) : Led := Led.nonfin (vs.any fun v => match v with
  | some x => !x.isFin
  | none => false)

/-- NONFINITE of a decode where the rows in `skip` are copied by a direct map, which decodes nothing (R58). -/
def decodeLedBut (skip : Nat → Bool) (vs : List (Option XV)) : Led :=
  decodeLed ((lanes.zip vs).map fun v => if skip v.1.1 then none else v.2)

/-- The commit CRC of the writes to a tensor of object `obj` (R338). -/
def objCrc (obj index : Nat) (elems scales aux : List Byte) : Nat :=
  crc64 (leBytes 2 obj ++ [0, 0] ++ leBytes 4 (elems.length + scales.length + aux.length) ++ leBytes 8 index
    ++ elems ++ scales ++ aux)

/-- The commit CRC of one descriptor's writes (R338). -/
def commitCrc (d : Desc) (index : Nat) (elems scales aux : List Byte) : Nat := objCrc d.obj index elems scales aux

end Sys2Proof.Machine
end

