-- ==== Sys2Proof/Machine/Kiln.lean ====
section
/-! DEFINITION. The kiln's encode of one tile (R54 to R58, R71 to R80, R102, R108, R172, R224, R324), shared by KILN, CVT in
memory form, CASK_DRAIN to dst 0 and the converting transfers. -/

namespace Sys2Proof.Machine

/-- One element that enters the encode: its exact value, and the value that its block's amax takes (R77). -/
structure KIn where
  val  : XV
  amax : XV
deriving DecidableEq, Repr

/-- An element that enters as a binary32 or exact value. -/
def KIn.plain (x : XV) : KIn := { val := x, amax := x }

/-- An element that enters as a single TW64 value: amax takes its binary32 rounding (R77), and where the sum of an
unnormalised finite pair rounds to infinity, its exact value (DESIGN CHOICE, log entry 89). -/
def KIn.tw (x : XV) : KIn :=
  let h := f32 (rne x)
  { val := x, amax := if x.isFin && h.isFin then h else x }

/-- Multiply exactly by a power of two and by a factor. -/
def KIn.scale (k : KIn) (q : XV) (sh : Int) : KIn :=
  { val := (XV.mul k.val q).scale sh, amax := (XV.mul k.amax q).scale sh }

/-- What an encode needs besides the values: decode tables, the random key with its domain, step and tag (R61, R322). -/
structure KEnv where
  tabs : List (BitVec 16)
  seed : Nat
  dom  : Nat
  step : Nat
  tag  : Nat
deriving DecidableEq, Repr

/-- step and tag of a writer without counters of its own (R322). -/
def KEnv.ofDesc (tabs : List (BitVec 16)) (seed : Nat) (d : Desc) : KEnv :=
  { tabs := tabs, seed := seed, dom := 0, step := 0, tag := (d.obj * 65536 + d.seed) % 2 ^ 32 }

/-- The random value of a stochastic rounding, 0 in the other modes (R60, R61). -/
def KEnv.draw (e : KEnv) (n : NumWord) (idx : Nat) : Nat :=
  if n.rnd = 3 then rng16 e.seed e.dom e.step e.tag idx else 0

/-- The ledger update of one encoded element of value x under scale exponent k (R65, R102). -/
def encLed (tabs : List (BitVec 16)) (f : Fmt) (n : NumWord) (zp : Nat) (k : Int) (x : XV) (e : Enc) : Led :=
  let counts := e.quant && decide (f.bits ≤ 8)
  { Led.zero with
    flags := if e.nonfin || !x.isFin then flNonfinite else 0
    sat := if e.sat then 1 else 0
    quant := if counts then 1 else 0
    sqerr := if counts then sqerrTerm (x.scale (-k)) (decodeCode tabs f n.mode zp e.code) else 0 }

/-- One encoded row of a tile: the code of every column, the columns whose bytes are written, the scale bytes by
position, the ledger update. -/
structure RowOut where
  codes  : List Nat
  wr     : List Bool
  scales : List (Nat × Nat)
  led    : Led
deriving DecidableEq, Repr

/-- Encode a row in scale modes 0 to 2 (R59 to R64, R72, R73): k is the supplied exponent, none for a NaN marker. -/
def encodeFlatRow (env : KEnv) (f : Fmt) (n : NumWord) (k : Option Int) (zp : Nat) (idx : Nat → Nat)
    (xs : List (Option KIn)) : RowOut :=
  let kk := k.getD 0
  let es := xs.zipIdx.map fun p => p.1.map fun x =>
    let v := if k.isNone then XV.nan else x.val
    (v, encodeElem env.tabs f n.mode zp n.rnd n.sat (env.draw n (idx p.2)) (v.scale (-kk)))
  { codes := es.map fun o => match o with
      | some (_, e) => e.code
      | none => 0
    wr := xs.map Option.isSome
    scales := []
    led := Led.sum (es.map fun o => match o with
      | some (v, e) => encLed env.tabs f n zp kk v e
      | none => Led.zero) }

/-- The largest finite magnitude of a block's valid elements, none if no finite nonzero element (R77, R78). -/
def blockAmax (xs : List (Option KIn)) : Option (Nat × Nat) :=
  let m := xs.foldl (fun (a : XV) o => match o with
    | some x => if x.val.isFin && XV.lt a x.amax.abs then x.amax.abs else a
    | none => a) XV.zero
  match m with
  | .fin _ nn dd => if nn = 0 then none else some (nn, dd)
  | _ => none

/-- Encode one block (R56, R76, R78, R79, R224): codes, scale byte without sequence bit, ledger update. t is the
tensor-level byte of mode 5. A byte that had clamped counts even where the block becomes a NaN block and discards it
(DESIGN CHOICE, log entry 90). -/
def encodeBlock (env : KEnv) (f : Fmt) (n : NumWord) (t : Nat) (idx : Nat → Nat) (xs0 : List (Option KIn)) :
    List Nat × Nat × Led :=
  let tNan := decide (n.mode = 5) && decide (t = 127)
  let xs := if tNan then xs0.map fun o => o.map fun _ => KIn.plain .nan else xs0
  let bb := blockByte env.tabs f n t (blockAmax xs)
  let k := match addExp (scaleExp n.mode bb.1) (if n.mode = 5 then scaleExp 5 t else some 0) with
    | some k => k
    | none => 0
  let es := xs.zipIdx.map fun p => p.1.map fun x =>
    (x.val, encodeElem env.tabs f n.mode 0 n.rnd n.sat (env.draw n (idx p.2)) (x.val.scale (-k)))
  let emptyLed := Led.flagIf (xs.all Option.isNone) flEmpty
  let clampLed : Led := if bb.2 then { Led.flag flClamped with clampG := 1 } else Led.zero
  let led0 := Led.add emptyLed clampLed
  if es.any (fun o => match o with
      | some (_, e) => e.nanRule
      | none => false) then
    (xs.map fun _ => 0, if n.mode = 4 then 255 else 127, Led.add led0 (Led.nonfin true))
  else
    (es.map fun o => match o with
      | some (_, e) => e.code
      | none => 0, bb.1,
     Led.add led0 (Led.sum (es.map fun o => match o with
      | some (v, e) => encLed env.tabs f n 0 k v e
      | none => Led.zero)))

/-- A block copied by the direct map of R58: its codes, scale byte, ledger update. -/
abbrev DirectMap := Nat → Option (List Nat × Nat × Led)

/-- Encode row r of a tile of d in a block mode; `direct` gives the blocks that a transcode copies. -/
def encodeBlockRow (env : KEnv) (f : Fmt) (d : Desc) (t : TIdx) (tb : Nat) (direct : DirectMap) (r : Nat)
    (xs : List (Option KIn)) : RowOut :=
  let n := d.nw
  let inside (c : Nat) : Bool := decide (32 * t.t1 + r < d.e1) && decide (32 * t.t0 + c < d.e0)
    && decide (t.t2 < d.e2) && decide (t.t3 < d.e3)
  let blocks := d.blockCols.map fun c =>
    if inside c then
      let ys := (xs.drop c).take n.block
      let o := if ys.all Option.isNone then none else direct r
      some (d.posOf t r c, match o with
        | some q => q
        | none => encodeBlock env f n tb (fun j => d.laneIndex t r (c + j)) ys)
    else none
  { codes := blocks.flatMap fun o => match o with
      | some b => b.2.1
      | none => List.replicate n.block 0
    wr := blocks.flatMap fun o => List.replicate n.block o.isSome
    scales := blocks.filterMap fun o => o.map fun b => (b.1, b.2.2.1)
    led := Led.sum (blocks.map fun o => match o with
      | some b => b.2.2.2
      | none => Led.zero) }

/-- Column c of a row has a bit in byte j (R54). -/
def colInByte (bits c j : Nat) : Bool := decide (c * bits < 8 * j + 8) && decide (8 * j < (c + 1) * bits)

/-- Byte j of a row holds a bit of a written column. -/
def byteWritten (bits : Nat) (wr : List Bool) (j : Nat) : Bool := wr.zipIdx.any fun p => p.1 && colInByte bits p.2 j

/-- The columns below nc that are not written and share a byte with one that is: they take code 0 (R224). -/
def zeroCols (bits nc : Nat) (wr : List Bool) : List Nat :=
  (List.range nc).filter fun c => !wr.getD c false
    && (List.range (4 * bits)).any fun j => colInByte bits c j && byteWritten bits wr j

/-- The bytes of a row that hold a bit of such a column and none of a written one (6-bit formats). -/
def spillBytes (bits nc : Nat) (wr : List Bool) : List Nat :=
  (List.range (4 * bits)).filter fun j => !byteWritten bits wr j && (zeroCols bits nc wr).any fun c => colInByte bits c j

/-- The bytes of a row that its written columns touch, with their addresses (R54, R224), and those that a column taking
code 0 reaches beyond them, in lane order (R338): in these the other bits stay as `old` has them (DEDUCED, log entry 88). -/
def RowOut.bytes (o : RowOut) (bits nc base : Nat) (old : Nat → Nat) : List (Nat × Byte) :=
  let v := o.codes.zipIdx.foldl (fun acc p => acc + p.1 * 2 ^ (p.2 * bits)) 0
  let gone := (zeroCols bits nc o.wr).foldl (fun acc c => acc + (2 ^ bits - 1) * 2 ^ (c * bits)) 0
  let spill := spillBytes bits nc o.wr
  (List.range (4 * bits)).filterMap fun j =>
    if byteWritten bits o.wr j then some (base + j, BitVec.ofNat 8 (v >>> (8 * j)))
    else if spill.contains j then some (base + j, BitVec.ofNat 8 (old (base + j)) &&& ~~~BitVec.ofNat 8 (gone >>> (8 * j)))
    else none

/-- What an encode writes: element bytes row by row, scale bytes and tail in position order, the ledger update. -/
structure KOut where
  elems  : List (Nat × Byte)
  scales : List (Nat × Byte)
  led    : Led
deriving DecidableEq, Repr

/-- Columns of a tile inside extent0. -/
def Desc.tileCols (d : Desc) (t : TIdx) : Nat := min 32 (d.e0 - 32 * t.t0)

/-- The bytes that an encode of the lanes in `en` changes in part, so that it reads them first (R224). -/
def Desc.spillAddrs (d : Desc) (t : TIdx) (en : Mask) : List Nat :=
  if d.bits = 6 then
    ((List.range 32).filter (rowOn en)).flatMap fun r =>
      (spillBytes d.bits (d.tileCols t) ((List.range 32).map (laneOn en r))).map (d.tileRow t r + ·)
  else []

/-- The addresses that an encode reads: supplied entries (R72), the tail in mode 5 (R79, R108, R111), bytes changed in
part (R224); and the compared positions. -/
def Desc.encodePlan (d : Desc) (t : TIdx) (en : Mask) : List Nat × List Nat :=
  match d.nw.mode with
  | 0 => (d.spillAddrs t en, [])
  | 1 => ((if en = 0 then [] else [d.scale, d.scale + 1]) ++ d.spillAddrs t en, [])
  | 2 => (((List.range 32).filter (rowOn en)).flatMap (fun r =>
      let a := d.scale + 2 * (32 * t.t1 + r)
      [a, a + 1]) ++ d.spillAddrs t en, [])
  | 5 =>
    let ps := d.streamPositions [] true
    (ps.map (d.scale + ·), ps)
  | _ => ([], [])

/-- Encode the enabled lanes of a tile under d's numeric word and output shift (R71, R108, R172, R224). -/
def encodeTile (env : KEnv) (f : Fmt) (d : Desc) (rd : Nat → Nat) (t : TIdx) (direct : DirectMap)
    (vals : List (Option KIn)) : KOut :=
  let n := d.nw
  let one : XV := .fin false 1 1
  let xs := vals.map fun o => o.map fun x => x.scale one d.shift
  let tb := if n.mode = 5 then d.tensorByte rd else 0
  let rows := (List.range 32).map fun r =>
    let ys := (xs.drop (32 * r)).take 32
    (r, if n.isBlock then encodeBlockRow env f d t tb direct r ys
        else
          let s := if ys.all Option.isNone then (some 0, 0) else d.laneScale f rd t r 0
          encodeFlatRow env f n s.1 s.2 (fun c => d.laneIndex t r c) ys)
  let sc := rows.flatMap fun p => p.2.scales
  let scB := sc.map fun p => (d.scale + p.1, if n.mode = 4 then BitVec.ofNat 8 p.2 else seqByte d.seed p.1 p.2)
  let last := n.checked && sc.any fun p => decide (p.1 + 1 = d.positions)
  { elems := rows.flatMap fun p => if p.2.wr.any id then p.2.bytes d.bits (d.tileCols t) (d.tileRow t p.1) rd else []
    scales := scB ++ (if last then d.tailBytes tb else [])
    led := Led.sum (rows.map fun p => p.2.led) }

/-! ### Direct maps between modes 3 and 4 (R58) -/

/-- The two descriptors are joined by direct maps: modes 3 and 4 in either order, blocks of 32, one element type. -/
def directPair (s d : Desc) : Bool :=
  decide (s.nw.fmtCode = d.nw.fmtCode) && !s.nw.blk16 && !d.nw.blk16
    && ((decide (s.nw.mode = 3) && decide (d.nw.mode = 4)) || (decide (s.nw.mode = 4) && decide (d.nw.mode = 3)))

/-- The scale byte that a direct map writes for source byte b, none when the block is decoded and encoded again. -/
def directByte (s d : Desc) (b : Nat) : Option Nat :=
  let off : Int := if s.nw.fmtCode = 0x08 then 70 else 64
  if s.nw.mode = 3 then
    if b % 128 = 127 then some 255
    else
      let x := ((b % 128 : Nat) : Int) + off + d.shift
      if 0 ≤ x ∧ x ≤ 254 then some x.toNat else none
  else if b = 255 then some 127
  else
    let x := (b : Int) - off + d.shift
    if 0 ≤ x ∧ x ≤ 126 then some x.toNat else none

/-- Row r of a tile copied by a direct map: codes of the lanes in `en`, 0 elsewhere; NONFINITE for a NaN block and for a
copied NaN or infinity code (R58). -/
def directRow (tabs : List (BitVec 16)) (f : Fmt) (s d : Desc) (rd : Nat → Nat) (t : TIdx) (en : Mask) (r : Nat) :
    Option (List Nat × Nat × Led) :=
  match directByte s d (rd (s.scale + s.posOf t r 0)) with
  | none => none
  | some b =>
    let nanBlock := if d.nw.mode = 4 then decide (b = 255) else decide (b = 127)
    let codes := (List.range 32).map fun c => if !nanBlock && laneOn en r c then s.codeAt rd t r c else 0
    let special := codes.any fun c => !(decodeCode tabs f 0 0 c).isFin
    some (codes, b, Led.nonfin (nanBlock || special))

end Sys2Proof.Machine
end

