-- ==== Sys2Proof/Machine/TileIsa.lean ====
section
/-! DEFINITION. The 64-bit instructions of a tile program: their encoding (R226, R227, R323), the registers each one reads
and writes, and the launch checks of R222 with the re-run rule of R219. -/

namespace Sys2Proof.Machine

/-- An instruction of a tile program. `mk` is the 4-bit lane-enable field; dst, a, b and c are the 10-bit operand fields
of R211; map is the 12-bit index map of R214. -/
inductive TileOp where
  | vldLoad (mk d map i : Nat) (pair : Bool)
  | vldDrain (mk i : Nat) (tag : BitVec 16)
  | vldFeed (mk d map : Nat) (vit : Bool) (i opfmt : Nat) (beta : Int) (xpose gather : Bool) (gk rep : Nat) (side : Bool)
  | vst (mk d map i : Nat) (pair : Bool)
  | cvtMemory (mk d map d2 map2 : Nat)
  | cvtVitrine (mk dst a : Nat) (narrow : Bool) (rnd : Nat) (sat : Bool)
  | scl (mk dst a b kmode : Nat) (sat : Bool)
  | sclFold (mk d map d2 map2 : Nat) (delta : Int)
  | rnd (mk dst a num : Nat) (opf : Bool) (beta : Int)
  | clp (mk dst a b c : Nat)
  | cmp (mk md a b pred ty : Nat)
  | sel (mk dst a b : Nat)
  | perm (mk dst a b mode : Nat)
  | shuf (mk dst a b mode amount : Nat)
  | pack (mk dst a num : Nat)
  | unpk (mk dst a num : Nat)
  | fma (mk dst a b c rnd : Nat) (sat : Bool)
  | fn (mk dst a func : Nat)
  | fnSoftmax (mk dst a sv : Nat) (lse : Bool)
  | fnMerge (mk a sv : Nat)
  | redPlain (mk a dst op : Nat) (cols : Bool)
  | redRowRecord (mk a d map : Nat)
  | redSoftmaxRecord (mk a d map sv : Nat)
  | redOffset (mk a group : Nat) (nogroup : Bool) (sv : Nat)
  | redSum (mk a sv : Nat)
  | redMerge (mk a group sv : Nat)
  | steepGather (mk d map i : Nat) (accum : Bool) (grouping sa : Nat)
  | steepSettle (mk d map sa sb : Nat)
  | steepSmoothing (mk d map sa sb sc : Nat)
  | mash (mk dst input ivit sign m : Nat) (inv first : Bool) (tag : BitVec 16)
  | kiln (mk d map i : Nat) (pair drop ctr : Bool) (step tag thr q : Nat)
  | caskOpen (group base k : Nat) (init bound chain : Bool) (rs : Nat)
  | caskAdd (group src i : Nat) (step : Bool) (sv : Nat) (tag : BitVec 16)
  | caskDrain (mk d map group dst i : Nat) (close rec : Bool) (rnd : Nat) (sat : Bool)
  | caskClose (group : Nat)
  | loop (d dims len : Nat) (startEn : Bool) (startK : Nat)
  | waitf (f : Nat) (scalar : Bool) (k imm : Nat)
  | sigf (f inc : Nat)
  | summ (mk kind i row col code : Nat)
  | msk (md ma mb op d k q j : Nat)
deriving DecidableEq, Repr

/-- The opcode-table row of a tile-program instruction. -/
inductive Row where
  | vldLoad | vldDrain | vldFeed | vst | cvtMemory | cvtVitrine | scl | sclFold | rnd | clp | cmp | sel | perm | shuf
  | pack | unpk | fma | fn | fnSoftmax | fnMerge | redPlain | redRowRecord | redSoftmaxRecord | redOffset | redSum
  | redMerge | steepGather | steepSettle | steepSmoothing | mash | kiln | caskOpen | caskAdd | caskDrain | caskClose
  | loop | waitf | sigf | summ | msk
deriving DecidableEq, Repr

/-- The row of each instruction. -/
def TileOp.row : TileOp → Row
  | .vldLoad .. => .vldLoad
  | .vldDrain .. => .vldDrain
  | .vldFeed .. => .vldFeed
  | .vst .. => .vst
  | .cvtMemory .. => .cvtMemory
  | .cvtVitrine .. => .cvtVitrine
  | .scl .. => .scl
  | .sclFold .. => .sclFold
  | .rnd .. => .rnd
  | .clp .. => .clp
  | .cmp .. => .cmp
  | .sel .. => .sel
  | .perm .. => .perm
  | .shuf .. => .shuf
  | .pack .. => .pack
  | .unpk .. => .unpk
  | .fma .. => .fma
  | .fn .. => .fn
  | .fnSoftmax .. => .fnSoftmax
  | .fnMerge .. => .fnMerge
  | .redPlain .. => .redPlain
  | .redRowRecord .. => .redRowRecord
  | .redSoftmaxRecord .. => .redSoftmaxRecord
  | .redOffset .. => .redOffset
  | .redSum .. => .redSum
  | .redMerge .. => .redMerge
  | .steepGather .. => .steepGather
  | .steepSettle .. => .steepSettle
  | .steepSmoothing .. => .steepSmoothing
  | .mash .. => .mash
  | .kiln .. => .kiln
  | .caskOpen .. => .caskOpen
  | .caskAdd .. => .caskAdd
  | .caskDrain .. => .caskDrain
  | .caskClose .. => .caskClose
  | .loop .. => .loop
  | .waitf .. => .waitf
  | .sigf .. => .sigf
  | .summ .. => .summ
  | .msk .. => .msk

/-- Mode or shape of an operand field (R211). -/
def opMode (o : Nat) : Nat := fld o 9 8

/-- Vitrine of an operand field (R211). -/
def opVit (o : Nat) : Nat := fld o 7 5

/-- Row, column or scalar of an operand field (R211). -/
def opK (o : Nat) : Nat := fld o 4 0

/-- A legal source operand: in mode 3, bits [7:5] are 0 (R211). -/
def srcOk (o : Nat) : Bool := decide (opMode o ≠ 3) || decide (opVit o = 0)

/-- A legal destination operand: shape 3 is reserved (R211). -/
def dstOk (o : Nat) : Bool := decide (opMode o ≠ 3)

/-- The selector of dimension d of an index map (R214). -/
def mapSel (map d : Nat) : Nat := fld map (3 * d + 2) (3 * d)

/-- No reserved selector in an index map (R214). -/
def mapOk (map : Nat) : Bool := (List.range 4).all fun d => decide (mapSel map d < 6)

/-- All the listed bit ranges of w are 0. -/
def zeroIn (w : Nat) (rs : List (Nat × Nat)) : Bool := rs.all fun r => decide (fld w r.1 r.2 = 0)

/-- `some x` when the checks hold. -/
def okIf {α : Type} (c : Bool) (x : α) : Option α := if c then some x else none

/-- Decode a vitrine-layout, memory-layout or own-layout word (R226, R227); none when a selector, mode, shape or field is
reserved or nonzero where it must be 0 (R222). -/
def decodeTile (bw : BitVec 64) : Option TileOp :=
  let w := bw.toNat
  let mk := fld w 55 52
  let dst := fld w 51 42
  let a := fld w 41 32
  let b := fld w 31 22
  let c := fld w 21 12
  let d := fld w 51 48
  let map := fld w 47 36
  let map2 := fld w 31 20
  let num := fld w 31 16
  match fld w 63 56 with
  | 0x01 =>
    match fld w 35 34 with
    | 0 => okIf (mapOk map && zeroIn w [(29, 0)]) (.vldLoad mk d map (fld w 33 31) (bitOf w 30))
    | 1 => okIf (zeroIn w [(51, 36), (30, 16)]) (.vldDrain mk (fld w 33 31) (BitVec.ofNat 16 w))
    | 2 => okIf ((bitOf w 33 || mapOk map) && zeroIn w [(2, 0)])
        (.vldFeed mk d map (bitOf w 33) (fld w 32 30) (fld w 29 24) (signed 7 (fld w 23 17)) (bitOf w 16) (bitOf w 15)
          (fld w 14 10) (fld w 9 4 + 1) (bitOf w 3))
    | _ => none
  | 0x02 => okIf (mapOk map && zeroIn w [(31, 0)]) (.vst mk d map (fld w 35 33) (bitOf w 32))
  | 0x03 =>
    if bitOf w 11 then
      okIf (srcOk a && dstOk dst && zeroIn w [(31, 12), (5, 0)]
          && (if bitOf w 10 then decide (opMode a ≠ 3) else decide (opMode dst = 0)))
        (.cvtVitrine mk dst a (bitOf w 10) (fld w 9 7) (bitOf w 6))
    else okIf (mapOk map && mapOk map2 && zeroIn w [(19, 0)]) (.cvtMemory mk d map (fld w 35 32) map2)
  | 0x10 =>
    if fld w 11 10 = 3 then
      okIf (mapOk map && mapOk map2 && zeroIn w [(19, 12), (1, 0)])
        (.sclFold mk d map (fld w 35 32) map2 (signed 8 (fld w 9 2)))
    else okIf (srcOk a && srcOk b && dstOk dst && zeroIn w [(21, 12), (8, 0)])
        (.scl mk dst a b (fld w 11 10) (bitOf w 9))
  | 0x11 => okIf (srcOk a && dstOk dst && zeroIn w [(15, 12), (3, 0)])
      (.rnd mk dst a num (bitOf w 11) (signed 7 (fld w 10 4)))
  | 0x12 => okIf (srcOk a && srcOk b && srcOk c && dstOk dst && zeroIn w [(11, 0)]) (.clp mk dst a b c)
  | 0x13 => okIf (srcOk a && srcOk b && decide (fld w 8 7 ≠ 3) && zeroIn w [(51, 45), (21, 12), (6, 0)])
      (.cmp mk (fld w 44 42) a b (fld w 11 9) (fld w 8 7))
  | 0x14 => okIf (srcOk a && srcOk b && dstOk dst && zeroIn w [(21, 0)]) (.sel mk dst a b)
  | 0x15 => okIf (srcOk a && srcOk b && dstOk dst && decide (fld w 11 10 ≠ 3) && zeroIn w [(21, 12), (9, 0)])
      (.perm mk dst a b (fld w 11 10))
  | 0x16 => okIf (srcOk a && srcOk b && dstOk dst && decide (fld w 11 9 < 6) && zeroIn w [(21, 12), (3, 0)])
      (.shuf mk dst a b (fld w 11 9) (fld w 8 4))
  | 0x17 => okIf (srcOk a && dstOk dst && zeroIn w [(15, 0)]) (.pack mk dst a num)
  | 0x18 => okIf (srcOk a && dstOk dst && zeroIn w [(15, 0)]) (.unpk mk dst a num)
  | 0x20 => okIf (srcOk a && srcOk b && srcOk c && dstOk dst && zeroIn w [(7, 0)])
      (.fma mk dst a b c (fld w 11 9) (bitOf w 8))
  | 0x21 =>
    if !(srcOk a && dstOk dst && zeroIn w [(23, 0)]) then none
    else if fld w 31 28 < 4 then some (.fn mk dst a (fld w 31 28))
    else if fld w 31 28 = 4 then some (.fnSoftmax mk dst a (fld w 27 25) (bitOf w 24))
    else if fld w 31 28 = 5 then okIf (decide (dst = 0)) (.fnMerge mk a (fld w 27 25))
    else none
  | 0x30 =>
    let ra := dst
    let rdst := a
    if !(srcOk ra && dstOk rdst && decide (fld w 11 9 ≠ 7) && zeroIn w [(4, 0)]) then none
    else match fld w 15 12 with
      | 0 => okIf (zeroIn w [(31, 16)]) (.redPlain mk ra rdst (fld w 11 9) (bitOf w 8))
      | 1 => okIf (mapOk (fld w 27 16)) (.redRowRecord mk ra (fld w 31 28) (fld w 27 16))
      | 2 => okIf (mapOk (fld w 27 16)) (.redSoftmaxRecord mk ra (fld w 31 28) (fld w 27 16) (fld w 7 5))
      | 3 => okIf (zeroIn w [(23, 16)]) (.redOffset mk ra (fld w 31 24) (bitOf w 8) (fld w 7 5))
      | 4 => okIf (zeroIn w [(23, 16)]) (.redSum mk ra (fld w 7 5))
      | 5 => okIf (zeroIn w [(23, 16)]) (.redMerge mk ra (fld w 31 24) (fld w 7 5))
      | _ => none
  | 0x31 =>
    if !(mapOk map && zeroIn w [(13, 0)] && decide (fld w 30 29 ≠ 3)) then none
    else match fld w 32 31 with
      | 2 => some (.steepSettle mk d map (fld w 28 24) (fld w 23 19))
      | 3 => some (.steepSmoothing mk d map (fld w 28 24) (fld w 23 19) (fld w 18 14))
      | f => some (.steepGather mk d map (fld w 35 33) (decide (f = 1)) (fld w 30 29) (fld w 28 24))
  | 0x32 => okIf (decide (opMode dst = 0) && decide (fld w 41 40 ≠ 3) && zeroIn w [(28, 16)])
      (.mash mk dst (fld w 41 40) (fld w 39 37) (fld w 36 34) (fld w 33 31 + 5) (bitOf w 30) (bitOf w 29)
        (BitVec.ofNat 16 w))
  | 0x33 => okIf (mapOk map && zeroIn w [(9, 0)] && (bitOf w 31 || zeroIn w [(19, 10)]) && (bitOf w 30 || zeroIn w [(29, 20)]))
      (.kiln mk d map (fld w 35 33) (bitOf w 32) (bitOf w 31) (bitOf w 30) (fld w 29 25) (fld w 24 20) (fld w 19 15)
        (fld w 14 10))
  | 0x40 => okIf (zeroIn w [(55, 36), (4, 0)])
      (.caskOpen (fld w 35 28) (fld w 27 16 * 256) (fld w 15 11) (bitOf w 10) (bitOf w 9) (bitOf w 8) (fld w 7 5))
  | 0x41 => okIf (decide (fld w 27 26 ≠ 3) && zeroIn w [(55, 36), (18, 16)])
      (.caskAdd (fld w 35 28) (fld w 27 26) (fld w 25 23) (bitOf w 22) (fld w 21 19) (BitVec.ofNat 16 w))
  | 0x42 => okIf (decide (fld w 27 26 ≠ 3) && (decide (fld w 27 26 ≠ 0) || mapOk map) && zeroIn w [(16, 0)])
      (.caskDrain mk d map (fld w 35 28) (fld w 27 26) (fld w 25 23) (bitOf w 22) (bitOf w 21) (fld w 20 18) (bitOf w 17))
  | 0x43 => okIf (zeroIn w [(55, 36), (27, 0)]) (.caskClose (fld w 35 28))
  | 0x50 => okIf (zeroIn w [(55, 52), (31, 0)])
      (.loop d (fld w 47 44) (fld w 43 38 + 1) (bitOf w 37) (fld w 36 32))
  | 0x51 => okIf (zeroIn w [(55, 52), (32, 32)]) (.waitf (fld w 51 39) (bitOf w 38) (fld w 37 33) (fld w 31 0))
  | 0x52 => okIf (zeroIn w [(55, 52), (38, 16)]) (.sigf (fld w 51 39) (fld w 15 0))
  | 0x53 => okIf (decide (fld w 51 49 < 4) && decide (fld w 15 0 ≠ 0xFFFF) && zeroIn w [(35, 16)])
      (.summ mk (fld w 51 49) (fld w 48 46) (fld w 45 41) (fld w 40 36) (fld w 15 0))
  | 0x54 => okIf (decide (fld w 42 39 < 10) && zeroIn w [(55, 52), (25, 0)])
      (.msk (fld w 51 49) (fld w 48 46) (fld w 45 43) (fld w 42 39) (fld w 38 35) (fld w 34 30) (fld w 29 28)
        (fld w 27 26))
  | _ => none

/-! ### Registers read and written: vitrine Vi is i, mask Mk is 16 + k -/

/-- The vitrine of a source operand, none for a scalar (R211). -/
def srcRegs (o : Nat) : List Nat := if opMode o = 3 then [] else [opVit o]

/-- The mask that a lane-enable field names (R209). -/
def mkRegs (mk : Nat) : List Nat := if bitOf mk 3 then [16 + fld mk 2 0] else []

/-- Vi, and Vi+1 of a pair. -/
def pairRegs (i : Nat) (pair : Bool) : List Nat := if pair then [i, i + 1] else [i]

/-- Registers that an instruction reads. -/
def TileOp.reads : TileOp → List Nat
  | .vldLoad mk .. => mkRegs mk
  | .vldDrain mk .. => mkRegs mk
  | .vldFeed mk _ _ vit i .. => mkRegs mk ++ (if vit then [i] else [])
  | .vst mk _ _ i pair => mkRegs mk ++ pairRegs i pair
  | .cvtMemory mk .. => mkRegs mk
  | .cvtVitrine mk _ a narrow .. => mkRegs mk ++ (if narrow then pairRegs (opVit a) true else srcRegs a)
  | .scl mk _ a b .. => mkRegs mk ++ srcRegs a ++ srcRegs b
  | .sclFold mk .. => mkRegs mk
  | .rnd mk _ a .. => mkRegs mk ++ srcRegs a
  | .clp mk _ a b c => mkRegs mk ++ srcRegs a ++ srcRegs b ++ srcRegs c
  | .cmp mk _ a b .. => mkRegs mk ++ srcRegs a ++ srcRegs b
  | .sel mk _ a b => mkRegs mk ++ srcRegs a ++ srcRegs b
  | .perm mk _ a b mode => mkRegs mk ++ srcRegs a ++ (if mode = 0 then [] else srcRegs b)
  | .shuf mk _ a b mode _ => mkRegs mk ++ srcRegs a ++ (if mode < 4 then srcRegs b else [])
  | .pack mk _ a _ => mkRegs mk ++ srcRegs a
  | .unpk mk _ a _ => mkRegs mk ++ srcRegs a
  | .fma mk _ a b c .. => mkRegs mk ++ srcRegs a ++ srcRegs b ++ srcRegs c
  | .fn mk _ a _ => mkRegs mk ++ srcRegs a
  | .fnSoftmax mk _ a sv _ => mkRegs mk ++ srcRegs a ++ [sv]
  | .fnMerge mk a sv => mkRegs mk ++ srcRegs a ++ [sv]
  | .redPlain mk a .. => mkRegs mk ++ srcRegs a
  | .redRowRecord mk a .. => mkRegs mk ++ srcRegs a
  | .redSoftmaxRecord mk a _ _ sv => mkRegs mk ++ srcRegs a ++ [sv]
  | .redOffset mk a .. => mkRegs mk ++ srcRegs a
  | .redSum mk a _ => mkRegs mk ++ srcRegs a
  | .redMerge mk a .. => mkRegs mk ++ srcRegs a
  | .steepGather mk _ _ i .. => mkRegs mk ++ [i]
  | .steepSettle mk .. => mkRegs mk
  | .steepSmoothing mk .. => mkRegs mk
  | .mash mk _ input ivit sign .. => mkRegs mk ++ [16 + sign] ++ (if input = 2 then [ivit] else [])
  | .kiln mk _ _ i pair .. => mkRegs mk ++ pairRegs i pair
  | .caskOpen _ _ _ init _ chain rs => if chain && init then [rs] else []
  | .caskAdd _ src i step sv _ => (if src = 0 then [] else pairRegs i (decide (src = 2))) ++ (if step then [sv] else [])
  | .caskDrain mk .. => mkRegs mk
  | .caskClose _ => []
  | .loop .. => []
  | .waitf .. => []
  | .sigf .. => []
  | .summ mk kind i _ col _ => mkRegs mk ++ (if kind = 0 then [i] else if kind = 1 then [16 + col % 8] else [])
  | .msk _ ma mb op .. => (if op ≤ 4 then [16 + ma] else []) ++ (if op ≤ 3 then [16 + mb] else [])

/-- Registers that an instruction writes; every MASH counts as writing its dst (R219, R239). -/
def TileOp.writes : TileOp → List Nat
  | .vldLoad _ _ _ i pair => pairRegs i pair
  | .vldDrain _ i _ => [i]
  | .cvtVitrine _ dst _ narrow .. => if narrow then [opVit dst] else pairRegs (opVit dst) true
  | .scl _ dst .. | .rnd _ dst .. | .clp _ dst .. | .sel _ dst .. | .perm _ dst .. | .shuf _ dst .. | .pack _ dst ..
  | .unpk _ dst .. | .fma _ dst .. | .fn _ dst .. => [opVit dst]
  | .cmp _ md .. => [16 + md]
  | .fnSoftmax _ dst _ sv lse => [opVit dst] ++ (if lse then [] else [sv])
  | .fnMerge _ _ sv => [sv]
  | .redPlain _ _ dst .. => [opVit dst]
  | .redOffset _ _ _ _ sv | .redSum _ _ sv | .redMerge _ _ _ sv => [sv]
  | .mash _ dst .. => [opVit dst]
  | .caskDrain _ _ _ _ dst i _ rec _ _ =>
    if dst = 0 then [] else pairRegs i (decide (dst = 2)) ++ (if rec then [i + dst] else [])
  | .msk md .. => [16 + md]
  | .vldFeed .. | .vst .. | .cvtMemory .. | .sclFold .. | .redRowRecord .. | .redSoftmaxRecord .. | .steepGather ..
  | .steepSettle .. | .steepSmoothing .. | .kiln .. | .caskOpen .. | .caskAdd .. | .caskClose .. | .loop .. | .waitf ..
  | .sigf .. | .summ .. => []

/-- The first vitrines of the pairs that an instruction names (R208). -/
def TileOp.pairs : TileOp → List Nat
  | .vldLoad _ _ _ i true | .vst _ _ _ i true | .kiln _ _ _ i true .. | .caskAdd _ 2 i .. => [i]
  | .caskDrain _ _ _ _ 2 i .. => [i]
  | .cvtVitrine _ _ a true .. => [opVit a]
  | .cvtVitrine _ dst _ false .. => [opVit dst]
  | _ => []

/-- The descriptor registers that an instruction names with an index map, and the maps (R214). -/
def TileOp.tensors : TileOp → List (Nat × Nat)
  | .vldLoad _ d map .. | .vst _ d map .. | .redRowRecord _ _ d map | .redSoftmaxRecord _ _ d map _
  | .steepGather _ d map .. | .steepSettle _ d map .. | .steepSmoothing _ d map .. | .kiln _ d map .. => [(d, map)]
  | .vldFeed _ d map false .. => [(d, map)]
  | .cvtMemory _ d map d2 map2 | .sclFold _ d map d2 map2 _ => [(d, map), (d2, map2)]
  | .caskDrain _ d map _ 0 .. => [(d, map)]
  | _ => []

/-- Descriptor registers named without an index map: LOOP, and MSK TAIL. -/
def TileOp.bareDescs : TileOp → List Nat
  | .loop d .. => [d]
  | .msk _ _ _ 7 d .. => [d]
  | _ => []

/-- A cask instruction, which forms a tile of its own (R217). -/
def TileOp.isCask : TileOp → Bool
  | .caskOpen .. | .caskAdd .. | .caskDrain .. | .caskClose .. => true
  | _ => false

/-- The instruction is a feed request. -/
def TileOp.isFeed : TileOp → Bool
  | .vldFeed .. => true
  | _ => false

/-- A VLD that reads memory: the one access that may read its channel's open casks (R135). -/
def TileOp.isVld : TileOp → Bool
  | .vldLoad .. | .vldFeed .. => true
  | _ => false

/-- All columns of a vitrine, or all of a mask. -/
def allCols : Nat := 2 ^ 32 - 1

/-- The columns of a step vector that a form writes: those that R186 assigns to it, and +0 into columns 7 to 31. -/
def stepCols (cols : List Nat) : Nat := (cols.map fun c => 2 ^ c).sum + (2 ^ 32 - 2 ^ 7)

/-- The columns of register g whose lanes the instruction's write covers for the launch check, as far as its own mask and
shape go (R219), as a set of 32 bits: it names no mask, or it is a CMP or an MSK, which write every bit; and its destination has
shape 0. A step vector, which has no shape field, is covered in the columns that the form writes (R186, R187). -/
def TileOp.covers (o : TileOp) (g : Nat) : Nat :=
  let full (b : Bool) : Nat := if b then allCols else 0
  let noMask (mk : Nat) : Bool := !bitOf mk 3
  match o with
  | .vldLoad mk .. | .vldDrain mk .. | .mash mk .. => full (noMask mk)
  | .cvtVitrine mk dst .. | .scl mk dst .. | .rnd mk dst .. | .clp mk dst .. | .sel mk dst .. | .perm mk dst ..
  | .shuf mk dst .. | .pack mk dst .. | .unpk mk dst .. | .fma mk dst .. | .fn mk dst .. =>
    full (noMask mk && decide (opMode dst = 0))
  | .fnSoftmax mk dst _ sv lse =>
    if !noMask mk then 0
    else (if g = opVit dst && decide (opMode dst = 0) then allCols else 0) ||| (if g = sv && !lse then stepCols [5] else 0)
  | .redPlain mk _ dst .. => full (noMask mk && decide (opMode dst = 0))
  | .fnMerge mk .. => if noMask mk then stepCols [5, 6] else 0
  | .redOffset mk .. => if noMask mk then stepCols [0, 1, 4, 6] else 0
  | .redSum mk .. => if noMask mk then stepCols [2, 3] else 0
  | .redMerge mk .. => if noMask mk then stepCols [0, 1, 2, 3, 4] else 0
  | .cmp .. | .msk .. => allCols
  | _ => 0

/-- The columns that a source operand reads of its vitrine (R211). -/
def srcCols (a : Nat) : Nat := if opMode a = 2 then 2 ^ opK a else allCols

/-- The columns of vitrine g that an instruction reads; a mask is read whole. The record vitrine of an open is read in columns
0 to 3 (R184), a step vector in the columns of its reader (R187, R189, R197, R201, R237). -/
def TileOp.readCols (o : TileOp) (g : Nat) : Nat :=
  let of (l : List (Nat × Nat)) : Nat := l.foldl (fun k p => if p.1 = g then k ||| p.2 else k) 0
  let srcs (l : List Nat) : List (Nat × Nat) := (l.filter fun a => decide (opMode a ≠ 3)).map fun a => (opVit a, srcCols a)
  if 16 ≤ g then allCols
  else match o with
  | .scl _ _ a b .. => of (srcs [a, b])
  | .rnd _ _ a .. => of (srcs [a])
  | .clp _ _ a b c => of (srcs [a, b, c])
  | .cmp _ _ a b .. => of (srcs [a, b])
  | .sel _ _ a b => of (srcs [a, b])
  | .fma _ _ a b c .. => of (srcs [a, b, c])
  | .fn _ _ a _ => of (srcs [a])
  | .fnSoftmax _ _ a sv lse => of (srcs [a] ++ [(sv, if lse then 2 ^ 4 else 3)])
  | .fnMerge _ a sv => of (srcs [a] ++ [(sv, 3)])
  | .redSoftmaxRecord _ a _ _ sv => of (srcs [a] ++ [(sv, 2 ^ 1 + 2 ^ 4)])
  | .caskOpen _ _ _ _ _ _ rs => of [(rs, 2 ^ 4 - 1)]
  | .caskAdd _ src i step sv _ =>
    of ((if src = 0 then [] else (pairRegs i (decide (src = 2))).map fun r => (r, allCols))
      ++ (if step then [(sv, 2 ^ 7 - 1)] else []))
  | _ => allCols

/-- An index map that selects, for each dimension that the loop walks, its own level, and 4 for every other (R219). -/
def ownMap (dims map : Nat) : Bool :=
  (List.range 4).all fun d =>
    decide (mapSel map d = if bitOf dims d then ((List.range d).filter (bitOf dims)).length else 4)

/-- The instruction names no descriptor, or the enclosing loop's with such a map (R219). MSK TAIL has no map: it takes
the loop's own tile of the descriptor it names (R243), so it must name Dl (log entry 29). -/
def TileOp.ownTensors (o : TileOp) (lp : Option (Nat × Nat)) : Bool :=
  match lp with
  | none => o.tensors.isEmpty && o.bareDescs.isEmpty
  | some (d, dims) => (o.tensors.all fun t => decide (t.1 = d) && ownMap dims t.2) && o.bareDescs.all fun k => decide (k = d)

/-- What the launch check knows as it walks a program: end of the loop body it is in, the loop's descriptor and
dimensions, the columns of registers covered by writes of the tile, registers of which the tile has read older values. -/
structure Walk where
  bodyEnd : Nat
  loop    : Option (Nat × Nat)
  covered : List (Nat × Nat)
  old     : List Nat
deriving DecidableEq, Repr

/-- The columns of register g that writes of the tile cover. -/
def coveredCols (cov : List (Nat × Nat)) (g : Nat) : Nat := cov.foldl (fun k p => if p.1 = g then k ||| p.2 else k) 0

/-- Number of dimensions in a mask of four. -/
def levelsOf (dims : Nat) : Nat := ((List.range 4).filter (bitOf dims)).length

/-- The launch checks of one instruction at index i of a program of n (R222), and the re-run rule (R219). -/
def walkStep (descs vits masks n : Nat) (i : Nat) (o : TileOp) (k : Walk) : Option Walk :=
  let inBody := decide (i < k.bodyEnd)
  let lp := if inBody then k.loop else none
  let levels := match lp with
    | some (_, dims) => levelsOf dims
    | none => 0
  let claimOk := (o.reads ++ o.writes).all fun g => if g < 16 then decide (g < 8) && bitOf vits g else bitOf masks (g - 16)
  let pairOk := o.pairs.all fun p => decide (p % 2 = 0)
  let descOk := (o.tensors.map Prod.fst ++ o.bareDescs).all fun d => decide (d < descs)
  let mapsOk := o.tensors.all fun t =>
    (List.range 4).all fun d => decide (4 ≤ mapSel t.2 d) || decide (mapSel t.2 d < levels)
  let loopOk := match o with
    | .loop _ _ len .. => !inBody && decide (i + 1 + len ≤ n)
    | _ => true
  let redOk := match o with
    | .redPlain _ _ dst op cols =>
      decide (opMode dst = if cols then 1 else 2) && !((decide (op = 2) || decide (op = 3)) && decide (opK dst = 31))
    | _ => true
  if !(claimOk && pairOk && descOk && mapsOk && loopOk && redOk) then none
  else
    let isLoop := match o with
      | .loop .. => true
      | _ => false
    let fresh := o.isCask
    let cov0 := if fresh then [] else k.covered
    let old0 := if fresh then [] else k.old
    let own := o.ownTensors lp
    let old1 := old0 ++ o.reads.filter fun g => !(own && decide (o.readCols g &&& coveredCols cov0 g = o.readCols g))
    if o.writes.any fun g => old1.contains g then none
    else
      let cov1 := if own then cov0 ++ o.writes.map fun g => (g, o.covers g) else cov0
      let close := fresh || isLoop || (inBody && decide (i + 1 = k.bodyEnd))
      let k1 : Walk := { k with covered := if close then [] else cov1, old := if close then [] else old1 }
      match o with
      | .loop d dims len .. => some { k1 with bodyEnd := i + 1 + len, loop := some (d, dims) }
      | _ => some k1

/-- Walk the instructions from index i. -/
def walkAll (descs vits masks n : Nat) : Nat → List TileOp → Walk → Bool
  | _, [], _ => true
  | i, o :: rest, k =>
    match walkStep descs vits masks n i o k with
    | none => false
    | some k1 => walkAll descs vits masks n (i + 1) rest k1

/-- Decode every word of a program, none if one is reserved. -/
def decodeAll : List (BitVec 64) → Option (List TileOp)
  | [] => some []
  | w :: ws =>
    match decodeTile w, decodeAll ws with
    | some o, some os => some (o :: os)
    | _, _ => none

/-- The static checks of a launch (R222). -/
def staticOk (prog : List (BitVec 64)) (descs vits masks : Nat) : Bool :=
  match decodeAll prog with
  | none => false
  | some os => walkAll descs vits masks prog.length 0 os { bodyEnd := 0, loop := none, covered := [], old := [] }

end Sys2Proof.Machine
end

