-- ==== Sys2Proof/Machine/Operands.lean ====
section
/-! DEFINITION. Vitrines, masks, scalars and the operand forms of the tile unit (R208 to R211), loop counters, index maps and
tail masks (R213 to R215). -/

namespace Sys2Proof.Machine

/-- The 1,024 elements of Vi in row order (R208). -/
def Cell.vit (c : Cell) (i : Nat) : List Word := (Tbl.get [] c.vits i ++ List.replicate 1024 0#32).take 1024

/-- Write all 1,024 elements of Vi; a vitrine of zeros is listed as nothing. -/
def Cell.setVit (c : Cell) (i : Nat) (l : List Word) : Cell :=
  { c with vits := Tbl.set [] c.vits i (if l.all (fun w => w == 0#32) then [] else l) }

/-- Mk (R209). -/
def Cell.mask (c : Cell) (k : Nat) : Mask := Tbl.get 0 c.masks k

def Cell.setMask (c : Cell) (k : Nat) (m : Mask) : Cell := { c with masks := Tbl.set 0 c.masks k m }

/-- Sk of a launch record: a scalar not supplied reads 0 (R204, R210). -/
def scalarOf (launch : List Word) (k : Nat) : Word :=
  if k < (launch.getD 4 0#32).toNat % 64 then launch.getD (5 + k) 0#32 else 0#32

/-- The mask named by a lane-enable field, all lanes when none is named (R209). -/
def Cell.mkMask (c : Cell) (mk : Nat) : Mask := if bitOf mk 3 then c.mask (fld mk 2 0) else fullMask

/-- The values that a source operand supplies at every position (R211). -/
def Cell.srcList (c : Cell) (launch : List Word) (o : Nat) : List Word :=
  let k := opK o
  match opMode o with
  | 0 => c.vit (opVit o)
  | 1 =>
    let row := ((c.vit (opVit o)).drop (32 * k)).take 32
    (List.range 32).flatMap fun _ => row
  | 2 =>
    let v := c.vit (opVit o)
    (List.range 32).flatMap fun r => List.replicate 32 (v.getD (32 * r + k) 0#32)
  | _ => List.replicate 1024 (scalarOf launch k)

/-- The positions of a destination shape (R211). -/
def shapeMask (o : Nat) : Mask :=
  let k := opK o
  match opMode o with
  | 1 => BitVec.ofNat 1024 ((2 ^ 32 - 1) <<< (32 * k))
  | 2 => (List.range 32).foldl (fun m r => m ||| BitVec.ofNat 1024 (2 ^ (32 * r + k))) 0
  | _ => fullMask

/-- The trip counts of a loop's levels, level 0 first (R213). -/
def tripsOf (d : Desc) (dims : Nat) : List Nat :=
  [(0, ceilDiv d.e0 32), (1, ceilDiv d.e1 32), (2, d.e2), (3, d.e3)].filterMap fun p =>
    if bitOf dims p.1 then some p.2 else none

/-- The counters of linear iteration `it` (R215). -/
def countersOf : List Nat → Nat → List Nat
  | [], _ => []
  | n :: ns, it => it % n :: countersOf ns (it / n)

/-- The descriptor in register Dk. -/
def Slot.desc (s : Slot) (k : Nat) : Desc := Desc.of (s.descs.getD k 0)

/-- The counters of the active loop, [] outside a loop. -/
def Slot.counters (s : Slot) : List Nat :=
  match s.loop with
  | some l => countersOf (tripsOf (s.desc l.d) l.dims) l.it
  | none => []

/-- The loop counters of levels 0 to 3, as a completion record carries them (R290). -/
def Slot.counters4 (s : Slot) : List Nat := (s.counters ++ [0, 0, 0, 0]).take 4

/-- t_d of an index map (R214). -/
def Slot.mapIdx (s : Slot) (map d : Nat) : Nat :=
  let k := mapSel map d
  if k < 4 then s.counters.getD k 0 else if k = 5 then (scalarOf s.launch (28 + d)).toNat else 0

/-- The tile that an index map addresses (R214). -/
def Slot.tileIdx (s : Slot) (map : Nat) : TIdx :=
  { t0 := s.mapIdx map 0, t1 := s.mapIdx map 1, t2 := s.mapIdx map 2, t3 := s.mapIdx map 3 }

/-- The tile index of a descriptor with each walked dimension at its own level's counter and 0 elsewhere (R215, R243). -/
def Slot.walkIdx (s : Slot) : TIdx :=
  match s.loop with
  | none => { t0 := 0, t1 := 0, t2 := 0, t3 := 0 }
  | some l =>
    let cs := s.counters
    let at_ (d : Nat) : Nat :=
      if bitOf l.dims d then cs.getD ((List.range d).filter (bitOf l.dims)).length 0 else 0
    { t0 := at_ 0, t1 := at_ 1, t2 := at_ 2, t3 := at_ 3 }

/-- The tail mask of an instruction that names no descriptor (R215). -/
def Slot.loopTail (s : Slot) : Mask :=
  match s.loop with
  | none => fullMask
  | some l => tailMask (s.desc l.d) s.walkIdx

/-- The tail mask of an instruction (R215). -/
def Slot.tailOf (s : Slot) (o : TileOp) : Mask :=
  match o.tensors with
  | (d, map) :: _ => tailMask (s.desc d) (s.tileIdx map)
  | [] => s.loopTail

end Sys2Proof.Machine
end

