-- ==== Sys2Proof/Machine/Lanes.lean ====
section
/-! DEFINITION. The instructions that work only on vitrines, masks and scalars: conversion lanes, FMA and function lanes,
reductions in plain and chain forms, MSK (R231 to R237, R243, R247 to R254, R179 to R187, R201). -/

namespace Sys2Proof.Machine

/-- What an instruction of this file does: new vitrines and masks, the ledger update. -/
structure LaneOut where
  vits  : List (Nat × List Word)
  masks : List (Nat × Mask)
  led   : Led
deriving DecidableEq, Repr

/-- One vitrine written. -/
def LaneOut.vit (i : Nat) (v : List Word) (led : Led) : LaneOut := { vits := [(i, v)], masks := [], led := led }

/-- Compute the lanes of `en` from three operand lists, other lanes keep `old` (R211). -/
def mapLanes (en : Mask) (old a b c : List Word) (f : Word → Word → Word → Word × Led) : List Word × Led :=
  let rs := (((old.zip a).zip (b.zip c)).zipIdx).map fun p =>
    if en.getLsbD p.2 then f p.1.1.2 p.1.2.1 p.1.2.2 else (p.1.1.1, Led.zero)
  (rs.map Prod.fst, Led.sum (rs.map Prod.snd))

/-- Write the lanes of `en` with the elements of a list, no ledger update. -/
def pickLanes (en : Mask) (old new : List Word) : List Word :=
  ((old.zip new).zipIdx).map fun p => if en.getLsbD p.2 then p.1.2 else p.1.1

/-- A rounding of an exact value into a vitrine element (R59 to R65): NONFINITE when the value read or written is not
finite, a saturation when it is clamped. -/
def roundLane (rnd : Nat) (sat : Bool) (x : XV) : Word × Led :=
  let w := toF32 rnd sat x
  (w, { Led.zero with
    flags := if x.isFin && f32IsFinite w then 0 else flNonfinite
    sat := if sat && x.isFin && f32Overflows rnd x then 1 else 0 })

/-- A shift count limited to where the result no longer changes: beyond it every binary32 value overflows or
underflows. -/
def clampShift (k : Int) : Int := max (-400) (min 400 k)

/-- SCL at one position (R96, R232). -/
def sclLane (kmode : Nat) (sat : Bool) (a b : Word) : Word × Led :=
  let sg := b.toNat % 128
  if kmode ≠ 0 ∧ sg = 127 then (f32Nan, Led.nonfin true)
  else
    let k : Int := if kmode = 0 then b.toInt else if kmode = 1 then 63 - (sg : Int) else (sg : Int) - 63
    roundLane 0 sat ((f32 a).scale (clampShift k))

/-- The formats of the multiplier's operands (R157). -/
def opFmt (c : Nat) : Option Fmt :=
  match c with
  | 0x01 => some .bf16
  | 0x02 => some .binary16
  | 0x03 => some .e4m3
  | 0x04 => some .e5m2
  | 0x08 => some .int8
  | _ => none

/-- RND at one position (R187, R232): rounded onto a format's grid, kept as binary32; adds no quant_count (R102). -/
def rndLane (f : Fmt) (rnd : Nat) (sat : Bool) (beta : Int) (a : Word) : Word × Led :=
  let x := (f32 a).scale beta
  let e := encodeElem [] f 0 0 rnd sat 0 x
  let v := if e.nanRule then XV.zero else decodeCode [] f 0 0 e.code
  (rne v, { Led.zero with flags := if e.nonfin || !x.isFin then flNonfinite else 0, sat := if e.sat then 1 else 0 })

/-- CLP at one position (R233). -/
def clpLane (a b c : Word) : Word := fMin (fMax a b) c

/-- The predicates of CMP (R233) from the outcomes of a comparison: less, equal, unordered. -/
def predHolds (pred : Nat) (lt eq un : Bool) : Bool :=
  match pred with
  | 0 => eq
  | 1 => !eq
  | 2 => lt
  | 3 => lt || eq
  | 4 => !un && !lt && !eq
  | 5 => !un && !lt
  | 6 => un
  | _ => !un

/-- CMP at one position: type 0 binary32, 1 i32, 2 u32 (R233). -/
def cmpLane (pred ty : Nat) (a b : Word) : Bool :=
  match ty with
  | 0 =>
    let x := f32 a
    let y := f32 b
    predHolds pred (XV.lt x y) (XV.eqv x y) (x.isNan || y.isNan)
  | 1 => predHolds pred (a.slt b) (a == b) false
  | _ => predHolds pred (a.ult b) (a == b) false

/-- FMA at one position (R68, R236). -/
def fmaLane (rnd : Nat) (sat : Bool) (a b c : Word) : Word × Led :=
  let x := XV.add (rnd == 5) (XV.mul (f32 a) (f32 b)) (f32 c)
  let w := toF32 rnd sat x
  let fin := f32IsFinite a && f32IsFinite b && f32IsFinite c
  (w, { Led.zero with
    flags := if fin && f32IsFinite w then 0 else flNonfinite
    sat := if sat && x.isFin && f32Overflows rnd x then 1 else 0 })

/-- FN functions 0 to 3 at one position (R69, R70). -/
def fnLane (func : Nat) (a : Word) : Word × Led :=
  let x := f32 a
  let w := match func with
    | 0 => exp2 x
    | 1 => log2v x
    | 2 => recip x
    | _ => rsqrt x
  (w, Led.nonfin (x.isFin && !f32IsFinite w))

/-- A rounding mode that may not write a vitrine (R231). -/
def rndBad (rnd : Nat) : Bool := decide (rnd = 3 ∨ 6 ≤ rnd)

/-- The element at (r, c) of a list in row order. -/
def elemAt (v : List Word) (r c : Nat) : Word := v.getD (32 * r + c) 0#32

/-- PERM (R234). -/
def permList (mode : Nat) (a b : List Word) : List Word :=
  lanes.map fun p =>
    let i := (elemAt b p.1 p.2).toNat
    match mode with
    | 0 => elemAt a p.2 p.1
    | 1 => if i < 32 then elemAt a p.1 i else 0#32
    | _ => if i < 32 then elemAt a i p.2 else 0#32

/-- SHUF (R234). -/
def shufList (mode amount : Nat) (a b : List Word) : List Word :=
  lanes.map fun p =>
    let r := p.1
    let c := p.2
    match mode with
    | 0 => if c % 2 = 0 then elemAt a r (c / 2) else elemAt b r ((c - 1) / 2)
    | 1 => if c % 2 = 0 then elemAt a r (c / 2 + 16) else elemAt b r ((c - 1) / 2 + 16)
    | 2 => if c < 16 then elemAt a r (2 * c) else elemAt b r (2 * c - 32)
    | 3 => if c < 16 then elemAt a r (2 * c + 1) else elemAt b r (2 * c - 31)
    | 4 => elemAt a r ((c + amount) % 32)
    | _ => elemAt a ((r + amount) % 32) c

/-- The number of a vitrine's 4 KiB byte string (R235). -/
def vitString (v : List Word) : Nat := v.zipIdx.foldl (fun acc p => acc + p.1.toNat <<< (32 * p.2)) 0

/-- The elements of a 4 KiB byte string (R235). -/
def ofString (n : Nat) : List Word := (List.range 1024).map fun i => BitVec.ofNat 32 (n >>> (32 * i))

/-- The numeric word of PACK and UNPK (R235). -/
def packFmt (num : Nat) : Option Fmt :=
  let n := NumWord.of num
  match n.fmt with
  | some f => if n.mode = 0 ∧ f.bits ≤ 16 ∧ !f.isZp then some f else none
  | none => none

/-- PACK (R235): every code of an enabled lane, 0 for a disabled lane and beyond the last code. -/
def packOut (tabs : List (BitVec 16)) (f : Fmt) (n : NumWord) (en : Mask) (a : List Word) : List Word × Led :=
  let es := a.zipIdx.map fun p =>
    if en.getLsbD p.2 then
      let e := encodeElem tabs f 0 0 n.rnd n.sat 0 (f32 p.1)
      (e.code, encLed tabs f n 0 0 (f32 p.1) e)
    else (0, Led.zero)
  (ofString (es.zipIdx.foldl (fun acc p => acc + p.1.1 <<< (f.bits * p.2)) 0), Led.sum (es.map Prod.snd))

/-- UNPK at one lane (R235). -/
def unpkLane (tabs : List (BitVec 16)) (f : Fmt) (s : Nat) (e : Nat) : Word × Led :=
  let x := decodeCode tabs f 0 0 ((s >>> (f.bits * e)) % 2 ^ f.bits)
  (rne x, Led.nonfin (!x.isFin))

/-- The valid elements of a row in ascending columns, or of a column in ascending rows (R247). -/
def validOf (en : Mask) (a : List Word) (cols : Bool) (g : Nat) : List (Nat × Word) :=
  (List.range 32).filterMap fun j =>
    let r := if cols then j else g
    let c := if cols then g else j
    if laneOn en r c then some (j, elemAt a r c) else none

/-- The results of RED in plain form for one group: one word, or two for SUM and SUMSQ (R248, R251 to R253), with the flags of
R254: a SUM or SUMSQ overflows also where MEAN and VAR take it (DEDUCED, log entry 81). -/
def redGroup (op : Nat) (xs : List (Nat × Word)) : List Word × Led :=
  let vs := xs.map Prod.snd
  let res := match op with
    | 0 => [redMax vs]
    | 1 => [redMin vs]
    | 2 => let t := redSum false vs; [t.hi, t.lo]
    | 3 => let t := redSum true vs; [t.hi, t.lo]
    | 4 => [redArgmax xs]
    | 5 => [redMean vs]
    | _ => [redVar vs]
  let ovf := decide (op = 2 ∨ op = 5 ∨ op = 6) && !f32IsFinite (redSum false vs).hi
    || decide (op = 3 ∨ op = 6) && !f32IsFinite (redSum true vs).hi
  (res, Led.add (Led.nonfin (vs.any (fun w => !f32IsFinite w) || ovf)) (Led.flagIf vs.isEmpty flEmpty))

/-- Put a word at (r, c). -/
def putElem (v : List Word) (r c : Nat) (w : Word) : List Word := v.set (32 * r + c) w

/-- RED in plain form (R238, R248): result j of group g lies at k + j along the axis. -/
def redPlainOut (op : Nat) (cols : Bool) (en : Mask) (a old : List Word) (k : Nat) : List Word × Led :=
  (List.range 32).foldl (fun acc g =>
    let q := redGroup op (validOf en a cols g)
    (q.1.zipIdx.foldl (fun v p => if cols then putElem v (k + p.2) g p.1 else putElem v g (k + p.2) p.1) acc.1,
      Led.add acc.2 q.2)) (old, Led.zero)

/-- Write columns of a step vector in all 32 rows, and +0 into columns 7 to 31 (R186). -/
def stepWrite (old : List Word) (cols : List (Nat × (Nat → Word))) : List Word :=
  lanes.map fun p =>
    match cols.find? (fun q => q.1 == p.2) with
    | some q => q.2 p.1
    | none => if 7 ≤ p.2 then 0#32 else elemAt old p.1 p.2

/-- A row leaves a finite or −∞ offset for +∞ or NaN (R181). -/
def offsetBreaks (mOld mNew : Word) : Bool :=
  !f32IsNan mOld && !(f32 mOld == XV.inf false) && (f32IsNan mNew || f32 mNew == XV.inf false)

/-- The number of columns inside the key extent (R186): those with a lane in the tail mask. -/
def tailCols (tail : Mask) : Nat :=
  ((List.range 32).filter fun c => (List.range 32).any fun r => laneOn tail r c).length

/-- RED in offset form (R180, R186, R187): the issued offsets of the group, −∞ in every row with nogroup (R197). -/
def redOffsetOut (en tail : Mask) (u old : List Word) (issued : Nat → Word) : List Word × Led :=
  let mNew (r : Nat) : Word := fMax (issued r) (ceil32 (redMax ((validOf en u false r).map Prod.snd)))
  let npos := BitVec.ofNat 32 (tailCols tail)
  (stepWrite old [(0, issued), (1, mNew), (4, fun _ => npos), (6, fun _ => 0x3F800000#32)],
    Led.nonfin ((List.range 32).any fun r => offsetBreaks (issued r) (mNew r)))

/-- RED in sum form (R187). -/
def redSumOut (en : Mask) (p old : List Word) : List Word :=
  let s (r : Nat) : Tw := redSum false ((validOf en p false r).map Prod.snd)
  stepWrite old [(2, fun r => (s r).hi), (3, fun r => (s r).lo)]

/-- RED in merge form (R201): `a` is the segment's record vitrine. -/
def redMergeOut (a old : List Word) (issued : Nat → Word) : List Word × Led :=
  let mNew (r : Nat) : Word := fMax (issued r) (elemAt a r 0)
  (stepWrite old [(0, issued), (1, mNew), (2, fun r => elemAt a r 2), (3, fun r => elemAt a r 3),
      (4, fun r => elemAt a r 1 &&& 0x7FFFFF#32)],
    Led.nonfin ((List.range 32).any fun r => offsetBreaks (issued r) (mNew r)))

/-- FN in softmax form with lse = 0 (R181, R182, R187, R237): the weights of all lanes, the step vector with α. -/
def softmaxOut (en : Mask) (u sv : List Word) : List Word × List Word × Led :=
  let w := (lanes.zip u).map fun p =>
    if laneOn en p.1.1 p.1.2 then weight p.2 (elemAt sv p.1.1 1) else 0#32
  let bad := ((lanes.zip u).zip w).any fun p =>
    laneOn en p.1.1.1 p.1.1.2 && f32IsFinite p.1.2 && f32IsFinite (elemAt sv p.1.1.1 1) && !f32IsFinite p.2
  let al (r : Nat) : Word := corr (elemAt sv r 0) (elemAt sv r 1)
  let badA := (List.range 32).any fun r => corrUnlisted (elemAt sv r 0) (elemAt sv r 1)
  (w, stepWrite sv [(5, al)], Led.nonfin (bad || badA))

/-- FN in softmax form with lse = 1 (R237). -/
def softmaxLse (en : Mask) (u sv : List Word) : List Word × Led :=
  let w := (lanes.zip u).map fun p =>
    if laneOn en p.1.1 p.1.2 then weightLse p.2 (elemAt sv p.1.1 4) else 0#32
  (w, Led.nonfin (((lanes.zip u).zip w).any fun p =>
    laneOn en p.1.1.1 p.1.1.2 && f32IsFinite p.1.2 && f32IsFinite (elemAt sv p.1.1.1 4) && !f32IsFinite p.2))

/-- FN in merge form (R201, R237): α into column 5, μ into column 6. -/
def fnMergeOut (a sv : List Word) : List Word × Led :=
  let mN (r : Nat) : Word := elemAt sv r 1
  (stepWrite sv [(5, fun r => corr (elemAt sv r 0) (mN r)), (6, fun r => corr (elemAt a r 0) (mN r))],
    Led.nonfin ((List.range 32).any fun r =>
      corrUnlisted (elemAt sv r 0) (mN r) || corrUnlisted (elemAt a r 0) (mN r)))

/-- CAUSAL of MSK (R243). -/
def causalMask (cq cj : Nat) (s : Int) : Mask :=
  lanes.foldl (fun m p =>
    if (32 * cj + p.2 : Int) ≤ (32 * cq + p.1 : Int) + s then m ||| BitVec.ofNat 1024 (2 ^ (32 * p.1 + p.2)) else m) 0

/-- The bitwise ops of MSK, 0 to 6 (R243). -/
def mskBits (op : Nat) (a b : Mask) : Mask :=
  match op with
  | 0 => a &&& b
  | 1 => a ||| b
  | 2 => a ^^^ b
  | 3 => a &&& ~~~b
  | 4 => ~~~a
  | 5 => fullMask
  | _ => 0

/-- The issued offsets of a chain cask by row (R183). -/
def Cask.issuedOf (k : Cask) (r : Nat) : Word := match k.rows[r]? with
  | some x => x.mI
  | none => 0#32

/-- The open cask of a channel with a group ID, with its entry (R124). -/
def Cell.findCask (c : Cell) (owner group : Nat) : Option (Nat × Cask) :=
  c.casks.find? fun p => decide (p.2.owner = owner) && decide (p.2.group = group)

/-- The result of an instruction of this file, or the error that it ends with when it issues. `none` for the
instructions of other files. -/
def laneOp (tabs : List (BitVec 16)) (owner : Nat) (c : Cell) (s : Slot) (o : TileOp) : Option (Except Nat LaneOut) :=
  let src := c.srcList s.launch
  let tail := s.tailOf o
  let vit1 (dst mk : Nat) (a b cc : List Word) (f : Word → Word → Word → Word × Led) : Option (Except Nat LaneOut) :=
    let r := mapLanes (c.mkMask mk &&& tail &&& shapeMask dst) (c.vit (opVit dst)) a b cc f
    some (.ok (LaneOut.vit (opVit dst) r.1 r.2))
  match o with
  | .cvtVitrine mk dst a narrow rnd sat =>
    if rndBad rnd then some (.error errFmt)
    else
      let en := c.mkMask mk &&& tail
      if narrow then
        let hi := src a
        let lo := src (a + 32)
        let r := mapLanes (en &&& shapeMask dst) (c.vit (opVit dst)) hi lo lo fun h l _ => roundLane rnd sat (twVal h l)
        some (.ok (LaneOut.vit (opVit dst) r.1 r.2))
      else
        let x := src a
        let i := opVit dst
        let h := mapLanes en (c.vit i) x x x fun w _ _ =>
          (if f32IsNan w then f32Nan else w, Led.nonfin (!f32IsFinite w))
        let l := mapLanes en (c.vit (i + 1)) x x x fun _ _ _ => (0#32, Led.zero)
        some (.ok { vits := [(i, h.1), (i + 1, l.1)], masks := [], led := h.2 })
  | .scl mk dst a b kmode sat => vit1 dst mk (src a) (src b) (src b) fun x y _ => sclLane kmode sat x y
  | .rnd mk dst a num opf beta =>
    let n := NumWord.of num
    match n.fmt with
    | none => some (.error errFmt)
    | some f =>
      if n.mode ≠ 0 ∨ f = .tw64 ∨ f.isZp ∨ f.isCodebook then some (.error errFmt)
      else if opf then
        if (opFmt n.fmtCode).isNone then some (.error errFmt)
        else vit1 dst mk (src a) (src a) (src a) fun x _ _ => rndLane f 0 true beta x
      else if rndBad n.rnd then some (.error errFmt)
      else vit1 dst mk (src a) (src a) (src a) fun x _ _ => rndLane f n.rnd n.sat beta x
  | .clp mk dst a b cc => vit1 dst mk (src a) (src b) (src cc) fun x y z => (clpLane x y z, Led.zero)
  | .cmp mk md a b pred ty =>
    let en := c.mkMask mk &&& tail
    let m := (((src a).zip (src b)).zipIdx).foldl (fun (m : Mask) p =>
      if en.getLsbD p.2 && cmpLane pred ty p.1.1 p.1.2 then m ||| BitVec.ofNat 1024 (2 ^ p.2) else m) 0
    some (.ok { vits := [], masks := [(md, m)], led := Led.zero })
  | .sel mk dst a b =>
    let m := c.mkMask mk
    let new := (((src a).zip (src b)).zipIdx).map fun p => if m.getLsbD p.2 then p.1.1 else p.1.2
    some (.ok (LaneOut.vit (opVit dst) (pickLanes (tail &&& shapeMask dst) (c.vit (opVit dst)) new) Led.zero))
  | .perm mk dst a b mode =>
    some (.ok (LaneOut.vit (opVit dst)
      (pickLanes (c.mkMask mk &&& tail &&& shapeMask dst) (c.vit (opVit dst)) (permList mode (src a) (src b))) Led.zero))
  | .shuf mk dst a b mode amount =>
    some (.ok (LaneOut.vit (opVit dst)
      (pickLanes (c.mkMask mk &&& tail &&& shapeMask dst) (c.vit (opVit dst)) (shufList mode amount (src a) (src b)))
      Led.zero))
  | .pack mk dst a num =>
    let n := NumWord.of num
    match packFmt num with
    | none => some (.error errFmt)
    | some f =>
      if rndBad n.rnd then some (.error errFmt)
      else
        let r := packOut tabs f n (c.mkMask mk &&& tail) (src a)
        some (.ok (LaneOut.vit (opVit dst) (pickLanes (shapeMask dst) (c.vit (opVit dst)) r.1) r.2))
  | .unpk mk dst a num =>
    match packFmt num with
    | none => some (.error errFmt)
    | some f =>
      let s := vitString (src a)
      let en := c.mkMask mk &&& tail &&& shapeMask dst
      let r := (c.vit (opVit dst)).zipIdx.map fun p => if en.getLsbD p.2 then unpkLane tabs f s p.2 else (p.1, Led.zero)
      some (.ok (LaneOut.vit (opVit dst) (r.map Prod.fst) (Led.sum (r.map Prod.snd))))
  | .fma mk dst a b cc rnd sat =>
    if rndBad rnd then some (.error errFmt)
    else vit1 dst mk (src a) (src b) (src cc) fun x y z => fmaLane rnd sat x y z
  | .fn mk dst a func => vit1 dst mk (src a) (src a) (src a) fun x _ _ => fnLane func x
  | .fnSoftmax mk dst a sv lse =>
    let en := c.mkMask mk &&& tail
    if lse then
      let r := softmaxLse en (src a) (c.vit sv)
      some (.ok (LaneOut.vit (opVit dst) (pickLanes (shapeMask dst) (c.vit (opVit dst)) r.1) r.2))
    else
      let r := softmaxOut en (src a) (c.vit sv)
      some (.ok { vits := [(opVit dst, pickLanes (shapeMask dst) (c.vit (opVit dst)) r.1), (sv, r.2.1)], masks := [],
                  led := r.2.2 })
  | .fnMerge _ a sv =>
    let r := fnMergeOut (src a) (c.vit sv)
    some (.ok (LaneOut.vit sv r.1 r.2))
  | .redPlain mk a dst op cols =>
    let r := redPlainOut op cols (c.mkMask mk &&& tail) (src a) (c.vit (opVit dst)) (opK dst)
    some (.ok (LaneOut.vit (opVit dst) r.1 r.2))
  | .redOffset mk a group nogroup sv =>
    let go (issued : Nat → Word) : Option (Except Nat LaneOut) :=
      let r := redOffsetOut (c.mkMask mk &&& tail) tail (src a) (c.vit sv) issued
      some (.ok (LaneOut.vit sv r.1 r.2))
    if nogroup then go fun _ => 0xFF800000#32
    else match c.findCask owner group with
      | none => some (.error errCaskNone)
      | some p => if p.2.chain then go p.2.issuedOf else some (.error errChainOrder)
  | .redSum mk a sv =>
    some (.ok (LaneOut.vit sv (redSumOut (c.mkMask mk &&& tail) (src a) (c.vit sv)) Led.zero))
  | .redMerge _ a group sv =>
    match c.findCask owner group with
    | none => some (.error errCaskNone)
    | some p =>
      if p.2.chain then
        let r := redMergeOut (src a) (c.vit sv) p.2.issuedOf
        some (.ok (LaneOut.vit sv r.1 r.2))
      else some (.error errChainOrder)
  | .msk md ma mb op _ k q j =>
    if op ≤ 6 then some (.ok { vits := [], masks := [(md, mskBits op (c.mask ma) (c.mask mb))], led := Led.zero })
    else if op = 8 then
      let cs := s.counters
      some (.ok { vits := [], led := Led.zero,
                  masks := [(md, causalMask (cs.getD q 0) (cs.getD j 0) (scalarOf s.launch k).toInt)] })
    else none
  | _ => none

end Sys2Proof.Machine
end

