-- ==== Sys2Proof/Machine/Ops.lean ====
section
/-! DEFINITION. The shared operations of the block: access to instances, cells, slots and channels, the effects that cross
from one instance to the package (records, fences), the end of a program, the discard of drained tiles and casks, power
wakes and fault records. -/

namespace Sys2Proof.Machine

/-! ### Effects beyond one instance -/

/-- An instance at work, with the effects it has produced so far, oldest first. -/
structure Run where
  x    : Inst
  effs : List Eff
deriving DecidableEq, Repr

/-- What an instance sees of the package: its die, the fences, the free values not yet used, the channels, the instances that have
fail-stopped or that no link reaches, and those that answer only later, in reset or behind a die that sleeps. -/
structure Env where
  die   : Nat
  fence : Nat → Fence
  free  : Nat → Word
  vc    : Nat → Nat → Vc
  stopped : Nat → Bool
  away  : Nat → Bool

/-- A step that follows another one: its effects come after. -/
def Run.after (r q : Run) : Run := { q with effs := r.effs ++ q.effs }

def Run.emit (r : Run) (e : Eff) : Run := { r with effs := r.effs ++ [e] }

/-! ### Cells, slots, channels -/

/-- Cell n. A cell at its reset value is not listed. -/
def Inst.cell (x : Inst) (n : Nat) : Cell := Tbl.get Cell.reset x.cells n

def Inst.setCell (x : Inst) (n : Nat) (c : Cell) : Inst := { x with cells := Tbl.set Cell.reset x.cells n c }

/-- Program slot k of a cell (R203). -/
def Cell.slot (c : Cell) (k : Nat) : Slot := c.slots.getD k Slot.idle

def Cell.setSlot (c : Cell) (k : Nat) (s : Slot) : Cell := { c with slots := c.slots.set k s }

def Inst.slot (x : Inst) (n k : Nat) : Slot := (x.cell n).slot k

def Inst.setSlot (x : Inst) (n k : Nat) (s : Slot) : Inst := x.setCell n ((x.cell n).setSlot k s)

/-- A virtual channel (R259). -/
def Inst.vc (x : Inst) (v : Nat) : Vc := Tbl.get Vc.free x.vcs v

def Inst.setVc (x : Inst) (v : Nat) (c : Vc) : Inst := { x with vcs := Tbl.set Vc.free x.vcs v c }

def Inst.fence (x : Inst) (k : Nat) : Fence := Tbl.get Fence.zero x.fences k

def Inst.setFence (x : Inst) (k : Nat) (f : Fence) : Inst := { x with fences := Tbl.set Fence.zero x.fences k f }

def Inst.mbox (x : Inst) (m : Nat) : Mbox := Tbl.get Mbox.free x.mboxes m

def Inst.setMbox (x : Inst) (m : Nat) (b : Mbox) : Inst := { x with mboxes := Tbl.set Mbox.free x.mboxes m b }

def Inst.key (x : Inst) (k : Nat) : KeySlot := Tbl.get KeySlot.empty x.keys k

def Inst.setKey (x : Inst) (k : Nat) (b : KeySlot) : Inst := { x with keys := Tbl.set KeySlot.empty x.keys k b }

def Run.cell (r : Run) (n : Nat) : Cell := r.x.cell n
def Run.setCell (r : Run) (n : Nat) (c : Cell) : Run := { r with x := r.x.setCell n c }
def Run.slot (r : Run) (n k : Nat) : Slot := r.x.slot n k
def Run.setSlot (r : Run) (n k : Nat) (s : Slot) : Run := { r with x := r.x.setSlot n k s }

/-- The cells of an instance, with their numbers. -/
def Inst.allCells (x : Inst) : List (Nat × Cell) := (List.range x.cellsBuilt).map fun n => (n, x.cell n)

/-- The listed cells: every other cell is at its reset value. -/
def Inst.liveCells (x : Inst) : List Nat := x.cells.map Prod.fst

/-! ### Handles (R259) -/

def handleInst (h : Word) : Nat := fld h.toNat 31 29
def handleGen (h : Word) : Nat := fld h.toNat 28 16
def handleVc (h : Word) : Nat := fld h.toNat 15 0

/-- The handle of virtual channel v of instance i (R259). -/
def mkHandle (i gen v : Nat) : Word := BitVec.ofNat 32 (i * 2 ^ 29 + gen % 2 ^ 13 * 2 ^ 16 + v % 2 ^ 16)

/-- The generation after this one (R260). -/
def nextGen (g : Nat) : Nat := if g = 0x1FFF then 1 else g + 1

def Inst.handleOf (x : Inst) (v : Nat) : Word := mkHandle x.id (x.vc v).gen v

/-- The owner channel of a launch record (R204). -/
def ownerOf (launch : List Word) : Nat := handleVc (wordAt launch 0)

/-- Instances of the package under the committed structure stream (R31). -/
def Inst.instCount (x : Inst) : Nat := x.stream.countM1 + 1

/-! ### Completion records (R290) -/

/-- The first word of a record: kind, empty, preempted, code. -/
def recWord0 (kind : Nat) (empty pre : Bool) (code : Nat) : Word :=
  BitVec.ofNat 32 (kind + flagAt empty 8 + flagAt pre 9 + code * 2 ^ 16)

/-- A record of kinds 2 to 4 (R290): tag is the cmd_id of kind 2. -/
def recSimple (kind code : Nat) (handle : Word) (tag : Nat) : List Word :=
  [recWord0 kind false false code, handle, BitVec.ofNat 32 tag, 0, 0, 0, 0, 0]

/-- A record of kind 1 (R290): the index and counters belong to a nonzero code. -/
def recProgram (empty pre : Bool) (code : Nat) (handle : Word) (tag cell slot index : Nat) (counters : List Nat) :
    List Word :=
  let cs := if code = 0 then [0, 0, 0, 0] else (counters ++ [0, 0, 0, 0]).take 4
  [recWord0 1 empty pre code, handle, BitVec.ofNat 32 (tag % 2 ^ 16 + cell % 256 * 2 ^ 16 + slot % 4 * 2 ^ 24),
    BitVec.ofNat 32 (if code = 0 then 0 else index % 512)] ++ cs.map (BitVec.ofNat 32)

/-! ### Ledger -/

/-- A ledger update of a channel, with HUB.LEDGER_OR (R103, R394). -/
def Inst.book (x : Inst) (v : Nat) (l : Led) : Inst :=
  let c := x.vc v
  { x.setVc v { c with led := c.led.add l, slice := c.slice + l.tiles } with
    flt := { x.flt with ledgerOr := x.flt.ledgerOr ||| l.flags } }

/-! ### Power: may work go on, and what a request does to a sleeping instance (R402, R405) -/

/-- The instance is not in a reset, not fail-stopped, not in test state, its clocks run and no OFF has been accepted. -/
def Inst.alive (x : Inst) : Bool :=
  decide (x.rst.phase = 0) && !x.flt.failstop && !x.flt.clockLost && !x.pwr.offTaken && !x.test

/-- The instance stands in RUN or IDLE and is not entering a deeper state. -/
def Inst.awake (x : Inst) : Bool :=
  x.alive && decide (x.pwr.state ≤ 1) && !(x.pwr.busy && decide (2 ≤ x.pwr.target))

/-- The instance is entering NAP or DORMANT (R402). -/
def Inst.entering (x : Inst) : Bool := x.alive && x.pwr.busy && decide (x.pwr.state ≤ 1) && decide (2 ≤ x.pwr.target)

/-- Begin the exit from NAP or DORMANT (R405): early_wake and its interrupt unless the timer woke it; wake_cause reads the
cause once the exit is over. -/
def Inst.beginExit (x : Inst) (cause : Nat) : Inst :=
  let early := decide (cause ≠ 1)
  { x with pwr := { x.pwr with busy := true, target := x.pwr.state, wake := some cause,
                               earlyWake := x.pwr.earlyWake || early }
           intStat := if early then x.intStat ||| 8#4 else x.intStat }

/-- A wake (R405, R406): an entry in progress completes first. -/
def Inst.wakeBy (x : Inst) (cause : Nat) : Inst :=
  if !x.alive then x
  else if 2 ≤ x.pwr.state ∧ !x.pwr.busy then x.beginExit cause
  else if x.entering then
    { x with pwr := { x.pwr with wake := some (x.pwr.wake.getD cause) } }
  else x

/-- The cell may take part in work: not paused by a recovery and not quiesced (R381, R383), and it passed
its self-test (R437). -/
def Inst.cellRuns (x : Inst) (n : Nat) : Bool := x.awake && !(x.cell n).paused && !x.flt.quiesced.getLsbD n
  && !x.lstFail.getLsbD n

/-- The cell answers CELL_RETIRED: out of service, retired, or failed its self-test (R205 check 1, R359, R383, R437). -/
def Inst.cellOut (x : Inst) (n : Nat) : Bool :=
  !x.inService.getLsbD n || x.flt.quiesced.getLsbD n || x.lstFail.getLsbD n

/-- A request ungates the cell (R401). -/
def Inst.ungate (x : Inst) (n : Nat) : Inst := x.setCell n { x.cell n with gated := false }

/-! ### The outbound side of the scalar/summary port (R244, R422) -/

/-- A response word: bit 31 is 1 for acceptance, otherwise the error code (R205). -/
def respWord (code : Nat) : Word := if code = 0 then 0x80000000 else BitVec.ofNat 32 code

/-- The response of a record is known. -/
def RespWait.known : RespWait → Bool
  | .done _ => true
  | _ => false

/-- The word that a known response sends. -/
def RespWait.word? : RespWait → Option OutWord
  | .done code => some { data := respWord code, kind := 1, last := true, box := none }
  | _ => none

/-- Send the response words that are known, in record order (R422). -/
def Cell.flushResp (c : Cell) : Cell :=
  let ready := c.respQ.takeWhile RespWait.known
  { c with outQ := c.outQ ++ ready.filterMap RespWait.word?, respQ := c.respQ.drop ready.length }

/-- A record arrives whose response is `w`. -/
def Cell.respond (c : Cell) (w : RespWait) : Cell := { c with respQ := c.respQ ++ [w] }.flushResp

/-- The first record that waits as `w` changes to `w'`. -/
def Cell.answer (c : Cell) (w w' : RespWait) : Cell :=
  match c.respQ.findIdx? (fun v => decide (v = w)) with
  | none => c
  | some i => { c with respQ := c.respQ.set i w' }.flushResp

/-- Unread summaries (R244). -/
def Cell.summaries (c : Cell) : Nat := (c.outQ.filter fun w => decide (w.kind = 0) && w.last).length

/-- Places kept for the summaries of tiles whose commit has begun (R244). -/
def Cell.reserved (c : Cell) : Nat := (c.slots.map fun s => match s.wait with
  | .commit .. | .gather => min s.tile.sums.length 16
  | _ => 0).sum

def Cell.postSummary (c : Cell) (tag code : Nat) (v : Word) : Cell :=
  { c with outQ := c.outQ ++ [{ data := BitVec.ofNat 32 (tag % 2 ^ 16 * 2 ^ 16 + code % 2 ^ 16), kind := 0, last := false, box := none },
                              { data := v, kind := 0, last := true, box := none }] }

/-! ### Drained tiles (R150 to R155) -/

/-- The lowest number that no drained tile of the cell carries. -/
def Cell.freshTile (c : Cell) : Nat :=
  ((List.range (c.drain.length + 1)).find? fun i => c.drain.all fun t => decide (t.id ≠ i)).getD 0

/-- Discard a drained tile; a partial one leaves a record of the beats still owed (R155). -/
def Cell.discardTile (c : Cell) (id : Nat) : Cell :=
  match c.drain.find? (fun t => t.id == id) with
  | none => c
  | some t =>
    let n := t.beats.length
    { c with drain := c.drain.filter (fun u => u.id != id)
             owed := if 1 ≤ n ∧ n < 4 then c.owed ++ [(t.tag, 4 - n)] else c.owed }

def Cell.discardTiles (c : Cell) (ids : List Nat) : Cell := ids.foldl Cell.discardTile c

/-- Drained tiles whose consumers ended with an error: they are unbound again and stay until a consumer binds them or firmware
flushes them; one of which no beat has arrived is no tile yet (R20, R153, R155; log entry 94). -/
def Cell.unbindTiles (c : Cell) (ids : List Nat) : Cell :=
  { c with drain := (c.drain.filter fun t => !(ids.contains t.id && t.beats.isEmpty)).map fun (t : DrainTile) =>
      if ids.contains t.id then { t with bound := none } else t }

/-- A consumer of drained tiles ends: a pre-emption, a destruction, a retirement or a fail-stop drops what it bound, an error
leaves it unbound (R20). -/
def Cell.letTiles (c : Cell) (drop : Bool) (ids : List Nat) : Cell := if drop then c.discardTiles ids else c.unbindTiles ids

/-- Free the entries of a consumed tile (R152). -/
def Cell.freeTile (c : Cell) (id : Nat) : Cell := { c with drain := c.drain.filter fun t => t.id != id }

/-- Mark a drained tile as bound. -/
def Cell.setBound (c : Cell) (id : Nat) (b : Binder) : Cell :=
  { c with drain := c.drain.map fun (u : DrainTile) => if u.id = id then { u with bound := some b } else u }

/-- Bind the oldest unbound tile with a tag, or a tile that has not arrived yet (R151). The answer's number names it. -/
def Cell.bind (c : Cell) (tag : BitVec 16) (b : Binder) : Cell × Nat :=
  match c.drain.find? (fun t => t.tag == tag && t.bound.isNone) with
  | some t => (c.setBound t.id b, t.id)
  | none =>
    let id := c.freshTile
    ({ c with drain := c.drain ++ [{ id := id, tag := tag, beats := [], bound := some b }] }, id)

/-- The beats of a drained tile. -/
def Cell.tileBeats (c : Cell) (id : Nat) : List (List Word) :=
  match c.drain.find? (fun t => t.id == id) with
  | some t => t.beats
  | none => []

/-! ### Casks -/

/-- Replace an entry of the cask table. -/
def Cell.setCask (c : Cell) (e : Nat) (k : Cask) : Cell := { c with casks := Tbl.put e k c.casks }

/-- Nobody waits for the outstanding reads of `who` any more. -/
def Cell.orphan (c : Cell) (who : SpWho) : Cell :=
  { c with spReads := c.spReads.map fun q => if q.who = who then { q with who := .nobody } else q
           spWrites := c.spWrites.map fun q => if q.who = who then { q with who := .nobody } else q }

/-- The drained tiles that adds hold. -/
def addTiles (as : List CaskAdd) : List Nat := as.filterMap fun a => match a.src with
  | .tile id => some id
  | .words _ => none

/-- Release an entry and its range (R134, R140): its adds are abandoned and their drained tiles unbound. -/
def Cell.releaseCask (c : Cell) (e : Nat) : Cell :=
  match c.casks.find? (fun p => p.1 == e) with
  | none => c
  | some p =>
    let c1 := (c.unbindTiles (addTiles p.2.adds)).orphan (.add e)
    { c1 with casks := Tbl.del e c1.casks, caskSlots := c1.caskSlots.filter (fun s => s.entry != e)
              addQ := c1.addQ.filter fun q => q.2 != e }

/-- The adds that a slot has issued and that have not committed. -/
def Cell.pendingAdds (c : Cell) (k : Nat) : List CaskAdd :=
  c.casks.flatMap fun p => p.2.adds.filter fun a => a.slot == k

/-- Adds of the slot have not committed (R130). -/
def Cell.addsOpen (c : Cell) (k : Nat) : Bool := !(c.pendingAdds k).isEmpty

/-- The step vector's value for a row and column, 0 for a plain add. -/
def CaskAdd.stepAt (a : CaskAdd) (r c : Nat) : Word := (a.step.getD r []).getD c 0#32

/-- The issued row state that follows from the committed one and the adds not yet committed (R183, R189, R196). -/
def Cask.reissue (k : Cask) : Cask :=
  let rows := k.rows.zipIdx.map fun p =>
    k.adds.foldl (fun s a => { s with mI := a.stepAt p.2 1, posI := s.posI + (a.stepAt p.2 4).toNat })
      { p.1 with mI := p.1.mC, posI := p.1.posC }
  { k with I := k.D + k.adds.length, rows := rows }

/-- The adds of the cell that have not committed, in issue order, with their entries (R129). -/
def Cell.addsInOrder (c : Cell) : List (Nat × CaskAdd) :=
  c.addQ.zipIdx.filterMap fun q =>
    let before := ((c.addQ.take q.2).filter fun p => p.2 == q.1.2).length
    match c.casks.find? (fun p => p.1 == q.1.2) with
    | none => none
    | some p => (p.2.adds[before]?).map fun a => (q.1.2, a)

/-- Abandon the adds of a cell that `gone` picks (R142, R196): I falls, and their drained tiles are dropped or unbound
(R20). -/
def Cell.dropAddsBy (c : Cell) (drop : Bool) (gone : CaskAdd → Bool) : Cell :=
  let all := c.addsInOrder
  let heads := c.casks.filterMap fun p => match p.2.adds with
    | a :: _ => if gone a then some p.1 else none
    | [] => none
  let c1 := heads.foldl (fun c e => c.orphan (.add e))
    (c.letTiles drop (addTiles ((all.map Prod.snd).filter gone)))
  { c1 with
    casks := c1.casks.map fun p =>
      if p.2.adds.any gone then (p.1, { p.2 with adds := p.2.adds.filter fun a => !gone a }.reissue) else p
    addQ := (all.filter fun p => !gone p.2).map fun p => (p.2.slot, p.1) }

/-- Abandon the adds of a slot that have not committed (R142, R196). -/
def Cell.dropAdds (c : Cell) (drop : Bool) (k : Nat) : Cell := c.dropAddsBy drop fun a => a.slot == k

/-- The add waits for beats of its drained tile. -/
def Cell.waitsBeats (c : Cell) (a : CaskAdd) : Bool :=
  match a.src with
  | .tile id => decide ((c.tileBeats id).length < 4)
  | .words _ => false

/-- Abandon the adds of a slot from the first one that waits for beats (R164). -/
def Cell.dropWaiting (c : Cell) (k : Nat) : Cell :=
  let mine := (c.addsInOrder.map Prod.snd).filter fun a => a.slot == k
  let gone := (mine.dropWhile fun a => !c.waitsBeats a).map fun a => (a.index, a.iter)
  c.dropAddsBy false fun a => a.slot == k && gone.contains (a.index, a.iter)

/-- The windows of the slot's feed requests that adds inherited are closed (R143). -/
def Cell.closeWins (c : Cell) (k : Nat) : Cell :=
  { c with casks := c.casks.map fun p => (p.1, { p.2 with wins := p.2.wins.filter (· != k) }) }

/-- The casks that inherited windows of the slot's feed request are discarded (R115, R140, R143). -/
def Cell.dropWins (c : Cell) (k : Nat) : Cell :=
  ((c.casks.filter fun p => p.2.wins.contains k).map Prod.fst).foldl Cell.releaseCask c

/-- The first add of an entry starts its load (R130): 32 requests of one row each, into the cask tile slot whose turn it is;
what that slot held of an earlier add is lost (R122, R149). -/
def Cell.startLoad (c : Cell) (e : Nat) : Cell :=
  match c.casks.find? (fun p => p.1 == e) with
  | none => c
  | some p => match p.2.adds with
    | [] => c
    | a :: rest =>
      if a.load.isSome then c
      else
        let busy := c.casks.filterMap fun q => match q.2.adds with
          | b :: _ => if b.load.isSome then some b.tslot else none
          | [] => none
        let t := if busy.contains c.tileSlot then 1 - c.tileSlot else c.tileSlot
        let line0 := (p.2.base + 0x2000 * (p.2.D % 2)) / 64
        { c.setCask e { p.2 with adds := { a with load := some [], tslot := t } :: rest } with
          caskSlots := c.caskSlots.filter fun s => s.at_ != t
          tileSlot := 1 - t
          spReads := c.spReads ++ (List.range 32).map fun j => { line := line0 + 4 * j, n := 4, who := .add e, rank := 1 } }

/-- Start the loads of the adds that may be processed (R122, R129, R130): the first two of the cell in issue order, one in
each cask tile slot, the second one only when it adds into another cask. -/
def Cell.startLoads (c : Cell) : Cell :=
  if c.paused then c
  else match c.addQ with
    | [] => c
    | [a] => c.startLoad a.2
    | a :: b :: _ => if b.2 = a.2 then c.startLoad a.2 else (c.startLoad a.2).startLoad b.2

/-- Record the first scale-stream failure of the cell (R116); of a position that does not fit its 29 bits, the low ones (DESIGN
CHOICE, log entry 111). -/
def Cell.noteScale (c : Cell) (pos : Nat) (isTail : Bool) : Cell :=
  if c.scaleCheck.getLsbD 31 then c
  else { c with scaleCheck := BitVec.ofNat 32 (2 ^ 31 + flagAt isTail 30 + pos % 2 ^ 29) }

/-! ### The end of a program (R206, R220, R221, R244) -/

def vitClaim (launch : List Word) : Nat := (wordAt launch 3).toNat % 256
def maskClaim (launch : List Word) : Nat := fld (wordAt launch 3).toNat 15 8
def launchTag (launch : List Word) : Nat := fld (wordAt launch 3).toNat 31 16

/-- The re-run of a slot has committed, or its program has ended (R382). -/
def Cell.settled (c : Cell) (k : Nat) : Cell := { c with recov := c.recov.filter (· != k) }

/-- Zero the claimed vitrines and masks (R206). -/
def Cell.zeroClaims (c : Cell) (launch : List Word) : Cell :=
  { c with vits := c.vits.filter fun p => !bitOf (vitClaim launch) p.1
           masks := c.masks.filter fun p => !bitOf (maskClaim launch) p.1 }

/-- Post the end summary and the completion record and release the slot (R206, R244, R289). -/
def Run.release (r : Run) (n k code : Nat) (pre : Bool) (index : Nat) (counters : List Nat) : Run :=
  let c := r.cell n
  let s := c.slot k
  let v := BitVec.ofNat 32 (code % 2 ^ 16 + flagAt s.empty 16 + flagAt pre 17)
  let c0 := c.settled k
  let c1 := (c0.zeroClaims s.launch).postSummary (launchTag s.launch) 0xFFFF v
  (r.setCell n (c1.setSlot k Slot.idle)).emit
    (.record (recProgram s.empty pre code (wordAt s.launch 0) (launchTag s.launch) n k index counters))

/-- Nobody waits for the translations that a slot has asked for. -/
def Inst.orphanXlate (x : Inst) (n k : Nat) : Inst :=
  { x with xreqs := x.xreqs.map fun q => if q.who = .slot n k then { q with who := .nobody } else q }

/-- The operand vectors of a slot that are not yet presented leave the queue; the one at the port stays, valid and unchanged,
until the multiplier takes it (R419), and counts for slot `heir`. -/
def Cell.dropFeeds (c : Cell) (k heir : Nat) : Cell :=
  { c with feedQ := match c.feedQ with
      | [] => []
      | f :: rest => (if f.slot = k then { f with slot := heir } else f) :: rest.filter fun g => g.slot != k }

/-- The slot number of an operand vector whose program has ended: a cell has slots 0 to 3. -/
def noSlot : Nat := 4

/-- A close of the slot that waits is given up: its cask stays open (R134, R140). -/
def Cell.unclose (c : Cell) (k : Nat) : Cell :=
  match (c.slot k).wait with
  | .close e no => { c with casks := c.casks.map fun p =>
      if p.1 = e ∧ p.2.no = no then (p.1, { p.2 with closing := false }) else p }
  | _ => c

/-- What the tile in progress of a slot holds is let go: its drained tiles, its reads and writes, its operand vectors, its
windows, a close that waits. -/
def Cell.dropTile (c : Cell) (drop : Bool) (k : Nat) : Cell :=
  let s := c.slot k
  ((((c.letTiles drop (s.tile.bound ++ s.tile.kept ++ s.fills.map Fill.id)).orphan (.slot k)).closeWins k).dropFeeds k noSlot).unclose k

/-- The ends of a program that drop the drained tiles it bound (R20): pre-emption, destruction and fail-stop. -/
def dropsTiles (code : Nat) (pre : Bool) : Bool := pre || decide (code = errChState ∨ code = errInstFailed)

/-- End a program: its uncommitted tile is discarded; its end summary is posted at once when a place is free (R220, R244). -/
def Run.endProgram (r : Run) (n k code : Nat) (pre : Bool) (index : Nat) (counters : List Nat) : Run :=
  let c := r.cell n
  let s := c.slot k
  let c2 := c.dropTile (dropsTiles code pre) k
  let s1 : Slot := { s with phase := .ending code pre index counters, fills := [], wait := .ready, readBuf := [],
                            feedOld := Led.zero, feedNew := [], tile := TileBuf.at s.idx none MashRun.none Led.zero }
  let c3 := c2.setSlot k s1
  let r1 : Run := { r with x := (r.x.setCell n c3).orphanXlate n k }
  if c3.summaries + c3.reserved < 16 then r1.release n k code pre index counters else r1

/-- An instruction ends with an error when it issues or runs (R220): the tiles before it commit first. -/
def Run.fail (r : Run) (n k code index : Nat) (counters : List Nat) : Run :=
  let c := r.cell n
  if !c.addsOpen k then r.endProgram n k code false index counters
  else
    let s := c.slot k
    let c2 := c.dropTile false k
    let s1 : Slot := { s with wait := .fail code index counters, fills := [], tile := { s.tile with bound := [], kept := [] } }
    { r with x := (r.x.setCell n (c2.setSlot k s1)).orphanXlate n k }

/-! ### Fault records (R392 to R394) -/

/-- What a fault record carries beside its code and handle (R392). -/
structure FaultInfo where
  cell    : Option Nat
  port    : Nat
  cls     : Nat
  action  : Nat
  second  : Bool
  perm    : Bool
  index   : Nat
  address : Word
  moved   : Nat
deriving DecidableEq, Repr

/-- The eight words of a fault record, seq left 0 (R392). -/
def faultRecord (x : Inst) (code : Nat) (handle : Word) (time : Nat) (f : FaultInfo) : List Word :=
  let w2 := x.id + (match f.cell with
    | some n => n % 256 * 16 + 2 ^ 12
    | none => 0) + f.port % 8 * 2 ^ 13 + f.cls % 16 * 2 ^ 16 + f.action % 16 * 2 ^ 20 + flagAt f.second 24 + flagAt f.perm 25
  [recWord0 6 false false code, handle, BitVec.ofNat 32 w2, BitVec.ofNat 32 (f.index % 2 ^ 16),
    BitVec.ofNat 32 time, BitVec.ofNat 32 (time >>> 32), f.address, BitVec.ofNat 32 (f.moved % 2 ^ 16)]

/-- Post a fault record (R393): the log keeps the first one posted while it is not valid (R394). Action 0 is posted only
while report_corrected is 1. -/
def Run.faultAt (r : Run) (code : Nat) (handle : Word) (time : Nat) (f : FaultInfo) : Run :=
  let x := r.x
  if f.action = 0 ∧ x.flt.ctrl % 2 = 0 then r
  else
    let ws := faultRecord x code handle time f
    let flt := if x.flt.logValid then x.flt else { x.flt with logValid := true, log := ws.drop 2 }
    { r with x := { x with flt := { flt with lastCode := code }, intStat := x.intStat ||| 1#4 } }.emit
      (.fault ws (!x.flt.logValid))

/-- A fault record of a fault detected now. -/
def Run.fault (r : Run) (code : Nat) (handle : Word) (f : FaultInfo) : Run := r.faultAt code handle r.x.ticks f

/-! ### The package -/

def State.setInst (s : State) (i : Nat) (x : Inst) : State := { s with insts := s.insts.set i x }

/-- The fence of the package with this number (R27, R313). A fence of a fail-stopped instance ends its waiters with
INST_FAILED (R389), and so does a fence of an instance that is not in the package. -/
def State.fence (s : State) (f : Nat) : Fence :=
  match s.insts[f / 1024]? with
  | none => { value := 0, err := errInstFailed }
  | some x =>
    let g := x.fence (f % 1024)
    if x.flt.failstop && decide (g.err = 0) then { g with err := errInstFailed } else g

/-- The die links that lead from die i to die j (R26): by the east ports, and by the west ports. -/
def State.linkedEast (s : State) (i j : Nat) : Bool :=
  let n := s.insts.length
  (List.range ((j + n - i) % n)).all fun k => match s.insts[(i + k) % n]? with
    | some x => x.east.up
    | none => false

def State.linkedWest (s : State) (i j : Nat) : Bool :=
  let n := s.insts.length
  (List.range ((i + n - j) % n)).all fun k => match s.insts[(i + n - k) % n]? with
    | some x => x.west.up
    | none => false

/-- A message of die i reaches die j: by either way round the ring (log entry 20). -/
def State.linked (s : State) (i j : Nat) : Bool := decide (i = j) || s.linkedEast i j || s.linkedWest i j

/-- An instance that sleeps: it is in NAP or DORMANT, or on its way there or back. -/
def Inst.asleep (x : Inst) : Bool := x.alive && !x.awake

/-- The dies that a message of die i passes on its way to die j, die j last: eastward where those links are up (log entry 20). -/
def State.path (s : State) (i j : Nat) : List Nat :=
  let n := s.insts.length
  if n ≤ j ∨ i = j then []
  else if s.linkedEast i j then (List.range ((j + n - i) % n)).map fun k => (i + k + 1) % n
  else (List.range ((i + n - j) % n)).map fun k => (i + n - (k + 1)) % n

/-- The dies on that way that sleep. -/
def State.sleepers (s : State) (i j : Nat) : List Nat := (s.path i j).filter fun k => match s.insts[k]? with
  | some x => x.asleep
  | none => false

/-- What die i sees of the package. -/
def State.env (s : State) (i : Nat) : Env :=
  { die := i, fence := s.fence, free := fun k => Config.freeWord (s.freeCtr + k)
    vc := fun j v => match s.insts[j]? with
      | some x => x.vc v
      | none => Vc.free
    stopped := fun j => match s.insts[j]? with
      | some x => x.flt.failstop || (decide (x.rst.phase = 0) && !s.linked i j)
      | none => false
    away := fun j => !(s.sleepers i j).isEmpty || (decide (i ≠ j) && match s.insts[j]? with
      | some x => decide (x.rst.phase ≠ 0)
      | none => false) }


/-- k of HUB.RING_CTRL (R291): values outside 6 to 16 act as 6. -/
def Ring.k (r : Ring) : Nat :=
  let k := r.ctrl.toNat % 32
  if 6 ≤ k ∧ k ≤ 16 then k else 6

/-- A record is dropped (R291). -/
def Ring.drop (r : Ring) : Ring :=
  { r with lost := if r.lost = BitVec.allOnes 32 then r.lost else r.lost + 1, seq := r.seq + 1 }

/-- Write or drop a record (R290, R291): it is dropped when the ring is disabled or full, or when the write meets a fault
or an error answer, which is the host's choice. -/
def Ring.post (r : Ring) (ws : List Word) : Ring :=
  let w3 := wordAt ws 3 ||| BitVec.ofNat 32 (r.seq.toNat * 2 ^ 16)
  let full := decide ((r.head - r.tail).toNat = 2 ^ r.k)
  if r.ctrl.getLsbD 8 && !full then
    let r1 := { r with tries := r.tries + 1 }
    if Config.ringFails r.tries then r1.drop
    else
      let base := r.baseLo.toNat + r.baseHi.toNat % 2 ^ 20 * 2 ^ 32
      { r1 with out := r.out ++ [(base + 32 * (r.head.toNat % 2 ^ r.k), ws.set 3 w3)], head := r.head + 1, seq := r.seq + 1 }
  else r.drop

/-- A record of a program that ended with success, which quiet_ok suppresses (R289). -/
def quietRecord (ws : List Word) : Bool :=
  decide ((wordAt ws 0).toNat % 256 = 1) && !(wordAt ws 0).getLsbD 9 && decide ((wordAt ws 0).toNat / 2 ^ 16 = 0)

/-- Post a record through instance 0 (R289, R291); an instance 0 that is in reset, fail-stopped or in OFF writes none
(R389, R410). -/
def State.post (s : State) (ws : List Word) : State :=
  if quietRecord ws && s.ring.ctrl.getLsbD 9 then s
  else
    match s.insts[0]? with
    | none => s
    | some x =>
      if decide (x.rst.phase ≠ 0) || x.flt.failstop || x.pwr.offTaken then s
      else { s with ring := s.ring.post ws, insts := s.insts.set 0 { x with intStat := x.intStat ||| 4#4 } }

/-- The next die that sleeps on the way from die i to die j wakes (R405). -/
def State.wakeNext (s : State) (i j : Nat) : State :=
  match s.sleepers i j with
  | k :: _ => match s.insts[k]? with
    | some y => s.setInst k (y.wakeBy 4)
    | none => s
  | [] => s

/-- The sequence number of a fault record also stands in HUB.FLT_LOG1 of the instance that logged it (R394). -/
def State.logSeq (s : State) (ws : List Word) (seq : BitVec 16) : State :=
  let i := (wordAt ws 2).toNat % 8
  match s.insts[i]? with
  | none => s
  | some x => { s with insts := s.insts.set i { x with
      flt := { x.flt with log := x.flt.log.set 1 (wordAt ws 3 ||| BitVec.ofNat 32 (seq.toNat * 2 ^ 16)) } } }

/-- A fence enters its error state, keeping a first code (R314). -/
def Fence.fail (f : Fence) (code : Nat) : Fence := if f.err = 0 then { f with err := code } else f

/-- Change the fence of the package with this number. -/
def State.onFence (s : State) (f : Nat) (g : Fence → Fence) : State :=
  match s.insts[f / 1024]? with
  | none => s
  | some x => s.setInst (f / 1024) (x.setFence (f % 1024) (g (x.fence (f % 1024))))

/-- A step of the package at the ports of die i, if the package has it. -/
def State.atDie (s : State) (i : Nat) (f : Inst → State) : State :=
  match s.insts[i]? with
  | none => s
  | some x => f x

/-- The cells that a cell map marks in service. -/
def mapCells (m : List Byte) : BitVec 256 :=
  BitVec.ofNat 256 (m.zipIdx.foldl (fun n p => n + flagAt (p.1.getLsbD 7) p.2) 0)

/-! ### Mailboxes that end a delivery (R361 to R364) -/

/-- The mailbox that a handle names at its instance, none when the handle is not current. -/
def Inst.mbFind (x : Inst) (h : Word) : Option Nat :=
  let m := handleVc h
  if m < 32 ∧ (x.mbox m).alloc ∧ (x.mbox m).gen = handleGen h then some m else none

/-- A mailbox is released: its message is discarded and its generation advances (R361, R362). -/
def Inst.mbRelease (x : Inst) (m : Nat) : Inst := x.setMbox m { Mbox.free with gen := nextGen (x.mbox m).gen }

/-- A pending message is taken (R364). -/
def Inst.mbTaken (x : Inst) (m : Nat) : Inst :=
  let b := x.mbox m
  x.setMbox m { b with pending := false, taken := (b.taken + 1) % 2 ^ 16, sending := false }

/-- MB_FREE commands that wait for a delivery of mailbox m of die j, which has ended, go on: the mailbox is released, and the
command of the lowest instance completes; it leaves the handle stale for any other (R364; log entry 107). -/
def State.mbFreed (s : State) (j m : Nat) : State :=
  let waits (x : Inst) : Bool := decide (x.mbFreeing = some (32 * j + m))
  match s.insts.findIdx? waits with
  | none => s
  | some i =>
    let s1 := s.atDie j fun y => s.setInst j (y.mbRelease m)
    let s2 := { s1 with insts := s1.insts.map fun x => if waits x then { x with mbFreeing := none, mbCode := errMbStale } else x }
    s2.atDie i fun x => s2.setInst i { x with mbCode := 0 }

/-- A delivery's last word is accepted: the message is taken (R364). -/
def State.delivered (s : State) (h : Word) : State :=
  let j := handleInst h
  s.atDie j fun y => match y.mbFind h with
    | none => s
    | some m => if (y.mbox m).sending then (s.setInst j (y.mbTaken m)).mbFreed j m else s

/-- One effect, at the instance that it concerns. -/
def State.act (s : State) (e : Eff) : State :=
  match e with
  | .record ws => s.post ws
  | .fault ws logged => if logged then (s.post ws).logSeq ws s.ring.seq else s.post ws
  | .fenceAdd f inc => s.onFence f fun g => { g with value := g.value + inc }
  | .fenceErr f code => s.onFence f fun g => g.fail code
  | .patch i m => s.atDie i fun x => s.setInst i { x with
      inService := x.inService &&& mapCells m, stream := { x.stream with cellMap := m } }
  | .taken h => s.delivered h
  | .ask _ => s

/-- The instance that an effect concerns: instance 0 for a record, otherwise that of the fence, patch or mailbox. -/
def Eff.die : Eff → Nat
  | .record _ => 0
  | .fault _ _ => 0
  | .fenceAdd f _ => f / 1024
  | .fenceErr f _ => f / 1024
  | .patch i _ => i
  | .taken h => handleInst h
  | .ask i => i

/-- One effect of die i on the package. It crosses the die links, and takes effect at once, but at an instance that sleeps, or
behind one on its way: that instance wakes and holds it until it is in RUN (R405). One that no link carries, or that meets an
instance in reset or in OFF, does not arrive (R389, R391, R410, R413; log entry 20). -/
def State.eff (i : Nat) (s : State) (e : Eff) : State :=
  let j := e.die
  if j = i then s.act e
  else match s.insts[j]? with
    | none => s
    | some y =>
      if !s.linked i j || decide (y.rst.phase ≠ 0) || y.pwr.offTaken then s
      else match s.sleepers i j with
        | k :: _ => s.atDie k fun z => s.setInst k { z.wakeBy 4 with linkIn := z.linkIn ++ [e] }
        | [] => s.act e

/-- Effects of die i in order. -/
def State.effs (s : State) (i : Nat) (es : List Eff) : State := es.foldl (State.eff i) s

/-- A step of die i with its effects on the package. -/
def State.runAt (s : State) (i : Nat) (x : Inst) (f : Env → Inst → Run) : State :=
  let r := f (s.env i) x
  (s.setInst i r.x).effs i r.effs

/-- A step of die i, if the package has it. -/
def State.run (s : State) (i : Nat) (f : Env → Inst → Run) : State :=
  match s.insts[i]? with
  | none => s
  | some x => s.runAt i x f

/-- Run a step of die i. A die that the package does not have has no port, and nothing changes (log entry 100). -/
def onInst (s : State) (i : Nat) (f : Env → Inst → Run) : Host.Outcome State Fault Refusal := .next (s.run i f)

/-- A step of the package at the ports of a cell, if it is built (R15, R32). -/
def State.atCell (s : State) (a : CellAt) (f : Inst → State) : State :=
  s.atDie a.inst fun x => if a.cell < x.cellsBuilt then f x else s

/-- Run a step of a cell. -/
def onCell (s : State) (a : CellAt) (f : Env → Inst → Run) : Host.Outcome State Fault Refusal :=
  .next (s.atCell a fun x => s.runAt a.inst x f)

/-- A step that only an instance at work takes: it is not in reset, fail-stopped, in OFF or in test state. -/
def whenAlive (f : Env → Inst → Run) (e : Env) (x : Inst) : Run := if x.alive then f e x else { x := x, effs := [] }

/-! ### The control port's answers (R343 to R345, R424) -/

/-- The record of a first error response in HUB.CTL_ERR (R345); a fail-stopped instance 0 records none (R389). -/
def State.ctlRecord (s : State) (addr : Nat) (we : Bool) (code : Nat) : State :=
  let stopped := match s.insts[0]? with
    | some x => x.flt.failstop
    | none => false
  if s.ctlErr.getLsbD 31 || stopped then s
  else { s with ctlErr := BitVec.ofNat 32 (2 ^ 31 + fld addr 23 21 * 2 ^ 21 + flagAt we 20 + code)
                ctlErrAddr := BitVec.ofNat 32 (addr % 2 ^ 24) }

/-- The error response of a code (R343). -/
def CtlResp.ofCode (code : Nat) : CtlResp := { err := true, data := BitVec.ofNat 32 code }

/-- An error response. -/
def State.ctlFail (s : State) (addr : Nat) (we : Bool) (code : Nat) : State :=
  { s.ctlRecord addr we code with resp := [CtlResp.ofCode code] }

/-- A response without error. -/
def State.ctlOk (s : State) (data : Word) : State := { s with resp := [{ err := false, data := data }] }

/-- The answers at the head of the outstanding accesses leave (R342). -/
def State.flushResp (s : State) : State :=
  { s with resp := s.resp ++ (s.fwd.takeWhile fun f => f.ans.isSome).filterMap Fwd.ans
           fwd := s.fwd.dropWhile fun f => f.ans.isSome }

/-- The answers that an event at the die links released leave; without one, the last responses stay (R342). -/
def State.released (s : State) : State :=
  let s1 := ({ s with resp := [] } : State).flushResp
  if s1.resp.isEmpty then s else s1

/-- An access that has its answer while earlier ones have none. -/
def Fwd.answered (r : CtlResp) : Fwd := { acc := { addr := 0, we := false, data := 0 }, at_ := 0, ans := some r }

/-- An access of the control port is served by `f` (R342, R424): eight are outstanding at most, and its answer waits for those
of the accesses before it. -/
def State.access (s : State) (f : State → State) : State :=
  if 8 ≤ s.fwd.length then s
  else
    let s1 := f { s with resp := [] }
    let s2 := if s.fwd.isEmpty then s1 else { s1 with fwd := s1.fwd ++ s1.resp.map Fwd.answered, resp := [] }
    let s3 := s2.flushResp
    if s3.resp.isEmpty then { s3 with resp := s.resp } else s3

/-- Offsets that a fail-stopped instance still answers (R343, R389). -/
def offAlways (off : Nat) : Bool := decide (off < 0x100) || (decide (0x1000 ≤ off) && decide (off < 0x1100))

/-- An access reaches the hub of die i: it is performed, ends with an error (R343, R344, R389), or is held while the
instance is in reset or asleep, which it wakes (R405, R406, R411). Instance 0 without clocks or in OFF answers nothing. -/
def State.ctlGate (s : State) (i off : Nat) (we : Bool) (f : Inst → State) : State :=
  match s.insts[i]? with
  | none => s
  | some x =>
    let addr := x.id * 2 ^ 21 + off
    if x.rst.phase ≠ 0 then s
    else if x.flt.clockLost || x.pwr.offTaken then (if i = 0 then s else s.ctlFail addr we errCtlUnreachable)
    else if x.flt.failstop then (if offAlways off then f x else s.ctlFail addr we errInstFailed)
    else if x.awake || (x.entering && we && decide (off = 0x2000)) then f x
    else s.setInst i (x.wakeBy 2)

/-- The access is held at die i (R405, R411). A write of HUB.PWR_NEXT_EVENT during an entry is not (R406). -/
def Inst.holds (x : Inst) (off : Nat) (we : Bool) : Bool :=
  decide (x.rst.phase ≠ 0)
    || (!x.flt.clockLost && !x.pwr.offTaken && !x.flt.failstop && !x.awake && !(x.entering && we && decide (off = 0x2000)))

/-- The instance that an address names (R341). -/
def addrInst (a : Nat) : Nat := fld a 23 21

/-- An older access to die i is outstanding: a later one takes effect after it (R342). -/
def State.behind (s : State) (i : Nat) : Bool := s.fwd.any fun f => f.ans.isNone && decide (addrInst f.acc.addr.toNat = i)

/-- A write of a word that is a command of its own row, at the hub of die i; behind an older access to that die it is forwarded as
that one is (R342, R344). No die of the package performs one for an instance that it does not have (R344). -/
def State.ctlRow (s : State) (i off : Nat) (w : Word) (f : Inst → State) : Host.Outcome State Fault Refusal :=
  .next (s.access fun s => match s.insts[i]? with
    | none => s.ctlFail (i * 2 ^ 21 + off) true errCtlUnreachable
    | some _ =>
      if s.behind i then
        { s with fwd := s.fwd ++ [{ acc := { addr := BitVec.ofNat 24 (i * 2 ^ 21 + off), we := true, data := w }, at_ := 0, ans := none }] }
      else s.ctlGate i off true fun x => (f x).ctlOk 0)

/-- A step without effects beyond the instance. -/
def pureRun (x : Inst) : Run := { x := x, effs := [] }

end Sys2Proof.Machine
end

