-- ==== Sys2Proof/Machine/Memory.lean ====
section
/-! DEFINITION. The instructions that read or write tensors (R82, R84, R86, R97, R98, R157 to R167, R197, R228 to R232, R238,
R243, R323): for each, the bytes it reads, the scale positions it compares, and what it writes. -/

namespace Sys2Proof.Machine

/-- An address of a tile program: virtual, or an offset into the window (R293). -/
structure Adr where
  virt : Bool
  addr : Nat
deriving DecidableEq, Repr

/-- An address of a descriptor's space (R293); virtual addresses have 52 bits. -/
def Desc.adr (d : Desc) (a : Nat) : Adr := { virt := d.virt, addr := if d.virt then a % 2 ^ 52 else a }

/-- An offset into the window. -/
def Adr.win (a : Nat) : Adr := { virt := false, addr := a }

/-- What an instruction produces: registers, output bytes in commit order, the ledger update with the commit CRCs
(R338), the operand vectors of a feed request, the record updates of a gather. The bytes of a gather are those of its own
fold; its commit forms the records (R82). -/
structure MemOut where
  vits   : List (Nat × List Word)
  masks  : List (Nat × Mask)
  writes : List (Adr × Byte)
  led    : Led
  feed   : List FeedVec
  gather : Option Gather
deriving DecidableEq, Repr

def MemOut.none : MemOut := { vits := [], masks := [], writes := [], led := Led.zero, feed := [], gather := .none }

/-- The checked positions of a stream that are compared (R111). -/
structure Check where
  d  : Desc
  ps : List Nat

/-- A reader of bytes. -/
abbrev Rd := Adr → Nat

/-- What an instruction reads, compares, and does with what it read: an error code, or its output. -/
structure MemPlan where
  reads  : List Adr
  checks : List Check
  fin    : Rd → Except Nat MemOut

/-- A plan that reads some bytes first, to know what else it reads: the index vector of a row gather (R164). -/
structure MemAsk where
  pre  : List Adr
  plan : Rd → Except Nat MemPlan

/-- Why an instruction makes no plan: an error when it issues, or a zero extent (R225). -/
inductive MemStop where
  | err (code : Nat)
  | empty
deriving DecidableEq, Repr

/-- Where an instruction issues: the decode tables, the channel's seed, the cell, the slot. -/
structure MemEnv where
  tabs : List (BitVec 16)
  seed : Nat
  cell : Cell
  slot : Slot

/-- The byte reader of a descriptor. -/
def Desc.rd (d : Desc) (rd : Rd) (a : Nat) : Nat := rd (d.adr a)

/-- An instruction that reads nothing before its plan. -/
def MemAsk.now (p : MemPlan) : MemAsk := { pre := [], plan := fun _ => .ok p }

/-- The numeric-word check, the zero-extent rule and the descriptor check, in that order (R36, R225, R295). -/
def withDesc (d : Desc) (written aux : Bool) (k : Fmt → Except MemStop MemAsk) : Except MemStop MemAsk :=
  match d.nw.fmt with
  | none => .error (.err errFmt)
  | some f =>
    if d.isEmpty then .error .empty
    else if d.illegal written aux then .error (.err errDesc)
    else k f

/-- Bytes of one descriptor with their addresses. -/
def Desc.out (d : Desc) (bs : List (Nat × Byte)) : List (Adr × Byte) := bs.map fun p => (d.adr p.1, p.2)

/-- The output of a commit to one descriptor: element bytes, scale bytes and tail, aux records, and the commit CRC
(R295, R338). A commit that writes nothing adds nothing. -/
def Desc.commit (d : Desc) (index : Nat) (elems scales aux : List (Nat × Byte)) (led : Led) : MemOut :=
  let all := elems ++ scales ++ aux
  let crc := if all.isEmpty then 0
    else commitCrc d index (elems.map Prod.snd) (scales.map Prod.snd) (aux.map Prod.snd)
  { MemOut.none with writes := d.out all, led := led.add { Led.zero with fp := crc } }

/-- An offset taken from a scalar: bits [31:20] must be 0 (R210). -/
def offsetOf (launch : List Word) (k : Nat) : Except MemStop Nat :=
  let w := (scalarOf launch k).toNat
  if w < 2 ^ 20 then .ok w else .error (.err errSpRange)

/-! ### VLD, VST, CVT (R228 to R231) -/

/-- The load form (R228): Vi, or the pair as TW64. -/
def planLoad (e : MemEnv) (mk dk map i : Nat) (pair : Bool) : Except MemStop MemAsk :=
  let d := e.slot.desc dk
  withDesc d false false fun f =>
    let t := e.slot.tileIdx map
    let en := e.cell.mkMask mk &&& tailMask d t
    let p := d.readPlan t en
    .ok (.now {
      reads := p.1.map d.adr
      checks := [{ d := d, ps := p.2 }]
      fin := fun rd =>
        let vs := d.tileVals e.tabs f (d.rd rd) t en
        let put (old : List Word) (g : XV → Word) : List Word := (old.zip vs).map fun q => match q.2 with
          | some x => g x
          | none => q.1
        let hi := put (e.cell.vit i) fun x => if pair then (toTw x).1 else rne x
        let wrote := vs.any fun v => match v with
          | some x => !f32IsFinite (rne x)
          | none => false
        .ok { MemOut.none with
          vits := (i, hi) :: (if pair then [(i + 1, put (e.cell.vit (i + 1)) fun x => (toTw x).2)] else [])
          led := (decodeLed vs).add (Led.nonfin wrote) } })

/-- VST (R230): the elements unchanged, TW64 with lo first (R45). -/
def planVst (e : MemEnv) (mk dk map i : Nat) (pair : Bool) : Except MemStop MemAsk :=
  let d := e.slot.desc dk
  if d.num ≠ (if pair then 0x0010 else 0) then .error (.err errFmt)
  else withDesc d true false fun _ =>
    let t := e.slot.tileIdx map
    let en := e.cell.mkMask mk &&& tailMask d t
    let hi := e.cell.vit i
    let lo := e.cell.vit (i + 1)
    let elems := lanes.flatMap fun p =>
      if laneOn en p.1 p.2 then
        let bs := if pair then leBytes 4 (elemAt lo p.1 p.2).toNat ++ leBytes 4 (elemAt hi p.1 p.2).toNat
          else leBytes 4 (elemAt hi p.1 p.2).toNat
        let a := d.tileRow t p.1 + p.2 * (d.bits / 8)
        bs.zipIdx.map fun q => (a + q.2, q.1)
      else []
    .ok (.now { reads := [], checks := [], fin := fun _ => .ok (d.commit (d.laneIndex t 0 0) elems [] [] Led.zero) })

/-- CVT in memory form (R231): decode, then encode through the kiln, with the direct maps of R58. -/
def planCvt (e : MemEnv) (mk dk map d2k map2 : Nat) : Except MemStop MemAsk :=
  let s := e.slot.desc dk
  let d := e.slot.desc d2k
  match s.nw.fmt, d.nw.fmt with
  | some sf, some df =>
    if s.isEmpty || d.isEmpty then .error .empty
    else if s.illegal false false || d.illegal true false then .error (.err errDesc)
    else
      let ts := e.slot.tileIdx map
      let td := e.slot.tileIdx map2
      let en := e.cell.mkMask mk &&& tailMask s ts
      let wen := en &&& tailMask d td
      let p := s.readPlan ts en
      let q := d.encodePlan td wen
      .ok (.now {
        reads := p.1.map s.adr ++ q.1.map d.adr
        checks := [{ d := s, ps := p.2 }, { d := d, ps := q.2 }]
        fin := fun rd =>
          let vs := s.tileVals e.tabs sf (s.rd rd) ts en
          let ks := (lanes.zip vs).map fun v =>
            if laneOn wen v.1.1 v.1.2 then v.2.map (if sf = .tw64 then KIn.tw else KIn.plain) else none
          let direct : DirectMap :=
            if directPair s d then directRow e.tabs sf s d (s.rd rd) ts wen else fun _ => none
          let o := encodeTile (KEnv.ofDesc e.tabs e.seed d) df d (d.rd rd) td direct ks
          let copied (r : Nat) : Bool := rowOn wen r && (direct r).isSome
          .ok (d.commit (d.laneIndex td 0 0) o.elems o.scales [] ((decodeLedBut copied vs).add o.led)) })
  | _, _ => .error (.err errFmt)

/-! ### The feed form of VLD (R157 to R165) -/

/-- An operand of the multiplier for an exact value (R158, R159). -/
def feedLane (f : Fmt) (beta : Int) (x : XV) : Nat × Led :=
  let en := encodeElem [] f 0 0 0 true 0 (x.scale beta)
  (en.code, { Led.zero with flags := if en.nonfin || !x.isFin then flNonfinite else 0, sat := if en.sat then 1 else 0 })

/-- Cut a list into pieces of n. -/
def cutInto {α : Type} (n : Nat) : Nat → List α → List (List α)
  | 0, _ => []
  | _ + 1, [] => []
  | k + 1, l => l.take n :: cutInto n k (l.drop n)

/-- The operand vectors of a request (R420): 2,048 operands of 8 bits or 1,024 of 16, the last one padded with +0
(log entry 14). -/
def feedVectors (slot opfmt : Nat) (side : Bool) (codes : List Nat) : List FeedVec :=
  let n := if opfmt = 0x01 ∨ opfmt = 0x02 then 1024 else 2048
  let vs := cutInto n (codes.length / n + 1) codes
  vs.zipIdx.map fun p =>
    { fmt := opfmt, side := side, slot := slot, first := decide (p.2 = 0), last := decide (p.2 + 1 = vs.length),
      lanes := p.1 ++ List.replicate (n - p.1.length) 0 }

/-- The output of a feed request from the values of its lanes, `none` where the lane is disabled. An operand is rounded, and counted,
once, also where the request repeats it (R159; DESIGN CHOICE, log entry 115). -/
def feedOut (f : Fmt) (opfmt rep : Nat) (beta : Int) (xpose side : Bool) (vs : List (Option XV)) : MemOut :=
  let es := vs.map fun v => v.map (feedLane f beta)
  let codes := es.map fun v => match v with
    | some x => x.1
    | none => 0
  let codes1 := if xpose then lanes.map fun p => codes.getD (32 * p.2 + p.1) 0 else codes
  { MemOut.none with
    led := Led.sum (es.filterMap fun v => v.map Prod.snd)
    feed := feedVectors 0 opfmt side ((List.range rep).flatMap fun _ => codes1) }

/-- Row r of a mask alone. -/
def onlyRow (m : Mask) (r : Nat) : Mask := m &&& BitVec.ofNat 1024 ((2 ^ 32 - 1) <<< (32 * r))

/-- Move row r of a mask to row q. -/
def moveRow (m : Mask) (r q : Nat) : Mask := BitVec.ofNat 1024 ((m.toNat >>> (32 * r)) % 2 ^ 32 <<< (32 * q))

/-- A gathered operand row (R164): lane row, and the tile and row of the source row it selects. -/
structure GRow where
  r : Nat
  t : TIdx
  q : Nat

/-- What a gathered row reads: its elements with their scales, its own windows (R165). -/
def Desc.gatherPlan (d : Desc) (en : Mask) (g : GRow) : List Nat × List Nat :=
  let row := moveRow en g.r g.q
  let p := d.readPlan g.t row
  if d.nw.checked then
    let ps := d.streamPositions (d.tilePositions g.t (onlyRow (tailMask d g.t) g.q)) (decide (d.nw.mode = 5))
    (d.laneBytes g.t row ++ ps.map (d.scale + ·), ps)
  else p

/-! ### The prologue of a feed request (R168, R198) -/

/-- Column tiles of a row, each with its record (R166, R197). -/
def Desc.colTiles (d : Desc) : Nat := ceilDiv d.e0 32

/-- The little-endian word at an address. -/
def wordOf (rd : Nat → Nat) (a : Nat) : Word :=
  BitVec.ofNat 32 ((List.range 4).foldl (fun acc j => acc + rd (a + j) * 256 ^ j) 0)

/-- The twin word at an address, lo first (R45). -/
def twOf (rd : Nat → Nat) (a : Nat) : Tw := { lo := wordOf rd a, hi := wordOf rd (a + 4) }

/-- The row records of row ρ merged in ascending order (R168): their sums, sums of squares, count. -/
def mergeRows (d : Desc) (rd : Nat → Nat) (row : Nat) : Tw × Tw × Nat :=
  (List.range d.colTiles).foldl (fun k j =>
    let a := d.aux + 32 * (row * d.colTiles + j)
    (twAdd k.1 (twOf rd a), twAdd k.2.1 (twOf rd (a + 8)), (k.2.2 + (wordOf rd (a + 24)).toNat) % 2 ^ 32))
    (.zero, .zero, 0)

/-- The factors r and c of a row from its merged record (R168), and the row's flags. -/
def rowFactors (k : Tw × Tw × Nat) (eps : Word) (rms : Bool) : Word × Word × Led :=
  let mv : Word × Word :=
    if k.2.2 = 0 then (f32Nan, f32Nan)
    else
      let m := twDivCount k.1 k.2.2
      let q := twDivCount k.2.1 k.2.2
      if rms then (0#32, q) else (m, fFma 0 false (fNeg m) m q)
  let v := if XV.lt (f32 mv.2) .zero then 0#32 else mv.2
  let r := rsqrt (f32 (fAdd v eps))
  let c := rne (XV.mul (f32 (fNeg mv.1)) (f32 r))
  (r, c, Led.add (Led.flagIf (decide (k.2.2 = 0)) flEmpty)
    (Led.nonfin (!f32IsFinite k.1.hi || !f32IsFinite k.2.1.hi || !f32IsFinite r || !f32IsFinite c)))

/-- The softmax records of row ρ merged (R198): the row's offset M and its corrected sum L. -/
def mergeSoftmax (d : Desc) (rd : Nat → Nat) (row : Nat) : Word × Tw :=
  let at_ (j : Nat) : Nat := d.aux + 16 * (row * d.colTiles + j)
  let m := (List.range d.colTiles).foldl (fun m j => fMax m (wordOf rd (at_ j))) 0xFF800000#32
  (m, (List.range d.colTiles).foldl (fun l j => twAdd l (twScale (twOf rd (at_ j + 8)) (corr (wordOf rd (at_ j)) m))) .zero)

/-- The normalised value of a stored weight p under the row's offset m and sum l; off is the offset of its own tile (R198). -/
def softmaxOf (off m : Word) (l : Tw) (p : XV) : XV :=
  match f32 m with
  | .nan => .nan
  | .inf true => .zero
  | _ => f32 (rne (XV.div (XV.mul p (f32 (corr off m))) l.val))

/-- The bytes of a record of each kind. -/
def recordSize : Prologue → Nat
  | .none => 0
  | .rows .. => 32
  | .softmax => 16

/-- The addresses of the records of row ρ at the side address. -/
def Desc.recordAddrs (d : Desc) (p : Prologue) (row : Nat) : List Nat :=
  (List.range (recordSize p * d.colTiles)).map (d.aux + recordSize p * (row * d.colTiles) + ·)

/-- What the prologue does to operand row ρ in column tile t0: each column's value, and the row's flags. -/
def proRow (e : MemEnv) (d : Desc) (rd : Nat → Nat) (t0 row : Nat) (p : Prologue) : (Nat → XV → XV) × Led :=
  match p with
  | .none => (fun _ x => x, Led.zero)
  | .rows eps rms affine =>
    let k := rowFactors (mergeRows d rd row) (scalarOf e.slot.launch eps) rms
    (fun c x =>
      let y := rne (XV.add false (XV.mul x (f32 k.1)) (f32 k.2.1))
      match affine with
      | none => f32 y
      | some (v, g, b) => f32 (fFma 0 false y (elemAt (e.cell.vit v) g c) (elemAt (e.cell.vit v) b c)), k.2.2)
  | .softmax =>
    let k := mergeSoftmax d rd row
    (fun _ x => softmaxOf (wordOf rd (d.aux + 16 * (row * d.colTiles + t0))) k.1 k.2 x,
      Led.flagIf (decide (f32 k.1 = XV.inf true)) flRowMasked)

/-- The lanes of a tile normalised row by row: `rows` gives each live lane row its linear row index; and the flags. -/
def proLanes (e : MemEnv) (d : Desc) (rd : Nat → Nat) (t0 : Nat) (p : Prologue) (rows : List (Nat × Nat))
    (vs : List (Option XV)) : List (Option XV) × Led :=
  let fs := rows.map fun q => (q.1, proRow e d rd t0 q.2 p)
  ((lanes.zip vs).map fun v => v.2.map fun x => match fs.find? (fun q => q.1 == v.1.1) with
      | some q => q.2.1 v.1.2 x
      | none => x,
    Led.sum (fs.map fun q => q.2.2))

/-- The vitrine that a prologue reads is in the slot's claim (R222, R168; log entry 93). -/
def proClaimed (launch : List Word) : Prologue → Bool
  | .rows _ _ (some (v, _, _)) => decide (v < 8) && bitOf ((wordAt launch 3).toNat % 256) v
  | _ => true

/-- The feed form (R157 to R165) with its prologue (R168, R198). A vitrine source takes the tail of the enclosing loop. -/
def planFeed (e : MemEnv) (tail : Mask) (mk dk map : Nat) (vit : Bool) (i opfmt : Nat) (beta : Int) (xpose gather : Bool)
    (gk rep : Nat) (side : Bool) (pro : Prologue) : Except MemStop MemAsk :=
  match opFmt opfmt with
  | none => .error (.err errFmt)
  | some f =>
    let wide := decide (opfmt = 0x01) || decide (opfmt = 0x02)
    let d := e.slot.desc dk
    let t := e.slot.tileIdx map
    let out (rd : Nat → Nat) (rows : List (Nat × Nat)) (vs : List (Option XV)) : MemOut :=
      let ys := proLanes e d rd t.t0 pro rows vs
      let o := feedOut f opfmt rep beta xpose side ys.1
      { o with led := o.led.add ys.2 }
    let rowsOf (en : Mask) : List (Nat × Nat) :=
      ((List.range 32).filter (rowOn en)).map fun r => (r, d.row (32 * t.t1 + r) t.t2 t.t3)
    if (xpose && wide) || (vit && gather) then .error (.err errFmt)
    else if !proClaimed e.slot.launch pro then .error (.err errProg)
    else if vit then
      let vs (en : Mask) : List (Option XV) :=
        (lanes.zip (e.cell.vit i)).map fun p => if laneOn en p.1.1 p.1.2 then some (f32 p.2) else none
      let en := e.cell.mkMask mk &&& tail
      if pro = .none then
        .ok (.now { reads := [], checks := [], fin := fun _ => .ok (out (fun _ => 0) [] (vs en)) })
      else withDesc d false true fun _ =>
        let en1 := en &&& tailMask d t
        .ok (.now {
          reads := (rowsOf en1).flatMap fun q => (d.recordAddrs pro q.2).map d.adr
          checks := []
          fin := fun rd => .ok (out (d.rd rd) (rowsOf en1) (vs en1)) })
    else
      if decide (d.nw.fmt = some .uint8zp) && !wide then .error (.err errFmt)
      else withDesc d false (decide (pro ≠ .none)) fun sf =>
        let en := e.cell.mkMask mk &&& tailMask d t
        if gather then
          match offsetOf e.slot.launch gk with
          | .error x => .error x
          | .ok off =>
            let rows := (List.range 32).filter (rowOn en)
            .ok {
              pre := rows.flatMap fun r => (List.range 4).map fun j => .win (off + 4 * r + j)
              plan := fun rd =>
                let idx (r : Nat) : Nat :=
                  (List.range 4).foldl (fun acc j => acc + rd (.win (off + 4 * r + j)) * 256 ^ j) 0
                let live := rows.filter fun r => decide (idx r ≠ 0xFFFFFFFF)
                if live.any fun r => decide (d.e1 ≤ idx r) then .error errGather
                else
                  let gs : List GRow := live.map fun r =>
                    { r := r, t := { t0 := t.t0, t1 := idx r / 32, t2 := 0, t3 := 0 }, q := idx r % 32 }
                  let ps := gs.map (d.gatherPlan en)
                  let rs := live.map fun r => (r, d.row (idx r) 0 0)
                  .ok {
                    reads := (ps.flatMap fun p => p.1.map d.adr) ++ rs.flatMap fun q => (d.recordAddrs pro q.2).map d.adr
                    checks := [{ d := d, ps := ps.flatMap Prod.snd }]
                    fin := fun rd =>
                      let vs := lanes.map fun p =>
                        if laneOn en p.1 p.2 then
                          match gs.find? (fun g => g.r == p.1) with
                          | some g => some (d.laneVal e.tabs sf (d.rd rd) g.t g.q p.2)
                          | none => none
                        else none
                      .ok (out (d.rd rd) rs vs) } }
        else
          let p := d.readPlan t en
          .ok (.now {
            reads := p.1.map d.adr ++ (rowsOf en).flatMap fun q => (d.recordAddrs pro q.2).map d.adr
            checks := [{ d := d, ps := p.2 }]
            fin := fun rd => .ok (out (d.rd rd) (rowsOf en) (d.tileVals e.tabs sf (d.rd rd) t en)) })

/-! ### SCL in fold form (R98, R99, R232) -/

/-- The positions of the bytes or entries that a tile folds (R232). -/
def Desc.foldPositions (d : Desc) (t : TIdx) : List Nat :=
  match d.nw.mode with
  | 0 => []
  | 1 => if t.t0 = 0 ∧ t.t1 = 0 ∧ t.t2 = 0 ∧ t.t3 = 0 then [0] else []
  | 2 => if t.t0 = 0 ∧ t.t2 = 0 ∧ t.t3 = 0 then
      ((List.range 32).map (32 * t.t1 + ·)).filter (· < d.e1) else []
  | _ => (List.range 32).flatMap fun r =>
      (d.blockCols.filter fun c => laneOn (tailMask d t) r c).map fun c => d.posOf t r c

/-- SCL, kmode 3 (R232), under any amount that the field spells (log entry 92). -/
def planFold (e : MemEnv) (dk map d2k map2 : Nat) (delta : Int) : Except MemStop MemAsk :=
  let s := e.slot.desc dk
  let d := e.slot.desc d2k
  let sm := s.nw.mode
  if s.nw.fmt.isNone || d.nw.fmt.isNone then .error (.err errFmt)
  else if s.isEmpty || d.isEmpty then .error .empty
  else if sm ≠ d.nw.mode ∨ s.nw.blk16 ≠ d.nw.blk16 then .error (.err errFmt)
  else if s.illegal false false || d.illegal true false
      || decide (¬(s.e0 = d.e0 ∧ s.e1 = d.e1 ∧ s.e2 = d.e2 ∧ s.e3 = d.e3)) then .error (.err errDesc)
  else
    let ps := s.foldPositions (e.slot.tileIdx map)
    let cs := if s.nw.checked && !ps.isEmpty then s.streamPositions ps (decide (sm = 5)) else []
    let wide := decide (sm = 1) || decide (sm = 2)
    .ok (.now {
      reads := (if wide then ps.flatMap fun p => [s.scale + 2 * p, s.scale + 2 * p + 1]
                else if s.nw.checked then cs.map (s.scale + ·) else ps.map (s.scale + ·)).map s.adr
      checks := [{ d := s, ps := cs }]
      fin := fun rd =>
        let at_ (p : Nat) : Nat := if wide then 2 * p else p
        let fs := ps.map fun p => (p, foldByte sm delta (s.rd rd (s.scale + at_ p)))
        if fs.any fun q => q.2.isNone then .error errScaleRange
        else
          let bs := fs.flatMap fun q =>
            (d.scale + at_ q.1, BitVec.ofNat 8 (q.2.getD 0)) ::
              (if wide then [(d.scale + at_ q.1 + 1, BitVec.ofNat 8 (s.rd rd (s.scale + at_ q.1 + 1)))] else [])
          .ok (d.commit (d.laneIndex (e.slot.tileIdx map2) 0 0) [] bs [] Led.zero) })

/-! ### RED in record forms (R166, R167, R197) -/

/-- A row record of 32 bytes (R166). -/
def rowRecord (xs : List Word) : List Byte :=
  let s := redSum false xs
  let q := redSum true xs
  wordsBytes [s.lo, s.hi, q.lo, q.hi, redMax xs, redMin xs, BitVec.ofNat 32 xs.length, 0#32]

/-- The records of a tile at the side address: `size` bytes for each row inside the extent (R166, R197). -/
def planRecords (e : MemEnv) (dk map size : Nat) (rec : Nat → List Byte) (led : Led) :
    Except MemStop MemAsk :=
  let d := e.slot.desc dk
  withDesc d false true fun _ =>
    let t := e.slot.tileIdx map
    let ntc := ceilDiv d.e0 32
    let aux := ((List.range 32).filter (rowOn (tailMask d t))).flatMap fun r =>
      let a := d.aux + size * (d.row (32 * t.t1 + r) t.t2 t.t3 * ntc + t.t0)
      (rec r).zipIdx.map fun q => (a + q.2, q.1)
    .ok (.now { reads := [], checks := [], fin := fun _ => .ok (d.commit (d.laneIndex t 0 0) [] [] aux led) })

/-- RED in row-record form (R166, R167, R254). -/
def planRowRecord (e : MemEnv) (mk a dk map : Nat) : Except MemStop MemAsk :=
  let d := e.slot.desc dk
  let en := e.cell.mkMask mk &&& tailMask d (e.slot.tileIdx map)
  let src := e.cell.srcList e.slot.launch a
  let xs (r : Nat) : List Word := (validOf en src false r).map Prod.snd
  let bad := (List.range 32).any fun r =>
    (xs r).any (fun w => !f32IsFinite w) || !f32IsFinite (redSum false (xs r)).hi || !f32IsFinite (redSum true (xs r)).hi
  planRecords e dk map 32 (fun r => rowRecord (xs r)) (Led.nonfin bad)

/-- RED in softmax-record form (R197): offset from column 1 and positions from column 4 of the step vector, the row sum
of the weights. -/
def planSoftmaxRecord (e : MemEnv) (mk a dk map sv : Nat) : Except MemStop MemAsk :=
  let d := e.slot.desc dk
  let en := e.cell.mkMask mk &&& tailMask d (e.slot.tileIdx map)
  let src := e.cell.srcList e.slot.launch a
  let v := e.cell.vit sv
  planRecords e dk map 16 (fun r =>
    let s := redSum false ((validOf en src false r).map Prod.snd)
    wordsBytes [elemAt v r 1, elemAt v r 4 &&& 0x7FFFFF#32, s.lo, s.hi]) Led.zero

/-! ### STEEP (R81 to R87, R97, R238) -/

/-- The initial values (R81). -/
def Steep.init : Steep := { amax := 0#32, vmin := 0x7F800000#32, vmax := 0xFF800000#32, flags := 0, count := 0 }

/-- A record read from its 16 bytes; `at_ k` is byte k. -/
def Steep.read (at_ : Nat → Nat) : Steep :=
  let w (i : Nat) : Nat := (List.range 4).foldl (fun acc j => acc + at_ (4 * i + j) * 256 ^ j) 0
  { amax := BitVec.ofNat 32 (w 0), vmin := BitVec.ofNat 32 (w 1), vmax := BitVec.ofNat 32 (w 2),
    flags := w 3 >>> 29, count := w 3 % 2 ^ 28 }

def Steep.bytes (s : Steep) : List Byte :=
  wordsBytes [s.amax, s.vmin, s.vmax, BitVec.ofNat 32 (s.flags * 2 ^ 29 + s.count)]

/-- Fold one valid element into its group's record (R82). -/
def Steep.add (s : Steep) (x : Word) : Steep :=
  let s := { s with count := satAdd 28 s.count 1 }
  match f32 x with
  | .nan => { s with flags := s.flags ||| 4 }
  | .inf false => { s with flags := s.flags ||| 2 }
  | .inf true => { s with flags := s.flags ||| 1 }
  | .fin _ _ _ => { s with amax := fMax s.amax (x &&& 0x7FFFFFFF#32), vmin := fMin s.vmin x, vmax := fMax s.vmax x }

/-- Merge two records field by field (R83). -/
def Steep.merge (a b : Steep) : Steep :=
  { amax := fMax a.amax b.amax, vmin := fMin a.vmin b.vmin, vmax := fMax a.vmax b.vmax, flags := a.flags ||| b.flags,
    count := satAdd 28 a.count b.count }

/-- The gather (R82, R238): grouping 0 whole tensor, 1 tensor channel, 2 column. It folds its own elements from the initial
values; the records onto which it accumulates are read when its tile commits, so that accumulating gathers apply in commit
order (R82; log entry 95). -/
def planGather (e : MemEnv) (mk dk map i : Nat) (accum : Bool) (grouping sa : Nat) : Except MemStop MemAsk :=
  let d := e.slot.desc dk
  withDesc d false false fun _ =>
    match offsetOf e.slot.launch sa with
    | .error x => .error x
    | .ok off =>
      let t := e.slot.tileIdx map
      let en := e.cell.mkMask mk &&& tailMask d t
      let grp (p : Nat × Nat) : Nat :=
        if grouping = 0 then 0 else if grouping = 1 then 32 * t.t1 + p.1 else 32 * t.t0 + p.2
      let on := lanes.filter fun p => laneOn en p.1 p.2
      let gs := (on.map grp).eraseDups
      let v := e.cell.vit i
      .ok (.now {
        reads := []
        checks := []
        fin := fun _ =>
          let recs := gs.map fun g => (off + 16 * g,
            (on.filter fun p => grp p == g).foldl (fun (s : Steep) p => s.add (elemAt v p.1 p.2)) Steep.init)
          .ok { MemOut.none with
            writes := recs.flatMap fun q => q.2.bytes.zipIdx.map fun b => (.win (q.1 + b.2), b.1)
            gather := some { index := e.slot.idx, accum := accum, obj := d.obj, lane := d.laneIndex t 0 0, recs := recs } } })

/-- A steep record in the window. -/
def steepAt (rd : Nat → Nat) (a : Nat) : Steep := Steep.read fun j => rd (a + j)

/-- The records onto which the gathers of a tile accumulate: those that no earlier gather of the tile has formed (R82). -/
def gatherBase (gs : List Gather) : List Nat :=
  (gs.foldl (fun (k : List Nat × List Nat) g =>
    let offs := g.recs.map Prod.fst
    (if g.accum then k.1 ++ offs.filter (fun o => !k.2.contains o) else k.1, k.2 ++ offs)) ([], [])).1

/-- The records of a tile's gathers when it commits, in order: the bytes each gather writes, and its commit CRC (R82, R83,
R338). `rd` reads the window as it stands at the commit; a second gather of the tile onto the same record takes what the first one
has formed (DESIGN CHOICE, log entry 95). -/
def formGathers (rd : Nat → Nat) (gs : List Gather) : List TileWrite × Led :=
  (gs.foldl (fun (k : List (Nat × Steep) × List TileWrite × Led) g =>
    let base (o : Nat) : Steep :=
      if !g.accum then Steep.init
      else match k.1.find? (fun q => q.1 == o) with
        | some q => q.2
        | none => steepAt rd o
    let rs := g.recs.map fun q => (q.1, (base q.1).merge q.2)
    let ws := rs.flatMap fun q => q.2.bytes.zipIdx.map fun b => show TileWrite from { addr := q.1 + b.2, byte := b.1, index := g.index }
    let crc := if ws.isEmpty then 0 else objCrc g.obj g.lane [] [] (ws.map TileWrite.byte)
    (rs ++ k.1, k.2.1 ++ ws, k.2.2.add { Led.zero with fp := crc })) ([], [], Led.zero)).2

/-- The Sb records of group g from offset Sa, merged (R83, R84). -/
def steepGroup (rd : Rd) (off n g : Nat) : Steep :=
  (List.range n).foldl (fun s k => s.merge (Steep.read fun j => rd (.win (off + 16 * (n * g + k) + j)))) Steep.init

/-- The finite nonzero magnitude of a record's amax, if it is one. -/
def Steep.mag (w : Word) : Option (Nat × Nat) :=
  match f32 w with
  | .fin _ n d => if n = 0 then none else some (n, d)
  | _ => none

/-- clamp_e(k + 63) with its ledger update (R76). -/
def clampEntry (k : Int) : Nat × Led :=
  let c := clampByte 126 (k + 63)
  (c.1, if c.2 then { Led.flag flClamped with clampG := 1 } else Led.zero)

/-- settle_asym of R86. Records that no gather writes (a finite group with a non-finite vmin or vmax) settle to a value
that the spec does not state (log entry 15). -/
def settleAsym (n : NumWord) (s : Steep) : Nat × Led :=
  let qmax : Nat := if n.fmtCode = 0x0A then 255 else 15
  if (f32 s.amax).isZero then
    (0, if s.flags = 0 then { Led.flag flConst with constG := 1 } else Led.zero)
  else match f32 s.vmin, f32 s.vmax with
    | .fin sn nn dn, .fin sx nx dx =>
      if XV.eqv (.fin sn nn dn) (.fin sx nx dx) then
        match Steep.mag s.vmax with
        | some m =>
          let c := clampEntry (scaleK m.1 m.2 qmax 1 false)
          (c.1, c.2.add { Led.flag flDegenerate with degenG := 1 })
        | none => ((Config.settleFree s.amax s.vmin s.vmax).toNat, Led.zero)
      else
        let lo := XV.min (.fin sn nn dn) .zero
        let hi := XV.max (.fin sx nx dx) .zero
        match XV.add false hi lo.neg, lo with
        | .fin _ rn rd, .fin _ ln ld =>
          if rn = 0 then ((Config.settleFree s.amax s.vmin s.vmax).toNat, Led.zero)
          else
            let k := if n.rule then floorLog2 rn rd - floorLog2 qmax 1 else scaleK rn rd (qmax - 1) 1 false
            let c := clampEntry k
            let kk : Int := (c.1 : Int) - 63
            let q := XV.scale (.fin false ln ld) (-kk)
            let z := match q with
              | .fin _ a b => if n.rule then (roundInt 0 0 false a b).toNat else (ceilFr false a b).toNat
              | _ => 0
            (min qmax z * 256 + c.1, c.2)
        | _, _ => ((Config.settleFree s.amax s.vmin s.vmax).toNat, Led.zero)
    | _, _ => ((Config.settleFree s.amax s.vmin s.vmax).toNat, Led.zero)

/-- settle of R84. -/
def settle (tabs : List (BitVec 16)) (f : Fmt) (n : NumWord) (s : Steep) : Nat × Led :=
  if s.count = 0 then (0, Led.flag flEmpty)
  else if f.isZp then settleAsym n s
  else if (f32 s.amax).isZero then
    (0, if s.flags = 0 then { Led.flag flConst with constG := 1 } else Led.zero)
  else match Steep.mag s.amax with
    | none => ((Config.settleFree s.amax s.vmin s.vmax).toNat, Led.zero)
    | some m =>
      let mx := fmtMax tabs f n.mode
      if mx.1 = 0 then (0, Led.zero) else clampEntry (scaleK m.1 m.2 mx.1 mx.2 n.rule)

/-- The addresses of n records from an offset, none when they run past the window (R21). -/
def recordReads (off n : Nat) : Option (List Adr) :=
  if off + 16 * n ≤ 2 ^ 20 then some ((List.range (16 * n)).map fun j => .win (off + j)) else none

/-- The settle (R84, R86, R108, R238). -/
def planSettle (e : MemEnv) (dk sa sb : Nat) : Except MemStop MemAsk :=
  let d := e.slot.desc dk
  match d.nw.fmt with
  | none => .error (.err errFmt)
  | some f =>
    let n := d.nw
    if ¬(n.mode = 1 ∨ n.mode = 2 ∨ n.mode = 5) then .error (.err errFmt)
    else if d.isEmpty then .error .empty
    else if d.illegal true false then .error (.err errDesc)
    else match offsetOf e.slot.launch sa with
      | .error x => .error x
      | .ok off =>
        let per := (scalarOf e.slot.launch sb).toNat
        let groups := if n.mode = 2 then d.e1 else 1
        match recordReads off (per * groups) with
          | none => .error (.err errSpRange)
          | some reads =>
            .ok (.now {
              reads := reads
              checks := []
              fin := fun rd =>
                let rs := (List.range groups).map fun g => settle e.tabs f n (steepGroup rd off per g)
                let led := Led.sum (rs.map Prod.snd)
                let bs := if n.mode = 5 then d.tailBytes ((rs.map Prod.fst).getD 0 0 % 128)
                  else rs.zipIdx.flatMap fun p =>
                    [(d.scale + 2 * p.2, BitVec.ofNat 8 p.1.1), (d.scale + 2 * p.2 + 1, BitVec.ofNat 8 (p.1.1 / 256))]
                .ok (d.commit 0 [] bs [] led) })

/-- σ of one position (R97). A record whose amax no gather writes gives a value that the spec does not state (log
entry 15). -/
def smoothByte (a w : Steep) : Nat :=
  if (f32 a.amax).isZero || (f32 w.amax).isZero || decide (a.count = 0) || decide (w.count = 0) then 63
  else match Steep.mag a.amax, Steep.mag w.amax with
    | some x, some y => (clampByte 126 (63 + (floorLog2 x.1 x.2 - floorLog2 y.1 y.2) / 2)).1
    | _, _ => (Config.settleFree a.amax w.amax 0#32).toNat % 256

/-- The smoothing settle (R97, R238). -/
def planSmooth (e : MemEnv) (dk sa sb sc : Nat) : Except MemStop MemAsk :=
  let d := e.slot.desc dk
  withDesc d true false fun _ =>
    match offsetOf e.slot.launch sa, offsetOf e.slot.launch sb with
    | .ok oa, .ok ob =>
      let per := (scalarOf e.slot.launch sc).toNat
      match recordReads oa (per * d.e0), recordReads ob (per * d.e0) with
        | some ra, some rb =>
          .ok (.now {
            reads := ra ++ rb
            checks := []
            fin := fun rd =>
              let bs := (List.range d.e0).map fun j =>
                (d.scale + j, BitVec.ofNat 8 (smoothByte (steepGroup rd oa per j) (steepGroup rd ob per j)))
              .ok (d.commit 0 [] bs [] Led.zero) })
        | _, _ => .error (.err errSpRange)
    | .error x, _ => .error x
    | _, .error x => .error x

/-! ### KILN (R238, R322 to R324) -/

/-- KILN: Vi, or the pair, into the tile of d, with dropout. -/
def planKiln (e : MemEnv) (mk dk map i : Nat) (pair drop ctr : Bool) (step tag thr q : Nat) : Except MemStop MemAsk :=
  let d := e.slot.desc dk
  let sc := scalarOf e.slot.launch
  let qv := f32 (sc q)
  match d.nw.fmt with
  | none => .error (.err errFmt)
  | some f =>
    if drop && !(qv.isFin && !qv.isNeg && !qv.isZero) then .error (.err errFmt)
    else withDesc d true false fun _ =>
      let t := e.slot.tileIdx map
      let en := e.cell.mkMask mk &&& tailMask d t
      let p := d.encodePlan t en
      let env0 := KEnv.ofDesc e.tabs e.seed d
      let env := if ctr then { env0 with step := (sc step).toNat, tag := (sc tag).toNat } else env0
      let hi := e.cell.vit i
      let lo := e.cell.vit (i + 1)
      let ks := lanes.map fun l =>
        if laneOn en l.1 l.2 then
          let x := if pair then KIn.tw (twVal (elemAt hi l.1 l.2) (elemAt lo l.1 l.2))
            else KIn.plain (f32 (elemAt hi l.1 l.2))
          if !drop then some x
          else if rng16 e.seed 1 env.step env.tag (d.laneIndex t l.1 l.2) < (sc thr).toNat then some (x.scale qv 0)
          else some (KIn.plain .zero)
        else none
      .ok (.now {
        reads := p.1.map d.adr
        checks := [{ d := d, ps := p.2 }]
        fin := fun rd =>
          let o := encodeTile env f d (d.rd rd) t (fun _ => none) ks
          .ok (d.commit (d.laneIndex t 0 0) o.elems o.scales [] o.led) })

/-! ### MSK TAIL and LOAD (R243) -/

/-- MSK op 7: the tail mask of d at the loop's counters, after the checks of the descriptor it names (R36, R225, R295). -/
def planTail (e : MemEnv) (md dk : Nat) : Except MemStop MemAsk :=
  let d := e.slot.desc dk
  match d.nw.fmt with
  | none => .error (.err errFmt)
  | some _ =>
    if d.isEmpty then .error .empty
    else if d.illegal false false then .error (.err errDesc)
    else
      let out := { MemOut.none with masks := [(md, tailMask d e.slot.walkIdx)] }
      .ok (.now { reads := [], checks := [], fin := fun _ => .ok out })

/-- MSK op 9: 128 bytes of the window. -/
def planMaskLoad (e : MemEnv) (md k : Nat) : Except MemStop MemAsk :=
  match offsetOf e.slot.launch k with
  | .error x => .error x
  | .ok off =>
    if off % 128 ≠ 0 then .error (.err errSpRange)
    else .ok (.now {
      reads := (List.range 128).map fun j => .win (off + j)
      checks := []
      fin := fun rd =>
        let v := (List.range 128).foldl (fun acc j => acc + rd (.win (off + j)) * 256 ^ j) 0
        .ok { MemOut.none with masks := [(md, BitVec.ofNat 1024 v)] } })

/-- The plan of an instruction of this file, `none` for the others. -/
def memAsk (e : MemEnv) (o : TileOp) : Option (Except MemStop MemAsk) :=
  match o with
  | .vldLoad mk d map i pair => some (planLoad e mk d map i pair)
  | .vldFeed mk d map vit i opfmt beta xpose gather gk rep side =>
    some (planFeed e (e.slot.tailOf o) mk d map vit i opfmt beta xpose gather gk rep side e.slot.prologue)
  | .vst mk d map i pair => some (planVst e mk d map i pair)
  | .cvtMemory mk d map d2 map2 => some (planCvt e mk d map d2 map2)
  | .sclFold _ d map d2 map2 delta => some (planFold e d map d2 map2 delta)
  | .redRowRecord mk a d map => some (planRowRecord e mk a d map)
  | .redSoftmaxRecord mk a d map sv => some (planSoftmaxRecord e mk a d map sv)
  | .steepGather mk d map i accum grouping sa => some (planGather e mk d map i accum grouping sa)
  | .steepSettle _ d _ sa sb => some (planSettle e d sa sb)
  | .steepSmoothing _ d _ sa sb sc => some (planSmooth e d sa sb sc)
  | .kiln mk d map i pair drop ctr step tag thr q => some (planKiln e mk d map i pair drop ctr step tag thr q)
  | .msk md _ _ op d k _ _ => if op = 7 then some (planTail e md d) else if op = 9 then some (planMaskLoad e md k) else none
  | _ => none

end Sys2Proof.Machine
end

