-- ==== Sys2Proof/Machine/Moves.lean ====
section
/-! DEFINITION. The data of an ordinary transfer (R305, R309, R310, R317): the request's fields, the two byte streams of a
tensor, what a move reads, its destination image by copy or conversion, and encryption (R285 to R287). -/

namespace Sys2Proof.Machine

/-! ### The request (R305) -/

/-- Word i of a record as a number. -/
def wn (ws : List Word) (i : Nat) : Nat := (wordAt ws i).toNat

def xSrc (ws : List Word) : Nat := fld (wn ws 1) 19 0
def xDst (ws : List Word) : Nat := fld (wn ws 2) 19 0
def xSigFence (ws : List Word) : Nat := fld (wn ws 3) 12 0
def xSigEn (ws : List Word) : Bool := bitOf (wn ws 3) 13
def xSigInc (ws : List Word) : Word := BitVec.ofNat 32 (fld (wn ws 3) 31 16)
def xWaitFence (ws : List Word) : Nat := fld (wn ws 4) 12 0
def xWaitEn (ws : List Word) : Bool := bitOf (wn ws 4) 13
def xTarget (ws : List Word) : Word := wordAt ws 5
def xKind (ws : List Word) : Nat := fld (wn ws 6) 1 0
def xMash (ws : List Word) : Bool := bitOf (wn ws 6) 2
def xInv (ws : List Word) : Bool := bitOf (wn ws 6) 3
def xM (ws : List Word) : Nat := fld (wn ws 6) 6 4 + 5
def xFold (ws : List Word) : Bool := bitOf (wn ws 6) 7
def xDelta (ws : List Word) : Int := signed 8 (fld (wn ws 6) 15 8)
def xTag (ws : List Word) : Nat := fld (wn ws 7) 15 0
def xSign (ws : List Word) : Nat := 128 * fld (wn ws 7) 28 16

/-- No reserved bit of words 1 to 7 is set, and the kind is 0 or 1 (check 1 of R306). -/
def xWordsOk (ws : List Word) : Bool :=
  decide (fld (wn ws 1) 31 20 = 0) && decide (fld (wn ws 2) 31 20 = 0) && decide (fld (wn ws 3) 15 14 = 0)
    && decide (fld (wn ws 4) 31 14 = 0) && decide (fld (wn ws 6) 31 16 = 0) && decide (fld (wn ws 7) 31 29 = 0)
    && decide (xKind ws ≤ 1)

def Xfer.sd (x : Xfer) : Desc := Desc.of x.src
def Xfer.dd (x : Xfer) : Desc := Desc.of x.dst

/-! ### The two byte streams of a tensor (R309) -/

/-- The rows of a tensor in descriptor order. -/
def Desc.rows (d : Desc) : List (Nat × Nat × Nat) :=
  (List.range d.e3).flatMap fun c => (List.range d.e2).flatMap fun b => (List.range d.e1).map fun a => (a, b, c)

/-- Bytes of the element stream. -/
def Desc.elemLen (d : Desc) : Nat := d.rowBytes * d.e1 * d.e2 * d.e3

/-- Bytes of the scale tensor with its tail; modes 0 to 2 have none (R106, R107). -/
def Desc.scaleLen (d : Desc) : Nat := if d.nw.isBlock then d.positions + (if d.nw.checked then 16 else 0) else 0

/-- The addresses of the element stream, dimension 0 fastest. -/
def Desc.elemAddrs (d : Desc) : List Nat :=
  d.rows.flatMap fun r => (List.range d.rowBytes).map (d.rowAddr r.1 r.2.1 r.2.2 + ·)

/-- The addresses of the scale stream. -/
def Desc.scaleAddrs (d : Desc) : List Nat := (List.range d.scaleLen).map (d.scale + ·)

/-- The segments of both streams of a tensor, in order (R285). -/
def segments {α : Type} (elems scales : List α) : List (List α) :=
  cutInto 4096 (elems.length / 4096 + 1) elems ++ cutInto 4096 (scales.length / 4096 + 1) scales

/-- Segments, which are also the transfer tiles (R309). -/
def Desc.segCount (d : Desc) : Nat := ceilDiv d.elemLen 4096 + ceilDiv d.scaleLen 4096

/-- The addresses of the seal records (R285). -/
def Desc.sealAddrs (d : Desc) : List Nat := (List.range (32 * d.segCount)).map (d.aux + ·)

/-- The supplied scales that an encode into d reads: entries of modes 1 and 2, the tail in mode 5 (R72, R79). -/
def Desc.suppliedAddrs (d : Desc) : List Nat :=
  match d.nw.mode with
  | 1 => [d.scale, d.scale + 1]
  | 2 => (List.range (2 * d.e1)).map (d.scale + ·)
  | 5 => (List.range 16).map (d.scale + d.positions + ·)
  | _ => []

/-- The scale entries that a decode of d reads in modes 1 and 2 (R50). -/
def Desc.entryAddrs (d : Desc) : List Nat := if d.nw.mode = 1 ∨ d.nw.mode = 2 then d.suppliedAddrs else []

/-- A move converts (R310). -/
def converts (ws : List Word) (s d : Desc) (dec enc : Bool) : Bool :=
  decide (s.num ≠ d.num) || xMash ws || xFold ws || dec || enc

/-! ### What has been read -/

/-- A byte of memory as a transfer read it, and whether its line stayed unreadable (R317). -/
abbrev Src := Nat → Nat × Bool

/-- The place in its tensor of the byte at an address that a transfer reads: in the source's element stream, from its scale
address on, or from the destination's (R309, R339). -/
def badPlace (s d : Desc) (a : Nat) : Nat :=
  match s.elemAddrs.findIdx? fun b => decide (b % 2 ^ 52 = a % 2 ^ 52) with
  | some i => i
  | none =>
    if s.scale ≤ a ∧ a < s.scale + s.scaleLen + 2 * s.e1 + 2 then 2 ^ 60 + (a - s.scale) else 2 ^ 61 + (a + 2 ^ 52 - d.scale) % 2 ^ 52

/-- The bytes that the stream engine has read. -/
def Xfer.raw (x : Xfer) : Src := fun a =>
  let v := a % 2 ^ 52
  match x.got.find? (fun l => l.va == v / 64) with
  | some l => if l.bad then ((Config.badByte (badPlace x.sd x.dd a)).toNat, true) else ((lineByte l.data (v % 64)).toNat, false)
  | none => (0, false)

/-! ### Keys (R282, R285 to R287) -/

/-- A key as AES takes it: byte k in bits [8k+7:8k] (R38, R283). -/
def keyBytes (k : BitVec 256) : List Nat := (leBytes 32 k.toNat).map BitVec.toNat

def natBytes (bs : List Byte) : List Nat := bs.map BitVec.toNat
def byteNats (ns : List Nat) : List Byte := ns.map (BitVec.ofNat 8)

/-- The additional data of a segment (R285). -/
def segAad (addr len : Nat) (keyId : BitVec 32) : List Nat :=
  natBytes (leBytes 8 (addr % 2 ^ 52) ++ leBytes 4 len ++ leBytes 4 keyId.toNat)

/-- The code of a request that names a key slot for a channel, 0 when it may (R282, R390). -/
def Inst.keyUse (x : Inst) (v slot : Nat) : Nat :=
  let k := x.key slot
  if k.bad then errHwUncorrectable
  else if k.owner ≠ some v ∨ !(x.vc v).keyEn then errKeySlot
  else if !k.hasKey then errKeySlot
  else 0

/-- Decrypt a source (R287): its plaintext by address, or none when a segment fails. A segment with an unreadable line is
not checked (R317). -/
def decryptSrc (k : KeySlot) (d : Desc) (raw : Src) : Option Src :=
  let segs := segments d.elemAddrs d.scaleAddrs
  let outs := segs.zipIdx.map fun p =>
    let ct := p.1.map raw
    let rec_ := (List.range 32).map fun i => raw (d.aux + 32 * p.2 + i)
    let bad := ct.any Prod.snd || rec_.any Prod.snd
    if bad then some (p.1.map fun a => (a, (Config.badByte (badPlace d d a)).toNat, true))
    else
      let rb := rec_.map Prod.fst
      let len := ofBe ((rb.drop 12).take 4).reverse
      if len ≠ p.1.length then none
      else match gcmOpen (keyBytes k.key) (rb.take 12) (segAad (p.1.headD 0) p.1.length k.keyId) (ct.map Prod.fst) (rb.drop 16) with
        | none => none
        | some pt => some ((p.1.zip pt).map fun q => (q.1, q.2, false))
  if outs.any Option.isNone then none
  else
    let plain := outs.flatMap fun o => o.getD []
    some fun a => match plain.find? (fun q => q.1 == a) with
      | some q => q.2
      | none => raw a

/-! ### The destination image -/

/-- A byte that a transfer writes: address, value, computed from an unreadable line. -/
structure XByte where
  addr : Nat
  byte : Byte
  bad  : Bool
deriving DecidableEq, Repr

/-- The destination image of a transfer (R308): both streams, and the ledger update without the commit CRC. -/
structure XImg where
  elems  : List XByte
  scales : List XByte
  led    : Led
deriving DecidableEq, Repr

/-- A copy: bytes unchanged (R120, R310). -/
def copyImg (s d : Desc) (src : Src) : XImg :=
  let move (p : Nat × Nat) : XByte := let b := src p.1; { addr := p.2, byte := BitVec.ofNat 8 b.1, bad := b.2 }
  { elems := (s.elemAddrs.zip d.elemAddrs).map move, scales := (s.scaleAddrs.zip d.scaleAddrs).map move, led := Led.zero }

/-- The tile index of column tile c of the rows of a tile group. -/
def tileOf (c t1 t2 t3 : Nat) : TIdx := { t0 := c, t1 := t1, t2 := t2, t3 := t3 }

/-- The bytes that element i0 of a row is computed from: its code, its scale byte or entry, the tensor-level byte. -/
def Desc.elemDeps (d : Desc) (i0 i1 i2 i3 : Nat) : List Nat :=
  let bit := i0 * d.bits
  let k := if d.bits < 8 then (if bit % 8 + d.bits ≤ 8 then 1 else 2) else d.bits / 8
  let codes := (List.range k).map fun j => d.rowAddr i1 i2 i3 + bit / 8 + j
  codes ++ (match d.nw.mode with
    | 1 => [d.scale, d.scale + 1]
    | 2 => [d.scale + 2 * i1, d.scale + 2 * i1 + 1]
    | 3 | 4 => [d.scale + d.row i1 i2 i3 * d.bpr + i0 / d.nw.block]
    | 5 => [d.scale + d.row i1 i2 i3 * d.bpr + i0 / d.nw.block, d.scale + d.positions]
    | _ => [])

/-- The elements of a row that are computed from an unreadable line: whole segments of a rotation (R317). -/
def badElems (ws : List Word) (s : Desc) (src : Src) (i1 i2 i3 : Nat) : List Bool :=
  let own := (List.range s.e0).map fun c => (s.elemDeps c i1 i2 i3).any fun a => (src a).2
  if xMash ws then
    let n := 2 ^ xM ws
    (cutInto n (s.e0 / n + 1) own).flatMap fun g => g.map fun _ => g.any id
  else own

/-- Spread to whole blocks of a block destination. -/
def badBlocks (d : Desc) (es : List Bool) : List Bool :=
  if d.nw.isBlock then (cutInto d.nw.block (es.length / d.nw.block + 1) es).flatMap fun g => g.map fun _ => g.any id
  else es

/-- The exact values of a row of the source, rotated when the request says so (R94, R310), and whether a rotation made a
non-finite value. -/
def rowVals (ws : List Word) (sign : Nat) (tabs : List (BitVec 16)) (s : Desc) (f : Fmt) (rd : Nat → Nat) (i1 i2 i3 : Nat) :
    List XV × List XV :=
  let vs := (List.range s.e0).map fun c => s.laneVal tabs f rd (tileOf (c / 32) (i1 / 32) i2 i3) (i1 % 32) (c % 32)
  if xMash ws then
    let n := 2 ^ xM ws
    let ys := (cutInto n (s.e0 / n + 1) (vs.map rne)).flatMap (mashSegment (xM ws) (xInv ws) sign)
    (vs, ys.map f32)
  else (vs, vs)

/-- Fold one scale byte of the written stream (R98, R310; log entry 92); none out of range. -/
def foldImg (ws : List Word) (d : Desc) (p : Nat × Byte) : Option (Nat × Byte) :=
  if xFold ws ∧ p.1 < d.scale + d.positions then
    (foldByte d.nw.mode (xDelta ws) p.2.toNat).map fun b => (p.1, BitVec.ofNat 8 b)
  else some p

/-- The rows of one tile group (32 values of dimension 1) converted: element bytes, scale bytes, ledger update. -/
def convertGroup (ws : List Word) (sign : Nat) (tabs : List (BitVec 16)) (seed : Nat) (s d : Desc) (sf df : Fmt)
    (src : Src) (raw : Src) (t1 t2 t3 : Nat) : List XByte × List XByte × Led :=
  let rd (a : Nat) : Nat := (src a).1
  let nr := min 32 (d.e1 - 32 * t1)
  let rows := (List.range nr).map fun r =>
    let v := rowVals ws sign tabs s sf rd (32 * t1 + r) t2 t3
    (v.1, v.2, badBlocks d (badElems ws s src (32 * t1 + r) t2 t3))
  let direct (c : Nat) : DirectMap :=
    let t := tileOf c t1 t2 t3
    if directPair s d && !xMash ws then directRow tabs sf s d rd t (tailMask d t) else fun _ => none
  let decoded (r : Nat) (xs : List XV) : Bool := xs.zipIdx.any fun p => !p.1.isFin && (direct (p.2 / 32) r).isNone
  let led0 := Led.nonfin (rows.zipIdx.any fun q => decoded q.2 q.1.1 || decoded q.2 q.1.2.1)
  let tiles := (List.range (ceilDiv d.e0 32)).map fun c =>
    let t := tileOf c t1 t2 t3
    let en := tailMask d t
    let ks := lanes.map fun p =>
      if laneOn en p.1 p.2 then
        match rows[p.1]? with
        | some q => (q.2.1[32 * c + p.2]?).map (if sf = .tw64 ∧ !xMash ws then KIn.tw else KIn.plain)
        | none => none
      else none
    encodeTile (KEnv.ofDesc tabs seed d) df d (fun a => (raw a).1) t (direct c) ks
  let out := (List.range nr).flatMap fun r =>
    let base := d.rowAddr (32 * t1 + r) t2 t3
    let bads := match rows[r]? with
      | some q => q.2.2
      | none => []
    (tiles.flatMap fun o => o.elems.filter fun p => decide (base ≤ p.1) && decide (p.1 < base + d.rowBytes)).map fun p =>
      let j := p.1 - base
      let cols := (List.range (8 / d.bits + 1)).map fun i => 8 * j / d.bits + i
      { addr := p.1, byte := p.2
        bad := cols.any fun c => decide (c * d.bits < 8 * j + 8) && bads.getD c false : XByte }
  let scs := (List.range nr).flatMap fun r =>
    let bads := match rows[r]? with
      | some q => q.2.2
      | none => []
    (List.range d.bpr).flatMap fun k =>
      let a := d.scale + d.row (32 * t1 + r) t2 t3 * d.bpr + k
      (tiles.flatMap fun o => o.scales.filter fun p => p.1 == a).map fun p =>
        { addr := p.1, byte := p.2, bad := bads.getD (k * d.nw.block) false : XByte }
  let tail := tiles.flatMap fun o => (o.scales.filter fun p => decide (d.scale + d.positions ≤ p.1)).map fun p =>
    { addr := p.1, byte := p.2, bad := false : XByte }
  (out, scs ++ tail, led0.add (Led.sum (tiles.map fun o => o.led)))

/-- A conversion (R310), none when a folded byte leaves its range (R99). -/
def convertImg (ws : List Word) (sign : Nat) (tabs : List (BitVec 16)) (seed : Nat) (s d : Desc) (sf df : Fmt)
    (src : Src) (raw : Src) : Option XImg :=
  let gs := (List.range d.e3).flatMap fun t3 => (List.range d.e2).flatMap fun t2 =>
    (List.range (ceilDiv d.e1 32)).map fun t1 => convertGroup ws sign tabs seed s d sf df src raw t1 t2 t3
  let all : List XByte := if d.nw.isBlock then gs.flatMap fun g => g.2.1 else []
  let scs := all.map fun (b : XByte) => (foldImg ws d (b.addr, b.byte)).map fun p => { b with byte := p.2 }
  if scs.any Option.isNone then none
  else some { elems := gs.flatMap Prod.fst, scales := scs.filterMap id, led := Led.sum (gs.map fun g => g.2.2) }

/-- Encrypt an image under a key slot (R285): the bytes written in place, and the seal records. -/
def encryptImg (k : KeySlot) (ctr : Nat) (d : Desc) (m : XImg) : List (List XByte) × List XByte :=
  let segs := (segments m.elems m.scales).zipIdx
  let outs := segs.map fun p =>
    let iv := beNat 4 k.nonce.toNat ++ beNat 8 (ctr + p.2)
    let addr := match p.1 with
      | b :: _ => b.addr
      | [] => 0
    let sealed := gcmSeal (keyBytes k.key) iv (segAad addr p.1.length k.keyId) (natBytes (p.1.map XByte.byte))
    let data := (p.1.zip sealed.1).map fun (q : XByte × Nat) => { q.1 with byte := BitVec.ofNat 8 q.2 }
    let rec_ := byteNats iv ++ leBytes 4 p.1.length ++ byteNats sealed.2
    (data, rec_.zipIdx.map fun q => { addr := d.aux + 32 * p.2 + q.2, byte := q.1, bad := false : XByte })
  (outs.map Prod.fst, outs.flatMap Prod.snd)

/-- The stream checks of a decoding move (R111, R120): the first failing code, 0 for none. Unreadable bytes are not
compared. -/
def streamCode (d : Desc) (src : Src) (ps : List Nat) : Nat :=
  match d.streamFail (fun a => (src a).1) (ps.filter fun p => !(src (d.scale + p)).2) with
  | some f => if f.2 then errScaleTail else errScaleSeq
  | none => 0

end Sys2Proof.Machine
end

