-- ==== Sys2Proof/Machine/Collectives.lean ====
section
/-! DEFINITION. The data of a collective (R326 to R335): the plan, segments, packets, slots, the encoding of a contribution, the
reduction, the destination image and the result record. -/

namespace Sys2Proof.Machine

/-- The plan of a collective (R326). -/
structure Plan where
  rank   : Nat
  k      : Nat
  op     : Nat
  base   : Nat
  count  : Nat
  wire   : Nat
  step   : Nat
  tag    : Nat
  pseed  : Nat
  send   : Nat
  recv   : Nat
  result : Nat
  wireT  : Nat
  destT  : Nat
  rsv    : Bool
deriving DecidableEq, Repr

/-- A plan read from its 64 bytes (R326). `rsv` when a bit that the table does not name is set. -/
def Plan.of (l : Line) : Plan :=
  let w := l.toNat
  { rank := fld w 11 0, k := fld w 27 16 + 1, op := fld w 29 28, base := fld w 43 32, count := fld w 47 44,
    wire := fld w 63 48, step := fld w 95 64, tag := fld w 127 96, pseed := fld w 191 128, send := fld w 243 192,
    recv := fld w 307 256, result := fld w 371 320, wireT := fld w 390 384, destT := fld w 398 392,
    rsv := decide (fld w 15 12 ≠ 0) || decide (fld w 31 30 ≠ 0) || decide (fld w 255 244 ≠ 0)
      || decide (fld w 319 308 ≠ 0) || decide (fld w 383 372 ≠ 0) || bitOf w 391 || decide (fld w 511 399 ≠ 0) }

/-- A word that reduce packets may have (R327): binary32, BF16, or an FB8 or FB4 word in scale mode 3 or 5 with rnd 0 or
3. -/
def wireOk (w : Nat) : Bool :=
  decide (w = 0) || decide (w = 1)
    || (let n := NumWord.of w
        (match n.fmt with
          | some .e4m3 | some .e5m2 | some .int8 | some .e2m1 | some .int4 | some (.codebook _) => n.checked
          | _ => false) && (decide (n.rnd = 0) || decide (n.rnd = 3)))

/-- The tensor-level byte fits its word (R327). -/
def tByteOk (w t : Nat) : Bool := decide (t ≠ 127) && (decide (t = 0) || decide ((NumWord.of w).mode = 5))

/-- A block format is used and extent0 is not a multiple of its block (R327). -/
def ragged (w e0 : Nat) : Bool := let n := NumWord.of w; n.isBlock && decide (e0 % n.block ≠ 0)

/-- The COLL_PLAN cases of R327 that acceptance sees; the window tiers are known after translation. -/
def Plan.bad (p : Plan) (s d : Desc) : Bool :=
  p.rsv || decide (p.op = 3) || decide (p.k ≤ 1) || decide (p.k ≤ p.rank) || decide (p.rank < p.base)
    || decide (p.base + p.count ≤ p.rank) || decide (8 < p.count) || !wireOk p.wire
    || !(wireOk d.num || decide (d.num = 0x0010)) || ragged s.num s.e0 || ragged d.num d.e0 || ragged p.wire d.e0
    || !tByteOk p.wire p.wireT || !tByteOk d.num p.destT
    || decide (p.send % 64 ≠ 0) || decide (p.recv % 64 ≠ 0) || decide (p.result % 32 ≠ 0)

/-- Elements of the destination. -/
def Desc.elems (d : Desc) : Nat := d.e0 * d.e1 * d.e2 * d.e3

/-- Segments (R328). -/
def Desc.nseg (d : Desc) : Nat := ceilDiv d.elems 4096

/-- Elements of segment s. -/
def Desc.segLen (d : Desc) (s : Nat) : Nat := min 4096 (d.elems - 4096 * s)

def Plan.owner (p : Plan) (s : Nat) : Nat := s % p.k
def Plan.nOwn (p : Plan) (d : Desc) : Nat := ceilDiv d.nseg p.k

/-- The segments that this rank owns. -/
def Plan.owned (p : Plan) (d : Desc) : List Nat := (List.range d.nseg).filter fun s => p.owner s == p.rank

/-- Elements of a group of poison (R328). -/
def groupLen (w : Nat) : Nat := let n := NumWord.of w; if n.isBlock then n.block else 32

def groupsOf (w len : Nat) : Nat := ceilDiv len (groupLen w)

/-- Bits of a code of a word. -/
def wordBits (w : Nat) : Nat := match Fmt.ofCode (NumWord.of w).fmtCode with
  | some f => f.bits
  | none => 0

/-- Bytes of a payload of n elements: codes, then one scale byte for each block (R330). -/
def payloadLen (w n : Nat) : Nat :=
  ceilDiv (n * wordBits w) 8 + (if (NumWord.of w).isBlock then groupsOf w n else 0)

/-- slot_bytes (R331). -/
def slotBytes (p : Plan) (d : Desc) : Nat :=
  ceilDiv (64 + max (payloadLen p.wire 4096) (payloadLen d.num 4096)) 64 * 64

/-! ### Encoding a segment (R329, R333) -/

/-- An encoded segment: codes, scale bytes without sequence bits, poison map by group, ledger update. -/
structure SegEnc where
  codes  : List Nat
  scales : List Nat
  poison : List Bool
  led    : Led

/-- Encode one group (R329): poisoned when an element or the encoding is not finite, or when `pz` says so. A poisoned
group of a contribution is sent as zeros. -/
def encodeGroup (env : KEnv) (w t first : Nat) (off : Nat) (zero : Bool) (pz : Bool) (xs : List KIn) :
    List Nat × Option Nat × Bool × Led :=
  let n := NumWord.of w
  match Fmt.ofCode n.fmtCode with
  | none => (xs.map fun _ => 0, none, pz, Led.zero)
  | some f =>
    let idx (j : Nat) : Nat := first + j + off
    let r : List Nat × Option Nat × Led :=
      if n.isBlock then
        let b := encodeBlock env f n t idx (xs.map some)
        (b.1, some b.2.1, b.2.2)
      else
        let b := encodeFlatRow env f n (some 0) 0 idx (xs.map some)
        (b.codes, none, b.led)
    let bad := pz || (zero && r.2.2.flags.getLsbD 0)
    if bad && zero then (xs.map fun _ => 0, r.2.1.map fun _ => 0, true, Led.nonfin true)
    else (r.1, r.2.1, bad, r.2.2)

/-- Encode a segment group by group: `first` is its first linear index, `off` an offset of the random index, `zero`
whether poisoned groups become zeros. -/
def encodeSeg (env : KEnv) (w t first off : Nat) (zero : Bool) (pz : List Bool) (xs : List KIn) : SegEnc :=
  let g := groupLen w
  let outs := (cutInto g (xs.length / g + 1) xs).zipIdx.map fun p =>
    encodeGroup env w t (first + g * p.2) off zero (pz.getD p.2 false) p.1
  { codes := outs.flatMap fun o => o.1, scales := outs.filterMap fun o => o.2.1, poison := outs.map fun o => o.2.2.1,
    led := Led.sum (outs.map fun o => o.2.2.2) }

/-- Codes packed into bytes, least significant first (R54). -/
def packCodes (bits : Nat) (codes : List Nat) : List Byte :=
  let per := if bits < 8 then 8 / bits else 1
  if bits < 8 then
    (cutInto per (codes.length / per + 1) codes).map fun g =>
      BitVec.ofNat 8 (g.zipIdx.foldl (fun a q => a + q.1 * 2 ^ (q.2 * bits)) 0)
  else codes.flatMap fun c => leBytes (bits / 8) c

/-- The payload of a segment (R330). -/
def SegEnc.payload (e : SegEnc) (w : Nat) : List Byte :=
  packCodes (wordBits w) e.codes ++ e.scales.map fun b => BitVec.ofNat 8 (b % 128)

/-- The code at place i of a payload. -/
def payloadCode (bits : Nat) (bs : List Byte) (i : Nat) : Nat :=
  if bits < 8 then
    let per := 8 / bits
    ((bs.getD (i / per) 0).toNat >>> (i % per * bits)) % 2 ^ bits
  else ofLeBytes ((bs.drop (i * (bits / 8))).take (bits / 8))

/-- The exact values of a payload of n elements (R51, R52, R329). -/
def decodePayload (tabs : List (BitVec 16)) (w t n : Nat) (bs : List Byte) : List XV :=
  let nw := NumWord.of w
  match Fmt.ofCode nw.fmtCode with
  | none => List.replicate n .zero
  | some f =>
    let codes := ceilDiv (n * f.bits) 8
    (List.range n).map fun i =>
      let c := decodeCode tabs f nw.mode 0 (payloadCode f.bits bs i)
      if nw.isBlock then
        let b := (bs.getD (codes + i / nw.block) 0).toNat % 128
        let k := addExp (scaleExp nw.mode b) (if nw.mode = 5 then scaleExp 5 t else some 0)
        applyScale f c k
      else c

/-! ### Packets (R330) -/

/-- The bits of a poison map as bytes. -/
def mapBytes (p : List Bool) : List Byte :=
  leBytes 32 (p.zipIdx.foldl (fun a q => a + flagAt q.1 q.2) 0)

/-- A packet: header and payload. -/
def packet (phase sender receiver step tag seg w groups : Nat) (poison : List Bool) (payload : List Byte) : List Byte :=
  let head := leBytes 4 (1 + phase * 256 + flagAt (poison.any id) 16) ++ leBytes 2 sender ++ leBytes 2 receiver
    ++ leBytes 4 step ++ leBytes 4 tag ++ leBytes 4 seg ++ leBytes 2 w ++ leBytes 2 groups
  let m := mapBytes poison
  head ++ leBytes 8 (crc64 (head ++ m ++ payload)) ++ m ++ payload

def pktField (bs : List Byte) (o k : Nat) : Nat := ofLeBytes ((bs.drop o).take k)

/-- The poison map of a packet, group by group. -/
def pktMap (bs : List Byte) (n : Nat) : List Bool := let v := pktField bs 32 32; (List.range n).map fun g => v.testBit g

/-- An awaited slot (R331, R332): its index in the receive window, phase, sender, segment. -/
structure Await where
  slot   : Nat
  phase  : Nat
  sender : Nat
  seg    : Nat
deriving DecidableEq, Repr

/-- The slots that a rank awaits (R328, R331). -/
def Plan.awaits (p : Plan) (d : Desc) : List Await :=
  let n := p.nOwn d
  let reduce := (p.owned d).flatMap fun s => ((List.range p.k).filter (· != p.rank)).map fun q =>
    { slot := q * n + s / p.k, phase := 0, sender := q, seg := s : Await }
  let gather := ((List.range d.nseg).filter fun s => p.owner s != p.rank).map fun s =>
    { slot := p.k * n + s, phase := 1, sender := p.owner s, seg := s : Await }
  (if p.op = 2 then [] else reduce) ++ gather

/-- The payload and group count that an awaited packet has. -/
def Plan.expect (p : Plan) (d : Desc) (a : Await) : Nat × Nat × Nat :=
  if a.phase = 0 then (p.wire, groupsOf p.wire (d.segLen a.seg), payloadLen p.wire (d.segLen a.seg))
  else if p.op = 1 then (d.num, 0, 0)
  else (d.num, groupsOf d.num (d.segLen a.seg), payloadLen d.num (d.segLen a.seg))

/-- The header of a slot is that of the awaited packet (R332). -/
def Plan.headerIs (p : Plan) (a : Await) (bs : List Byte) : Bool :=
  decide (pktField bs 0 1 = 1) && decide (pktField bs 1 1 = a.phase) && decide (pktField bs 4 2 = a.sender)
    && decide (pktField bs 6 2 = p.rank) && decide (pktField bs 8 4 = p.step) && decide (pktField bs 12 4 = p.tag)
    && decide (pktField bs 16 4 = a.seg)

/-- The code that an accepted packet ends the collective with, 0 for none (R332). Groups of a payload-free packet of op 1
stay 0, whose map speaks of the result's groups. -/
def Plan.packetCode (p : Plan) (d : Desc) (a : Await) (bs : List Byte) : Nat :=
  let e := p.expect d a
  let pay := (bs.drop 64).take e.2.2
  if pktField bs 24 8 ≠ crc64 (bs.take 24 ++ (bs.drop 32).take 32 ++ pay) then errCollCheck
  else if pktField bs 20 2 ≠ e.1 ∨ pktField bs 22 2 ≠ e.2.1
      ∨ bitOf (pktField bs 0 4) 16 ≠ decide (pktField bs 32 32 ≠ 0) then errCollMismatch
  else 0

/-! ### A rank's own contribution (R329) -/

/-- The values of the source in linear order, rotated forward when the request says so, and before a rotation. -/
def sourceVals (ws : List Word) (sign : Nat) (tabs : List (BitVec 16)) (s : Desc) (f : Fmt) (src : Src) :
    List XV × List XV :=
  let fw := ws.set 6 (wordAt ws 6 &&& 0xFFFFFFF7#32)
  let rows := s.rows.map fun r => rowVals fw sign tabs s f (fun a => (src a).1) r.1 r.2.1 r.2.2
  (rows.flatMap Prod.fst, rows.flatMap Prod.snd)

/-- The random key of a plan: domain 2 (R329, R333). -/
def Plan.env (p : Plan) (tabs : List (BitVec 16)) : KEnv :=
  { tabs := tabs, seed := p.pseed, dom := 2, step := p.step, tag := p.tag }

/-- Groups of a segment that hold a non-finite source element (R329). -/
def sourcePoison (w : Nat) (xs : List XV) : List Bool :=
  let g := groupLen w
  (cutInto g (xs.length / g + 1) xs).map fun q => q.any fun x => !x.isFin

/-- This rank's encoding of segment s of its source under word w, with an offset of the random index (R329, R333). -/
def contribution (p : Plan) (d : Desc) (tabs : List (BitVec 16)) (w t off s : Nat) (tw : Bool) (vs ys : List XV) : SegEnc :=
  let n := d.segLen s
  let cut (l : List XV) : List XV := (l.drop (4096 * s)).take n
  encodeSeg (p.env tabs) w t (4096 * s) off true (sourcePoison w (cut vs))
    ((cut ys).map (if tw then KIn.tw else KIn.plain))

/-! ### The owner's reduction (R333) -/

/-- Reduce a segment: the packets of every rank in rank order, as (poison map, values); the sums with the elements that
count as poisoned, and whether an addition went non-finite (R137). -/
def reduceSeg (p : Plan) (n : Nat) (pkts : List (List Bool × List XV)) : List (Tw × Bool) × Bool :=
  let g := groupLen p.wire
  let sums := (List.range n).map fun e =>
    pkts.foldl (fun (acc : Tw × Bool × Bool) q =>
      if q.1.getD (e / g) false then (acc.1, true, acc.2.2)
      else
        let y := Tw.ofVal (q.2.getD e .zero)
        (twAdd acc.1 y, acc.2.1, acc.2.2 || twAddFlags acc.1 y)) (Tw.zero, false, false)
  (sums.map fun r => (r.1, r.2.1 || !f32IsFinite r.1.hi), sums.any fun r => r.2.2)

/-- The result of an owned segment under the destination word, with the ledger update of its additions (R137, R333). An element whose
sum is not finite is encoded as +0 and counts as that finite input (R102; DESIGN CHOICE, log entry 109). -/
def resultSeg (p : Plan) (d : Desc) (tabs : List (BitVec 16)) (s : Nat) (red : List (Tw × Bool) × Bool) : SegEnc :=
  let g := groupLen d.num
  let pz := (cutInto g (red.1.length / g + 1) red.1).map fun q => q.any Prod.snd
  let enc := encodeSeg (p.env tabs) d.num p.destT (4096 * s) 0 false pz
    (red.1.map fun q => if f32IsFinite q.1.hi then KIn.tw q.1.val else KIn.plain .zero)
  { enc with led := enc.led.add (Led.nonfin red.2) }

/-! ### The commit (R334) -/

/-- A segment of the destination: its codes and scale bytes. -/
def segCodes (d : Desc) (s : Nat) (payload : List Byte) : List Byte × List Byte :=
  let n := ceilDiv (d.segLen s * d.bits) 8
  (payload.take n, payload.drop n)

/-- The destination image of a collective: the segments it writes, and the tail (R333, R334). -/
def collImg (p : Plan) (d : Desc) (segs : List (Nat × List Byte)) : List XByte × List XByte :=
  let ea := d.elemAddrs
  let sa := d.scaleAddrs
  let elems := segs.flatMap fun q =>
    let bs := (segCodes d q.1 q.2).1
    ((ea.drop (4096 * q.1 * d.bits / 8)).zip bs).map fun r => { addr := r.1, byte := r.2, bad := false : XByte }
  let scales := segs.flatMap fun q =>
    let first := 4096 * q.1 / d.nw.block
    (segCodes d q.1 q.2).2.zipIdx.map fun r =>
      { addr := sa.getD (first + r.2) 0, byte := seqByte d.seed (first + r.2) r.1.toNat, bad := false : XByte }
  let tail := if d.nw.checked then (d.tailBytes p.destT).map fun r => { addr := r.1, byte := r.2, bad := false : XByte }
    else []
  (elems, if d.nw.isBlock then scales ++ tail else [])

/-- The result record (R334). -/
def resultRecord (p : Plan) (d : Desc) (maps : List (List Bool)) (segs : List (Nat × List Byte)) : List Byte :=
  let n := (maps.map fun m => (m.filter id).length).sum
  leBytes 4 (if n = 0 then 0 else 1) ++ leBytes 4 n ++ leBytes 4 p.k ++ leBytes 4 d.nseg ++ leBytes 4 p.step
    ++ leBytes 4 p.tag ++ leBytes 8 (crc64 (segs.flatMap Prod.snd))

end Sys2Proof.Machine
end

