-- ==== Sys2Proof/Machine/Adds.lean ====
section
/-! DEFINITION. The adds of a cell in progress (R122, R129, R130, R189): their sums, and the order in which they load and store. -/

namespace Sys2Proof.Machine

/-- The TW64 tile in 128 lines from a first line (R45, R123). -/
def tileFrom (ls : List SpLine) (line0 : Nat) : List Tw :=
  (List.range 128).flatMap fun j =>
    let w := match ls.find? (fun l => l.line == line0 + j) with
      | some l => l.data.toNat
      | none => 0
    (List.range 8).map fun e => { lo := BitVec.ofNat 32 (w >>> (64 * e)), hi := BitVec.ofNat 32 (w >>> (64 * e + 32)) }

/-- Line j of a TW64 tile in memory (R123). -/
def tileLine (ts : List Tw) (j : Nat) : Line :=
  BitVec.ofNat 512 (((ts.drop (8 * j)).take 8).foldr (fun t acc => t.lo.toNat + t.hi.toNat * 2 ^ 32 + 2 ^ 64 * acc) 0)

/-- The first line of a half of a cask's range (R123). -/
def Cask.half (q : Cask) (h : Nat) : Nat := (q.base + 0x2000 * h) / 64

/-- The first add of an init = 0 cask discards the data it loads (R130). -/
def Cask.discards (q : Cask) : Bool := decide (q.D = 0) && !q.init

/-- The elements of a complete drained tile, in row order (R150). -/
def Cell.tileWords (c : Cell) (id : Nat) : List Word := (c.tileBeats id).flatten

/-- The source elements of an add, when they are all there (R130, R150). -/
def Cell.addSource (c : Cell) (a : CaskAdd) : Option (List Tw) :=
  match a.src with
  | .words ts => some ts
  | .tile id => if (c.tileBeats id).length = 4 then some ((c.tileWords id).map Tw.of32) else none

/-- The sums of an add (R130, R189) and whether an addition or the row sum went non-finite (R137). -/
def addSums (q : Cask) (a : CaskAdd) (old src : List Tw) : List Tw × List RowState × Bool :=
  let al (r : Nat) : Word := a.stepAt r 5
  let mu (r : Nat) : Word := a.stepAt r 6
  let os := lanes.zip (old.zip src) |>.map fun p =>
    if q.chain then (twScale p.2.1 (al p.1.1), twScale p.2.2 (mu p.1.1)) else p.2
  let rows := q.rows.zipIdx.map fun p =>
    let r := p.2
    let inc : Tw := { hi := a.stepAt r 2, lo := a.stepAt r 3 }
    let x := twScale p.1.l (al r)
    let y := twScale inc (mu r)
    ({ p.1 with l := twAdd x y, posC := p.1.posC + (a.stepAt r 4).toNat, mC := a.stepAt r 1 }, twAddFlags x y)
  (os.map fun p => twAdd p.1 p.2, rows.map Prod.fst,
    (os.any fun p => twAddFlags p.1 p.2) || rows.any Prod.snd)

/-- The add at the head of a cask whose sums can be formed: its load is complete, its source is there. -/
def Cell.addReady (c : Cell) (e : Nat) : Option (Cask × CaskAdd × List SpLine × List Tw) :=
  match c.casks.find? (fun p => p.1 == e) with
  | none => none
  | some p =>
    match p.2.adds with
    | [] => none
    | a :: _ =>
      match a.load, c.addSource a with
      | some ls, some src =>
        if ls.length = 128 then some (p.2, a, ls, src) else none
      | _, _ => none

/-- The committed sum S_(k-1) that an add adds onto (R130). -/
def Cask.addOnto (q : Cask) (ls : List SpLine) (src : List Tw) : List Tw :=
  if q.discards then src.map fun _ => Tw.zero else tileFrom ls (q.half (q.D % 2))

/-- The store of the sums of the add at the head of a cask begins as soon as they can be formed: 32 rows into the half
that holds no committed sum (R130). -/
def Cell.startStore (c : Cell) (e : Nat) : Cell :=
  match (if c.paused then none else c.addReady e) with
  | none => c
  | some (q, a, ls, src) =>
    if a.storing then c
    else
      let sums := (addSums q a (q.addOnto ls src) src).1
      { c.setCask e { q with adds := { a with storing := true } :: q.adds.drop 1 } with
        spWrites := c.spWrites ++ (List.range 32).map fun j => show SpWrite from
          { line := q.half ((q.D + 1) % 2) + 4 * j
            outs := (List.range 4).map fun i => { data := tileLine sums (4 * j + i), be := BitVec.allOnes 64, poison := false }
            who := .add e, rank := 2, index := a.index, iter := a.iter } }

/-- The sums of the add at the head of a cask are being stored. -/
def Cell.storing (c : Cell) (e : Nat) : Bool := c.casks.any fun p => decide (p.1 = e) && (match p.2.adds with
  | a :: _ => a.storing
  | [] => false)

/-- The stores that may begin do (R122, R129): that of the cell's first add in issue order, and, once its sums are formed, that
of the second one into another cask. -/
def Cell.startStores (c : Cell) : Cell :=
  match c.addQ with
  | [] => c
  | a :: rest =>
    let c1 := c.startStore a.2
    match rest with
    | [] => c1
    | b :: _ => if b.2 ≠ a.2 ∧ c1.storing a.2 then c1.startStore b.2 else c1

/-- The adds of the cell go on: loads and stores that may begin do (R122, R129, R130). -/
def Cell.runAdds (c : Cell) : Cell := c.startLoads.startStores

/-- The add waits, or an earlier one of its slot or of its cask does (R129, R217): the numbers of those slots and entries are
collected in issue order. -/
def Cell.heldAdds (c : Cell) : List (Nat × CaskAdd) :=
  (c.addsInOrder.foldl (fun (k : List (Nat × CaskAdd)) p =>
    if (c.addSource p.2).isNone || k.any fun q => q.1 == p.1 || q.2.slot == p.2.slot then k ++ [p] else k) [])

/-- The adds of a channel that stops and that cannot commit let every other add of the cell pass (R142): they wait behind them,
and what they have loaded is dropped. -/
def Cell.parkAdds (c : Cell) (own : Nat) : Cell :=
  let held := c.heldAdds.filter fun p => c.casks.any fun q => q.1 == p.1 && q.2.owner == own
  let isHeld (p : Nat × CaskAdd) : Bool := held.contains p
  let order := (c.addsInOrder.filter fun p => !isHeld p) ++ held
  let heads := c.casks.filterMap fun p => match p.2.adds with
    | a :: _ => if isHeld (p.1, a) then some p.1 else none
    | [] => none
  let c1 := heads.foldl (fun c e => c.orphan (.add e)) c
  { c1 with
    addQ := order.map fun p => (p.2.slot, p.1)
    casks := c1.casks.map fun p => (p.1, { p.2 with
      adds := p.2.adds.map fun a => if isHeld (p.1, a) then { a with load := none, storing := false } else a }) }

end Sys2Proof.Machine
end

