-- ==== Sys2Proof/Machine/Issue.lean ====
section
/-! DEFINITION. How an instruction of a tile program runs: translation and scratchpad reads (R21, R296 to R301, R421), errors,
the end of a tile and of a program (R213 to R221, R244). -/

namespace Sys2Proof.Machine

/-- Change a slot. -/
def Run.modSlot (r : Run) (n k : Nat) (f : Slot → Slot) : Run := r.setSlot n k (f (r.slot n k))

/-- The instruction at index i of a slot's program. -/
def Slot.opAt (s : Slot) (i : Nat) : Option TileOp := s.prog[i]?.bind decodeTile

/-- The next instruction of a slot. -/
def Slot.nextOp (s : Slot) : Option TileOp := s.opAt s.idx

/-- What an error of a feed request does to the casks of its consumers: poison discards those that inherited its windows
(R140), GATHER_RANGE leaves the adds that wait for its product uncommitted (R164). -/
def Cell.feedError (c : Cell) (k code : Nat) : Cell :=
  if code = errPoison then (c.dropWins k).runAdds
  else if code = errGather then (c.dropWaiting k).runAdds
  else c

/-- An instruction of the slot ends with an error: its own index and counters (R220). -/
def Run.failHere (r : Run) (n k code : Nat) : Run :=
  let c := r.cell n
  let s := c.slot k
  let c1 := match s.nextOp with
    | some o => if o.isFeed then c.feedError k code else c
    | none => c
  (r.setCell n c1).fail n k code s.idx s.counters4

/-! ### Translation (R296 to R299) -/

/-- The entry of the translation cache that holds a page (R297). -/
def Inst.tlbFind (x : Inst) (asid : BitVec 16) (vpn : Nat) : Option TlbEntry :=
  x.tlb.find? fun t => decide (t.asid = asid) && decide (t.vpn ≤ vpn) && decide (vpn < t.vpn + t.pages)

/-- The window offset of a physical page, none outside the cell's aperture (R299, R423): the aperture of a window is the
256 pages of one MiB, win_base is its number. -/
def Inst.aperture (x : Inst) (n ppn : Nat) : Option Nat :=
  if ppn / 256 = (wordAt x.winBase n).toNat then some (ppn % 256 * 4096) else none

/-- What became of the translation of some addresses: window offsets of their virtual pages with the cache entries used,
a page that missed, or an error. -/
inductive Trans where
  | ok (pages : List (Nat × Nat)) (used : List (Nat × Nat))
  | miss (vpn : Nat)
  | err (code : Nat)
deriving DecidableEq, Repr

/-- Translate the pages of a list (R299). -/
def Inst.transPages (x : Inst) (n : Nat) (asid : BitVec 16) (write : Bool) : List Nat → Trans
  | [] => .ok [] []
  | v :: vs =>
    match x.tlbFind asid v with
    | none => .miss v
    | some t =>
      if !(if write then t.w else t.r) then .err errXlate
      else match x.aperture n (t.ppn + (v - t.vpn)) with
        | none => .err errSpRange
        | some o => match x.transPages n asid write vs with
          | .ok ps us => .ok ((v, o) :: ps) ((t.vpn, t.pages) :: us)
          | q => q

/-- Translate addresses; a window address beyond the window is SP_RANGE (R21, R293). -/
def Inst.trans (x : Inst) (n : Nat) (asid : BitVec 16) (write : Bool) (as : List Adr) : Trans :=
  if as.any fun a => !a.virt && decide (2 ^ 20 ≤ a.addr) then .err errSpRange
  else x.transPages n asid write ((as.filter (·.virt)).map fun a => a.addr / 4096).eraseDups

/-- The window offset of an address under a translation. -/
def offOf (pages : List (Nat × Nat)) (a : Adr) : Nat :=
  if a.virt then
    (match pages.find? (fun p => p.1 == a.addr / 4096) with
      | some p => p.2
      | none => 0) + a.addr % 4096
  else a.addr

/-- The lowest tag that no request carries; there are 1,024 (R296). -/
def Inst.freeTag (x : Inst) : Option Nat :=
  ((List.range (x.xreqs.length + 1)).find? fun t => x.xreqs.all fun q => q.tag != t).filter fun t => decide (t < 1024)

/-- Ask the host for a translation (R296). -/
def Inst.askXlate (x : Inst) (asid : BitVec 16) (vpn : Nat) (write : Bool) (who : XlWho) : Inst :=
  match x.freeTag with
  | none => x
  | some t =>
    { x with xreqs := x.xreqs ++ [{ tag := t, asid := asid, vpn := vpn, write := write, pending := false, who := who }] }

/-- Translate for a slot: window offsets, or the run in which it waits or has ended. The pages used are kept with the
tile (R298). -/
def Run.resolve (_ : Env) (r : Run) (n k : Nat) (write : Bool) (as : List Adr) : Except Run (Run × List (Nat × Nat)) :=
  let asid := (r.x.vc (ownerOf (r.slot n k).launch)).asid
  match r.x.trans n asid write as with
  | .ok ps us => .ok (r.modSlot n k fun s => { s with tile := { s.tile with used := (s.tile.used ++ us).eraseDups } }, ps)
  | .miss v =>
    let r1 := r.modSlot n k fun s => { s with wait := .xlate }
    .error { r1 with x := r1.x.askXlate asid v write (.slot n k) }
  | .err code => .error (r.failHere n k code)

/-- Some address lies in the range of an open cask; a VLD by the cask's channel is let through (R135). -/
def Cell.caskHit (c : Cell) (reader : Option Nat) (offs : List Nat) : Bool :=
  c.casks.any fun p =>
    decide (reader ≠ some p.2.owner) && offs.any fun o => decide (p.2.base ≤ o) && decide (o < p.2.base + 0x4000)

/-- The error of a line's response (R301, R421). -/
def respErr (resp : BitVec 2) : Nat := if resp = 0 then 0 else if resp = 2 then errPoison else errMemRead

/-- Byte o of the window in lines that were read. -/
def bufByte (buf : List SpLine) (o : Nat) : Nat :=
  match buf.find? (fun l => l.line == o / 64) with
  | some l => (lineByte l.data (o % 64)).toNat
  | none => 0

/-- Lines to be read for a slot that it does not hold. -/
def missing (buf : List SpLine) (lines : List Nat) : List Nat := lines.filter fun l => buf.all fun b => b.line != l

/-- Lines grouped into requests of 1 to 4 consecutive ones: first line and number (R421). -/
def runsOf : List Nat → List (Nat × Nat)
  | [] => []
  | l :: ls => match runsOf ls with
    | (m, n) :: rest => if m = l + 1 ∧ n < 4 then (l, n + 1) :: rest else (l, 1) :: (m, n) :: rest
    | [] => [(l, 1)]

/-- Request lines on the scratchpad port (R22, R421). -/
def Cell.request (c : Cell) (who : SpWho) (rank : Nat) (lines : List Nat) : Cell :=
  { c with spReads := c.spReads ++ (runsOf lines).map fun p => { line := p.1, n := p.2, who := who, rank := rank } }

/-- The priority of an instruction's reads (R22): 2 for the expansion unit, 3 for the tile unit. R22 names VLD alone of the tile
unit's reads; that every other read of an instruction takes 3 is the model's choice (DESIGN CHOICE, log entry 37). -/
def TileOp.readRank (o : TileOp) : Nat := if o.isFeed then 2 else 3

/-- Some address lies in the range of a cask that an uncommitted add of the slot writes (R218). -/
def Cell.addsWrite (c : Cell) (k : Nat) (offs : List Nat) : Bool :=
  c.casks.any fun p => p.2.adds.any (fun a => a.slot == k)
    && offs.any fun o => decide (p.2.base ≤ o) && decide (o < p.2.base + 0x4000)

/-- Read bytes for a slot: translation, the cask ranges (R135), the slot's earlier adds that write there (R218), the lines
still missing, then the first bad response. -/
def Run.fetch (e : Env) (r : Run) (n k : Nat) (as : List Adr) : Except Run (Run × Rd) :=
  match r.resolve e n k false as with
  | .error q => .error q
  | .ok (r1, ps) =>
    let offs := as.map (offOf ps)
    let c := r1.cell n
    let s := c.slot k
    let vld := match s.nextOp with
      | some o => o.isVld
      | none => false
    if c.caskHit (if vld then some (ownerOf s.launch) else none) offs then .error (r1.failHere n k errCaskOverlap)
    else if c.addsWrite k offs then .error (r1.setCell n (c.setSlot k { s with wait := .adds }))
    else
      let lines := (offs.map (· / 64)).eraseDups
      let need := missing s.readBuf lines
      if !need.isEmpty then
        let rank := match s.nextOp with
          | some o => o.readRank
          | none => 3
        .error (r1.setCell n ((c.request (.slot k) rank need).setSlot k { s with wait := .lines }))
      else
        match s.readBuf.find? (fun b => lines.contains b.line && decide (b.resp ≠ 0)) with
        | some b => .error (r1.failHere n k (respErr b.resp))
        | none => .ok (r1, fun a => bufByte s.readBuf (offOf ps a))

/-- The end of an instruction that ran: the next one may issue. -/
def Slot.next (s : Slot) : Slot := { s with idx := s.idx + 1, wait := .ready }

/-- Write registers, in order. -/
def Cell.writeRegs (c : Cell) (vits : List (Nat × List Word)) (masks : List (Nat × Mask)) : Cell :=
  masks.foldl (fun c p => c.setMask p.1 p.2) (vits.foldl (fun c p => c.setVit p.1 p.2) c)

/-- Add ledger updates to the tile. -/
def Slot.addLed (s : Slot) (l : Led) : Slot := { s with tile := { s.tile with led := s.tile.led.add l } }

/-- A checked stream failed (R115, R116, R229): the record of the cell, and for a feed request the casks that inherited
its windows and every tile of the slot that has not committed. -/
def Run.streamFail (r : Run) (n k : Nat) (feed : Bool) (pos : Nat) (isTail : Bool) : Run :=
  let code := if isTail then errScaleTail else errScaleSeq
  let c := (r.cell n).noteScale pos isTail
  if !feed then (r.setCell n c).failHere n k code
  else
    let s := c.slot k
    let first := match c.addsInOrder.find? (fun q => q.2.slot == k) with
      | some q => q.2.index
      | none => s.tile.start
    let c1 := ((c.dropWins k).dropAdds false k).runAdds
    (r.setCell n c1).fail n k code first s.counters4

/-- The first failure among the streams that an instruction compared (R111): that of the first one with a failing sequence bit, else
of the first one (DESIGN CHOICE: R116 does not say which stream's position stands, log entry 112). -/
def firstFail (cs : List Check) (rd : Rd) : Option (Nat × Bool) :=
  let fs := cs.filterMap fun c => c.d.streamFail (c.d.rd rd) c.ps
  match fs.find? (fun f => !f.2) with
  | some f => some f
  | none => fs.head?

/-- The window offsets of output bytes: translated before the commit point (R299), never in a cask's range (R135). -/
def Run.place (e : Env) (r : Run) (n k : Nat) (ws : List (Adr × Byte)) : Except Run (Run × List TileWrite) :=
  match r.resolve e n k true (ws.map Prod.fst) with
  | .error q => .error q
  | .ok (r1, ps) =>
    let offs := ws.map fun w => offOf ps w.1
    if (r1.cell n).caskHit none offs then .error (r1.failHere n k errCaskOverlap)
    else
      let i := (r1.slot n k).idx
      .ok (r1, (ws.zip offs).map fun p => { addr := p.2, byte := p.1.2, index := i })

/-- Apply an instruction's output to registers, commit buffer and ledger. -/
def Run.applyOut (r : Run) (n k : Nat) (o : MemOut) (ws : List TileWrite) : Run :=
  let c := (r.cell n).writeRegs o.vits o.masks
  let s := (c.slot k).addLed o.led
  r.setCell n (c.setSlot k { s with tile := { s.tile with writes := s.tile.writes ++ ws } }.next)

/-- Casks with adds of the slot whose beats have not all arrived inherit the windows of a feed request that opens now
(R143, R229). Every window line is there before the first operand vector is (log entry 96), so no consumer that issues
later inherits one. -/
def Cell.openWins (c : Cell) (k : Nat) : Cell :=
  { c with casks := c.casks.map fun p =>
      if p.2.adds.any (fun a => a.slot == k && c.waitsBeats a) then (p.1, { p.2 with wins := (p.2.wins ++ [k]).eraseDups }) else p }

/-- The ledger events of feed requests that no consumer has taken yet (R159). -/
def Slot.feedEvents (s : Slot) : Led := s.feedOld.add (Led.sum (s.feedNew.map Prod.snd))

/-- A consumer in the tile in progress takes them: they commit with the tile (R103, R159). -/
def Slot.takeFeeds (s : Slot) : Slot :=
  { s with feedOld := Led.zero, feedNew := [], tile := { s.tile with led := s.tile.led.add s.feedEvents } }

/-- An earlier add of the slot takes them: a re-run of the tile in progress does not make them again (R159, R219). -/
def Slot.giveFeeds (s : Slot) : Slot :=
  { s with feedOld := Led.zero, feedNew := []
           tile := { s.tile with given := s.tile.given ++ s.feedNew.map Prod.fst, feed0 := Led.zero } }

/-- The slot begins a tile at its present index. -/
def Slot.newTile (s : Slot) : Slot :=
  { s with feedOld := s.feedEvents, feedNew := [], tile := TileBuf.at s.idx s.loop s.mash s.feedEvents, readBuf := [] }

/-- Apply a feed request: its operand vectors wait at the port, but for those that the multiplier took before a re-run
(R219); its ledger events wait for its consumer (R159; log entry 97); its windows are closed. -/
def Run.applyFeed (r : Run) (n k : Nat) (o : MemOut) : Run :=
  let c := (r.cell n).closeWins k
  let s := c.slot k
  let t := s.tile
  let old := min t.fedOld o.feed.length
  let s1 := { s with
    feedNew := if t.given.contains t.feeds then s.feedNew else s.feedNew ++ [(t.feeds, o.led)]
    tile := { t with feeds := t.feeds + 1, fedOld := t.fedOld - old } }
  let c1 := { c with feedQ := c.feedQ ++ (o.feed.drop old).map fun (v : FeedVec) => { v with slot := k } }
  r.setCell n (c1.setSlot k s1.next)

/-- Hold a gather for the commit of its tile (R82, R217). -/
def Run.applyGather (r : Run) (n k : Nat) (g : Gather) : Run :=
  r.modSlot n k fun s => { s.next with tile := { s.tile with gathers := s.tile.gathers ++ [g] } }

/-- Run an instruction that reads or writes memory. -/
def Run.memIssue (e : Env) (r : Run) (n k : Nat) (feed : Bool) (ask : Except MemStop MemAsk) : Run :=
  match ask with
  | .error (.err code) => r.failHere n k code
  | .error .empty => r.modSlot n k fun s => { s.next with empty := true }
  | .ok a =>
    let r0 := if feed then r.setCell n ((r.cell n).openWins k) else r
    match r0.fetch e n k a.pre with
    | .error q => q
    | .ok (r1, rd1) =>
      match a.plan rd1 with
      | .error code => r1.failHere n k code
      | .ok p =>
        match r1.fetch e n k p.reads with
        | .error q => q
        | .ok (r2, rd) =>
          match firstFail p.checks rd with
          | some f => r2.streamFail n k feed f.1 f.2
          | none =>
            match p.fin rd with
            | .error code => r2.failHere n k code
            | .ok o =>
              match r2.place e n k o.writes with
              | .error q => q
              | .ok (r3, ws) => match o.gather with
                | some g => r3.applyGather n k g
                | none => if feed then r3.applyFeed n k o else r3.applyOut n k o ws

/-! ### The end of a tile and of a program -/

/-- End the program when every tile of it has ended (R206, R217, R220); with INST_FAILED in a fail-stopped instance (R389). -/
def Run.endIfDone (r : Run) (n k : Nat) : Run :=
  let c := r.cell n
  let s := c.slot k
  if s.phase = .running ∧ !c.addsOpen k then
    match s.wait with
    | .fail code index counters => r.endProgram n k code false index counters
    | .ready =>
      if s.idx = s.prog.length ∧ s.tile.start = s.idx then
        if r.x.flt.failstop then r.endProgram n k errInstFailed false (s.idx - 1) s.counters4 else r.endProgram n k 0 false 0 []
      else r
    | _ => r
  else r

/-- A tile has ended at the present index: the next iteration, or the next tile, or the end of the program (R213,
R217). -/
def Run.advance (r : Run) (n k : Nat) : Run :=
  let s := r.slot n k
  let s1 : Slot := match s.loop with
    | some l =>
      if s.idx = l.start + l.len then
        if l.it + 1 < l.total then { s with idx := l.start, loop := some { l with it := l.it + 1 } }
        else { s with loop := none }
      else s
    | none => s
  (r.setSlot n k { s1.newTile with wait := .ready }).endIfDone n k

/-- The effects of a tile whose last byte is acknowledged (R217, R300): ledger, fence increments, summaries, bound tiles,
the close of a drain (R131). -/
def Run.applyTile (r : Run) (n k : Nat) : Run :=
  let s := r.slot n k
  let v := ownerOf s.launch
  let x := r.x.book v (s.tile.led.add { Led.zero with tiles := 1 })
  let flags := (x.vc v).led.flags
  let c0 := (s.tile.bound ++ s.tile.kept).foldl Cell.freeTile ((x.cell n).settled k)
  let c1 := s.tile.sums.foldl (fun c m => c.postSummary (launchTag s.launch) m.code.toNat (match m.val with
    | some w => w
    | none => BitVec.ofNat 32 flags.toNat)) c0
  let c2 := match s.tile.closes with
    | some p => if c1.casks.any fun q => q.1 == p.1 && q.2.no == p.2 then (c1.releaseCask p.1).runAdds else c1
    | none => c1
  let r1 : Run := { r with x := x.setCell n c2 }
  let r2 := s.tile.sigs.foldl (fun r p => r.emit (.fenceAdd p.1 p.2)) r1
  r2.advance n k

/-- The bytes of one line of a commit buffer, later writes standing (R295). -/
def lineOut (ws : List TileWrite) (line : Nat) : SpOut :=
  let mine := ws.filter fun w => w.addr / 64 == line
  let bytes := mine.foldl (fun bs w => bs.set (w.addr % 64) (some w.byte)) (List.replicate 64 (none : Option Byte))
  { data := BitVec.ofNat 512 (bytes.foldr (fun b acc => (match b with
      | some x => x.toNat
      | none => 0) + 256 * acc) 0)
    be := BitVec.ofNat 64 (bytes.foldr (fun b acc => (if b.isSome then 1 else 0) + 2 * acc) 0)
    poison := false }

/-- The instruction whose bytes a line of a commit buffer carries: the last one that wrote it (R302). -/
def lineIndex (ws : List TileWrite) (line : Nat) : Nat :=
  match (ws.filter fun w => w.addr / 64 == line).getLast? with
  | some w => w.index
  | none => 0

/-- The priority of the write-out of an instruction's bytes (R22): 3 for VST, 1 for what leaves through the kiln's buffer; that the
records of RED, STEEP and the SCL fold leave there too is the model's choice (DESIGN CHOICE, log entry 37). -/
def writeRank : Option TileOp → Nat
  | some (.vst ..) => 3
  | _ => 1

/-- The write requests of a tile: each moves 1 to 4 consecutive lines of one instruction's bytes (R300, R421). -/
def Slot.writeOut (s : Slot) (k : Nat) : List SpWrite :=
  let ws := s.tile.writes
  let lines := (ws.map fun w => w.addr / 64).eraseDups
  ((lines.map (lineIndex ws)).eraseDups).flatMap fun i =>
    (runsOf (lines.filter fun l => lineIndex ws l == i)).map fun p =>
      { line := p.1, outs := (List.range p.2).map fun j => lineOut ws (p.1 + j), who := .slot k, rank := writeRank (s.opAt i),
        index := i, iter := 0 }

/-- A tile passes its commit point: its bytes leave the commit buffer (R300). -/
def Run.commitTile (r : Run) (n k : Nat) : Run :=
  let c := r.cell n
  let s := c.slot k
  let out := s.writeOut k
  if out.isEmpty then r.applyTile n k
  else r.setCell n ({ c with spWrites := c.spWrites ++ out }.setSlot k { s with wait := .commit out.length none })

/-- The lines of the window that hold 16-byte records at these offsets. -/
def recordLines (offs : List Nat) : List Nat := (offs.flatMap fun o => [o / 64, (o + 15) / 64]).eraseDups

/-- Another slot forms or writes the records of its gathers: a tile with gathers waits for it, so that they apply in commit
order (R82). -/
def Cell.gatherBusy (c : Cell) (k : Nat) : Bool :=
  c.slots.zipIdx.any fun p => decide (p.2 ≠ k) && (match p.1.wait with
    | .gather => true
    | .commit .. => !p.1.tile.gathers.isEmpty
    | _ => false)

/-- The records of a tile's gathers are formed, and the tile passes its commit point (R82, R300). -/
def Run.formTile (r : Run) (n k : Nat) : Run :=
  let s := r.slot n k
  let o := formGathers (bufByte s.readBuf) s.tile.gathers
  (r.setSlot n k { s with tile := { s.tile with writes := s.tile.writes ++ o.1, led := s.tile.led.add o.2 } }).commitTile n k

/-- A complete tile commits; one whose gathers accumulate first reads the records they accumulate onto (R82). -/
def Run.startCommit (r : Run) (n k : Nat) : Run :=
  let c := r.cell n
  let s := c.slot k
  let lines := recordLines (gatherBase s.tile.gathers)
  if s.tile.gathers.isEmpty then r.commitTile n k
  else if c.gatherBusy k then r
  else if lines.isEmpty then r.formTile n k
  else r.setCell n ((c.request (.slot k) 3 lines).setSlot k { s with readBuf := [], wait := .gather })

/-- The records that a tile's gathers accumulate onto have arrived; a bad answer ends the gather that reads it (R301). -/
def Run.gathersRead (r : Run) (n k : Nat) : Run :=
  let s := r.slot n k
  match s.readBuf.find? (fun l => decide (l.resp ≠ 0)) with
  | none => r.formTile n k
  | some l =>
    let at_ := s.tile.gathers.find? fun g => g.accum && (recordLines (g.recs.map Prod.fst)).contains l.line
    r.fail n k (respErr l.resp) (match at_ with
      | some g => g.index
      | none => s.idx) s.counters4

/-- The drain of a slot that is interrupted reads S_A again, from the committed half and not from a cask tile slot (R141). -/
def Cell.drainAgain (c : Cell) (k : Nat) : Cell :=
  let s := c.slot k
  match s.nextOp with
  | some (.caskDrain _ _ _ group ..) => match c.findCask (ownerOf s.launch) group with
    | some p => { c with caskSlots := c.caskSlots.filter fun q => q.entry != p.1 }
    | none => c
  | _ => c

/-- Abandon the tile in progress and start it again from its first instruction (R219, R301): it keeps its bound drained
tiles, and the operand vectors that the multiplier has accepted, or finds at the port, are not presented again. -/
def Run.rerun (r : Run) (n k : Nat) : Run :=
  let c := ((r.cell n).orphan (.slot k)).drainAgain k
  let s := c.slot k
  let t := s.tile
  let ids := s.fills.map Fill.id
  let shown := match c.feedQ with
    | f :: _ => if f.slot = k then 1 else 0
    | [] => 0
  let s1 : Slot := { s with
    idx := t.start, loop := t.loop0, mash := t.mash0, readBuf := [], fills := [], wait := .ready
    feedOld := t.feed0, feedNew := []
    tile := { TileBuf.at t.start t.loop0 t.mash0 t.feed0 with
      kept := (t.kept ++ t.bound ++ ids).eraseDups, fed := t.fed, fedOld := t.fed + shown, given := t.given } }
  { r with x := (r.x.setCell n ((c.dropFeeds k k).setSlot k s1)).orphanXlate n k }

/-- Bind a drained tile for a consumer of the slot: one that a re-run keeps comes first (R151, R219, R301). -/
def Cell.bindFor (c : Cell) (k : Nat) (tag : BitVec 16) (b : Binder) : Cell × Nat :=
  let s := c.slot k
  match c.drain.find? (fun t => decide (t.tag = tag) && s.tile.kept.contains t.id) with
  | some t =>
    ((c.setBound t.id b).setSlot k { s with tile := { s.tile with kept := s.tile.kept.filter (· != t.id) } }, t.id)
  | none => c.bind tag b

end Sys2Proof.Machine
end

