-- ==== Sys2Proof/Machine/Casks.lean ====
section
/-! DEFINITION. The cask unit (R122 to R145) and its chain form (R183 to R193, R240): opening, adding, draining, closing. -/

namespace Sys2Proof.Machine

/-- Casks that a channel holds on the instance (R262). -/
def Inst.caskCount (x : Inst) (v : Nat) : Nat :=
  ((x.liveCells.map fun n => ((x.cell n).casks.filter fun p => p.2.owner == v).length).sum)

/-- The cask instruction is a tile of its own and its effect is complete: the tile commits (R217). -/
def Run.endCaskTile (r : Run) (n k : Nat) : Run := (r.modSlot n k Slot.next).applyTile n k

/-- The lowest free entry of the cask table (R122; which free entry an open takes is the model's choice, log entry 98). -/
def Cell.freeEntry (c : Cell) : Option Nat := (List.range 16).find? fun e => c.casks.all fun p => p.1 != e

/-- The row state of a cask at its open (R183, R184). -/
def openRows (chain init : Bool) (v : List Word) : List RowState :=
  if !chain then []
  else (List.range 32).map fun r =>
    if init then
      let pos := (elemAt v r 1).toNat % 2 ^ 23
      { mC := elemAt v r 0, mI := elemAt v r 0, posC := pos, posI := pos, l := { hi := elemAt v r 2, lo := elemAt v r 3 } }
    else { mC := 0xFF800000#32, mI := 0xFF800000#32, posC := 0, posI := 0, l := .zero }

/-- The checks of an open, in order (R127, R128, R190, R262): 0 when it passes. -/
def openCheck (x : Inst) (c : Cell) (v group base A : Nat) (init bound chain : Bool) (rows : List RowState) : Nat :=
  let limit := A + (if init then 1 else 0) + (if chain then A else 0)
  if 2 ^ 20 < base + 0x4000 then errSpRange
  else if (c.findCask v group).isSome then errCaskBusy
  else if c.casks.any fun p => decide (base < p.2.base + 0x4000) && decide (p.2.base < base + 0x4000) then errCaskOverlap
  else if (if bound then 2 ^ 22 else 2 ^ 32 - 1) < limit then errCaskLimit
  else if c.freeEntry.isNone || decide (32 ≤ x.caskCount v) then errCaskFull
  else if chain && init && rows.any fun s => decide (2 ^ 22 < s.posC) then errChainLimit
  else 0

/-- CASK_OPEN (R127). -/
def Run.caskOpen (r : Run) (n k group base count : Nat) (init bound chain : Bool) (rs : Nat) : Run :=
  let c := r.cell n
  let s := c.slot k
  let v := ownerOf s.launch
  let A := (scalarOf s.launch count).toNat
  let rows := openRows chain init (c.vit rs)
  let code := openCheck r.x c v group base A init bound chain rows
  if code ≠ 0 then r.failHere n k code
  else match c.freeEntry with
    | none => r.failHere n k errCaskFull
    | some e =>
      let q : Cask := { no := c.opens, owner := v, group := group, base := base, A := A, I := 0, D := 0, init := init, bound := bound,
                        chain := chain, rows := rows, adds := [], wins := [], closing := false }
      (r.setCell n { c.setCask e q with opens := c.opens + 1 }).endCaskTile n k

/-- The checks of an add (R129, R189): 0 when it passes. -/
def addCheck (q : Cask) (step : Option (List Word)) : Nat :=
  if q.I = q.A then errCaskOverrun
  else match q.chain, step with
    | false, none => 0
    | true, some v =>
      if q.rows.zipIdx.any fun p => decide (elemAt v p.2 0 ≠ p.1.mI) then errChainOrder
      else if q.rows.zipIdx.any fun p => decide (2 ^ 22 < p.1.posI + (elemAt v p.2 4).toNat) then errChainLimit
      else 0
    | _, _ => errChainOrder

/-- A drained tile that an add of this entry bound has all its beats: the add takes the ledger events of its slot's feed
requests (R159). -/
def Cell.addTakes (c : Cell) (e id : Nat) : Cell :=
  match c.casks.find? (fun p => p.1 == e) with
  | none => c
  | some p =>
    match p.2.adds.find? (fun a => decide (a.src = .tile id)) with
    | none => c
    | some a =>
      let s := c.slot a.slot
      let adds := p.2.adds.map fun b => if b.src = .tile id then { b with led := b.led.add s.feedEvents } else b
      (c.setCask e { p.2 with adds := adds }).setSlot a.slot s.giveFeeds

/-- CASK_ADD (R129, R130, R189): the add is issued; its tile commits when its sums are stored. -/
def Run.caskAdd (r : Run) (n k group src i : Nat) (step : Bool) (sv : Nat) (tag : BitVec 16) : Run :=
  let c := r.cell n
  let s := c.slot k
  match c.findCask (ownerOf s.launch) group with
  | none => r.failHere n k errCaskNone
  | some p =>
    let v := if step then some (c.vit sv) else none
    let code := addCheck p.2 v
    if code ≠ 0 then r.failHere n k code
    else
      let b : Cell × AddSrc :=
        if src = 0 then
          let q := c.bindFor k tag (.add p.1)
          (q.1, .tile q.2)
        else
          let hi := c.vit i
          let lo := c.vit (i + 1)
          (c, .words ((hi.zip lo).map fun q => if src = 2 then { hi := q.1, lo := q.2 } else .of32 q.1))
      let a : CaskAdd := { slot := k, index := s.idx, iter := match s.loop with
                              | some l => l.it
                              | none => 0
                           src := b.2
                           step := match v with
                              | some w => (List.range 32).map fun r => (w.drop (32 * r)).take 7
                              | none => []
                           load := none, tslot := 0, storing := false, led := Led.zero }
      let q := { p.2 with adds := p.2.adds ++ [a] }.reissue
      let c1 := { b.1.setCask p.1 q with addQ := b.1.addQ ++ [(k, p.1)] }
      let c2 := match b.2 with
        | .tile id => if (c1.tileBeats id).length = 4 then c1.addTakes p.1 id else c1
        | .words _ => c1
      ((r.setCell n c2.runAdds).modSlot n k Slot.next).advance n k

/-- Every row of the sums of the add at the head of a cask is stored (R130). -/
def Cell.addStored (c : Cell) (e : Nat) (a : CaskAdd) : Bool :=
  a.storing && c.spWrites.all fun w => decide (w.who ≠ .add e)

/-- The slot of the add at the head of an entry. -/
def Cell.addSlot (c : Cell) (e : Nat) : Option Nat :=
  ((c.casks.find? fun p => p.1 == e).bind fun p => p.2.adds.head?).map CaskAdd.slot

/-- CASK_ADD_COMMIT (R129, R130, R189): the last row of the sums is stored, every add of the cell that issued earlier has
committed, and the add commits. -/
def Run.addCommit (r : Run) (n e : Nat) : Run :=
  let c := r.cell n
  match c.addReady e with
  | none => r
  | some (q, a, ls, src) =>
    if !c.addStored e a || decide (c.addQ.head? ≠ some (a.slot, e)) then r
    else
      let o := addSums q a (q.addOnto ls src) src
      let d := q.D + 1
      let q1 := { q with D := d, adds := q.adds.drop 1, rows := o.2.1 }.reissue
      let c0 := match a.src with
        | .tile id => c.freeTile id
        | .words _ => c
      let c1 : Cell := { c0.setCask e q1 with
        caskSlots := (c0.caskSlots.filter fun s => s.at_ != a.tslot)
          ++ [({ at_ := a.tslot, entry := e, d := d, sums := o.1 } : CaskSlot)]
        addQ := c0.addQ.drop 1 }
      let led := ((Led.nonfin o.2.2).add a.led).add { Led.zero with tiles := 1 }
      let s : Slot := Cell.slot c1 a.slot
      let c2 : Cell := if (c1.pendingAdds a.slot).isEmpty ∧ s.idx = s.tile.start then c1.settled a.slot else c1
      let r1 : Run := { r with x := (r.x.setCell n c2.runAdds).book q.owner led }
      r1.endIfDone n a.slot

/-! ### Draining -/

/-- The kinds of drain output (R131, R240). -/
structure DrainOp where
  en    : Nat
  dk    : Nat
  map   : Nat
  group : Nat
  dst   : Nat
  i     : Nat
  close : Bool
  recs  : Bool
  rnd   : Nat
  sat   : Bool
deriving DecidableEq, Repr

/-- An entry that outputs nothing but zeros (R133). -/
def Cask.blank (q : Cask) : Bool := decide (q.A = 0) && !q.init

/-- Row r of a chain cask's committed state. -/
def Cask.row (q : Cask) (r : Nat) : RowState :=
  q.rows.getD r { mC := 0xFF800000#32, mI := 0xFF800000#32, posC := 0, posI := 0, l := .zero }

/-- The normalised value of an element (R191). -/
def quotient (s : RowState) (o : Tw) : XV :=
  match f32 s.mC with
  | .nan => .nan
  | .inf true => .zero
  | _ => XV.div o.val s.l.val

/-- lse2 of a row (R192). beta is a free value: a drain carries none (log entry 16). -/
def lse2 (group r : Nat) (s : RowState) : Word :=
  match f32 s.mC with
  | .nan => f32Nan
  | .inf neg => if neg then 0xFF800000#32 else 0x7F800000#32
  | m =>
    let g := f32 (log2v (f32 (rne s.l.val)))
    rne (XV.add false (XV.add false m g) (XV.ofInt (-(Config.drainBeta group r).toInt)))

/-- The function lane of a row's lse2 makes a NaN or an infinity from a finite sum, which sets NONFINITE (R70, R192): a row whose
offset is −∞, +∞ or NaN uses none. -/
def lse2Breaks (s : RowState) : Bool :=
  let l := f32 (rne s.l.val)
  (f32 s.mC).isFin && l.isFin && !f32IsFinite (log2v l)

/-- The record of a row as words of its vitrine, columns 0 to 4 (R184, R192). -/
def recordWords (group r : Nat) (s : RowState) : List Word :=
  [s.mC, BitVec.ofNat 32 (s.posC % 2 ^ 23), s.l.hi, s.l.lo, lse2 group r s]

/-- The aux bytes of a drain with rec = 1 to dst 0 (R192): 32 records, then the lse2 values. -/
def drainAux (q : Cask) : List Byte :=
  let ws := (List.range 32).map fun r => recordWords q.group r (q.row r)
  (ws.flatMap fun w => wordsBytes [w.getD 0 0, w.getD 1 0, w.getD 3 0, w.getD 2 0]) ++ wordsBytes (ws.map fun w => w.getD 4 0)

/-- The record vitrine of a drain (R184, R192). -/
def recordVit (q : Cask) : List Word :=
  (List.range 32).flatMap fun r => recordWords q.group r (q.row r) ++ List.replicate 27 0#32

/-- The ledger flags of a drain that its conversions do not set: EMPTY, ROW_ALL_MASKED, and with rec = 1 the NONFINITE of lse2
(R70, R133, R191, R192). -/
def drainFlags (q : Cask) (norm recs : Bool) (inside : Mask) : Led :=
  let masked := norm && q.chain && (List.range 32).any fun r => rowOn inside r && decide (f32 (q.row r).mC = XV.inf true)
  let breaks := recs && (List.range 32).any fun r => lse2Breaks (q.row r)
  ((Led.flagIf q.blank flEmpty).add (Led.flagIf (masked || (q.blank && q.chain)) flRowMasked)).add (Led.nonfin breaks)

/-- The bytes of S_A in the window, none when a cask slot holds it (R149) or the output is all zeros (R133). -/
def Cell.drainReads (c : Cell) (e : Nat) (q : Cask) : List Adr :=
  if q.blank || c.caskSlots.any fun s => s.entry == e && s.d == q.A then []
  else (List.range 128).map fun j => .win (64 * (q.half (q.A % 2) + j))

/-- S_A (R131). -/
def Cell.drainSums (c : Cell) (e : Nat) (q : Cask) (buf : List SpLine) : List Tw :=
  if q.blank then List.replicate 1024 .zero
  else match c.caskSlots.find? (fun s => s.entry == e && s.d == q.A) with
    | some s => s.sums
    | none => tileFrom buf (q.half (q.A % 2))

/-- What a drain to dst 0 writes (R131, R191, R192, R240). -/
def drainKiln (e : MemEnv) (o : DrainOp) (q : Cask) (f : Fmt) (ts : List Tw) (rd : Rd) : MemOut :=
  let d := e.slot.desc o.dk
  let t := e.slot.tileIdx o.map
  let en := e.cell.mkMask o.en &&& tailMask d t
  let norm := q.chain && decide (f ≠ .tw64)
  let ks := (lanes.zip ts).map fun p =>
    if laneOn en p.1.1 p.1.2 then
      some (if norm then KIn.plain (quotient (q.row p.1.1) p.2) else KIn.tw p.2.val)
    else none
  let k := encodeTile (KEnv.ofDesc e.tabs e.seed d) f d (d.rd rd) t (fun _ => none) ks
  let aux := if o.recs then (drainAux q).zipIdx.map fun p => (d.aux + p.2, p.1) else []
  d.commit (d.laneIndex t 0 0) k.elems k.scales aux (k.led.add (drainFlags q norm o.recs en))

/-- What a drain to vitrines writes (R131, R191, R192, R223): all 1,024 elements. With dst 2 the pair itself, as it stands, also where
a half that no add has written holds a pair that is not normalised (DESIGN CHOICE, log entry 104). -/
def drainVit (o : DrainOp) (q : Cask) (ts : List Tw) (tail : Mask) : MemOut :=
  let recs := if o.recs then [(o.i + o.dst, recordVit q)] else []
  if o.dst = 1 then
    let rs := (lanes.zip ts).map fun p =>
      roundLane o.rnd o.sat (if q.chain then quotient (q.row p.1.1) p.2 else p.2.val)
    { MemOut.none with
      vits := (o.i, rs.map Prod.fst) :: recs
      led := (Led.sum (rs.map Prod.snd)).add (drainFlags q true o.recs tail) }
  else
    { MemOut.none with
      vits := [(o.i, ts.map Tw.hi), (o.i + 1, ts.map Tw.lo)] ++ recs
      led := (Led.nonfin (ts.any fun x => !x.val.isFin)).add (drainFlags q false o.recs tail) }

/-- The error or the zero-extent end of a drain's own operands (R36, R225, R231, R295), else the output format of
dst 0. -/
def drainShape (s : Slot) (o : DrainOp) : Except MemStop (Option Fmt) :=
  let d := s.desc o.dk
  if o.dst = 0 then
    match d.nw.fmt with
    | none => .error (.err errFmt)
    | some f => if d.isEmpty then .error .empty else if d.illegal true o.recs then .error (.err errDesc) else .ok (some f)
  else if o.dst = 1 ∧ rndBad o.rnd then .error (.err errFmt)
  else .ok none

/-- An error while a drain is processed: a scale failure or poison discards the cask (R140). -/
def Run.drainFail (r : Run) (n k code : Nat) (cask : Nat) : Run :=
  let discard := decide (code = errPoison ∨ code = errScaleSeq ∨ code = errScaleTail)
  let c := if discard then ((r.cell n).releaseCask cask).runAdds else r.cell n
  (r.setCell n c).failHere n k code

/-- Where a drain stands: ended or waiting, or all it reads is there. -/
structure DrainReady where
  r     : Run
  entry : Nat
  cask  : Cask
  fmt   : Option Fmt
  rd    : Rd

/-- The state of a drain's reads, once every add has committed: lines are requested, the cask unit's before the kiln's
(R22), and the first bad response ends it. The window of every feed request that an add of the cask inherited is closed
(R143). The kiln's reads may not touch the range of an open cask (R135). -/
def Run.drainReads (e : Env) (r : Run) (n k : Nat) (o : DrainOp) (entry : Nat) (q : Cask) (f : Option Fmt) :
    Except Run DrainReady :=
  let hold := r.modSlot n k fun s => { s with wait := .drain }
  let c := r.cell n
  let s := c.slot k
  if q.D < q.A || !q.wins.isEmpty then .error hold
  else
    let d := s.desc o.dk
    let t := s.tileIdx o.map
    let en := c.mkMask o.en &&& tailMask d t
    let plan := if o.dst = 0 then d.encodePlan t en else ([], [])
    match r.resolve e n k false (plan.1.map d.adr) with
    | .error w => .error w
    | .ok (r1, ps) =>
      let offs := (plan.1.map d.adr).map (offOf ps)
      if c.caskHit none offs then .error (r1.failHere n k errCaskOverlap)
      else
        let sums := ((c.drainReads entry q).map fun (a : Adr) => a.addr / 64).eraseDups
        let lines := (sums ++ offs.map (· / 64)).eraseDups
        let need := missing s.readBuf lines
        let ask := need.filter fun l => c.spReads.all fun p =>
          !(decide (p.who = .slot k) && decide (p.line ≤ l) && decide (l < p.line + p.n))
        if !need.isEmpty then
          let c1 := ((r1.cell n).request (.slot k) 1 (ask.filter sums.contains)).request (.slot k) 3
            (ask.filter fun l => !sums.contains l)
          .error (r1.setCell n (c1.setSlot k { (r1.slot n k) with wait := .drain }))
        else
          match s.readBuf.find? (fun b => lines.contains b.line && decide (b.resp ≠ 0)) with
          | some b => .error (r1.drainFail n k (respErr b.resp) entry)
          | none =>
            let rd : Rd := fun a => bufByte s.readBuf (offOf ps a)
            match firstFail [{ d := d, ps := plan.2 }] rd with
            | some g =>
              let c1 := (r1.cell n).noteScale g.1 g.2
              .error ((r1.setCell n c1).drainFail n k (if g.2 then errScaleTail else errScaleSeq) entry)
            | none => .ok { r := r1, entry := entry, cask := q, fmt := f, rd := rd }

/-- The output of a drain whose reads are complete. -/
def DrainReady.out (w : DrainReady) (n k : Nat) (o : DrainOp) : MemOut :=
  let c := w.r.cell n
  let s := c.slot k
  let ts := c.drainSums w.entry w.cask s.readBuf
  match w.fmt with
  | some f =>
    let e : MemEnv := { tabs := w.r.x.stream.tabs, seed := (w.r.x.vc (ownerOf s.launch)).seed.toNat, cell := c, slot := s }
    drainKiln e o w.cask f ts w.rd
  | none => drainVit o w.cask ts s.loopTail

/-- The checks of a drain, in order (R36, R133, R185, R225, R295): the entry of its cask. -/
def Run.drainCheck (r : Run) (n k : Nat) (o : DrainOp) : Except MemStop (Option Fmt × Nat × Cask) :=
  let c := r.cell n
  let s := c.slot k
  match drainShape s o with
  | .error x => .error x
  | .ok f =>
    match c.findCask (ownerOf s.launch) o.group with
    | none => .error (.err errCaskNone)
    | some p =>
      if o.recs && !p.2.chain then .error (.err errChainOrder)
      else if p.2.I < p.2.A then .error (.err errCaskEarly)
      else .ok (f, p.1, p.2)

/-- CASK_DRAIN when it issues (R131 to R133): its checks, the translation of its pages, and its reads as soon as every
add has committed. -/
def Run.caskDrain (e : Env) (r : Run) (n k : Nat) (o : DrainOp) : Run :=
  match r.drainCheck n k o with
  | .error (.err code) => r.failHere n k code
  | .error .empty => (r.modSlot n k fun s => { s with empty := true }).endCaskTile n k
  | .ok (f, entry, q) =>
    match r.drainReads e n k o entry q f with
    | .error w => w
    | .ok w => w.r.modSlot n k fun s => { s with wait := .drain }

/-- CASK_DRAIN_COMPLETE (R131, R149): the output is rounded once and leaves, once the slot's earlier adds have committed
(R217); with close = 1 the cask is released when the drain completes. -/
def Run.drainComplete (e : Env) (r : Run) (n k : Nat) (o : DrainOp) : Run :=
  match r.drainCheck n k o with
  | .error (.err code) => r.failHere n k code
  | .error .empty => r
  | .ok (f, entry, q) =>
    match r.drainReads e n k o entry q f with
    | .error w => w
    | .ok w => if (r.cell n).addsOpen k then w.r.modSlot n k fun s => { s with wait := .drain } else
      let out := w.out n k o
      match w.r.place e n k out.writes with
      | .error v => v
      | .ok (r1, ws) =>
        ((r1.applyOut n k out ws).modSlot n k fun s =>
          { s with tile := { s.tile with closes := if o.close then some (entry, q.no) else none } }).commitTile n k

/-- CASK_CLOSE when it issues (R134). -/
def Run.caskClose (r : Run) (n k group : Nat) : Run :=
  let c := r.cell n
  let s := c.slot k
  match c.findCask (ownerOf s.launch) group with
  | none => r.failHere n k errCaskNone
  | some p => r.setCell n ((c.setCask p.1 { p.2 with closing := true }).setSlot k { s with wait := .close p.1 p.2.no })

/-- CASK_CLOSE_DONE (R134, R217): every issued add has committed, and the slot's earlier ones; the entry and its range are
released. A cask that another program has released meanwhile is closed already. -/
def Run.closeDone (r : Run) (n k : Nat) : Run :=
  let c := r.cell n
  match (c.slot k).wait with
  | .close e no =>
    if c.addsOpen k then r
    else match c.casks.find? (fun p => p.1 == e && p.2.no == no) with
    | none => r.endCaskTile n k
    | some p => if p.2.adds.isEmpty then (r.setCell n (c.releaseCask e)).endCaskTile n k else r
  | _ => r

end Sys2Proof.Machine
end

