-- ==== Sys2Proof/Machine/Tile.lean ====
section
/-! DEFINITION. The issue of tile-program instructions in program order: loops, drained tiles, mash runs, fences and summaries
(R89 to R93, R150 to R152, R212 to R218, R228, R239, R241 to R244). -/

namespace Sys2Proof.Machine

/-! ### Mash runs (R239) -/

/-- Tiles of a segment. -/
def MashRun.g (u : MashRun) : Nat := 2 ^ (u.m - 5)

/-- Input tiles supplied so far: those of the segments already emitted and those held. -/
def MashRun.supplied (u : MashRun) : Nat := u.outs / u.g * u.g + u.tiles.length

/-- Output tile q of a run (R89, R239): 1,024 elements, and whether an enabled lane's element or an input of its segment
is not finite (R91). -/
def MashRun.output (u : MashRun) (q : Nat) (en : Mask) : List Word × Bool :=
  let sign := (u.signs.getD 0 0).toNat
  let seg := u.tiles.take u.g
  let rows := (List.range 32).map fun r =>
    let x := seg.flatMap fun t => (t.drop (32 * r)).take 32
    let y := mashSegment u.m u.inv sign x
    let o := (y.drop (32 * (q % u.g))).take 32
    (o, x.any (fun w => !f32IsFinite w) || (List.range 32).any fun c => laneOn en r c && !f32IsFinite (o.getD c 0))
  (rows.flatMap Prod.fst, rows.any Prod.snd)

/-- The fields of a MASH. -/
structure MashOp where
  dst   : Nat
  input : Nat
  ivit  : Nat
  sign  : Nat
  m     : Nat
  inv   : Bool
  first : Bool
  tag   : BitVec 16
deriving DecidableEq, Repr

/-- The run that a MASH continues or begins, none when its m, inv or sign mask differ (R239). -/
def mashRunOf (u : MashRun) (o : MashOp) : Option MashRun :=
  if o.first then some { MashRun.none with m := o.m, inv := o.inv, sign := o.sign }
  else if u.m = o.m ∧ u.inv = o.inv ∧ u.sign = o.sign then some u
  else none

/-- The MASH_SHAPE cases of R92 and R239 for the run a MASH belongs to; e0 is extent0 of the enclosing loop. -/
def mashBad (u : MashRun) (o : MashOp) (e0 : Option Nat) : Bool :=
  let due := decide (u.g ≤ u.count + 1)
  decide (10 < o.m)
    || (match e0 with
        | some e => decide (e % 2 ^ o.m ≠ 0)
        | none => false)
    || (decide (o.input ≠ 0) && u.closed)
    || (decide (o.input = 0) && (decide (u.supplied % u.g ≠ 0) || decide (u.supplied ≤ u.count + 1 - u.g)))
    || (!due && decide (o.dst ≠ 0))

/-- A MASH whose input, if any, is there: the run takes it and emits the output that is due (R92, R239). -/
def Run.mashStep (r : Run) (n k : Nat) (dst : Nat) (en : Mask) (input : Option (List Word)) : Run :=
  let c := r.cell n
  let s := c.slot k
  let u := match input with
    | some x => { s.mash with tiles := s.mash.tiles ++ [x.zipIdx.map fun p => if en.getLsbD p.2 then p.1 else 0#32] }
    | none => s.mash
  if u.count < u.g then r.setCell n (c.setSlot k { s with mash := u })
  else
    let o := u.output u.outs en
    let outs := u.outs + 1
    let drop := if outs % u.g = 0 then u.g else 0
    let u1 := { u with outs := outs, tiles := u.tiles.drop drop, signs := u.signs.drop (if drop = 0 then 0 else 1) }
    let i := opVit dst
    let c1 := c.setVit i (pickLanes en (c.vit i) o.1)
    r.setCell n (c1.setSlot k ({ s with mash := u1 }.addLed (Led.nonfin o.2)))

/-! ### Drained tiles in vitrines and in the mash unit (R151, R228) -/

/-- A consumer of a complete drained tile takes it, with the ledger events of its slot's feed requests (R159). -/
def Run.fill (r : Run) (n k : Nat) (f : Fill) : Run :=
  let c := r.cell n
  let ws := c.tileWords f.id
  let s := (c.slot k).takeFeeds
  let c1 := c.setSlot k { s with fills := s.fills.filter fun g => g.id != f.id
                                 tile := { s.tile with bound := s.tile.bound ++ [f.id] } }
  match f.kind with
  | .vit i en => r.setCell n (c1.setVit i (pickLanes en (c.vit i) ws))
  | .mash dst _ en => (r.setCell n c1).mashStep n k dst en (some ws)

/-- Bind a drained tile for a consumer; it takes the tile at once when all its beats are there. -/
def Run.bindFill (r : Run) (n k : Nat) (tag : BitVec 16) (kind : FillKind) : Run :=
  let q := (r.cell n).bindFor k tag (.slot k)
  let f : Fill := { id := q.2, kind := kind }
  let s := q.1.slot k
  let r1 := r.setCell n (q.1.setSlot k { s.next with fills := s.fills ++ [f] })
  if (q.1.tileBeats q.2).length = 4 then r1.fill n k f else r1

/-- MASH (R92, R239). -/
def Run.mash (r : Run) (n k : Nat) (o : MashOp) (en : Mask) : Run :=
  let c := r.cell n
  let s := c.slot k
  let e0 := s.loop.map fun l => (s.desc l.d).e0
  match mashRunOf s.mash o with
  | none => r.failHere n k errMash
  | some u =>
    if mashBad u o e0 then r.failHere n k errMash
    else
      let signs := if o.input ≠ 0 ∧ u.supplied % u.g = 0 then u.signs ++ [c.mask o.sign] else u.signs
      let u1 := { u with signs := signs, count := u.count + 1, closed := u.closed || decide (o.input = 0) }
      let r1 := r.setSlot n k { s with mash := u1 }
      if o.input = 1 then r1.bindFill n k o.tag (.mash o.dst (decide (u.g ≤ u.count + 1)) en)
      else (r1.mashStep n k o.dst en (if o.input = 2 then some (c.vit o.ivit) else none)).modSlot n k Slot.next

/-! ### Loops, fences, summaries -/

/-- Something of the tile has issued (R217). -/
def Slot.inTile (s : Slot) : Bool := decide (s.idx ≠ s.tile.start)

/-- LOOP (R213, R215, R225, R295): the first iteration, or past the body. An iteration's start is a tile boundary, a body that
is skipped has none (R217); a LOOP with nothing before it in its tile is no tile (log entry 103). The total is not cut to
the 32 bits in which the procedure of R213 holds it (DESIGN CHOICE, log entry 41). -/
def Run.loop (r : Run) (n k dk dims len : Nat) (startEn : Bool) (startK : Nat) : Run :=
  let s := r.slot n k
  let d := s.desc dk
  if d.nw.fmt.isNone then r.failHere n k errFmt
  else if !d.isEmpty && d.illegal false false then r.failHere n k errDesc
  else
    let total := (tripsOf d dims).foldl (· * ·) 1
    let start := if startEn then (scalarOf s.launch startK).toNat else 0
    let s1 := { s with empty := s.empty || d.isEmpty }
    if start < total then
      let l : LoopSt := { start := s.idx + 1, len := len, d := dk, dims := dims, it := start, total := total }
      let s2 : Slot := { s1 with idx := s.idx + 1, loop := some l }
      r.setSlot n k (if s.inTile then s2 else s2.newTile)
    else
      let r1 := r.setSlot n k { s1 with idx := s.idx + 1 + len }
      if s.inTile then r1 else r1.advance n k

/-- A fence counter has reached a target (R241). -/
def reached (value target : Word) : Bool := decide (0 ≤ (value - target).toInt)

/-- WAITF when it issues (R241, R314). One on a fence of another instance is a request over the die link, which wakes an instance
that sleeps and waits for it (R27, R405). -/
def Run.waitf (e : Env) (r : Run) (n k f : Nat) (target : Word) : Run :=
  let g := e.fence f
  if e.away (f / 1024) then (r.modSlot n k fun s => { s with wait := .fence f target r.x.ticks }).emit (.ask (f / 1024))
  else if g.err ≠ 0 then r.failHere n k g.err
  else if reached g.value target then r.modSlot n k Slot.next
  else r.modSlot n k fun s => { s with wait := .fence f target r.x.ticks }

/-- The ledger update of a fence wait that ends now (R101, R241). -/
def waitLed (since now : Nat) : Led := { Led.zero with waits := 1, ticks := now - since }

/-- A held WAITF looks at its fence again (R241). -/
def Run.waitfPass (e : Env) (r : Run) (n k : Nat) : Run :=
  match (r.slot n k).wait with
  | .fence f target since =>
    let g := e.fence f
    if e.away (f / 1024) then r.emit (.ask (f / 1024))
    else if g.err ≠ 0 then r.failHere n k g.err
    else if reached g.value target then r.modSlot n k fun s => (s.addLed (waitLed since r.x.ticks)).next
    else r
  | _ => r

/-- Number of 1 bits of a mask. -/
def popCount (m : Mask) : Nat := ((List.range 1024).filter fun i => m.getLsbD i).length

/-- SUMM (R244): the value is taken when the instruction runs, but kind 2's at the commit. -/
def Run.summ (r : Run) (n k mk kind i row col code : Nat) : Run :=
  let c := r.cell n
  let s := c.slot k
  let v : Option Word := match kind with
    | 0 => some (elemAt (c.vit i) row col)
    | 1 => some (BitVec.ofNat 32 (popCount (c.mask (col % 8) &&& c.mkMask mk &&& s.loopTail)))
    | 2 => none
    | _ => some (scalarOf s.launch col)
  let m : Summ := { code := BitVec.ofNat 16 code, val := v }
  r.setSlot n k { s.next with tile := { s.tile with sums := s.tile.sums ++ [m] } }

/-- SIGF (R242). -/
def Run.sigf (r : Run) (n k f inc : Nat) : Run :=
  r.modSlot n k fun s => { s.next with tile := { s.tile with sigs := s.tile.sigs ++ [(f, BitVec.ofNat 32 inc)] } }

/-! ### Issue -/

def Run.memEnv (r : Run) (n k : Nat) : MemEnv :=
  let c := r.cell n
  let s := c.slot k
  { tabs := r.x.stream.tabs, seed := (r.x.vc (ownerOf s.launch)).seed.toNat, cell := c, slot := s }

/-- An instruction that works on vitrines and masks alone. -/
def Run.laneIssue (r : Run) (n k : Nat) (o : Except Nat LaneOut) : Run :=
  match o with
  | .error code => r.failHere n k code
  | .ok out =>
    let c := (r.cell n).writeRegs out.vits out.masks
    r.setCell n (c.setSlot k ((c.slot k).addLed out.led).next)

/-- The instructions of this file and of the cask unit. -/
def Run.control (e : Env) (r : Run) (n k : Nat) (o : TileOp) : Run :=
  let c := r.cell n
  let s := c.slot k
  let en (mv : Nat) : Mask := c.mkMask mv &&& s.loopTail
  match o with
  | .vldDrain mv i tag => r.bindFill n k tag (.vit i (en mv))
  | .mash mv dst input ivit sign m inv first tag =>
    r.mash n k { dst := dst, input := input, ivit := ivit, sign := sign, m := m, inv := inv, first := first, tag := tag } (en mv)
  | .caskOpen group base cnt init bound chain rs => r.caskOpen n k group base cnt init bound chain rs
  | .caskAdd group src i step sv tag => r.caskAdd n k group src i step sv tag
  | .caskDrain mv d map group dst i close recs rnd sat =>
    r.caskDrain e n k { en := mv, dk := d, map := map, group := group, dst := dst, i := i, close := close, recs := recs,
                        rnd := rnd, sat := sat }
  | .caskClose group => r.caskClose n k group
  | .loop d dims len startEn startK => r.loop n k d dims len startEn startK
  | .waitf f scalar sk imm => r.waitf e n k f (if scalar then scalarOf s.launch sk else BitVec.ofNat 32 imm)
  | .sigf f inc => r.sigf n k f inc
  | .summ mv kind i row col code => r.summ n k mv kind i row col code
  | _ => r

/-- Run an instruction of a slot. -/
def Run.issue (e : Env) (r : Run) (n k : Nat) (o : TileOp) : Run :=
  match memAsk (r.memEnv n k) o with
  | some a => r.memIssue e n k o.isFeed a
  | none =>
    let c := r.cell n
    let s := c.slot k
    match laneOp r.x.stream.tabs (ownerOf s.launch) c s o with
    | some q => r.laneIssue n k q
    | none => r.control e n k o

/-- The slot stands at a tile boundary: the program's end, the start or the end of a loop iteration, or before a cask
instruction (R217). -/
def Slot.atEdge (s : Slot) : Bool :=
  decide (s.idx = s.prog.length)
    || (match s.loop with
        | some l => decide (s.idx = l.start) || decide (s.idx = l.start + l.len)
        | none => false)
    || (match s.nextOp with
        | some o => o.isCask
        | none => false)

/-- Registers that pending consumers will write (R212): a MASH writes its dst only when its output is due (R239). -/
def Slot.fillRegs (s : Slot) : List Nat := s.fills.filterMap fun f => match f.kind with
  | .vit i _ => some i
  | .mash dst due _ => if due then some (opVit dst) else none

/-- Registers that an instruction writes, for the hold rules (R212, R239). -/
def Slot.writesNow (s : Slot) (o : TileOp) : List Nat :=
  match o with
  | .mash _ dst input ivit sign m inv first tag =>
    match mashRunOf s.mash { dst := dst, input := input, ivit := ivit, sign := sign, m := m, inv := inv, first := first, tag := tag } with
    | some u => if u.g ≤ u.count + 1 then o.writes else []
    | none => []
  | _ => o.writes

/-- The vitrine that a feed request's prologue reads (R168). -/
def proReads : Prologue → List Nat
  | .rows _ _ (some (v, _, _)) => [v]
  | _ => []

/-- The hold rules of R212 for drained tiles that have not arrived. -/
def Slot.held (s : Slot) (o : TileOp) : Bool :=
  (o.reads ++ s.writesNow o ++ (if o.isFeed then proReads s.prologue else [])).any (s.fillRegs.contains ·)
    || (match o with
        | .mash .. => s.fills.any fun f => match f.kind with
            | .mash .. => true
            | .vit .. => false
        | _ => false)

/-- The channel of a slot lets it go on: RUNNING, or its tile began before a stop (R221). -/
def Inst.lets (x : Inst) (s : Slot) : Bool :=
  let v := x.vc (ownerOf s.launch)
  decide (v.st = .running) || (decide (v.st = .suspending ∨ v.st = .destroying) && s.inTile)

/-- A close of a cask of the channel is waiting on some cell: none of the channel's later instructions issues (R134). -/
def Inst.closing (x : Inst) (v : Nat) : Bool :=
  x.liveCells.any fun n => (x.cell n).casks.any fun p => p.2.closing && decide (p.2.owner = v)

/-- The next instruction of the slot may issue. -/
def Run.mayIssue (r : Run) (n k : Nat) (o : TileOp) : Bool :=
  let s := r.slot n k
  r.x.cellRuns n && decide (s.phase = .running) && decide (s.wait = .ready) && r.x.lets s
    && !(s.inTile && s.atEdge) && !s.held o && !r.x.closing (ownerOf s.launch)

/-- The next instruction of a slot issues, if it is one of this row. -/
def issueRow (row : Row) (n k : Nat) (e : Env) (x : Inst) : Run :=
  let r := pureRun x
  match (r.slot n k).nextOp with
  | some o => if o.row = row ∧ r.mayIssue n k o then r.issue e n k o else r
  | none => r

/-- VLD_FEED names the prologue of its request (R168, R198). -/
def issueFeed (pro : Prologue) (n k : Nat) (e : Env) (x : Inst) : Run :=
  let r := (pureRun x).modSlot n k fun s => { s with prologue := pro }
  match (r.slot n k).nextOp with
  | some o => if o.row = .vldFeed ∧ r.mayIssue n k o then r.issue e n k o else pureRun x
  | none => pureRun x

/-- Go on with the instruction that waited (R296, R421). -/
def Run.retry (e : Env) (r : Run) (n k : Nat) : Run :=
  let r1 := r.modSlot n k fun s => { s with wait := .ready }
  match (r1.slot n k).nextOp with
  | some o => r1.issue e n k o
  | none => r1

/-- Reads that waited for adds of their slot go on once those have committed, in ascending slot order (R218). -/
def Run.readersGoOn (e : Env) (r : Run) (n : Nat) : Run :=
  (List.range 4).foldl (fun r k =>
    let s := r.slot n k
    if s.phase = .running ∧ s.wait = .adds then r.retry e n k else r) r

/-- TILE_COMMIT (R217, R300): the tile in progress is complete, every consumer of it has its beats, its operand vectors
are taken, earlier adds of the slot have committed, and places are free for its summaries, which it keeps until they are
posted (R244). -/
def tileCommit (n k : Nat) (_ : Env) (x : Inst) : Run :=
  let r := pureRun x
  let c := r.cell n
  let s := c.slot k
  if x.cellRuns n && decide (s.phase = .running) && decide (s.wait = .ready) && s.inTile && s.atEdge && s.fills.isEmpty
      && !c.addsOpen k && c.feedQ.all (fun f => f.slot != k)
      && decide (s.tile.sums = [] ∨ c.summaries + c.reserved + min s.tile.sums.length 16 ≤ 16) then
    r.startCommit n k
  else r

/-- A drain that waits completes (R131). -/
def drainStep (n k : Nat) (e : Env) (x : Inst) : Run :=
  let r := pureRun x
  let s := r.slot n k
  match s.nextOp with
  | some (.caskDrain mv d map group dst i close recs rnd sat) =>
    if x.cellRuns n && decide (s.phase = .running) && decide (s.wait = .drain) then
      r.drainComplete e n k { en := mv, dk := d, map := map, group := group, dst := dst, i := i, close := close, recs := recs,
                              rnd := rnd, sat := sat }
    else r
  | _ => r

end Sys2Proof.Machine
end

