-- ==== Sys2Proof/Machine/Ports.lean ====
section
/-! DEFINITION. The ports of a cell: scratchpad answers (R301, R302, R421), drained beats and operand vectors (R150 to R155,
R420), launches (R204 to R206, R222), outbound words (R422). -/

namespace Sys2Proof.Machine

/-- A request at a port of an instance that sleeps is held and wakes it (R405); one that meets a reset, a fail-stop or a
stopped instance is not taken. -/
def atPort (cause : Nat) (x : Inst) (f : Inst → Run) : Run := if x.awake then f x else pureRun (x.wakeBy cause)

/-! ### Scratchpad answers -/

/-- Fields of a launch record (R204). -/
def progOff (ws : List Word) : Nat := fld (wordAt ws 1).toNat 19 0
def progLen (ws : List Word) : Nat := fld (wordAt ws 1).toNat 28 20 + 1
def descOff (ws : List Word) : Nat := fld (wordAt ws 2).toNat 19 0
def descCount (ws : List Word) : Nat := fld (wordAt ws 2).toNat 24 20
def nScal (ws : List Word) : Nat := fld (wordAt ws 4).toNat 5 0

/-- The lines of a program and of its descriptor table. -/
def launchLines (ws : List Word) : List Nat :=
  let a := progOff ws / 64
  let b := (progOff ws + 8 * progLen ws - 1) / 64
  ((List.range (b + 1 - a)).map (a + ·) ++ (List.range (descCount ws)).map (descOff ws / 64 + ·)).eraseDups

/-- The counters of a loop's iteration at an instruction of the program (R290). -/
def Slot.countersAt (s : Slot) (index iter : Nat) : List Nat :=
  let found := (List.range index).findSome? fun i => match s.opAt i with
    | some (.loop d dims len _ _) => if index ≤ i + len then some (d, dims) else none
    | _ => none
  match found with
  | some (d, dims) => (countersOf (tripsOf (s.desc d) dims) iter ++ [0, 0, 0, 0]).take 4
  | none => [0, 0, 0, 0]

/-- The scratchpad still owes lines to a slot. -/
def Cell.owesSlot (c : Cell) (k : Nat) : Bool := c.spReads.any fun q => decide (q.who = .slot k)

/-- The instruction words and descriptors of a fetched launch. -/
def fetchedProg (buf : List SpLine) (ws : List Word) : List (BitVec 64) :=
  (List.range (progLen ws)).map fun i =>
    BitVec.ofNat 64 ((List.range 8).foldr (fun j acc => bufByte buf (progOff ws + 8 * i + j) + 256 * acc) 0)

def fetchedDescs (buf : List SpLine) (ws : List Word) : List Line :=
  (List.range (descCount ws)).map fun i => match buf.find? (fun l => l.line == descOff ws / 64 + i) with
    | some l => l.data
    | none => 0

/-- The program buffer and the descriptors of a slot are fetched again (R390): the last line has arrived. -/
def Run.refetched (r : Run) (n k : Nat) : Run :=
  let s := r.slot n k
  match s.readBuf.find? (fun l => decide (l.resp ≠ 0)) with
  | some l => r.fail n k (respErr l.resp) s.idx s.counters4
  | none => r.setSlot n k { s with prog := fetchedProg s.readBuf s.launch, descs := fetchedDescs s.readBuf s.launch,
                                   readBuf := [], wait := .ready }

/-- Lines arrive for a slot: its instruction, or the commit of its tile, goes on when they were the last (R421). -/
def Run.slotLines (e : Env) (r : Run) (n k : Nat) (ls : List SpLine) : Run :=
  let r1 := r.modSlot n k fun s => { s with readBuf := s.readBuf ++ ls }
  let s := r1.slot n k
  if s.phase = .running ∧ s.wait = .lines ∧ r1.x.cellRuns n ∧ !(r1.cell n).owesSlot k then r1.retry e n k
  else if s.phase = .running ∧ s.wait = .gather ∧ r1.x.cellRuns n ∧ !(r1.cell n).owesSlot k then r1.gathersRead n k
  else if s.phase = .running ∧ s.wait = .refetch ∧ !(r1.cell n).owesSlot k then r1.refetched n k
  else r1

/-- An add cannot read its committed half (R130, R140, R301): the slot's adds are abandoned, a poisoned cask is
discarded, and the program ends with the add's code, index and counters. -/
def Run.addFail (r : Run) (n entry : Nat) (a : CaskAdd) (code : Nat) : Run :=
  let c := r.cell n
  let cs := (c.slot a.slot).countersAt a.index a.iter
  let c1 := if code = errPoison then c.releaseCask entry else c
  (r.setCell n (c1.dropAdds false a.slot).runAdds).fail n a.slot code a.index cs

/-- Lines arrive for the add at the head of a cask (R130). The first add of an init = 0 cask discards what it loads. -/
def Run.addLines (r : Run) (n entry : Nat) (ls : List SpLine) : Run :=
  let c := r.cell n
  match c.casks.find? (fun p => p.1 == entry) with
  | none => r
  | some (_, q) =>
    match q.adds with
    | [] => r
    | a :: rest =>
      match (if q.discards then none else ls.find? fun l => decide (l.resp ≠ 0)) with
      | some l => r.addFail n entry a (respErr l.resp)
      | none =>
        r.setCell n ((c.setCask entry { q with adds := { a with load := a.load.map (· ++ ls) } :: rest }).startStores)

/-- The request that the port serves next: the oldest of the highest priority (R22; log entry 37). -/
def Cell.nextRead (c : Cell) : Option SpRead :=
  (c.spReads.find? fun q => q.rank == 1).or ((c.spReads.find? fun q => q.rank == 2).or c.spReads.head?)

/-- As for reads. -/
def Cell.nextWrite (c : Cell) : Option SpWrite :=
  (c.spWrites.find? fun q => q.rank == 1).or ((c.spWrites.find? fun q => q.rank == 2).or c.spWrites.head?)

/-- The lines of a request as the host's beat answers them. -/
def SpRead.answer (q : SpRead) (beat : List (BitVec 2 × Line)) : List SpLine :=
  beat.zipIdx.map fun b => { line := q.line + b.2, resp := b.1.1, data := b.1.2 }

/-- SP_READ_DATA (R22, R421): a request is granted and its beat answers all its lines. A beat of another number of lines
answers no request (log entry 37). -/
def spRead (n : Nat) (beat : List (BitVec 2 × Line)) (e : Env) (x : Inst) : Run :=
  let c := x.cell n
  match c.nextRead with
  | none => pureRun x
  | some q =>
    let r := pureRun (x.setCell n { c with spReads := c.spReads.erase q })
    if beat.length ≠ q.n then pureRun x
    else match q.who with
    | .slot k => r.slotLines e n k (q.answer beat)
    | .add entry => r.addLines n entry (q.answer beat)
    | .scrub _ => r
    | .nobody => r

/-- A write request of a tile's write-out is acknowledged (R300, R302): the tile's effects after its last one, or the
error. A program whose instance has fail-stopped meanwhile ends (R389). -/
def Run.writeAck (r : Run) (n k index : Nat) (err : Bool) : Run :=
  let s := r.slot n k
  match s.wait with
  | .commit left old =>
    let code : Option (Nat × Nat) := match old with
      | some p => some p
      | none => if err then some (errMemWrite, index) else none
    if 1 < left then r.setSlot n k { s with wait := .commit (left - 1) code }
    else match code with
      | some p => r.endProgram n k p.1 false p.2 s.counters4
      | none =>
        let r1 := r.applyTile n k
        if r1.x.flt.failstop ∧ (r1.slot n k).phase = .running then r1.endProgram n k errInstFailed false s.idx s.counters4
        else r1
  | _ => r

/-- A row of an add's sums is acknowledged (R130, R302): after a write that failed the add does not commit, the slot's
adds are abandoned and the program ends. -/
def Run.storeAck (r : Run) (n entry : Nat) (err : Bool) : Run :=
  let c := r.cell n
  match c.casks.find? (fun p => p.1 == entry) with
  | none => r
  | some (_, q) =>
    match q.adds with
    | [] => r
    | a :: _ => if err then r.addFail n entry a errMemWrite else r

/-- Invalidations are acknowledged once no write-out is in progress (R298). -/
def Inst.ackInvalidations (x : Inst) : Inst :=
  let busy := x.xfers.any (fun t => decide (t.phase = .writing)) || x.liveCells.any fun n =>
    (x.cell n).slots.any fun s => match s.wait with
      | .commit .. => true
      | _ => false
  if busy then x else { x with invAcks := x.invAcks + x.invOwed, invOwed := 0 }

def Run.ackInvalidations (r : Run) : Run := { r with x := r.x.ackInvalidations }

/-- SP_WRITE_ACK (R22, R421): a write request is granted and acknowledged. -/
def spWrite (n : Nat) (err : Bool) (_ : Env) (x : Inst) : Run :=
  let c := x.cell n
  match c.nextWrite with
  | none => pureRun x
  | some w =>
    let r := pureRun (x.setCell n { c with spWrites := c.spWrites.erase w })
    match w.who with
    | .slot k => (r.writeAck n k w.index err).ackInvalidations
    | .add entry => r.storeAck n entry err
    | .scrub _ => r
    | .nobody => r

/-! ### The drain port (R150 to R155) -/

/-- Add 1 to a 32-bit count that saturates (R177, R394). -/
def satInc (w : Word) : Word := if w = BitVec.allOnes 32 then w else w + 1

/-- Beat entries in use (R150). -/
def Cell.heldBeats (c : Cell) : Nat := (c.drain.map fun t => t.beats.length).sum

/-- Tiles and records counted against the limit of 16 (R155). -/
def Cell.counted (c : Cell) : Nat := (c.drain.filter fun t => !t.beats.isEmpty).length + c.owed.length

/-- The tile that a beat with this tag continues, or a bound tile that it starts. -/
def Cell.beatTile (c : Cell) (tag : BitVec 16) : Option DrainTile :=
  match c.drain.find? (fun t => t.tag == tag && decide (1 ≤ t.beats.length) && decide (t.beats.length < 4)) with
  | some t => some t
  | none => c.drain.find? fun t => t.tag == tag && t.beats.isEmpty

/-- What becomes of a beat at the port: the cell after it, and the tile it completed; none when drain_ready is low. -/
def Cell.takeBeat (c : Cell) (tag : BitVec 16) (beat : List Word) : Option (Cell × Option Nat) :=
  match c.owed.find? (fun p => p.1 == tag) with
  | some p =>
    let left := p.2 - 1
    some ({ c with owed := if left = 0 then c.owed.filter (fun q => q.1 != tag)
                           else c.owed.map fun q => if q.1 == tag then (tag, left) else q }, none)
  | none =>
    if 64 ≤ c.heldBeats then none
    else match c.beatTile tag with
      | some t =>
        if t.beats.isEmpty && decide (16 ≤ c.counted) then none
        else
          let bs := t.beats ++ [beat]
          some ({ c with drain := c.drain.map fun u => if u.id = t.id then { u with beats := bs } else u },
            if bs.length = 4 then some t.id else none)
      | none =>
        if 16 ≤ c.counted then none
        else some ({ c with drain := c.drain ++ [{ id := c.freshTile, tag := tag, beats := [beat], bound := none }] }, none)

/-- The consumers of a slot that wait for a drained tile take it (R151, R228), and an add that waits for it takes the ledger
events of its slot's feed requests and stores its sums (R130, R159). -/
def Run.tileComplete (r : Run) (n id : Nat) : Run :=
  let c := r.cell n
  (List.range 4).foldl (fun r k =>
    match (r.slot n k).fills.find? (fun f => f.id == id) with
    | some f => r.fill n k f
    | none => r) (match (c.drain.find? (fun t => t.id == id)).bind DrainTile.bound with
    | some (.add e) => r.setCell n (c.addTakes e id).startStores
    | _ => r)

/-- DRAIN_BEAT (R150): a beat that the cell cannot take counts in STALL_DRAIN (R177); a cell that is paused, retired or
failed its self-test holds drain_ready low (R381, R383, R437). -/
def drainBeatStep (n : Nat) (tag : BitVec 16) (beat : List Word) (_ : Env) (x : Inst) : Run :=
  atPort 5 x fun x =>
    let c := { x.cell n with gated := false }
    match (if x.cellRuns n then c.takeBeat tag beat else none) with
    | none => pureRun (x.setCell n { c with stallDrain := satInc c.stallDrain })
    | some (c1, done) =>
      let r := pureRun (x.setCell n c1)
      match done with
      | some id => r.tileComplete n id
      | none => r

/-- A feed request of the cell is active and its operands are not there (R177): it waits for lines or for a translation. -/
def Cell.feedWaits (c : Cell) : Bool :=
  c.slots.any fun s => decide (s.wait = .lines ∨ s.wait = .xlate ∨ s.wait = .resolve ∨ s.wait = .adds) && (match s.nextOp with
    | some o => o.isFeed
    | none => false)

/-- FEED_VECTOR_ACCEPT (R420): the multiplier is ready. It takes the vector at the port; with none presented while a request
is active, because its operands are not there or the cell is paused, the cycle counts as a stall (R177). -/
def feedAccept (n : Nat) (_ : Env) (x : Inst) : Run :=
  let c := x.cell n
  let stalled := x.setCell n { c with stallFeed := satInc c.stallFeed }
  match (if x.cellRuns n then c.feedQ else []) with
  | [] => pureRun (if x.awake && (c.feedWaits || !c.feedQ.isEmpty) then stalled else x)
  | f :: rest =>
    let c1 := { c with feedQ := rest }
    let s := c1.slot f.slot
    pureRun (x.setCell n (c1.setSlot f.slot { s with tile := { s.tile with fed := s.tile.fed + 1 } }))

/-- FLUSH_UNBOUND (R153): every unbound tile is discarded. -/
def Cell.flushUnbound (c : Cell) : Cell := c.discardTiles ((c.drain.filter fun t => t.bound.isNone).map (·.id))

/-! ### Launches (R204 to R206, R222) -/

/-- Check 2 of R205: length, reserved bits, counts, the handle's instance. -/
def launchArg (x : Inst) (ws : List Word) : Bool :=
  decide (ws.length = 5 + nScal ws) && decide (nScal ws ≤ 32) && decide (fld (wordAt ws 1).toNat 31 29 = 0)
    && decide (fld (wordAt ws 2).toNat 31 25 = 0) && decide (descCount ws ≤ 16)
    && decide ((wordAt ws 4).toNat / 64 = 0) && decide (handleInst (wordAt ws 0) < x.instCount)

/-- LAUNCH_RECORD (R205): checks 1 and 2, then a place in the queue. While the queue is full, or a mailbox post is held
(R363), the port holds the record before any check. -/
def launchRecord (n : Nat) (ws : List Word) (_ : Env) (x : Inst) : Run :=
  atPort 3 x fun x0 =>
    let x := x0.ungate n
    let c := x.cell n
    if c.heldPost.isSome ∨ 4 ≤ c.launchQ.length then pureRun x
    else if x.cellOut n then pureRun (x.setCell n (c.respond (.done errCellRetired)))
    else if !launchArg x ws then pureRun (x.setCell n (c.respond (.done errChArg)))
    else pureRun (x.setCell n ({ c with launchQ := c.launchQ ++ [ws] }.respond .queued))

/-- Some running program claims a vitrine or mask that the record claims. -/
def Cell.claimed (c : Cell) (ws : List Word) : Bool :=
  c.slots.any fun s => decide (s.phase ≠ .idle)
    && decide (vitClaim s.launch &&& vitClaim ws ≠ 0 ∨ maskClaim s.launch &&& maskClaim ws ≠ 0)

/-- The lowest idle slot (which idle slot a launch takes is the model's choice, log entry 99). -/
def Cell.freeSlot (c : Cell) : Option Nat := (List.range 4).find? fun k => decide ((c.slot k).phase = .idle)

/-- Slots of an instance that hold programs of a channel (R262). -/
def Inst.programs (x : Inst) (v : Nat) : List (Nat × Nat) :=
  x.liveCells.flatMap fun n =>
    ((List.range 4).filter fun k =>
      let s := x.slot n k
      decide (s.phase ≠ .idle) && decide (ownerOf s.launch = v)).map fun k => (n, k)

/-- The checks of admission that a handle passes, in order (R205 checks 3 to 5, R260, R360); a fail-stopped instance answers
for none of its channels (R389). -/
def Inst.channelCheck (e : Env) (x : Inst) (h : Word) : Nat :=
  let here := decide (handleInst h = x.id)
  let v := if here then x.vc (handleVc h) else e.vc (handleInst h) (handleVc h)
  if !x.stream.inForce then errNoStream
  else if !here ∧ e.stopped (handleInst h) then errInstFailed
  else if v.st = .free ∨ v.gen ≠ handleGen h then errChStale
  else if !here ∨ v.st ≠ .running then errChState
  else 0

/-- Checks 3 to 7 of R205. -/
def Inst.admitCheck (e : Env) (x : Inst) (ws : List Word) : Nat :=
  let code := x.channelCheck e (wordAt ws 0)
  if code ≠ 0 then code
  else if progOff ws % 8 ≠ 0 ∨ descOff ws % 64 ≠ 0 ∨ 2 ^ 20 < progOff ws + 8 * progLen ws
      ∨ 2 ^ 20 < descOff ws + 64 * descCount ws then errSpRange
  else if 16 ≤ (x.programs (ownerOf ws)).length then errChSlots
  else 0

/-- LAUNCH_ADMIT (R205, R206): the record at the head of the queue, once a slot is free and its claims are. One whose handle names
an instance that sleeps waits for it (R27, R405). -/
def launchAdmit (n : Nat) (e : Env) (x : Inst) : Run :=
  let c := x.cell n
  match c.launchQ, c.freeSlot with
  | ws :: rest, some k =>
    if !x.cellRuns n || c.claimed ws then pureRun x
    else if x.stream.inForce && e.away (handleInst (wordAt ws 0)) then (pureRun x).emit (.ask (handleInst (wordAt ws 0)))
    else
      let c1 := { c with launchQ := rest }
      let code := x.admitCheck e ws
      if code ≠ 0 then pureRun (x.setCell n (c1.answer .queued (.done code)))
      else
        let c2 := (c1.zeroClaims ws).answer .queued (.fetching k)
        let c3 := c2.setSlot k { Slot.idle with phase := .fetching, launch := ws }
        pureRun (x.setCell n (c3.request (.slot k) 3 (launchLines ws)))
  | _, _ => pureRun x

/-- A launch in a slot is refused: it leaves no trace except its response (R205). -/
def Cell.refuseFetch (c : Cell) (k code : Nat) : Cell :=
  let ws := (c.slot k).launch
  (((c.orphan (.slot k)).zeroClaims ws).setSlot k Slot.idle).answer (.fetching k) (.done code)

/-- LAUNCH_FETCH_DONE (R205, R222): checks 8 and 9, the response, and the program runs. -/
def launchFetchDone (n k : Nat) (_ : Env) (x : Inst) : Run :=
  let c := x.cell n
  let s := c.slot k
  if s.phase ≠ .fetching ∨ c.owesSlot k ∨ !x.cellRuns n then pureRun x
  else
    let ws := s.launch
    let prog := fetchedProg s.readBuf ws
    match s.readBuf.find? (fun l => decide (l.resp ≠ 0)) with
    | some l => pureRun (x.setCell n (c.refuseFetch k (respErr l.resp)))
    | none =>
      if !staticOk prog (descCount ws) (vitClaim ws) (maskClaim ws) then pureRun (x.setCell n (c.refuseFetch k errProg))
      else
        let c1 := c.answer (.fetching k) (.done 0)
        pureRun (x.setCell n (c1.setSlot k { Slot.idle with
          phase := .running, launch := ws, prog := prog, descs := fetchedDescs s.readBuf ws }))

/-- The launches with a channel's handle that are queued or being fetched are refused: its pre-emption, destruction or
failure begins (R205). A record with an older handle waits on, for CH_STALE at its admission (R260). -/
def Cell.refuseLaunches (c : Cell) (handle : Word) (code : Nat) : Cell :=
  let mine (ws : List Word) : Bool := decide (wordAt ws 0 = handle)
  let waits := c.respQ.filter fun w => decide (w = .queued)
  let marks := (c.launchQ.zip waits).map fun p => mine p.1
  let c1 := (List.range 4).foldl (fun c k =>
    let s := c.slot k
    if s.phase = .fetching ∧ mine s.launch then c.refuseFetch k code else c) c
  let resp := c1.respQ.foldl (fun (p : List RespWait × List Bool) w =>
    match w, p.2 with
    | .queued, true :: ms => (p.1 ++ [.done code], ms)
    | .queued, _ :: ms => (p.1 ++ [.queued], ms)
    | w, ms => (p.1 ++ [w], ms)) ([], marks)
  { c1 with launchQ := c1.launchQ.filter (fun ws => !mine ws), respQ := resp.1 }.flushResp

/-- RESERVED_KIND_RECORD (R422): CH_ARG; a cell that failed its self-test refuses every record with CELL_RETIRED (R437). -/
def reservedRecord (n : Nat) (_ : Env) (x : Inst) : Run :=
  atPort 3 x fun x0 =>
    let x := x0.ungate n
    let c := x.cell n
    if c.heldPost.isSome then pureRun x
    else pureRun (x.setCell n (c.respond (.done (if x.lstFail.getLsbD n then errCellRetired else errChArg))))

/-! ### Outbound words (R244, R422) -/

/-- Post the end summaries for which places are free, in ascending slot order (R217, R244). -/
def Run.endSummaries (r : Run) (n : Nat) : Run :=
  (List.range 4).foldl (fun r k =>
    match (r.slot n k).phase with
    | .ending code pre index cs => if (r.cell n).summaries + (r.cell n).reserved < 16 then r.release n k code pre index cs else r
    | _ => r) r

end Sys2Proof.Machine
end

