-- ==== Sys2Proof/Machine/Transfers.lean ====
section
/-! DEFINITION. The stream engine at work (R305 to R320, R326 to R336): acceptance, the fence wait, staging, translation,
reading, the commit point, writing, the end of a transfer, and the exchange of a collective. -/

namespace Sys2Proof.Machine

/-! ### Access -/

def Inst.xfer (x : Inst) (id : Nat) : Option Xfer := x.xfers.find? fun t => t.id == id

def Inst.setXfer (x : Inst) (t : Xfer) : Inst := { x with xfers := x.xfers.map fun u => if u.id = t.id then t else u }

def Run.setXfer (r : Run) (t : Xfer) : Run := { r with x := r.x.setXfer t }

/-- The transfer has an extent of 0 (R320). -/
def Xfer.isEmpty (t : Xfer) : Bool := t.sd.isEmpty || t.dd.isEmpty

def Xfer.plan_ (t : Xfer) : Plan := Plan.of t.plan

/-! ### The ports of the stream engine (R24, R272, R425) -/

/-- A list cut into runs of at most 64 elements whose numbers follow each other: the requests of a list of lines. -/
def runsBy {α : Type} (line : α → Nat) : List α → List (List α)
  | [] => []
  | q :: qs => match runsBy line qs with
    | (p :: ps) :: rest => if line p = line q + 1 ∧ ps.length < 63 then (q :: p :: ps) :: rest else [q] :: (p :: ps) :: rest
    | rest => [q] :: rest

/-- The requests of a transfer tile's reads, and of its writes. -/
def readTile (rs : List SeRead) : List SeReq := (runsBy SeRead.pa rs).map fun q => SeReq.waiting q []
def writeTile (ws : List SeWrite) : List SeReq := (runsBy SeWrite.addr ws).map fun q => SeReq.waiting [] q

/-- Lines in transfer tiles of 4,096 bytes. -/
def lineTiles {α : Type} (ls : List α) : List (List α) := cutInto 64 (ls.length / 64 + 1) ls

/-- The port and ident of the next request (log entry 101): of the ports not retired (R385) that have an ident free, the one
with the fewest requests outstanding, the lowest of equals, and its lowest free ident. -/
def Inst.nextPort (x : Inst) : Option (Nat × Nat) :=
  let load (p : Nat) : Nat := (x.seReqs.filter fun q => q.port == p).length
  let ps := (List.range 8).filter fun p => !x.flt.ports.getLsbD p && decide (load p < 256)
  (ps.foldl (fun (b : Option Nat) p => match b with
    | some q => if load p < load q then some p else b
    | none => some p) none).bind fun p =>
      ((List.range 256).find? fun t => x.seReqs.all fun q => !(q.port == p && q.ident == t)).map fun t => (p, t)

/-- Issue requests of a transfer while a port takes them; what is left comes second. -/
def Inst.issueReqs (id : Nat) : List SeReq → Inst → Inst × List SeReq
  | [], x => (x, [])
  | q :: qs, x => match x.nextPort with
    | none => (x, q :: qs)
    | some pt => Inst.issueReqs id qs { x with
        seReqs := x.seReqs ++ [{ q with port := pt.1, ident := pt.2, xfer := some id }]
        seWrites := x.seWrites ++ q.writes.map fun w => (id, w) }

/-- The channel has a transfer tile that waits. -/
def Inst.hasTiles (x : Inst) (v : Nat) : Bool := x.xfers.any fun t => t.vc == v && !t.tiles.isEmpty

/-- Issue the next transfer tile of a channel, of its first transfer that has one; the answer says whether all of it left. -/
def Inst.issueTile (x : Inst) (v : Nat) : Inst × Bool :=
  match x.xfers.find? fun t => t.vc == v && !t.tiles.isEmpty with
  | none => (x, true)
  | some t => match t.tiles with
    | [] => (x, true)
    | tile :: rest =>
      let p := Inst.issueReqs t.id tile x
      (p.1.setXfer { t with tiles := if p.2.isEmpty then rest else p.2 :: rest }, p.2.isEmpty)

/-- A list of hardware contexts with what they hold, in ascending order. -/
def insertCtx (p : Nat × Nat × Nat) : List (Nat × Nat × Nat) → List (Nat × Nat × Nat)
  | [] => [p]
  | q :: qs => if p.1 ≤ q.1 then p :: q :: qs else q :: insertCtx p qs

/-- The channels of a round with their weights, in ascending order of hardware context: the resident ones that have a
transfer tile waiting (R272). -/
def Inst.newRound (x : Inst) : List (Nat × Nat) :=
  ((x.vcs.filterMap fun p => match p.2.ctx with
    | some k => if x.hasTiles p.1 then some (k, p.1, max 1 p.2.weight) else none
    | none => none).foldr insertCtx []).map Prod.snd

/-- The rounds of R272: in each, every channel with a waiting transfer tile issues up to its weight in tiles. `fuel` bounds
the tiles issued and the channels passed over. -/
def Inst.rounds : Nat → Inst → Inst
  | 0, x => x
  | fuel + 1, x => match x.seRound with
    | [] => match x.newRound with
      | [] => x
      | r :: rs => Inst.rounds fuel { x with seRound := r :: rs }
    | (v, k) :: rest =>
      if k = 0 ∨ !x.hasTiles v then Inst.rounds fuel { x with seRound := rest }
      else
        let p := x.issueTile v
        if p.2 then Inst.rounds fuel { p.1 with seRound := (v, k - 1) :: rest } else p.1

/-- Issue what the ports can take now. -/
def Inst.serve (x : Inst) : Inst :=
  let n := (x.xfers.map fun t => t.tiles.length).sum
  if n = 0 then x else Inst.rounds (3 * n + x.seRound.length + 3) x

def Run.serve (r : Run) : Run := { r with x := r.x.serve }

/-- Requests of a transfer are outstanding. -/
def Inst.outstanding (x : Inst) (id : Nat) : Bool := x.seReqs.any fun q => decide (q.xfer = some id)

/-- Nobody waits for the requests that a transfer has outstanding. -/
def Inst.orphanReqs (x : Inst) (id : Nat) : Inst :=
  { x with seReqs := x.seReqs.map fun q => if q.xfer = some id then { q with xfer := none } else q }

/-- The reads of a transfer have all returned (R307 step 3). -/
def Inst.readDone (x : Inst) (t : Xfer) : Bool := decide (t.phase = .reading) && t.tiles.isEmpty && !x.outstanding t.id

/-! ### Repeats (R380, R385, R387, R393) -/

/-- The hub writes or reads the save area of a channel (R264, R269, R275, R277, R278). -/
def Inst.atArea (x : Inst) (v : Nat) : Bool :=
  let c := x.vc v
  let op (n : Nat) : Bool := match c.cmd with
    | some d => decide (d.op = n)
    | none => false
  match c.st with
  | .suspending => c.stopped
  | .destroying => c.stopped
  | .ready => c.resident
  | .preempted => op 4
  | .created => op 1
  | _ => false

/-- The repeat of a fault is in progress. -/
def Inst.repeating (x : Inst) (m : PortFault) : Bool :=
  m.xfers.any (fun id => x.seReqs.any (fun q => q.again && decide (q.xfer = some id))
      || (match x.xfer id with
          | some t => t.tiles.any fun q => q.any SeReq.again
          | none => false))
    || m.vcs.any x.atArea

/-- The record of a fault whose repeat has ended (R392). -/
def Run.mendRecord (r : Run) (m : PortFault) : Run :=
  r.faultAt 0 m.handle m.time { cell := none, port := m.port, cls := m.cls, action := if m.perm then 3 else 1, second := m.second
                                perm := m.perm, index := m.index, address := 0, moved := 0 }

/-- The faults whose repeats have ended are recorded (R393). -/
def Run.mended (r : Run) : Run :=
  let x := r.x
  let done := x.flt.mends.filter fun m => !x.repeating m
  done.foldl Run.mendRecord { r with x := { x with flt := { x.flt with mends := x.flt.mends.filter x.repeating } } }

/-- A step with which repeats may end. -/
def mending (f : Env → Inst → Run) (e : Env) (x : Inst) : Run := (f e x).mended

/-! ### The end of a transfer (R312, R314, R320) -/

/-- The kind 5 record (R312). -/
def xferRecord (t : Xfer) (handle : Word) (code bytes : Nat) (empty pre : Bool) : List Word :=
  let f := if xSigEn t.words then xSigFence t.words else 0
  [recWord0 5 empty pre code, handle, BitVec.ofNat 32 (xTag t.words + f * 2 ^ 16), 0, BitVec.ofNat 32 bytes,
    BitVec.ofNat 32 (bytes >>> 32), BitVec.ofNat 32 t.poisoned, BitVec.ofNat 32 t.firstBad]

/-- A transfer leaves the engine; its staging space is free. -/
def Run.dropXfer (r : Run) (id : Nat) : Run :=
  { r with x := { r.x.orphanReqs id with xfers := r.x.xfers.filter fun t => t.id != id } }

/-- A transfer ends with an error: its fence enters the error state (R314) and its record is posted, with the poisoned lines of its
image once its write-out has begun (R312; log entry 18). -/
def Run.xferFail (r : Run) (t : Xfer) (code bytes : Nat) : Run :=
  let r1 := (r.dropXfer t.id).emit (.record (xferRecord t (wordAt t.words 0) code bytes false false))
  if xSigEn t.words then r1.emit (.fenceErr (xSigFence t.words) code) else r1

/-- Step 6 without the use table: the signal, then the record (R307, R320). -/
def Run.xferFinish (r : Run) (t : Xfer) (empty : Bool) : Run :=
  let r1 := r.dropXfer t.id
  let r2 := if xSigEn t.words then r1.emit (.fenceAdd (xSigFence t.words) (xSigInc t.words)) else r1
  r2.emit (.record (xferRecord t (wordAt t.words 0) 0 t.bytes empty false))

/-! ### Writing (R307, R319, R331) -/

/-- The physical line number of a virtual address of a transfer's pages. -/
def Xfer.lineOf (t : Xfer) (write : Bool) (a : Nat) : Nat :=
  let v := a % 2 ^ 52
  match t.pages.find? (fun p => p.vpn == v / 4096 && p.write == write) with
  | some p => p.ppn.getD 0 * 64 + v % 4096 / 64
  | none => 0

/-- Bytes as line writes, in the order of their first byte; a line with a byte computed from an unreadable line is
poisoned as a whole (R317). -/
def Xfer.lineWrites (t : Xfer) (bs : List XByte) : List SeWrite :=
  let at_ := bs.map fun b => (t.lineOf true b.addr, b)
  (at_.map Prod.fst).eraseDups.map fun l =>
    let mine := at_.filter fun p => p.1 == l
    let poison := mine.any fun p => p.2.bad
    let cells := mine.foldl (fun cs p => cs.set (p.2.addr % 64) (some p.2.byte)) (List.replicate 64 (none : Option Byte))
    { addr := l
      data := if poison then 0 else BitVec.ofNat 512 (cells.foldr (fun b acc => (match b with
        | some v => v.toNat
        | none => 0) + 256 * acc) 0)
      be := BitVec.ofNat 64 (cells.foldr (fun b acc => (if b.isSome then 1 else 0) + 2 * acc) 0)
      poison := poison }

/-- Plain bytes from an address. -/
def bytesAt (a : Nat) (bs : List Byte) : List XByte := bs.zipIdx.map fun p => { addr := a + p.2, byte := p.1, bad := false }

/-- The distinct lines of a stream that are written as poisoned. -/
def poisonLines (t : Xfer) (bs : List XByte) : List Nat :=
  ((bs.filter XByte.bad).map fun b => t.lineOf true b.addr).eraseDups

/-- The offset in its stream of the first poisoned line (R312): that of the line's first byte of the stream. -/
def poisonFirst (t : Xfer) (bs : List XByte) : Option Nat :=
  match bs.find? XByte.bad with
  | none => none
  | some b => let l := t.lineOf true b.addr; bs.findIdx? fun c => t.lineOf true c.addr == l

/-- The transfer tiles of a byte stream (R309): each has the lines whose first byte of the stream lies in it. -/
def Xfer.streamTiles (t : Xfer) (bs : List XByte) : List (List SeWrite) :=
  ((cutInto 4096 (bs.length / 4096 + 1) bs).foldl (fun (acc : List SeWrite × List (List SeWrite)) piece =>
    let ls := (piece.map fun b => t.lineOf true b.addr).eraseDups
    (acc.1.filter fun w => !ls.contains w.addr, acc.2 ++ [acc.1.filter fun w => ls.contains w.addr])) (t.lineWrites bs, [])).2

/-- The use-table writes of step 6 (R319): one for each object of the two descriptors, with the epoch fence's value now. -/
def Inst.useWrites (e : Env) (x : Inst) (t : Xfer) : List SeWrite :=
  match x.stream.useTable with
  | none => []
  | some base =>
    let v := (e.fence x.stream.epoch).value
    (([t.sd.obj, t.dd.obj].filter (· != 0)).eraseDups).map fun o =>
      let a := base + 4 * o
      { addr := a / 64, data := BitVec.ofNat 512 (v.toNat * 2 ^ (8 * (a % 64))), be := BitVec.ofNat 64 (15 * 2 ^ (a % 64)),
        poison := false }

/-- The write-out of a transfer has ended (R307, R308, R319): its ledger updates take effect, its staging space is free, and
its use-table writes follow, then step 6. In a fail-stopped instance it ends with INST_FAILED (R389). -/
def Run.writtenOut (e : Env) (r : Run) (t : Xfer) : Run :=
  let x := r.x.book t.vc t.led
  let r1 : Run := { r with x := x }
  if x.flt.failstop then r1.xferFail t errInstFailed t.bytes
  else
    let ws := x.useWrites e t
    if ws.isEmpty then r1.xferFinish t false
    else (r1.setXfer { t with
      phase := .finishing, space := 0, stages := [{ tiles := [ws], send := false }], tiles := [writeTile ws] }).serve

/-- Packets of a collective that the die links have not carried yet (R331): those of its step and tag that its rank sends. -/
def Inst.linkOwes (x : Inst) (t : Xfer) : Bool := x.linkOut.any fun q =>
  decide (pktField q.2 8 4 = t.plan_.step) && decide (pktField q.2 12 4 = t.plan_.tag) && decide (pktField q.2 4 2 = t.plan_.rank)

/-- A collective with its send window's writes `ss` still to come: when they and its packets to local peers have all left, its
sends have ended, from which its timeout counts (R336). -/
def Inst.noteSent (x : Inst) (t : Xfer) (ss : List XStage) : Xfer :=
  { t with sentAt := if ss.any XStage.send || x.linkOwes t then none else some (t.sentAt.getD x.ticks) }

/-- Issue the next stage of writes, or go on to what follows the last one. A stage without writes is passed. Reads of the
receive window that wait for a port keep their place (R332). -/
def Run.nextStage (e : Env) (r : Run) (t : Xfer) : List XStage → Run
  | [] =>
    match t.phase with
    | .writing => r.writtenOut e t
    | .finishing => r.xferFinish t false
    | _ => r.setXfer (r.x.noteSent { t with stages := [] } [])
  | s :: rest =>
    let tiles := s.tiles.filter fun ws => !ws.isEmpty
    if tiles.isEmpty then r.nextStage e t rest
    else (r.setXfer (r.x.noteSent { t with
      stages := s :: rest, tiles := t.tiles ++ tiles.map writeTile, failed := false } (s :: rest))).serve

/-- Add stages behind those in progress. -/
def Run.addStages (e : Env) (r : Run) (t : Xfer) (ss : List XStage) : Run :=
  if t.stages.isEmpty then r.nextStage e t ss
  else r.setXfer { t with stages := t.stages ++ ss }

/-! ### Pages (R293, R307, R331) -/

/-- The pages that hold a list of addresses. -/
def pagesOf (side : XSide) (write : Bool) (as : List Nat) : List XPage :=
  ((as.map fun a => a % 2 ^ 52 / 4096).eraseDups).map fun v => { vpn := v, write := write, side := side, ppn := none, used := (0, 0) }

/-- The pages from an address on. -/
def pagesSpan (side : XSide) (write : Bool) (a n : Nat) : List XPage :=
  if n = 0 then []
  else ((List.range ((a + n - 1) / 4096 + 1 - a / 4096)).map (a / 4096 + ·)).map fun v =>
    { vpn := v % 2 ^ 40, write := write, side := side, ppn := none, used := (0, 0) }

/-- The pages that a transfer translates, seal records apart. -/
def Xfer.firstPages (t : Xfer) : List XPage :=
  let s := t.sd
  let d := t.dd
  let data := pagesOf .src false (s.elemAddrs ++ s.scaleAddrs ++ s.entryAddrs)
    ++ pagesOf .dst true (d.elemAddrs ++ d.scaleAddrs)
  if xKind t.words = 1 then
    let p := t.plan_
    let b := slotBytes p d
    data ++ pagesSpan .send true p.send (b * (d.nseg + p.nOwn d * p.k))
      ++ pagesSpan .recv false p.recv (b * (p.k * p.nOwn d + d.nseg))
      ++ pagesSpan .recv true p.recv (b * (p.k * p.nOwn d + d.nseg)) ++ pagesSpan .result true p.result 32
  else data ++ (if converts t.words s d false false || s.keyEn || d.keyEn then pagesOf .dst false d.suppliedAddrs else [])

/-- The tier of a physical 4 KiB page (R303): a page that no range covers is T0. -/
def Inst.tierRange (x : Inst) (ppn : Nat) : Option TierRange :=
  x.stream.ranges.find? fun g => decide (g.base ≤ ppn) && decide (ppn < g.base + g.pages)

def Inst.tier (x : Inst) (ppn : Nat) : Nat := match x.tierRange ppn with
  | some g => g.tier
  | none => 0

/-- The tiers of a side's pages. -/
def Xfer.tiers (t : Xfer) (x : Inst) (side : XSide) : List Nat :=
  ((t.pages.filter fun p => decide (p.side = side)).map fun p => x.tier (p.ppn.getD 0)).eraseDups

/-- The transfer decrypts, encrypts (R304). -/
def Xfer.dec (t : Xfer) (x : Inst) : Bool :=
  decide (xKind t.words = 0) && t.sd.keyEn && (t.tiers x .src).any (· != 0)

def Xfer.enc (t : Xfer) (x : Inst) : Bool :=
  decide (xKind t.words = 0) && t.dd.keyEn && (t.tiers x .dst).any (· != 0)

/-- What translation left of a page: the page with its physical page and the range of the entry used, a miss, or an error. -/
def Inst.pageLook (x : Inst) (asid : BitVec 16) (p : XPage) : Except Unit (Option XPage) :=
  match x.tlbFind asid p.vpn with
  | none => .ok none
  | some e =>
    if if p.write then e.w else e.r then .ok (some { p with ppn := some (e.ppn + (p.vpn - e.vpn)), used := (e.vpn, e.pages) })
    else .error ()

/-- Translate the pages of a transfer: from the cache, or by a request for each page that misses (R296, R297). none when
an access is not permitted. -/
def Inst.xlatePages (x : Inst) (asid : BitVec 16) (id : Nat) : List XPage → Option (Inst × List XPage)
  | [] => some (x, [])
  | p :: ps =>
    match p.ppn with
    | some _ => (x.xlatePages asid id ps).map fun q => (q.1, p :: q.2)
    | none =>
      match x.pageLook asid p with
      | .error _ => none
      | .ok (some p1) => (x.xlatePages asid id ps).map fun q => (q.1, p1 :: q.2)
      | .ok none =>
        let asked := x.xreqs.any fun q => decide (q.who = .xfer id) && q.vpn == p.vpn && q.write == p.write
        let x1 := if asked then x else x.askXlate asid p.vpn p.write (.xfer id)
        (x1.xlatePages asid id ps).map fun q => (q.1, p :: q.2)

/-! ### Steps 2 and 3 -/

/-- The checks at the end of translation (R295, R304, R327, R282, R288): 0 when they pass. -/
def Xfer.tierCheck (t : Xfer) (x : Inst) : Nat :=
  let mixed (side : XSide) : Bool := decide (1 < (t.tiers x side).length)
  let unsealed (side : XSide) : Bool := t.pages.any fun p => decide (p.side = side) && p.write &&
    (match x.tierRange (p.ppn.getD 0) with
      | some g => g.encReq
      | none => false)
  if xKind t.words = 1 then
    if (t.tiers x .send).any (· != 3) || (t.tiers x .recv).any fun g => decide (g = 1 ∨ g = 2) then errCollPlan
    else if unsealed .dst || unsealed .send || unsealed .recv || unsealed .result then errSealRequired
    else 0
  else if (t.sd.keyEn && mixed .src) || (t.dd.keyEn && mixed .dst) then errTierMix
  else if unsealed .dst && !t.enc x then errSealRequired
  else if (t.dec x && decide (t.sd.aux % 32 ≠ 0)) || (t.enc x && decide (t.dd.aux % 32 ≠ 0)) then errDesc
  else
    let c1 := if t.dec x then x.keyUse t.vc t.sd.key else 0
    let c2 := if t.enc x then x.keyUse t.vc t.dd.key else 0
    if c1 ≠ 0 then c1
    else if c2 ≠ 0 then c2
    else if t.enc x && decide (2 ^ 64 - 1 < (x.key t.dd.key).counter + t.dd.segCount) then errKeyExhausted
    else 0

/-- The segments that byte p of the element stream has codes of; a row of 4-bit or 6-bit codes ends with a whole byte
(R294, R328). -/
def Desc.byteSegs (d : Desc) (p : Nat) : List Nat :=
  let j := p % d.rowBytes
  let e (bit : Nat) : Nat := (p / d.rowBytes * d.e0 + min (bit / d.bits) (d.e0 - 1)) / 4096
  [e (8 * j), e (8 * j + 7)]

/-- The lines that a transfer reads, with the access by which each is translated. -/
def Xfer.readLines (t : Xfer) (x : Inst) : List SeRead :=
  let s := t.sd
  let d := t.dd
  let conv := converts t.words s d (t.dec x) (t.enc x) || decide (xKind t.words = 1)
  let seals := if t.dec x then s.sealAddrs else []
  let elems := if xKind t.words = 1 ∧ t.plan_.op = 2 then
      let own := t.plan_.owned d
      s.elemAddrs.zipIdx.filterMap fun p => if (s.byteSegs p.2).any own.contains then some p.1 else none
    else s.elemAddrs
  let srcAs := elems ++ s.scaleAddrs ++ (if conv then s.entryAddrs else []) ++ seals
  let dstAs := if conv && decide (xKind t.words = 0) then d.suppliedAddrs else []
  (((srcAs ++ dstAs).map fun a => a % 2 ^ 52 / 64).eraseDups).map fun l =>
    let pa := t.lineOf false (64 * l)
    { va := l, pa := pa, tier := x.tier (pa / 64), again := false, poll := none }

/-- Seal-record pages that the direction of the transfer adds once tiers are known (R295). -/
def Xfer.sealPages (t : Xfer) (x : Inst) : List XPage :=
  let have_ (p : XPage) : Bool := t.pages.any fun q => q.vpn == p.vpn && q.write == p.write
  ((if t.dec x then pagesOf .src false t.sd.sealAddrs else [])
    ++ (if t.enc x then pagesOf .dst true t.dd.sealAddrs else [])).filter fun p => !have_ p

/-- An earlier transfer of the channel that encrypts may still be translating: counter values go in start order (R285). -/
def Inst.translatingBefore (x : Inst) (t : Xfer) : Bool :=
  x.xfers.any fun u => u.vc == t.vc && decide (u.id < t.id) && decide (u.phase = .translating) && u.dd.keyEn

/-! ### The commit point of a move (R307 to R310) -/

/-- The destination image of a move, or the code that ends it. Where the streams of both sides fail, the source's code stands (R120;
DESIGN CHOICE, log entry 113). -/
def Xfer.image (t : Xfer) (x : Inst) : Except Nat XImg :=
  let s := t.sd
  let d := t.dd
  let dec := t.dec x
  if !converts t.words s d dec (t.enc x) then .ok (copyImg s d t.raw)
  else
    let c1 := if dec then x.keyUse t.vc s.key else 0
    let c2 := if t.enc x then x.keyUse t.vc d.key else 0
    if c1 ≠ 0 then .error c1
    else if c2 ≠ 0 then .error c2
    else
      let src : Option Src := if dec then decryptSrc (x.key s.key) s t.raw else some t.raw
      match src, s.nw.fmt, d.nw.fmt with
      | some rd, some sf, some df =>
        let sc := if s.nw.checked then streamCode s rd (List.range (s.positions + 16)) else 0
        let dc := if d.nw.mode = 5 then streamCode d t.raw ((List.range 16).map (d.positions + ·)) else 0
        if sc ≠ 0 then .error sc
        else if dc ≠ 0 then .error dc
        else
          let sign := (ofLeBytes t.sign)
          match convertImg t.words sign x.stream.tabs (x.vc t.vc).seed.toNat s d sf df rd t.raw with
          | none => .error errScaleRange
          | some m => .ok m
      | none, _, _ => .error errKeyAuth
      | _, _, _ => .error errFmt

/-- The ledger update of a fence wait (R154, R307). -/
def Xfer.waitsLed (t : Xfer) : Led := if t.waited then { Led.zero with waits := 1, ticks := t.ticks } else Led.zero

/-- XFER_COMMIT_POINT (R307 step 4): every step before it has passed, and the write-out begins. -/
def Run.commitXfer (e : Env) (r : Run) (t : Xfer) : Run :=
  let x := r.x
  match t.image x with
  | .error code => r.xferFail t code 0
  | .ok m =>
    let d := t.dd
    let crc := commitCrc d 0 (m.elems.map XByte.byte) (m.scales.map XByte.byte) []
    let led := (m.led.add { Led.zero with fp := crc }).add t.waitsLed
    let out : List (List XByte) × List XByte :=
      if t.enc x then encryptImg (x.key d.key) t.ctr d m else ([m.elems, m.scales], [])
    let pe := poisonLines t m.elems
    let ps := poisonLines t m.scales
    let first := match poisonFirst t m.elems, poisonFirst t m.scales with
      | some o, _ => o
      | none, some o => o + 2 ^ 31
      | none, none => 0
    let t1 : Xfer := { t with
      phase := .writing, led := led, bytes := m.elems.length + m.scales.length + out.2.length
      poisoned := pe.length + ps.length, firstBad := first, got := [] }
    r.nextStage e t1 [{ tiles := out.1.flatMap t.streamTiles ++ lineTiles (t.lineWrites out.2), send := false }]

/-! ### Collectives (R328 to R336) -/

/-- The instance of a rank of this package, none for a rank elsewhere (R326). -/
def Plan.die (p : Plan) (rank : Nat) : Option Nat :=
  if p.base ≤ rank ∧ rank < p.base + p.count then some (rank - p.base) else none

/-- Send packets (R331): over the die link to a local peer, else payload then header into the send window. -/
def Run.sendPackets (e : Env) (r : Run) (t : Xfer) (pk : List (Nat × Nat × List Byte)) : Run :=
  let p := t.plan_
  let b := slotBytes p t.dd
  let local_ := pk.filterMap fun q => (p.die q.1).map fun i => (i, q.2.2)
  let remote := pk.filter fun q => (p.die q.1).isNone
  let pay := remote.flatMap fun q => t.lineWrites (bytesAt (p.send + b * q.2.1 + 64) (q.2.2.drop 64))
  let hdr := remote.flatMap fun q => t.lineWrites (bytesAt (p.send + b * q.2.1) (q.2.2.take 64))
  let r1 : Run := { r with x := { r.x with linkOut := r.x.linkOut ++ local_ } }
  let t1 := { t with sentAt := none }
  if remote.isEmpty then r1.setXfer (r1.x.noteSent t1 t1.stages)
  else r1.addStages e t1 [{ tiles := lineTiles pay, send := true }, { tiles := lineTiles hdr, send := true }]

/-- The gather packets of an owned segment (R328, R331): one for each other rank. -/
def gatherPackets (p : Plan) (d : Desc) (s : Nat) (poison : List Bool) (payload : List Byte) :
    List (Nat × Nat × List Byte) :=
  ((List.range p.k).filter (· != p.rank)).map fun q =>
    let body := if p.op = 1 then [] else payload
    (q, d.nseg + s / p.k * p.k + q,
      packet 1 p.rank q p.step p.tag s d.num (if p.op = 1 then 0 else poison.length) poison body)

/-- A poison map with the payload it speaks of, kept as one byte string under a segment's number. -/
def keepSeg (s : Nat) (poison : List Bool) (payload : List Byte) : CollPkt := { slot := s, bytes := mapBytes poison ++ payload }

/-- The collective exchange begins (R329, R331): this rank's contributions are encoded and sent. The source's scale stream is checked
whole, also under op 2, which decodes the owned segments alone (R120; DESIGN CHOICE, log entry 114). -/
def Run.startExchange (e : Env) (r : Run) (t : Xfer) : Run :=
  let x := r.x
  let p := t.plan_
  let s := t.sd
  let d := t.dd
  match s.nw.fmt with
  | none => r.xferFail t errFmt 0
  | some f =>
    let code := if s.nw.checked then streamCode s t.raw (List.range (s.positions + 16)) else 0
    if code ≠ 0 then r.xferFail t code 0
    else
      let v := sourceVals t.words (ofLeBytes t.sign) x.stream.tabs s f t.raw
      let tw := decide (f = .tw64) && !xMash t.words
      let mine (g : Nat) : Bool := decide (p.op ≠ 2) || (p.owned d).contains g
      let srcLed := Led.nonfin (v.1.zipIdx.any fun y => mine (y.2 / 4096) && !y.1.isFin)
      let t0 := { t with phase := .exchanging, got := [], ticks := t.ticks }
      if p.op = 2 then
        let es := (p.owned d).map fun g => (g, contribution p d x.stream.tabs d.num p.destT 0 g tw v.1 v.2)
        let t1 := { t0 with led := srcLed.add (Led.sum (es.map fun q => q.2.led))
                            results := es.map fun q => keepSeg q.1 q.2.poison (q.2.payload d.num) }
        r.sendPackets e t1 (es.flatMap fun q => gatherPackets p d q.1 q.2.poison (q.2.payload d.num))
      else
        let es := (List.range d.nseg).map fun g => (g, contribution p d x.stream.tabs p.wire p.wireT (2 ^ 32 * (p.rank + 1)) g tw v.1 v.2)
        let own := es.filter fun q => p.owner q.1 == p.rank
        let others := es.filter fun q => p.owner q.1 != p.rank
        let t1 := { t0 with
          led := srcLed.add (Led.sum (es.map fun q => q.2.led))
          accepted := own.map fun q =>
            { slot := p.rank * p.nOwn d + q.1 / p.k, bytes := mapBytes q.2.poison ++ q.2.payload p.wire } }
        r.sendPackets e t1 (others.map fun q =>
          (p.owner q.1, q.1, packet 0 p.rank (p.owner q.1) p.step p.tag q.1 p.wire q.2.poison.length q.2.poison (q.2.payload p.wire)))

/-- The bits of a kept poison map. -/
def keptMap (bs : List Byte) (n : Nat) : List Bool := let v := ofLeBytes (bs.take 32); (List.range n).map fun g => v.testBit g

/-- Reduce the owned segments whose contributions are all there and send their gather packets (R333). -/
def Run.reduceReady (e : Env) (r : Run) (t : Xfer) : Run :=
  let p := t.plan_
  let d := t.dd
  if p.op = 2 then r.setXfer t
  else
    let n := p.nOwn d
    let todo := (p.owned d).filter fun s => t.results.all (·.slot != s) &&
      (List.range p.k).all fun q => t.accepted.any fun a => a.slot == q * n + s / p.k
    let outs := todo.map fun s =>
      let len := d.segLen s
      let pk := (List.range p.k).map fun q =>
        let bs := match t.accepted.find? (fun a => a.slot == q * n + s / p.k) with
          | some a => a.bytes
          | none => []
        (keptMap bs (groupsOf p.wire len), decodePayload r.x.stream.tabs p.wire p.wireT len (bs.drop 32))
      (s, resultSeg p d r.x.stream.tabs s (reduceSeg p len pk))
    let t1 := { t with
      results := t.results ++ outs.map fun q => keepSeg q.1 q.2.poison (q.2.payload d.num)
      led := t.led.add (Led.sum (outs.map fun q => q.2.led)) }
    if outs.isEmpty then r.setXfer t1
    else r.sendPackets e t1 (outs.flatMap fun q => gatherPackets p d q.1 q.2.poison (q.2.payload d.num))

/-- Slots awaited and not yet accepted. -/
def Xfer.open_ (t : Xfer) : List Await :=
  (t.plan_.awaits t.dd).filter fun a => t.accepted.all fun c => c.slot != a.slot

/-- The commit point of a collective (R334): every awaited slot accepted, every owned segment done. -/
def Run.collCommit (e : Env) (r : Run) (t : Xfer) : Run :=
  let p := t.plan_
  let d := t.dd
  if !t.open_.isEmpty || (p.owned d).any fun s => t.results.all (·.slot != s) then r.setXfer t
  else
    let seg (s : Nat) : List Bool × List Byte :=
      let bs := match t.results.find? (fun c => c.slot == s) with
        | some c => c.bytes
        | none => match t.accepted.find? (fun c => c.slot == p.k * p.nOwn d + s) with
          | some c => c.bytes
          | none => []
      (keptMap bs (groupsOf d.num (d.segLen s)), bs.drop 32)
    let all := (List.range d.nseg).map fun s => (s, seg s)
    let written := (if p.op = 1 then all.filter fun q => p.owner q.1 == p.rank else all).map fun q => (q.1, q.2.2)
    let m := collImg p d written
    let maps := all.map fun q => q.2.1
    let pz := maps.any fun g => g.any id
    let crc := commitCrc d 0 (m.1.map XByte.byte) (m.2.map XByte.byte) []
    let led := ((t.led.add (Led.flagIf pz flPoison)).add { Led.zero with fp := crc }).add t.waitsLed
    let t1 := { t with phase := .writing, led := led, bytes := m.1.length + m.2.length, accepted := [], results := [], polls := []
                       tiles := t.tiles.filter fun q => q.any fun w => !w.writes.isEmpty }
    let rec_ := t.lineWrites (bytesAt p.result (resultRecord p d maps written))
    r.addStages e t1 [{ tiles := t.streamTiles m.1 ++ t.streamTiles m.2, send := false }, { tiles := [rec_], send := false }]

/-- The reductions and the commit that a collective can do now. -/
def Run.collGo (e : Env) (r : Run) (t : Xfer) : Run :=
  let r1 := r.reduceReady e t
  match r1.x.xfer t.id with
  | some t1 => r1.collCommit e t1
  | none => r1

/-- The collective that a packet from a local peer belongs to (R331). -/
def Inst.packetHome (x : Inst) (bs : List Byte) : Option Xfer :=
  x.xfers.find? fun t => decide (xKind t.words = 1) && !t.isEmpty && decide (t.plan_.step = pktField bs 8 4)
    && decide (t.plan_.tag = pktField bs 12 4) && decide (t.plan_.rank = pktField bs 6 2)

/-- The collective's receive window can be written: its pages are known and its own reads are over. -/
def Xfer.windowOpen (t : Xfer) : Bool := decide (t.phase = .exchanging ∨ t.phase = .writing ∨ t.phase = .finishing)

/-- Write a local peer's packet into the receive window, payload first (R331). -/
def Run.storePacket (e : Env) (r : Run) (t : Xfer) (bs : List Byte) : Run :=
  let p := t.plan_
  let d := t.dd
  match (p.awaits d).find? fun a => p.headerIs a bs with
  | none => r
  | some a =>
    let base := p.recv + slotBytes p d * a.slot
    r.addStages e t [{ tiles := lineTiles (t.lineWrites (bytesAt (base + 64) (bs.drop 64))), send := false },
                     { tiles := [t.lineWrites (bytesAt base (bs.take 64))], send := false }]

/-- The packets that came before the window of their collective was open are written into it. -/
def Run.emptyInbox (e : Env) (r : Run) (id : Nat) : Run :=
  match r.x.xfer id with
  | none => r
  | some t => t.inbox.foldl (fun r bs => match r.x.xfer id with
      | some u => r.storePacket e u bs
      | none => r) (r.setXfer { t with inbox := [] })

/-- A packet that arrives over the die link (R331): into the receive window of its collective, which keeps it until the window
is open, or held while no collective of its step and tag has been accepted. -/
def takePacket (bs : List Byte) (e : Env) (x : Inst) : Run :=
  match x.packetHome bs with
  | some t => if t.windowOpen then (pureRun x).storePacket e t bs else (pureRun x).setXfer { t with inbox := t.inbox ++ [bs] }
  | none => pureRun { x with held := x.held ++ [bs] }

/-- The packets held for a collective that is accepted now leave the 64 places (R331). -/
def Inst.claimHeld (x : Inst) (t : Xfer) : Inst :=
  let isMine (bs : List Byte) : Bool := match x.packetHome bs with
    | some u => u.id == t.id
    | none => false
  { x.setXfer { t with inbox := t.inbox ++ x.held.filter isMine } with held := x.held.filter fun bs => !isMine bs }

/-- The receiving hub has room for a packet: its collective takes it, or fewer than 64 wait (R331). -/
def Inst.packetRoom (x : Inst) (bs : List Byte) : Bool := (x.packetHome bs).isSome || decide (x.held.length < 64)

/-- A packet has left the die: the sends of a collective may have ended with it (R336). -/
def Inst.sendsEnd (x : Inst) : Inst :=
  { x with xfers := x.xfers.map fun t => if t.phase = .exchanging ∧ t.sentAt = none then x.noteSent t t.stages else t }

/-- COLL_LOCAL_PACKET (R331): the oldest packet that die j has for die i arrives. The die link holds it while the hub has no
room, sleeps or cannot be reached. -/
def State.localPacket (s : State) (i j : Nat) : State :=
  match s.insts[i]?, s.insts[j]? with
  | some y, some x => match x.linkOut.find? fun q => q.1 == i with
    | none => s
    | some q =>
      if !s.linked j i then s
      else if s.sleepers j i ≠ [] then s.wakeNext j i
      else if !y.awake then s
      else if !y.packetRoom q.2 then s
      else (s.setInst j { x with linkOut := x.linkOut.erase q }.sendsEnd).run i (takePacket q.2)
  | _, _ => s

/-- The reads of lines of a slot of the receive window, from line `first` of the slot on (R331, R332). -/
def Xfer.pollReads (t : Xfer) (x : Inst) (slot first n : Nat) : List SeRead :=
  (List.range n).map fun j =>
    let va := (t.plan_.recv + slotBytes t.plan_ t.dd * slot) % 2 ^ 52 / 64 + first + j
    let pa := t.lineOf false (64 * va)
    { va := va, pa := pa, tier := x.tier (pa / 64), again := false, poll := some slot }

/-- The slot of the receive window with this number in its part: the reduce slots, or the gather slots behind them (R331). -/
def Xfer.slotNo (t : Xfer) (gather : Bool) (idx : Nat) : Nat := if gather then t.plan_.k * t.plan_.nOwn t.dd + idx else idx

/-- COLL_POLL (R332): the poll interval of an awaited slot has passed, and its header is read. A slot that is being read
already is read no second time. -/
def collPoll (id : Nat) (gather : Bool) (idx : Nat) (_ : Env) (x : Inst) : Run :=
  match x.xfer id with
  | none => pureRun x
  | some t =>
    let slot := t.slotNo gather idx
    let awaited := t.open_.any fun a => a.slot == slot && decide (a.phase = if gather then 1 else 0)
    if t.phase ≠ .exchanging ∨ !x.awake ∨ !awaited ∨ t.polls.any (fun k => k.slot == slot) then pureRun x
    else pureRun (x.setXfer { t with
      polls := t.polls ++ [{ slot := slot, head := false, got := [] }]
      tiles := t.tiles ++ (lineTiles (t.pollReads x slot 0 1)).map readTile }).serve

/-- An accepted slot has been read whole: its packet is verified (R332). -/
def Run.pollVerify (e : Env) (r : Run) (t : Xfer) (a : Await) (bs : List Byte) : Run :=
  let p := t.plan_
  let code := p.packetCode t.dd a bs
  let t1 := { t with polls := t.polls.filter fun k => k.slot != a.slot }
  if code ≠ 0 then r.xferFail t1 code 0
  else
    let len := (p.expect t.dd a).2.2
    r.collGo e { t1 with accepted := t.accepted ++ [{ slot := a.slot, bytes := (bs.drop 32).take 32 ++ (bs.drop 64).take len }] }

/-- The bytes of the lines that a poll has read, in the order of their addresses. -/
def Poll.bytes (k : Poll) : List Byte :=
  let vas := k.got.map SeLine.va
  let lo := vas.foldl min (vas.headD 0)
  (List.range k.got.length).flatMap fun j => match k.got.find? fun l => l.va == lo + j with
    | some l => lineBytes l.data
    | none => List.replicate 64 0

/-- A line of the receive window is answered (R317, R318, R332). A header that is not the awaited one, or whose answer carries
poison, has not arrived yet; on an accepted one the payload is read, and then the packet is verified. -/
def Run.pollReturn (e : Env) (r : Run) (t : Xfer) (slot : Nat) (q : SeRead) (status : BitVec 2) (data : Line) : Run :=
  match t.open_.find? (fun a => a.slot == slot), t.polls.find? (fun k => k.slot == slot) with
  | some a, some k =>
    let drop := r.setXfer { t with polls := t.polls.filter fun k => k.slot != slot }
    if status = 2 then (if k.head then r.xferFail t errPoison 0 else drop)
    else if status ≠ 0 then r.xferFail t errMemRead 0
    else
      let k1 : Poll := { k with head := true, got := k.got ++ [{ va := q.va, data := data, bad := false }] }
      let n := ceilDiv (t.plan_.expect t.dd a).2.2 64
      let t1 := { t with polls := t.polls.map fun j => if j.slot = slot then k1 else j }
      if k.head then (if k1.got.length = n + 1 then r.pollVerify e t1 a k1.bytes else r.setXfer t1)
      else if !t.plan_.headerIs a (lineBytes data) then drop
      else if n = 0 then r.pollVerify e t1 a k1.bytes
      else r.setXfer { t1 with tiles := t1.tiles ++ (lineTiles (t.pollReads r.x slot 1 n)).map readTile }
  | _, _ => r

/-- COLL_TIMEOUT (R336): not every awaited slot accepted within the timeout. -/
def collTimeout (id : Nat) (_ : Env) (x : Inst) : Run :=
  let r := pureRun x
  match x.xfer id with
  | none => r
  | some t =>
    let limit := x.collCtrl.toNat / 2 ^ 16
    match t.sentAt with
    | none => r
    | some at_ =>
      let left := t.open_.filter fun a => !t.polls.any fun k => k.head && k.slot == a.slot
      if t.phase ≠ .exchanging ∨ limit = 0 ∨ x.ticks < at_ + limit * 1024 ∨ left.isEmpty ∨ !x.awake then r
      else ({ r with x := { x with collOut := min (x.collOut + 1) 0xFFFF } } : Run).xferFail t errCollTimeout 0

/-- The exchange of a collective begins once its reads have returned (R329). -/
def Run.beginExchange (e : Env) (r : Run) (id : Nat) : Run :=
  match r.x.xfer id with
  | none => r
  | some t =>
    if r.x.readDone t ∧ xKind t.words = 1 then
      let r1 := r.startExchange e t
      match r1.x.xfer id with
      | none => r1
      | some t2 => (r1.collGo e t2).emptyInbox e id
    else r

/-- Go on with a transfer's translation (R307 step 2); when every page is known its checks run and its reads leave. -/
def Run.xlateXfer (e : Env) (r : Run) (id : Nat) : Run :=
  match r.x.xfer id with
  | none => r
  | some t =>
    if t.phase ≠ .translating then r
    else
      let asid := (r.x.vc t.vc).asid
      match r.x.xlatePages asid id t.pages with
      | none => r.xferFail t errXlate 0
      | some (x1, ps) =>
        let t1 := { t with pages := ps }
        let r1 := { r with x := x1.setXfer t1 }
        if ps.any fun p => p.ppn.isNone then r1
        else
          let more := t1.sealPages x1
          if !more.isEmpty then
            match x1.xlatePages asid id (ps ++ more) with
            | none => r1.xferFail t1 errXlate 0
            | some (x2, ps2) => { r with x := x2.setXfer { t1 with pages := ps2 } }
          else if x1.translatingBefore t1 then r1
          else
            let code := t1.tierCheck x1
            if code ≠ 0 then r1.xferFail t1 code 0
            else
              let k := x1.key t1.dd.key
              let x2 := if t1.enc x1 then x1.setKey t1.dd.key { k with counter := k.counter + t1.dd.segCount } else x1
              let t2 := { t1 with phase := .reading, tiles := (lineTiles (t1.readLines x1)).map readTile, ctr := k.counter }
              ({ r with x := (x2.setXfer t2).serve } : Run).beginExchange e id

/-- Go on with every transfer that translates, oldest first: twice, since seal pages join late. -/
def Run.kickXfers (e : Env) (r : Run) : Run :=
  let ids := r.x.xfers.map Xfer.id
  (ids ++ ids).foldl (Run.xlateXfer e) r

/-- Staging space of a transfer (R308): its destination image, its seal records, a read window of 64 KiB. -/
def Xfer.need (t : Xfer) : Nat := t.dd.elemLen + t.dd.scaleLen + 32 * t.dd.segCount + 65536

/-- A transfer may start: it has passed its fence wait, and earlier ones of its channel have started (R307). -/
def Inst.eligible (x : Inst) (t : Xfer) : Bool :=
  decide (t.phase = .ready)
    && x.xfers.all fun u => !(u.vc == t.vc && decide (u.id < t.id) && decide (u.phase = .waiting ∨ u.phase = .ready))

/-- Empty transfers complete as they start, which they do in acceptance order with the others of their channel (R307, R320). -/
def Run.startEmpty (r : Run) (id : Nat) : Run :=
  match r.x.xfer id with
  | none => r
  | some t =>
    if t.isEmpty ∧ r.x.eligible t then ({ r with x := r.x.book t.vc t.waitsLed } : Run).xferFinish t true else r

def Run.startEmpties (r : Run) : Run := (r.x.xfers.map Xfer.id).foldl Run.startEmpty r

/-- XFER_STAGING_RESERVE (R308): the first eligible transfer in acceptance order takes its space, if it is there. -/
def stagingReserve (e : Env) (x : Inst) : Run :=
  match x.xfers.find? x.eligible with
  | none => pureRun x
  | some t =>
    let used := (x.xfers.map Xfer.space).sum
    let holders := (x.xfers.filter fun u => decide (u.space ≠ 0)).length
    if !x.awake || decide (2 ^ 23 < used + t.need) || decide (32 ≤ holders) then pureRun x
    else ((pureRun (x.setXfer { t with phase := .translating, space := t.need, pages := t.firstPages })).kickXfers e).startEmpties

/-- XFER_FENCE_PASS (R307 step 1, R314, R320): the wait passes or ends with the fence's code; a fence of an instance that sleeps is
looked at when it is in RUN (R405). -/
def fencePass (id : Nat) (e : Env) (x : Inst) : Run :=
  let r := pureRun x
  match x.xfer id with
  | none => r
  | some t =>
    if t.phase ≠ .waiting ∨ !x.awake then r
    else if xWaitEn t.words ∧ e.away (xWaitFence t.words / 1024) then r.emit (.ask (xWaitFence t.words / 1024))
    else
      let f := e.fence (xWaitFence t.words)
      if xWaitEn t.words ∧ f.err ≠ 0 then (r.xferFail t f.err 0).startEmpties
      else if xWaitEn t.words ∧ !reached f.value (xTarget t.words) then r
      else (r.setXfer { t with phase := .ready, ticks := if t.waited then x.ticks - t.since else 0 }).startEmpties

/-! ### Reading (R317, R318) -/

/-- The destination is T0 wholly: an unreadable source line poisons what is computed from it (R317). -/
def Xfer.poisons (t : Xfer) (x : Inst) : Bool := decide (xKind t.words = 0) && (t.tiers x .dst).all (· == 0)

/-- A line that a transfer has read is answered. An uncorrectable line of T1 or T2 is read once more; when that answer is an
error as well, the line stays unreadable for a destination in T0 (R317). -/
def Run.lineReturn (e : Env) (r : Run) (id : Nat) (q : SeRead) (status : BitVec 2) (data : Line) : Run :=
  match r.x.xfer id, q.poll with
  | none, _ => r
  | some t, some slot => r.pollReturn e t slot q status data
  | some t, none =>
    let take (bad : Bool) : Run := r.setXfer { t with got := t.got ++ [{ va := q.va, data := if bad then 0 else data, bad := bad }] }
    if status = 0 then take false
    else if status = 2 then r.xferFail t errPoison 0
    else if q.again then (if t.poisons r.x then take true else r.xferFail t errMemRead 0)
    else if status = 3 ∧ (q.tier = 1 ∨ q.tier = 2) then
      r.setXfer { t with tiles := [SeReq.waiting [{ q with again := true }] []] :: t.tiles }
    else r.xferFail t errMemRead 0

/-- SE_READ_RETURN (R425): a beat of two lines of a read request; the upper one is ignored where the request has one line
left. -/
def seReadReturn (port ident : Nat) (lower upper : BitVec 2 × Line) (e : Env) (x : Inst) : Run :=
  match x.seReqs.find? fun q => q.port == port && q.ident == ident && !q.reads.isEmpty with
  | none => pureRun x
  | some q =>
    let lines := q.reads.zip [lower, upper]
    let left := q.reads.drop 2
    let reqs := if left.isEmpty then x.seReqs.erase q else x.seReqs.map fun p => if p = q then { q with reads := left } else p
    let r : Run := pureRun { x with seReqs := reqs }
    match q.xfer with
    | none => r.serve
    | some id => (lines.foldl (fun (r : Run) p => r.lineReturn e id p.1 p.2.1 p.2.2) r).serve.beginExchange e id

/-- XFER_COMMIT_POINT (R307). -/
def commitPoint (id : Nat) (e : Env) (x : Inst) : Run :=
  let r := pureRun x
  match x.xfer id with
  | none => r
  | some t => if x.readDone t ∧ xKind t.words = 0 ∧ x.awake then r.commitXfer e t else r

/-- Writes of a transfer's stage are waiting or outstanding. -/
def Inst.writesLeft (x : Inst) (t : Xfer) : Bool :=
  t.tiles.any (fun q => q.any fun w => !w.writes.isEmpty)
    || x.seReqs.any fun q => decide (q.xfer = some t.id) && !q.writes.isEmpty

/-- A write request of a transfer is done: the stage goes on, or ends. An error in a use-table write ends nothing (R307). -/
def Run.writeDone (e : Env) (r : Run) (t : Xfer) (err : Bool) : Run :=
  let t1 := { t with failed := t.failed || err }
  if r.x.writesLeft t then r.setXfer t1
  else if t1.failed && decide (t.phase ≠ .finishing) then
    r.xferFail t1 errMemWrite (if t.phase = .writing then Config.partialBytes (wordAt t.words 0) (xTag t.words) t.bytes else 0)
  else r.nextStage e t1 t.stages.tail

/-- SE_WRITE_DONE (R425): a write request is done, with or without an error (R302, R307). -/
def seWriteDone (port ident : Nat) (err : Bool) (e : Env) (x : Inst) : Run :=
  match x.seReqs.find? fun q => q.port == port && q.ident == ident && !q.writes.isEmpty with
  | none => pureRun x
  | some q =>
    let r : Run := pureRun { x with seReqs := x.seReqs.erase q }
    match q.xfer.bind r.x.xfer with
    | none => r.serve
    | some t => (r.writeDone e t err).serve.ackInvalidations

/-! ### Acceptance (R305, R306, R327) -/

/-- The lines of the scratchpad that acceptance reads. -/
def requestLines (ws : List Word) : List Nat :=
  [xSrc ws / 64, xDst ws / 64] ++ (if xMash ws then [xSign ws / 64, xSign ws / 64 + 1] else [])
    ++ (if xKind ws = 1 then [xSrc ws / 64 + 1] else [])

def lineIn (lines : List SpLine) (l : Nat) : Option SpLine := lines.find? fun q => q.line == l

def dataIn (lines : List SpLine) (l : Nat) : Line := match lineIn lines l with
  | some q => q.data
  | none => 0

/-- Check 5 of R306. -/
def requestRange (ws : List Word) : Bool :=
  decide (xSrc ws % 64 = 0) && decide (xDst ws % 64 = 0) && (decide (xKind ws = 0) || decide (xSrc ws + 128 ≤ 2 ^ 20))

/-- A format that a rotating transfer reads or writes (check 11 of R306). -/
def mashFormat (d : Desc) : Bool := decide (d.nw.fmt = some .binary32) || d.nw.isBlock

/-- Checks 6 to 11 of R306 and those of R327: 0 when the request is accepted. -/
def shapeCheck (ws : List Word) (s d : Desc) (plan : Line) : Nat :=
  if s.nw.fmt.isNone || d.nw.fmt.isNone then errFmt
  else if s.isEmpty || d.isEmpty then 0
  else if s.illegal false false || d.illegal true false || !s.virt || !d.virt then errDesc
  else if ¬(s.e0 = d.e0 ∧ s.e1 = d.e1 ∧ s.e2 = d.e2 ∧ s.e3 = d.e3) then errXferShape
  else if 2 ^ 18 < d.elemLen + d.scaleLen then errXferSize
  else if xMash ws ∧ (10 < xM ws ∨ s.e0 % 2 ^ xM ws ≠ 0 ∨ !mashFormat s ∨ !mashFormat d) then errMash
  else if xKind ws = 1 ∧ (Plan.of plan).bad s d then errCollPlan
  else 0

/-- Checks 2 to 4 of R306, with those that the handle's instance makes. -/
def Inst.requestCheck (x : Inst) (h : Word) : Nat :=
  let v := x.vc (handleVc h)
  if x.flt.failstop then errInstFailed
  else if v.st = .free ∨ v.gen ≠ handleGen h then errChStale
  else if v.st ≠ .running then errChState
  else if 32 ≤ (x.xfers.filter fun t => t.vc == handleVc h).length then errXferFull
  else 0

/-- A response of cell n. -/
def Inst.respond (x : Inst) (n code : Nat) : Inst := x.setCell n ((x.cell n).respond (.done code))

/-- The transfer that an accepted request makes. -/
def newXfer (e : Env) (x : Inst) (cell : Nat) (ws : List Word) (lines : List SpLine) : Xfer :=
  let f := e.fence (xWaitFence ws)
  { id := x.xferSeq, vc := handleVc (wordAt ws 0), cell := cell, words := ws
    src := dataIn lines (xSrc ws / 64), dst := dataIn lines (xDst ws / 64)
    sign := if xMash ws then lineBytes (dataIn lines (xSign ws / 64)) ++ lineBytes (dataIn lines (xSign ws / 64 + 1)) else []
    plan := if xKind ws = 1 then dataIn lines (xSrc ws / 64 + 1) else 0
    phase := .waiting, waited := xWaitEn ws && (e.away (xWaitFence ws / 1024) || (decide (f.err = 0) && !reached f.value (xTarget ws))), since := x.ticks
    ticks := 0, space := 0, pages := [], tiles := [], got := [], stages := [], failed := false, bytes := 0
    poisoned := 0, firstBad := 0, led := Led.zero, accepted := [], results := [], sentAt := none, ctr := 0, inbox := [], polls := [] }

/-- Transfers in the queue of an instance: those that have not started (R306, R307). -/
def Inst.queuedXfers (x : Inst) : Nat := (x.xfers.filter fun t => decide (t.phase = .waiting ∨ t.phase = .ready)).length

/-- What a request comes to at the instance that its handle names: held while 2,048 transfers are queued, a code, or
the transfer. -/
def Inst.acceptXfer (e : Env) (x : Inst) (cell : Nat) (ws : List Word) (lines : List SpLine) : Option (Nat × Inst) :=
  let c1 := x.requestCheck (wordAt ws 0)
  if !x.flt.failstop && decide (2048 ≤ x.queuedXfers) then none
  else if c1 ≠ 0 then some (c1, x)
  else if !requestRange ws then some (errSpRange, x)
  else if (requestLines ws).any fun l => (lineIn lines l).isNone then none
  else match (requestLines ws).findSome? fun l => match lineIn lines l with
    | some q => if q.resp = 0 then none else some (respErr q.resp)
    | none => none with
  | some code => some (code, x)
  | none =>
    let c2 := shapeCheck ws (Desc.of (dataIn lines (xSrc ws / 64))) (Desc.of (dataIn lines (xDst ws / 64)))
      (dataIn lines (xSrc ws / 64 + 1))
    if c2 ≠ 0 then some (c2, x)
    else
      let t := newXfer e x cell ws lines
      some (0, { x with xfers := x.xfers ++ [t], xferSeq := x.xferSeq + 1 }.claimHeld t)

/-- The checks of a request that the cell makes before its handle's instance is asked (R306, R359, R360, R422). -/
def Inst.portCheck (x : Inst) (n : Nat) (ws : List Word) : Nat :=
  if x.cellOut n then errCellRetired
  else if ws.length ≠ 8 ∨ !xWordsOk ws ∨ x.instCount ≤ handleInst (wordAt ws 0) then errChArg
  else if !x.stream.inForce then errNoStream
  else 0

/-- The queue of the instance that a request names is full: the port holds the request before any check (R306). -/
def State.queueFull (s : State) (j : Nat) : Bool := match s.insts[j]? with
  | some y => y.awake && decide (2048 ≤ y.queuedXfers)
  | none => false

/-- TRANSFER_REQUEST (R305, R306): the instance of the handle performs the transfer (R27). -/
def transferRequest (s : State) (a : CellAt) (ws : List Word) (lines : List SpLine) (x : Inst) : State :=
  if !x.awake then s.setInst a.inst (x.wakeBy 3)
  else
    let x0 := x.ungate a.cell
    if (x0.cell a.cell).heldPost.isSome || (s.setInst a.inst x0).queueFull (handleInst (wordAt ws 0)) then s.setInst a.inst x0
    else
      let c := x0.portCheck a.cell ws
      if c ≠ 0 then s.setInst a.inst (x0.respond a.cell c)
      else
        let j := handleInst (wordAt ws 0)
        let s0 := s.setInst a.inst x0
        match s0.insts[j]? with
        | none => s.setInst a.inst (x0.respond a.cell errChArg)
        | some y =>
          if decide (y.rst.phase = 0) && !s0.linked a.inst j then s.setInst a.inst (x0.respond a.cell errInstFailed)
          else if s0.sleepers a.inst j ≠ [] then s0.wakeNext a.inst j
          else if !y.awake && !y.flt.failstop then s0
          else match y.acceptXfer (s0.env j) a.cell ws lines with
            | none => s0
            | some (code, y1) =>
              let s1 := s0.setInst j y1
              match s1.insts[a.inst]? with
              | none => s1
              | some x1 => s1.setInst a.inst (x1.respond a.cell code)

/-! ### Abandonment (R311, R278, R336) -/

/-- The transfer record of a save area (R311). -/
def xferSaved (t : Xfer) : List Word :=
  let started := decide (t.phase ≠ .waiting ∧ t.phase ≠ .ready)
  BitVec.ofNat 32 (t.cell % 256 + 256 + flagAt started 9) :: (List.range 7).map fun i => wordAt t.words (i + 1)

/-- Past its commit point (R311). -/
def Xfer.committed (t : Xfer) : Bool := decide (t.phase = .writing ∨ t.phase = .finishing)

/-- Abandon the channel's transfers that have not reached their commit point. A pre-emption posts a record with
preempted and code 0 for each, and its transfer record enters the save area; a destruction posts none. -/
def Run.abandonXfers (r : Run) (v : Nat) (preempt : Bool) : Run :=
  let gone := r.x.xfers.filter fun t => t.vc == v && !t.committed
  let x0 := gone.foldl (fun (x : Inst) t => x.orphanReqs t.id) r.x
  let x1 := { x0 with xfers := x0.xfers.filter fun t => !(t.vc == v && !t.committed) }
  if preempt then
    let c := x1.vc v
    let r1 : Run := { r with x := x1.setVc v { c with xrecs := c.xrecs ++ gone.map xferSaved } }
    gone.foldl (fun (r : Run) t =>
      r.emit (.record (xferRecord { t with poisoned := 0, firstBad := 0 } (wordAt t.words 0) 0 0 false true))) r1
  else { r with x := x1 }

/-- A transfer that must start again from its translation (R298): its pages, reads and packets are dropped. -/
def Xfer.restart (t : Xfer) : Xfer :=
  { t with phase := .translating, pages := t.firstPages, tiles := [], got := [], stages := [], failed := false
           accepted := [], results := [], sentAt := none, led := Led.zero, polls := [] }

/-! ### The commands -/

/-- TRANSFER_REQUEST (R305, R306). -/
def execTransferRequest (c : CellAt) (ws : List Word) (lines : List SpLine) (s : State) : Host.Outcome State Fault Refusal :=
  .next (s.atCell c (transferRequest s c ws lines))

/-- XFER_FENCE_PASS (R307, R314). -/
def execXferFencePass (inst : Nat) (x : Nat) (s : State) : Host.Outcome State Fault Refusal := onInst s inst (fencePass x)

/-- XFER_STAGING_RESERVE (R308). -/
def execXferStagingReserve (inst : Nat) (s : State) : Host.Outcome State Fault Refusal := onInst s inst stagingReserve

/-- XFER_COMMIT_POINT (R307). -/
def execXferCommitPoint (inst : Nat) (x : Nat) (s : State) : Host.Outcome State Fault Refusal := onInst s inst (commitPoint x)

/-- COLL_POLL (R332). -/
def execCollPoll (inst : Nat) (x : Nat) (gather : Bool) (idx : Nat) (s : State) : Host.Outcome State Fault Refusal :=
  onInst s inst (collPoll x gather idx)

/-- COLL_LOCAL_PACKET (R331). -/
def execCollLocalPacket (inst : Nat) (sender : Nat) (s : State) : Host.Outcome State Fault Refusal :=
  .next (s.localPacket inst sender)

/-- COLL_TIMEOUT (R336). -/
def execCollTimeout (inst : Nat) (x : Nat) (s : State) : Host.Outcome State Fault Refusal := onInst s inst (collTimeout x)

end Sys2Proof.Machine
end

