-- ==== Sys2Proof/Machine/Channels.lean ====
section
/-! DEFINITION. Channels (10_channels.md): the save area (R275 to R277), stopping a channel (R142, R221, R274, R278), the
channel commands (R264 to R268) and the scheduler (R269 to R271). -/

namespace Sys2Proof.Machine

/-! ### The save area (R275, R276) -/

/-- A list brought to n bytes with zeros. -/
def padTo (n : Nat) (bs : List Byte) : List Byte := (bs ++ List.replicate n 0).take n

/-- The cask record of an entry (R276). -/
def caskRecord (n e : Nat) (q : Cask) : List Word :=
  [BitVec.ofNat 32 (n % 256 + e * 2 ^ 8 + q.group * 2 ^ 12 + flagAt q.init 20 + flagAt q.bound 21 + flagAt q.chain 22 + 2 ^ 23),
    BitVec.ofNat 32 q.base, BitVec.ofNat 32 q.A, BitVec.ofNat 32 q.D]

/-- The cask records of a channel, in ascending cell and then entry order (R276). -/
def Inst.caskRecords (x : Inst) (v : Nat) : List (List Word) :=
  x.cells.flatMap fun p => (p.2.casks.filter fun q => q.2.owner == v).map fun q => caskRecord p.1 q.1 q.2

/-- The 2 KiB save area of a channel (R275). -/
def Inst.saveArea (x : Inst) (v : Nat) : List Byte :=
  let c := x.vc v
  let casks := x.caskRecords v
  let head := leBytes 4 (x.handleOf v).toNat ++ [1, 0] ++ leBytes 2 c.saves
    ++ leBytes 4 (1 + flagAt c.sched 1 + c.weight * 2 ^ 8 + c.asid.toNat * 2 ^ 16) ++ leBytes 4 (c.key + flagAt c.keyEn 12)
    ++ leBytes 8 c.savedAt ++ leBytes 4 c.slice
    ++ leBytes 4 (c.resume.length + casks.length * 2 ^ 8 + c.xrecs.length * 2 ^ 16) ++ List.replicate 24 0
  let body := c.led.bytes ++ padTo 64 (leBytes 8 c.seed.toNat) ++ padTo 64 (c.resume.map fun r => BitVec.ofNat 8 r.1)
    ++ padTo 256 (c.resume.flatMap fun r => wordsBytes r.2) ++ padTo 512 (casks.flatMap wordsBytes)
    ++ padTo 1024 (c.xrecs.flatMap wordsBytes)
  head ++ leBytes 8 (crc64 (head ++ body)) ++ body

/-- The seal of the area that a save writes (R275). -/
def Inst.sealOf (x : Inst) (v : Nat) : Nat := ofLeBytes (((x.saveArea v).drop 0x38).take 8)

/-- The seal of a save area whose ledger changes from one list of bytes to another: CRC-64 is linear (R275). -/
def reseal (z : Nat) (old new : List Byte) : Nat :=
  z ^^^ crc64 (List.replicate 0x38 0 ++ (old.zip new).map (fun p => p.1 ^^^ p.2) ++ List.replicate (2048 - 0x80) 0)

/-- The writes of a save, in order (R277): valid 0, the body, the header with valid 1 and the seal. -/
def Inst.saveWrites (x : Inst) (v : Nat) : List HubWrite :=
  let c := x.vc v
  let a := x.saveArea v
  let w8 := (a.drop 8).take 4
  [{ asid := c.asid, va := c.saveVa + 8, bytes := [w8.getD 0 0 &&& 0xFE, w8.getD 1 0, w8.getD 2 0, w8.getD 3 0] },
   { asid := c.asid, va := c.saveVa + 0x40, bytes := a.drop 0x40 },
   { asid := c.asid, va := c.saveVa, bytes := a.take 0x40 }]

/-- The check of a save area that has been read (R277). -/
def Inst.areaOk (x : Inst) (v : Nat) (a : AreaRead) : Bool :=
  let at_ (o k : Nat) : Nat := ofLeBytes ((a.bytes.drop o).take k)
  !a.fault && bitOf (at_ 8 4) 0 && decide (at_ 0 4 = (x.handleOf v).toNat) && decide (at_ 4 1 = 1)
    && decide (at_ 0x38 8 = crc64 (a.bytes.take 0x38 ++ a.bytes.drop 0x40))

def Inst.hubWrite (x : Inst) (ws : List HubWrite) : Inst := { x with hubWrites := x.hubWrites ++ ws }

/-! ### Stopping a channel (R142, R221, R274) -/

/-- The slots of a channel's programs that run. -/
def Inst.running (x : Inst) (v : Nat) : List (Nat × Nat) :=
  (x.programs v).filter fun p => decide ((x.slot p.1 p.2).phase = .running)

/-- An add of the channel still commits (R142): it, and every earlier one of its slot and of its cask, has all its beats. It
may still wait for an earlier add of another channel (R129; log entry 44). -/
def Cell.addGoes (c : Cell) (own : Nat) : Bool :=
  c.addsInOrder.any fun p => !c.heldAdds.contains p && c.casks.any fun q => q.1 == p.1 && q.2.owner == own

/-- A slot of a stopping channel has come to rest: nothing of it is in flight that will commit (R142, R221). -/
def Inst.atRest (x : Inst) (n k : Nat) : Bool :=
  let c := x.cell n
  let s := c.slot k
  let own := ownerOf s.launch
  let adds := x.cellRuns n && c.addGoes own
  !adds && (match s.wait with
    | .ready =>
      if !s.inTile then true
      else if s.atEdge then !s.fills.isEmpty || c.addsOpen k
        || decide (c.summaries + c.reserved + min s.tile.sums.length 16 > 16)
      else match s.nextOp with
        | some o => s.held o
        | none => true
    | .lines => false
    | .refetch => true
    | .xlate => true
    | .resolve => true
    | .fence .. => true
    | .drain => match s.nextOp with
      | some (.caskDrain _ _ _ group _ _ _ _ _ _) => match c.findCask own group with
        | some p => decide (p.2.D < p.2.A)
        | none => true
      | _ => true
    | .close e no => match c.casks.find? (fun p => p.1 == e && p.2.no == no) with
      | some p => !p.2.adds.isEmpty
      | none => false
    | .adds => true
    | .gather => false
    | .commit .. => false
    | .fail .. => true)

/-- The stop phase of a channel may end: its programs rest and its committed transfers are written (R142, R274, R311). -/
def Inst.stopReady (x : Inst) (v : Nat) : Bool :=
  (x.running v).all (fun p => x.atRest p.1 p.2) && x.xfers.all fun t => t.vc != v

/-- Where a program stops: the first instruction whose tile did not commit, and the iteration of its loop (R221). -/
def Cell.stopAt (c : Cell) (k : Nat) : Nat × Nat :=
  let s := c.slot k
  match c.addsInOrder.find? (fun q => q.2.slot == k) with
  | some q => (q.2.index, q.2.iter)
  | none => (s.tile.start, match s.tile.loop0 with
    | some l => l.it
    | none => 0)

/-- End a program because its channel stops: its waiting adds are abandoned, an abandoned WAITF counts its time, and the
program ends (R142, R154, R221, R274). -/
def Run.stopProgram (r : Run) (v n k code : Nat) (pre : Bool) : Run :=
  let c := r.cell n
  let s := c.slot k
  let at_ := c.stopAt k
  let cs := s.countersAt at_.1 at_.2
  let x1 := match s.wait with
    | .fence _ _ since => r.x.book v (waitLed since r.x.ticks)
    | _ => r.x
  let c1 := ((x1.cell n).dropAdds (dropsTiles code pre) k).runAdds
  ({ r with x := x1.setCell n c1 } : Run).endProgram n k code pre at_.1 cs

/-- End every running program of a channel, ascending cell and slot. -/
def Run.stopAll (r : Run) (v code : Nat) (pre : Bool) : Run :=
  (r.x.running v).foldl (fun r p => r.stopProgram v p.1 p.2 code pre) r

/-- The resume records of a channel (R221). -/
def Inst.resumeRecords (x : Inst) (v : Nat) : List (Nat × List Word) :=
  (x.running v).map fun p =>
    let c := x.cell p.1
    let s := c.slot p.2
    let at_ := c.stopAt p.2
    (p.1, [BitVec.ofNat 32 (launchTag s.launch), BitVec.ofNat 32 at_.1, BitVec.ofNat 32 at_.2,
      BitVec.ofNat 32 (progOff s.launch)])

/-- Closes that a stop abandons leave their casks open (R142). -/
def Inst.reopen (x : Inst) (v : Nat) : Inst :=
  x.liveCells.foldl (fun x n => x.setCell n { x.cell n with casks := (x.cell n).casks.map fun p =>
    if p.2.owner = v then (p.1, { p.2 with closing := false }) else p }) x

/-- What the hub writes into a channel's save area is written again from its start (R387). -/
def Inst.repeatArea (x : Inst) (v : Nat) : Inst :=
  let c := x.vc v
  match c.st with
  | .suspending => x.hubWrite (x.saveWrites v)
  | .created => x.hubWrite (x.saveWrites v)
  | .destroying => x.hubWrite [{ asid := c.asid, va := c.saveVa, bytes := List.replicate 2048 0 }]
  | _ => x

/-- Refuse the channel's queued launches, let other adds pass its adds that cannot commit, and abandon its transfers: what the
beginning of a stop does at once (R142, R205, R311). -/
def Run.beginStop (r : Run) (v : Nat) (preempt : Bool) : Run :=
  let x1 := r.x.liveCells.foldl (fun x n =>
    x.setCell n (((x.cell n).refuseLaunches (x.handleOf v) errChState).parkAdds v).runAdds) r.x
  ({ r with x := x1 } : Run).abandonXfers v preempt

/-! ### Destruction (R144, R278) -/

/-- Scrub the casks of a channel: both halves of each range, slots and entries (R144). The writes ungate the cell (R401). -/
def Cell.scrubCasks (c : Cell) (v : Nat) : Cell :=
  (c.casks.filter fun p => p.2.owner == v).foldl (fun c p =>
    let c1 := c.releaseCask p.1
    { c1 with gated := false, spWrites := c1.spWrites ++ (List.range 64).map fun j => show SpWrite from
        { line := p.2.base / 64 + 4 * j, outs := List.replicate 4 { data := 0, be := BitVec.allOnes 64, poison := false },
          who := .scrub v, rank := 2, index := 0, iter := 0 } }) c

/-- A key slot is scrubbed: key, key_id, prefix and counter, and its owner (R282). -/
def Inst.scrubKey (x : Inst) (k : Nat) : Inst := x.setKey k KeySlot.empty

/-- The stop of a destroy has ended: programs end with CH_STATE, and the scrub begins (R221, R278). -/
def Run.destroyStop (r : Run) (v : Nat) : Run :=
  let r1 := r.stopAll v errChState false
  let x1 := r1.x.liveCells.foldl (fun x n => x.setCell n ((x.cell n).scrubCasks v)) r1.x
  let c := x1.vc v
  let x2 := if c.keyEn ∧ (x1.key c.key).owner = some v then x1.scrubKey c.key else x1
  let x3 := x2.hubWrite [{ asid := c.asid, va := c.saveVa, bytes := List.replicate 2048 0 }]
  { r1 with x := x3.setVc v { c with stopped := true, led := Led.zero, seed := 0 } }

/-- A destroy begins (R278): from any state, with the stop as far as it can go at once. -/
def Run.beginDestroy (r : Run) (v : Nat) (cmd : VcCmd) : Run :=
  let c := r.x.vc v
  let x1 := { r.x with readyQ := r.x.readyQ.filter (· != v) }
  let r1 := ({ r with x := x1.setVc v { c with st := .destroying, cmd := some cmd, sched := false, migrate := false,
                                               stopped := false } } : Run).beginStop v false
  if r1.x.stopReady v then r1.destroyStop v else r1

/-- A command of a channel is done: its record, then a destroy that waits (R265). -/
def Run.cmdDone (r : Run) (v : Nat) (handle : Word) (code cmdId : Nat) : Run :=
  let r1 := r.emit (.record (recSimple 2 code handle cmdId))
  let c := r1.x.vc v
  match c.destroy with
  | [] => { r1 with x := r1.x.setVc v { c with cmd := none } }
  | d :: rest =>
    if c.st = .free then
      ((d :: rest).foldl (fun (r : Run) d => r.emit (.record (recSimple 2 errChStale handle d.cmdId.toNat)))
        { r1 with x := r1.x.setVc v { c with cmd := none, destroy := [] } })
    else ({ r1 with x := r1.x.setVc v { c with destroy := rest } } : Run).beginDestroy v d

/-- Finish a destroyed channel (R260, R278): its programs' records are posted, its scrubs are written, and the virtual channel
is FREE and its generation advances. -/
def destroyScrubDone (v : Nat) (fault : Bool) (_ : Env) (x : Inst) : Run :=
  let c := x.vc v
  let scrubbing := x.liveCells.any fun n => (x.cell n).spWrites.any fun w => decide (w.who = .scrub v)
  let ending := x.liveCells.any fun n => (x.cell n).slots.any fun s =>
    decide (s.phase ≠ .idle) && decide (wordAt s.launch 0 = x.handleOf v)
  match c.st, c.cmd with
  | .destroying, some cmd =>
    if !c.stopped || scrubbing || ending then pureRun x
    else
      let h := x.handleOf v
      let x1 := x.setVc v { Vc.free with gen := nextGen c.gen, destroy := c.destroy }
      (pureRun x1).cmdDone v h (if fault then errChSaveFault else 0) cmd.cmdId.toNat
  | _, _ => pureRun x

/-! ### Pre-emption and residency (R266, R269 to R277) -/

/-- Hardware contexts of an instance. -/
def contexts : Nat := 4096

/-- Hardware contexts in use. -/
def Inst.residents (x : Inst) : Nat := (x.vcs.filter fun p => p.2.resident).length

/-- Begin the stop of a RUNNING channel (R274). -/
def Run.beginSuspend (r : Run) (v : Nat) : Run :=
  let c := r.x.vc v
  ({ r with x := r.x.setVc v { c with st := .suspending, stopped := false, resume := [], xrecs := [] } } : Run).beginStop v true

/-- PREEMPT_STOP_DONE: the stop phase ends (R274). Programs end PREEMPTED with resume records, and the save begins; of a
channel that is being destroyed the scrub begins. -/
def preemptStopDone (v : Nat) (_ : Env) (x : Inst) : Run :=
  let c := x.vc v
  let r := pureRun x
  if c.stopped || !x.awake || !x.stopReady v then r
  else match c.st with
    | .suspending =>
      let recs := x.resumeRecords v
      let r1 := r.stopAll v 0 true
      let x1 := r1.x.reopen v
      let c1 := x1.vc v
      let x2 := x1.setVc v { c1 with stopped := true, resume := recs, savedAt := x1.ticks, saves := (c1.saves + 1) % 2 ^ 16 }
      { r1 with x := (x2.setVc v { x2.vc v with areaSeal := x2.sealOf v }).hubWrite (x2.saveWrites v) }
    | .destroying => r.destroyStop v
    | _ => r

/-- Release every entry of a cell's cask table (R383 step 3). -/
def Cell.releaseAll (c : Cell) : Cell := (c.casks.map Prod.fst).foldl Cell.releaseCask c

/-- The fields of a cell fault's record (R392). -/
def CellFault.info (f : CellFault) (n action : Nat) (perm : Bool) (moved : Nat) : FaultInfo :=
  { cell := some n, port := 0, cls := f.cls, action := action, second := f.second, perm := perm, index := f.index
    address := f.address, moved := moved }

/-- The record of a fault of a cell that retires or is out of use, beside that of its retirement (R390, R393). -/
def Run.retiredFault (r : Run) (n : Nat) (f : CellFault) : Run :=
  r.faultAt (if f.code = 0 then errCellRetired else f.code) f.handle f.time (f.info n 3 true 0)

/-- The retirement of a cell ends once its channels are saved (R383 steps 3 and 4, R388, R393): the entries are released and
the fault record is posted. -/
def Run.finishRetire (r : Run) (n : Nat) : Run :=
  let c := r.x.cell n
  match c.retire, c.fault with
  | some (vs, count), some f =>
    if vs.any fun v => (r.x.vc v).migrate then r
    else
      let r1 := r.setCell n { c.releaseAll with paused := false, fault := none, faults := [], recov := [], retire := none }
      let others := c.faults ++ (if f.code = 0 then [] else [f])
      (others.foldl (fun r g => Run.retiredFault r n g) r1).faultAt errCellRetired f.handle f.time (f.info n 3 true count)
  | _, _ => r

/-- Every retirement that can end does. -/
def Run.finishRetires (r : Run) : Run := r.x.liveCells.foldl Run.finishRetire r

/-- CONTEXT_SAVE_DONE (R266, R274, R277, R383): PREEMPTED for a command or a migration, READY for the scheduler, FAILED on
a fault. A migration's eviction record carries CELL_RETIRED. -/
def contextSaveDone (v : Nat) (fault : Bool) (_ : Env) (x : Inst) : Run :=
  let c := x.vc v
  let r := pureRun x
  let h := x.handleOf v
  if c.st ≠ .suspending ∨ !c.stopped then r
  else if fault then
    let r1 : Run := { r with x := x.setVc v { c with st := .failed, stopped := false, sched := false, migrate := false } }
    match c.cmd with
    | some cmd => (r1.cmdDone v h errChSaveFault cmd.cmdId.toNat).finishRetires
    | none => r1.finishRetires
  else
    let evict := c.sched || c.migrate
    let c1 : Vc := { c with ctx := none, stopped := false, sched := false, migrate := false, led := Led.zero, seed := 0,
                            resume := [], xrecs := [] }
    let r1 := if evict then r.emit (.record (recSimple 4 (if c.migrate then errCellRetired else 0) h 0)) else r
    match c.cmd with
    | some cmd => (({ r1 with x := r1.x.setVc v { c1 with st := .preempted } } : Run).cmdDone v h 0 cmd.cmdId.toNat).finishRetires
    | none =>
      if c.migrate then ({ r1 with x := r1.x.setVc v { c1 with st := .preempted } } : Run).finishRetires
      else { r1 with x := { (r1.x.setVc v { c1 with st := .ready }) with readyQ := r1.x.readyQ ++ [v] } }

/-- SAVE_CHECK_DONE: the verification of CH_RESUME (R277). -/
def saveCheckDone (v : Nat) (a : AreaRead) (_ : Env) (x : Inst) : Run :=
  let c := x.vc v
  match c.st, c.cmd with
  | .preempted, some cmd =>
    if cmd.op ≠ 4 then pureRun x
    else
      let h := x.handleOf v
      let ok := x.areaOk v a
      let x1 := if ok then { (x.setVc v { c with st := .ready }) with readyQ := x.readyQ ++ [v] } else x
      (pureRun x1).cmdDone v h (if ok then 0 else errChSaveBad) cmd.cmdId.toNat
  | _, _ => pureRun x

/-- The lowest hardware context that no channel holds (log entry 101). -/
def Inst.freeCtx (x : Inst) : Nat :=
  ((List.range (x.residents + 1)).find? fun k => x.vcs.all fun p => decide (p.2.ctx ≠ some k)).getD 0

/-- The hardware context that owns a cask (R124): that of its channel, which a restore rewrites (R277), none while the
channel is not resident. -/
def Inst.caskCtx (x : Inst) (q : Cask) : Option Nat := (x.vc q.owner).ctx

/-- SCHED_ADMIT (R269): the head of the ready queue takes a free context, and its restore begins. -/
def schedAdmit (_ : Env) (x : Inst) : Run :=
  match x.readyQ with
  | [] => pureRun x
  | v :: rest =>
    if contexts ≤ x.residents ∨ !x.awake then pureRun x
    else pureRun { (x.setVc v { x.vc v with ctx := some x.freeCtx }) with readyQ := rest }

/-- RESTORE_DONE (R269, R277): RUNNING with the ledger and seed of the save area, or FAILED with CH_SAVE_BAD. -/
def restoreDone (v : Nat) (a : AreaRead) (_ : Env) (x : Inst) : Run :=
  let c := x.vc v
  let h := x.handleOf v
  if c.st ≠ .ready ∨ !c.resident then pureRun x
  else if x.areaOk v a then
    let at_ (o k : Nat) : Nat := ofLeBytes ((a.bytes.drop o).take k)
    (pureRun (x.setVc v { c with st := .running, led := Led.ofBytes ((a.bytes.drop 0x40).take 64),
                                 seed := BitVec.ofNat 64 (at_ 0x80 8), slice := 0, since := x.ticks })).emit
      (.record (recSimple 3 0 h 0))
  else (pureRun (x.setVc v { c with st := .failed })).emit (.record (recSimple 3 errChSaveBad h 0))

/-- A channel without work: no running program, no transfer, no add in flight (R270). -/
def Inst.idleVc (x : Inst) (v : Nat) : Bool :=
  (x.programs v).isEmpty && x.xfers.all (fun t => t.vc != v)
    && x.liveCells.all fun n => (x.cell n).casks.all fun p => p.2.owner != v || p.2.adds.isEmpty

/-- The slice of a channel has expired (R270, R273): zero fields act as 1. -/
def Inst.expired (x : Inst) (c : Vc) : Bool :=
  let quantum := max 1 (x.schedCtrl.toNat % 2 ^ 16)
  let limit := max 1 (x.schedCtrl.toNat / 2 ^ 16)
  decide (c.weight * quantum ≤ c.slice) || decide (limit * 32 ≤ x.ticks - c.since)

/-- The earliest resident of a list. -/
def earliest (l : List (Nat × Vc)) : Option Nat :=
  (l.foldl (fun (b : Option (Nat × Nat)) p => match b with
    | some q => if p.2.since < q.2 then some (p.1, p.2.since) else b
    | none => some (p.1, p.2.since)) none).map Prod.fst

/-- The channel that the scheduler evicts (R270): an idle one first, then one whose slice has expired, longest resident
first. -/
def Inst.victim (x : Inst) : Option Nat :=
  let run := x.vcs.filter fun p => decide (p.2.st = .running)
  match earliest (run.filter fun p => x.idleVc p.1) with
  | some v => some v
  | none => earliest (run.filter fun p => x.expired p.2)

/-- Evictions in progress. -/
def Inst.leaving (x : Inst) : Nat := (x.vcs.filter fun p => decide (p.2.st = .suspending)).length

/-- SCHED_EVICT (R261, R270): while more channels wait than contexts are free or being freed. -/
def schedEvict (_ : Env) (x : Inst) : Run :=
  if !x.awake || decide (x.readyQ.length ≤ contexts - x.residents + x.leaving) then pureRun x
  else match x.victim with
    | none => pureRun x
    | some v => (pureRun (x.setVc v { x.vc v with sched := true })).beginSuspend v

/-! ### The command window (R264, R265, R268) -/

/-- What a command came to at the instance of its channel: its code, the instance, the handle of a create, state and
ledger of a query (none when the save area could not be read). -/
structure ChDone where
  code   : Nat
  r      : Run
  handle : Option Word
  query  : Option (Nat × Option (List Word))

def ChDone.refuse (x : Inst) (code : Nat) : ChDone := { code := code, r := pureRun x, handle := none, query := none }
def ChDone.ok (r : Run) : ChDone := { code := 0, r := r, handle := none, query := none }

/-- Check 1 of R265: op, reserved bits, instance field; n is the instance count. -/
def chArgsBad (op : Nat) (w : ChCmd) (args : List Word) (n : Nat) : Bool :=
  decide (op = 0) || decide (6 < op) || decide (w.rsv ≠ 0)
    || (if op = 1 then
          decide (fld (wn args 0) 7 3 ≠ 0) || decide (wn args 1 % 2 ^ 11 ≠ 0) || decide (wn args 2 / 2 ^ 20 ≠ 0)
            || decide (wn args 5 / 2 ^ 13 ≠ 0) || decide (n ≤ wn args 0 % 8)
        else decide (n ≤ handleInst (wordAt args 0)))

/-- The instance that a command acts on. -/
def chTarget (op : Nat) (args : List Word) : Nat := if op = 1 then wn args 0 % 8 else handleInst (wordAt args 0)

/-- The lowest FREE virtual channel number. -/
def Inst.freeVc (x : Inst) : Option Nat :=
  (List.range (min 65536 (x.vcs.length + 1))).find? fun v => decide ((x.vc v).st = .free)

/-- The physical page of a save area, from the cache or the host's answer; none when the access is not permitted
(R264). -/
def Inst.saveXlate (x : Inst) (asid : BitVec 16) (va : Nat) (xl : XlAns) : Option (Inst × Nat) :=
  let vpn := va / 4096
  let x1 := match x.tlbFind asid vpn with
    | some _ => x
    | none =>
      if xl.status = 0 then
        let n := [1, 16, 512, 262144].getD xl.size.toNat 1
        let t : TlbEntry := { asid := asid, vpn := vpn - vpn % n, pages := n, ppn := xl.ppn.toNat - xl.ppn.toNat % n, r := xl.r, w := xl.w }
        { x with tlb := (if 8192 ≤ x.tlb.length then x.tlb.drop 1 else x.tlb) ++ [t] }
      else x
  match x1.tlbFind asid vpn with
  | some t => if t.r && t.w then some (x1, t.ppn + (vpn - t.vpn)) else none
  | none => none

/-- CH_CREATE at its instance (R264): the checks of its own, then the channel, its key slot and the initial save. -/
def Inst.chCreate (x : Inst) (frozen : Bool) (w : ChCmd) (args : List Word) (xl : XlAns) : ChDone :=
  let asid := BitVec.ofNat 16 (fld (wn args 0) 31 16)
  let va := wn args 1 + wn args 2 * 2 ^ 32
  let key := wn args 5 % 2 ^ 12
  let keyEn := bitOf (wn args 5) 12
  if !x.stream.inForce || frozen then .refuse x errNoStream
  else if fld (wn args 0) 15 8 = 0 then .refuse x errChArg
  else match x.saveXlate asid va xl with
    | none => .refuse x errChSaveFault
    | some (x1, ppn) =>
      if x1.tier ppn ≠ 0 then .refuse x1 errChArg
      else match x1.freeVc with
        | none => .refuse x1 errChFull
        | some v =>
          if keyEn ∧ (x1.key key).owner.isSome then .refuse x1 errKeySlot
          else
            let c : Vc := { Vc.free with
              st := .created, gen := (x1.vc v).gen, weight := fld (wn args 0) 15 8, asid := asid, key := key, keyEn := keyEn
              saveVa := va, seed := BitVec.ofNat 64 (wn args 3 + wn args 4 * 2 ^ 32)
              cmd := some { op := 1, cmdId := w.cmdId, win := w.win } }
            let x2 := x1.setVc v c
            let x3 := if keyEn then x2.setKey key { KeySlot.empty with owner := some v } else x2
            let x4 := x3.hubWrite (x3.saveWrites v)
            { code := 0, r := pureRun (x4.setVc v { c with areaSeal := x3.sealOf v })
              handle := some (x4.handleOf v), query := none }

/-- CH_CREATE_DONE (R264): the initial save area, which now holds the seed, is written, or the channel does not come to be; its
key slot is scrubbed if it still has one (R282, R390). -/
def chCreateDone (v : Nat) (fault : Bool) (_ : Env) (x : Inst) : Run :=
  let c := x.vc v
  match c.st, c.cmd with
  | .created, some cmd =>
    if cmd.op ≠ 1 then pureRun x
    else
      let h := x.handleOf v
      if fault then
        let x1 := if c.keyEn ∧ (x.key c.key).owner = some v then x.scrubKey c.key else x
        (pureRun (x1.setVc v { Vc.free with gen := c.gen, destroy := c.destroy })).cmdDone v h errChSaveFault cmd.cmdId.toNat
      else (pureRun (x.setVc v { c with seed := 0 })).cmdDone v h 0 cmd.cmdId.toNat
  | _, _ => pureRun x

/-- The states that accept a command (R264). -/
def chAccepts (op : Nat) (st : VcState) : Bool :=
  match op with
  | 2 => decide (st = .created)
  | 3 => decide (st = .running) || decide (st = .suspending) || decide (st = .ready) || decide (st = .preempted)
  | 4 => decide (st = .preempted)
  | 5 => decide (st ≠ .destroying)
  | _ => true

/-- The state code of CH_QUERY (R263). -/
def VcState.code : VcState → Nat
  | .free => 0 | .created => 1 | .ready => 2 | .running => 3 | .suspending => 4 | .preempted => 5 | .destroying => 6
  | .failed => 7

/-- The channel's ledger stands in a hardware context (R263). -/
def Vc.live (c : Vc) : Bool := c.resident && decide (c.st ≠ .ready)

/-- A ledger that is cleared while its save is being written: the save then holds the cleared values (R266). -/
def Inst.resave (x : Inst) (v : Nat) (old : Led) : Inst :=
  let c := x.vc v
  if c.st = .suspending ∧ c.stopped then
    let z := reseal c.areaSeal old.bytes c.led.bytes
    (x.setVc v { c with areaSeal := z }).hubWrite
      [{ asid := c.asid, va := c.saveVa + 0x40, bytes := c.led.bytes }, { asid := c.asid, va := c.saveVa + 0x38, bytes := leBytes 8 z }]
  else x

/-- CH_QUERY (R104, R264): state and ledger; with clear, every field but the fingerprint is reset. `led` is the ledger
read from the save area of a channel that is not resident. -/
def Inst.chQuery (x : Inst) (w : ChCmd) (v : Nat) (led : Option Line) : ChDone :=
  let c := x.vc v
  let words (bs : List Byte) : List Word := (List.range 16).map fun i => BitVec.ofNat 32 (ofLeBytes ((bs.drop (4 * i)).take 4))
  if c.live || decide (c.st = .destroying) then
    let x1 := if w.clear then (x.setVc v { c with led := c.led.cleared }).resave v c.led else x
    { code := 0, r := pureRun x1, handle := none, query := some (c.st.code, some (words c.led.bytes)) }
  else
    let x1 := match w.clear, led with
      | true, some l =>
        let old := lineBytes l
        let new := (Led.ofBytes old).cleared.bytes
        let z := reseal c.areaSeal old new
        (x.setVc v { c with areaSeal := z }).hubWrite
          [{ asid := c.asid, va := c.saveVa + 0x40, bytes := new }, { asid := c.asid, va := c.saveVa + 0x38, bytes := leBytes 8 z }]
      | _, _ => x
    { code := 0, r := pureRun x1, handle := none, query := some (c.st.code, led.map fun l => words (lineBytes l)) }

/-- A command that names a handle, at the handle's instance (R264, R265 checks 3 to 5). -/
def Inst.chHandle (x : Inst) (op : Nat) (w : ChCmd) (h : Word) (led : Option Line) : ChDone :=
  let v := handleVc h
  let c := x.vc v
  let cmd : VcCmd := { op := op, cmdId := w.cmdId, win := w.win }
  if c.st = .free ∨ c.gen ≠ handleGen h then .refuse x errChStale
  else if !chAccepts op c.st then .refuse x errChState
  else if c.cmd.isSome ∧ op ≠ 5 ∧ op ≠ 6 then .refuse x errChBusy
  else
    let now (x : Inst) : Run := (pureRun x).emit (.record (recSimple 2 0 h w.cmdId.toNat))
    match op with
    | 2 => .ok (now { (x.setVc v { c with st := .ready }) with readyQ := x.readyQ ++ [v] })
    | 3 =>
      match c.st with
      | .running => .ok ((pureRun (x.setVc v { c with cmd := some cmd })).beginSuspend v)
      | .suspending => .ok (pureRun (x.setVc v { c with cmd := some cmd }))
      | .ready => .ok (now { (x.setVc v { c with st := .preempted, ctx := none }) with readyQ := x.readyQ.filter (· != v) })
      | _ => .ok (now x)
    | 4 => .ok (pureRun (x.setVc v { c with cmd := some cmd }))
    | 5 =>
      if c.cmd.isSome then .ok (pureRun (x.setVc v { c with destroy := c.destroy ++ [cmd] }))
      else .ok ((pureRun x).beginDestroy v cmd)
    | _ => x.chQuery w v led

/-- Write the window's answer (R268). -/
def ChWin.answer (win : ChWin) (w : ChCmd) (d : ChDone) (data : List Word) : ChWin :=
  let win1 := { win with result := BitVec.ofNat 32 (w.cmdId.toNat * 2 ^ 16 + d.code), busy := none }
  let win2 := match d.handle with
    | some h => { win1 with handle := h }
    | none => win1
  match d.query with
  | some q => { win2 with qstate := q.1, data := data }
  | none => win2

/-- Set the window of an instance. -/
def State.setWin (s : State) (i : Nat) (f : ChWin → ChWin) : State :=
  match s.insts[i]? with
  | none => s
  | some x => s.setInst i { x with win := f x.win }

/-- The instance cannot take a command now: 0 when it can, otherwise the code that ends a request (R389), or none when
the request waits (R365, R405). -/
def Inst.reach (x : Inst) : Option Nat :=
  if x.flt.failstop then some errInstFailed else if x.awake then some 0 else none

/-- As for `Inst.reach`, from die i: a request that no link carries ends with INST_FAILED (R391, R431), but for one that meets
its instance in reset, which waits, as one does behind a die that sleeps. -/
def State.reach (s : State) (i j : Nat) (y : Inst) : Option Nat :=
  if decide (y.rst.phase = 0) && !s.linked i j then some errInstFailed
  else if s.sleepers i j = [] then y.reach else none

/-- The command of a window is carried out with the answers of the host that it needs (R264 to R268). It waits, the
window busy, while its instance is in reset or asleep, and wakes it. -/
def State.chRun (s : State) (op : Nat) (w : ChCmd) (xl : XlAns) (led : Option Line) : State :=
  match s.insts[w.win]? with
  | none => s
  | some x =>
    let args := x.win.args
    let frozen := decide (s.ss.st = 4)
    if chArgsBad op w args x.instCount then s.setWin w.win fun win => win.answer w (.refuse x errChArg) []
    else
      let j := chTarget op args
      match s.insts[j]? with
      | none => s.setWin w.win fun win => win.answer w (.refuse x errChArg) []
      | some y =>
        match s.reach w.win j y with
        | none => (s.wakeNext w.win j).setWin w.win fun win => { win with busy := some (op, w) }
        | some code =>
          let d := if code ≠ 0 then ChDone.refuse y code
            else if op = 1 then y.chCreate frozen w args xl
            else y.chHandle op w (wordAt args 0) led
          let s1 := (s.setInst j d.r.x).effs j d.r.effs
          match d.query with
          | some (_, none) =>
            let data := (List.range 16).map (s.env w.win).free
            { (s1.setWin w.win fun win => win.answer w d data) with freeCtr := s1.freeCtr + 16 }
          | some (_, some l) => s1.setWin w.win fun win => win.answer w d l
          | none => s1.setWin w.win fun win => win.answer w d []

/-- The word that a write of HUB.CH_CMD carries (R268). -/
def chWord (op : Nat) (w : ChCmd) : Word :=
  BitVec.ofNat 32 (op + flagAt w.clear 8 + w.rsv.toNat * 2 ^ 9 + w.cmdId.toNat * 2 ^ 16)

/-- A write of HUB.CH_CMD as one of the rows: a busy window drops it and sets lost, except that the waiting command itself,
repeated word for word, is carried out with the host's answer that its row brings (R268; log entry 102). -/
def State.chRow (s : State) (op : Nat) (w : ChCmd) (xl : XlAns) (led : Option Line) : Host.Outcome State Fault Refusal :=
  match (s.insts[w.win]?).bind fun x => x.win.busy with
  | some b =>
    if b = (op, w) then .next (s.chRun op w xl led)
    else s.ctlRow w.win 0x800 (chWord op w) fun _ => s.setWin w.win fun win => { win with lost := true }
  | none => s.ctlRow w.win 0x800 (chWord op w) fun _ => s.chRun op w xl led

/-- The answer of a host that is not asked. -/
def noXl : XlAns := { status := 2, ppn := 0, size := 0, r := false, w := false }

/-- CH_CREATE (R264). -/
def execChCreate (w : ChCmd) (xl : XlAns) (s : State) : Host.Outcome State Fault Refusal := s.chRow 1 w xl none

/-- CH_CREATE_DONE (R264). -/
def execChCreateDone (inst : Nat) (vc : Nat) (fault : Bool) (s : State) : Host.Outcome State Fault Refusal :=
  onInst s inst (whenAlive (mending (chCreateDone vc fault)))

/-- CH_START (R264). -/
def execChStart (w : ChCmd) (s : State) : Host.Outcome State Fault Refusal := s.chRow 2 w noXl none

/-- CH_PREEMPT (R264, R274). -/
def execChPreempt (w : ChCmd) (s : State) : Host.Outcome State Fault Refusal := s.chRow 3 w noXl none

/-- PREEMPT_STOP_DONE (R274). -/
def execPreemptStopDone (inst : Nat) (vc : Nat) (s : State) : Host.Outcome State Fault Refusal :=
  onInst s inst (mending (preemptStopDone vc))

/-- CONTEXT_SAVE_DONE (R277). -/
def execContextSaveDone (inst : Nat) (vc : Nat) (fault : Bool) (s : State) : Host.Outcome State Fault Refusal :=
  onInst s inst (whenAlive (mending (contextSaveDone vc fault)))

/-- CH_RESUME (R264, R277). -/
def execChResume (w : ChCmd) (s : State) : Host.Outcome State Fault Refusal := s.chRow 4 w noXl none

/-- SAVE_CHECK_DONE (R277). -/
def execSaveCheckDone (inst : Nat) (vc : Nat) (area : AreaRead) (s : State) : Host.Outcome State Fault Refusal :=
  onInst s inst (whenAlive (mending (saveCheckDone vc area)))

/-- CH_DESTROY (R278). -/
def execChDestroy (w : ChCmd) (s : State) : Host.Outcome State Fault Refusal := s.chRow 5 w noXl none

/-- DESTROY_SCRUB_DONE (R278). -/
def execDestroyScrubDone (inst : Nat) (vc : Nat) (fault : Bool) (s : State) : Host.Outcome State Fault Refusal :=
  onInst s inst (whenAlive (mending (destroyScrubDone vc fault)))

/-- CH_QUERY (R104, R264). -/
def execChQuery (w : ChCmd) (led : Option Line) (s : State) : Host.Outcome State Fault Refusal := s.chRow 6 w noXl led

/-- SCHED_ADMIT (R269). -/
def execSchedAdmit (inst : Nat) (s : State) : Host.Outcome State Fault Refusal := onInst s inst schedAdmit

/-- RESTORE_DONE (R269, R277). -/
def execRestoreDone (inst : Nat) (vc : Nat) (area : AreaRead) (s : State) : Host.Outcome State Fault Refusal :=
  onInst s inst (whenAlive (mending (restoreDone vc area)))

/-- SCHED_EVICT (R270). -/
def execSchedEvict (inst : Nat) (s : State) : Host.Outcome State Fault Refusal := onInst s inst schedEvict

end Sys2Proof.Machine
end

