-- ==== Sys2Proof/Machine/Keys.lean ====
section
/-! DEFINITION. Key slots (R281 to R284) and the key port (R427). -/

namespace Sys2Proof.Machine

/-- The key data of a wrapped key (R283): key, key_id, nonce prefix. -/
structure KeyData where
  key   : BitVec 256
  keyId : BitVec 32
  nonce : BitVec 32
deriving DecidableEq, Repr

/-- Unwrap the 48 bytes of a wrapped key under an instance key (R283); none when the integrity check fails. -/
def unwrapKey (inst : BitVec 256) (wrap : List Word) : Option KeyData :=
  (keyUnwrap (keyBytes inst) (natBytes (wordsBytes wrap))).map fun d =>
    let bs := byteNats d
    { key := BitVec.ofNat 256 (ofLeBytes (bs.take 32)), keyId := BitVec.ofNat 32 (ofLeBytes ((bs.drop 32).take 4))
      nonce := BitVec.ofNat 32 (ofLeBytes ((bs.drop 36).take 4)) }

/-- A key slot of the package holds a key with this key_id and prefix (R284 check 6). -/
def State.keyReused (s : State) (k : KeyData) : Bool :=
  s.insts.any fun x => x.keys.any fun p => p.2.hasKey && decide (p.2.keyId = k.keyId) && decide (p.2.nonce = k.nonce)

/-- Fields of HUB.KEY_CMD. -/
def keyOp (w : Word) : Nat := fld w.toNat 1 0
def keySlotOf (w : Word) : Nat := fld w.toNat 15 4

/-- Check 1 of R284. -/
def keyArgsBad (w : Word) : Bool :=
  decide (keyOp w = 0 ∨ keyOp w = 3) || decide (fld w.toNat 31 16 ≠ 0) || decide (fld w.toNat 3 2 ≠ 0)

/-- What a key command does at the instance y of its handle (R284): its code and the instance after it. -/
def State.keyAt (s : State) (y : Inst) (w : Word) (h : Word) (wrap : List Word) : Nat × Inst :=
  let v := y.vc (handleVc h)
  let slot := keySlotOf w
  let k := y.key slot
  if v.st = .free ∨ v.gen ≠ handleGen h then (errChStale, y)
  else if k.bad then (errHwUncorrectable, y)
  else if k.owner ≠ some (handleVc h) then (errKeySlot, y)
  else if keyOp w = 2 then (0, y.setKey slot { KeySlot.empty with owner := k.owner })
  else match y.instKey with
    | none => (errKeyUnwrap, y)
    | some ik => match unwrapKey ik wrap with
      | none => (errKeyUnwrap, y)
      | some d =>
        if s.keyReused d then (errKeyReuse, y)
        else (0, y.setKey slot { owner := k.owner, hasKey := true, key := d.key, keyId := d.keyId, nonce := d.nonce,
                                 counter := 0, bad := false })

/-- A key command ends: its code stands in HUB.KEY_STATUS and the wrapped words are zeroed, whatever the outcome
(R283). -/
def State.keyEnd (s : State) (i code : Nat) : State :=
  match s.insts[i]? with
  | none => s
  | some x => s.setInst i { x with keyCode := code, keyWrap := List.replicate 12 0, keyWait := none }

/-- A key command at instance i with the handle h (R283, R284): it acts at the instance of its handle (R27), and waits while
that one is in reset or asleep. -/
def State.keyRun (s : State) (i : Nat) (x : Inst) (w h : Word) : State :=
  let j := handleInst h
  if keyArgsBad w then s.keyEnd i errKeySlot
  else if x.instCount ≤ j then s.keyEnd i errChArg
  else match s.insts[j]? with
    | none => s.keyEnd i errChArg
    | some y =>
      match s.reach i j y with
      | none =>
        let s1 := s.wakeNext i j
        s1.atDie i fun z => s1.setInst i { z with keyWait := some (w, h) }
      | some code =>
        if code ≠ 0 then s.keyEnd i code
        else
          let d := s.keyAt y w h x.keyWrap
          (s.setInst j d.2).keyEnd i d.1

/-- A write of HUB.KEY_CMD at instance i: ignored while busy (R284). -/
def State.keyCmd (s : State) (i : Nat) (x : Inst) (w : Word) : State :=
  if x.keyWait.isSome then s else s.keyRun i x w x.keyHandle

/-- A key command of the op of its row; a word with another op is not this command. -/
def keyRow (s : State) (i op : Nat) (w : Word) : Host.Outcome State Fault Refusal :=
  if keyOp w = op then s.ctlRow i 0x2800 w fun x => s.keyCmd i x w else .next s

/-- INSTANCE_KEY_PROVISION (R281, R427): accepted, or refused while a key slot holds a key, or for kp_last off beat 3. -/
def keyProvision (key : BitVec 256) (last : Bool) (_ : Env) (x : Inst) : Run :=
  if !x.alive then pureRun x
  else if !last then pureRun { x with keyResp := some 2#2 }
  else if x.instKey.isSome ∧ x.keys.any fun p => p.2.hasKey then pureRun { x with keyResp := some 1#2 }
  else pureRun { x with instKey := some key, keyResp := some 0#2 }

/-- KEY_LOAD (R283, R284): a write of HUB.KEY_CMD with op LOAD. -/
def execKeyLoad (inst : Nat) (word : Word) (s : State) : Host.Outcome State Fault Refusal := keyRow s inst 1 word

/-- KEY_CLEAR (R284): a write of HUB.KEY_CMD with op CLEAR. -/
def execKeyClear (inst : Nat) (word : Word) (s : State) : Host.Outcome State Fault Refusal := keyRow s inst 2 word

/-- INSTANCE_KEY_PROVISION (R427). -/
def execInstanceKeyProvision (inst : Nat) (key : BitVec 256) (lastOnBeat3 : Bool) (s : State) :
    Host.Outcome State Fault Refusal := onInst s inst (keyProvision key lastOnBeat3)

end Sys2Proof.Machine
end

