-- ==== Sys2Proof/Machine/Mailboxes.lean ====
section
/-! DEFINITION. Mailboxes and doorbells (R361 to R366), and the words of the outbound port that the control core accepts
(R244, R364, R422). -/

namespace Sys2Proof.Machine

/-! ### Agents and handles (R361) -/

/-- The agent ID of the control core of a cell. -/
def coreAgent (inst cell : Nat) : Nat := 0x8000 + 0x100 * inst + cell

/-- The cell of an agent ID, none for the management processor and the reserved values. -/
def agentCell (a : Nat) : Option (Nat × Nat) :=
  if 0x8000 ≤ a ∧ a < 0x8800 then some ((a - 0x8000) / 0x100, a % 0x100) else none

/-- An agent ID that is not reserved. -/
def agentOk (a : Nat) : Bool := decide (a = 0) || (agentCell a).isSome

/-- The instance of an agent, 0 for the management processor. -/
def agentInst (a : Nat) : Nat := match agentCell a with
  | some p => p.1
  | none => 0

/-- The agent's cell is in service, or the agent is the management processor. -/
def State.agentServed (s : State) (a : Nat) : Bool := match agentCell a with
  | none => true
  | some p => match s.insts[p.1]? with
    | some x => x.inService.getLsbD p.2
    | none => false

/-- The handle of mailbox m (R361): its fields lie as a channel handle's. -/
def Inst.mbHandleOf (x : Inst) (m : Nat) : Word := mkHandle x.id (x.mbox m).gen m

/-- A message is posted (R362, R363). -/
def Inst.mbPost (x : Inst) (m : Nat) (msg : List Word) : Inst :=
  x.setMbox m { x.mbox m with pending := true, msg := msg }

/-- The doorbells of an instance: bit m is 1 while mailbox m is pending (R366). -/
def Inst.doorbells (x : Inst) : Word :=
  BitVec.ofNat 32 ((List.range 32).foldl (fun n m => n + flagAt (x.mbox m).pending m) 0)

/-- INT_STAT.doorbell (R346): an unmasked doorbell whose receiver is the management processor. -/
def Inst.doorbellInt (x : Inst) : Bool :=
  (List.range 32).any fun m => (x.mbox m).pending && decide ((x.mbox m).receiver = 0) && !x.dbMask.getLsbD m

/-! ### The mailbox commands (R362) -/

/-- The code of a command, at the instance whose window took it. -/
def State.mbEnd (s : State) (i code : Nat) : State :=
  match s.insts[i]? with
  | none => s
  | some x => s.setInst i { x with mbCode := code, mbWait := none }

/-- MB_ALLOC (R362): the lowest free mailbox of this instance. -/
def State.mbAlloc (s : State) (i : Nat) (x : Inst) : State :=
  let a := x.mbArg0.toNat
  let b := x.mbArg1.toNat
  if !agentOk a || !agentOk b || decide (a = b) || decide (x.instCount ≤ agentInst a) || decide (x.instCount ≤ agentInst b)
      || !s.agentServed a || !s.agentServed b then s.mbEnd i errMbArg
  else match (List.range 32).find? fun m => !(x.mbox m).alloc with
    | none => s.mbEnd i errMbFull
    | some m =>
      let x1 := x.setMbox m { Mbox.free with alloc := true, gen := (x.mbox m).gen, sender := a, receiver := b }
      s.setInst i { x1 with mbCode := 0, mbHandle := x1.mbHandleOf m }

/-- MB_FREE, MB_SEND and MB_TAKE at the instance of the mailbox: the code, and the instance after it. -/
def Inst.mbOp (y : Inst) (op m : Nat) : Nat × Inst :=
  let b := y.mbox m
  match op with
  | 2 => (0, y.mbRelease m)
  | 3 =>
    if b.sender ≠ 0 then (errMbSender, y)
    else if b.pending then (errMbState, y)
    else (0, y.mbPost m b.msg)
  | _ =>
    if b.receiver ≠ 0 then (errMbArg, y)
    else if !b.pending then (errMbState, y)
    else (0, y.mbTaken m)

/-- A response of cell n of die i, after what has changed elsewhere. -/
def State.onCellAt (s : State) (i n : Nat) (f : Cell → Cell) : State :=
  match s.insts[i]? with
  | none => s
  | some x => s.setInst i (x.setCell n (f (x.cell n)))

/-- The words of the mailbox's delivery record that its receiver's cell still has to send. -/
def State.wordsLeft (s : State) (receiver : Nat) (h : Word) : Nat :=
  match agentCell receiver with
  | none => 0
  | some p => match s.insts[p.1]? with
    | none => 0
    | some x => ((x.cell p.2).outQ.filter fun w => decide (w.box = some h)).length

/-- A delivery record of which no word has been sent is withdrawn (R364). -/
def State.recall (s : State) (receiver : Nat) (h : Word) : State :=
  match agentCell receiver with
  | none => s
  | some p => s.onCellAt p.1 p.2 fun c => { c with outQ := c.outQ.filter fun w => decide (w.box ≠ some h) }

/-- A command on the mailbox of the handle h, for the window of instance i (R27, R362): it waits for an instance in reset or
asleep (R365), and an MB_FREE for a delivery whose first word has been sent (R364). -/
def State.mbRun (s : State) (i op : Nat) (h : Word) : State :=
  let j := handleInst h
  match s.insts[j]? with
  | none => s.mbEnd i errMbStale
  | some y =>
    match s.reach i j y with
    | none =>
      let s1 := s.wakeNext i j
      s1.atDie i fun x => s1.setInst i { x with mbWait := some (op, h) }
    | some code =>
      if code ≠ 0 then s.mbEnd i code
      else match y.mbFind h with
        | none => s.mbEnd i errMbStale
        | some m =>
          let n := s.wordsLeft (y.mbox m).receiver h
          if op = 2 ∧ 0 < n ∧ n < 6 then s.atDie i fun x => s.setInst i { x with mbFreeing := some (32 * j + m), mbWait := none }
          else
            let d := y.mbOp op m
            let s1 := s.setInst j d.2
            (if op = 2 then s1.recall (y.mbox m).receiver h else s1).mbEnd i d.1

/-- A write of HUB.MB_CMD at instance i (R362, R366): ignored while busy; ops 0 and 5 to 255 are refused. -/
def State.mbCmd (s : State) (i : Nat) (x : Inst) (op : Nat) : State :=
  if x.mbFreeing.isSome ∨ x.mbWait.isSome then s
  else if op = 0 ∨ 4 < op then s.mbEnd i errMbArg
  else if op = 1 then s.mbAlloc i x
  else s.mbRun i op x.mbArg0

/-! ### Mailbox records (R363) -/

/-- What a mailbox record of a cell comes to at the instance of its handle: `none` while that instance cannot take it. -/
inductive PostDone where
  | waits
  | refused (code : Nat)
  | held
  | posted (y : Inst) (j : Nat)

/-- A post of the core of cell n of die i. -/
def State.post? (s : State) (i : Nat) (x : Inst) (n : Nat) (h : Word) (msg : List Word) : PostDone :=
  let j := handleInst h
  match s.insts[j]? with
  | none => .refused errMbStale
  | some y => match s.reach i j y with
    | none => .waits
    | some code =>
      if code ≠ 0 then .refused code
      else match y.mbFind h with
        | none => .refused errMbStale
        | some m =>
          if (y.mbox m).sender ≠ coreAgent x.id n then .refused errMbSender
          else if (y.mbox m).pending then .held
          else .posted (y.mbPost m msg) j

/-- MAILBOX_RECORD (R359, R363, R422): refused, posted or held. -/
def State.mailboxRecord (s : State) (a : CellAt) (x : Inst) (ws : List Word) : State :=
  if !x.awake then s.setInst a.inst (x.wakeBy 3)
  else
    let x0 := x.ungate a.cell
    let s0 := s.setInst a.inst x0
    if (x0.cell a.cell).heldPost.isSome then s0
    else if x0.cellOut a.cell then s0.setInst a.inst (x0.respond a.cell errCellRetired)
    else if ws.length ≠ 5 then s0.setInst a.inst (x0.respond a.cell errChArg)
    else match s0.post? a.inst x0 a.cell (wordAt ws 0) (ws.drop 1) with
      | .waits => s0.wakeNext a.inst (handleInst (wordAt ws 0))
      | .refused code => s0.setInst a.inst (x0.respond a.cell code)
      | .held => s0.onCellAt a.inst a.cell fun c => { c with heldPost := some ws }.respond .held
      | .posted y j => (s0.setInst j y).onCellAt a.inst a.cell fun c => c.respond (.done 0)

/-- MB_HELD_POST_RELEASE (R363): the mailbox has emptied, or the post ends with MB_STALE. -/
def State.heldRelease (s : State) (a : CellAt) (x : Inst) : State :=
  match (x.cell a.cell).heldPost with
  | none => s
  | some ws =>
    let done (s : State) (code : Nat) : State :=
      s.onCellAt a.inst a.cell fun c => { c with heldPost := none }.answer .held (.done code)
    if !x.awake then s
    else match s.post? a.inst x a.cell (wordAt ws 0) (ws.drop 1) with
      | .waits => s
      | .refused code => done s code
      | .held => s
      | .posted y j => done (s.setInst j y) 0

/-! ### Deliveries (R364) -/

/-- The words of a delivery record. -/
def deliveryWords (h : Word) (b : Mbox) : List OutWord :=
  let ws := [h, BitVec.ofNat 32 b.sender] ++ (b.msg ++ [0, 0, 0, 0]).take 4
  ws.zipIdx.map fun p => { data := p.1, kind := 2, last := decide (p.2 = 5), box := some h }

/-- MB_DELIVERY (R364): a pending message with its doorbell unmasked leaves for its core. A cell that is out of service or
retired, or whose instance is not running, gets none (R359, R365, R383). -/
def State.delivery (s : State) (i m : Nat) (x : Inst) : State :=
  let b := x.mbox m
  match agentCell b.receiver with
  | none => s
  | some p =>
    if !x.awake || !b.pending || b.sending || x.dbMask.getLsbD m || !s.linked i p.1 then s
    else match s.insts[p.1]? with
      | none => s
      | some y =>
        if !y.alive || decide (y.cellsBuilt ≤ p.2) || y.cellOut p.2 then s
        else if s.sleepers i p.1 ≠ [] then s.wakeNext i p.1
        else
          let h := x.mbHandleOf m
          (s.setInst i (x.setMbox m { b with sending := true })).onCellAt p.1 p.2 fun c =>
            { c with outQ := c.outQ ++ deliveryWords h b, gated := false }

/-- The deliveries of a cell's port of which no word has been sent and whose doorbells are masked (R364). -/
def State.maskedOut (s : State) (q : List OutWord) : List Word :=
  (q.filterMap OutWord.box).eraseDups.filter fun h =>
    decide ((q.filter fun w => decide (w.box = some h)).length = 6) && (match s.insts[handleInst h]? with
      | some y => y.dbMask.getLsbD (handleVc h)
      | none => false)

/-- A delivery of which no word has been sent is put back: its mailbox keeps the message for a later one (R364). -/
def State.putBack (s : State) (a : CellAt) (h : Word) : State :=
  let s1 := s.onCellAt a.inst a.cell fun c => { c with outQ := c.outQ.filter fun w => decide (w.box ≠ some h) }
  s1.atDie (handleInst h) fun y => match y.mbFind h with
    | some m => s1.setInst (handleInst h) (y.setMbox m { y.mbox m with sending := false })
    | none => s1

/-- The deliveries that a masked doorbell holds back are (R364). -/
def State.holdMasked (s : State) (a : CellAt) : State :=
  s.atDie a.inst fun x => (s.maskedOut (x.cell a.cell).outQ).foldl (fun s h => s.putBack a h) s

/-- OUTBOUND_WORD_ACCEPT (R244, R364, R422): the core takes the oldest outbound word. A place that it frees may end a
program whose end summary waited. -/
def State.outAccept (s : State) (a : CellAt) (x : Inst) : State :=
  let c := x.cell a.cell
  match c.outQ with
  | [] => s
  | w :: rest =>
    if !x.awake && !x.flt.failstop then s
    else
      let x1 := x.setCell a.cell { c with outQ := rest }
      let s1 := s.runAt a.inst x1 fun _ x => (pureRun x).endSummaries a.cell
      match w.box with
      | some h => if w.last then s1.effs a.inst [.taken h] else s1
      | none => s1

/-- A step of the package from a cell's port. -/
def onPort (s : State) (a : CellAt) (f : Inst → State) : Host.Outcome State Fault Refusal := .next (s.atCell a f)

/-- MAILBOX_RECORD (R363). -/
def execMailboxRecord (c : CellAt) (ws : List Word) (s : State) : Host.Outcome State Fault Refusal :=
  onPort s c fun x => s.mailboxRecord c x ws

/-- MB_HELD_POST_RELEASE (R363). -/
def execMbHeldPostRelease (c : CellAt) (s : State) : Host.Outcome State Fault Refusal := onPort s c (s.heldRelease c)

/-- OUTBOUND_WORD_ACCEPT (R422). -/
def execOutboundWordAccept (c : CellAt) (s : State) : Host.Outcome State Fault Refusal :=
  onPort (s.holdMasked c) c ((s.holdMasked c).outAccept c)

/-- MB_DELIVERY (R364). -/
def execMbDelivery (inst : Nat) (m : Nat) (s : State) : Host.Outcome State Fault Refusal :=
  .next (s.atDie inst (s.delivery inst m))

/-- MB_ALLOC (R362): a write of HUB.MB_CMD with op 1. -/
def execMbAlloc (inst : Nat) (s : State) : Host.Outcome State Fault Refusal :=
  s.ctlRow inst 0x400 1 fun x => s.mbCmd inst x 1

/-- MB_FREE (R362): a write of HUB.MB_CMD with op 2. -/
def execMbFree (inst : Nat) (s : State) : Host.Outcome State Fault Refusal :=
  s.ctlRow inst 0x400 2 fun x => s.mbCmd inst x 2

/-- MB_SEND (R362): a write of HUB.MB_CMD with op 3. -/
def execMbSend (inst : Nat) (s : State) : Host.Outcome State Fault Refusal :=
  s.ctlRow inst 0x400 3 fun x => s.mbCmd inst x 3

/-- MB_TAKE (R362): a write of HUB.MB_CMD with op 4. -/
def execMbTake (inst : Nat) (s : State) : Host.Outcome State Fault Refusal :=
  s.ctlRow inst 0x400 4 fun x => s.mbCmd inst x 4

end Sys2Proof.Machine
end

