-- ==== Sys2Proof/Machine/Stream.lean ====
section
/-! DEFINITION. The structure stream (R347 to R360): its layout, the checks of a close (R355) and of a commit (R357), cell
resets (R414), full commits (R358) and cell-map patches (R359). -/

namespace Sys2Proof.Machine

/-! ### The layout (R347, R348) -/

/-- A section of a stream: offset of its header, type, instance field, offset and length of its body. -/
structure Sect where
  at_  : Nat
  typ  : Nat
  inst : Nat
  body : Nat
  len  : Nat
deriving DecidableEq, Repr

/-- The word at a byte offset that is a multiple of 4. -/
def u32At (ws : List Word) (o : Nat) : Nat := (wordAt ws (o / 4)).toNat

/-- The byte at an offset. -/
def u8At (ws : List Word) (o : Nat) : Nat := u32At ws o / 2 ^ (8 * (o % 4)) % 256

def ssKind (ws : List Word) : Nat := fld (u32At ws 0) 15 8
def ssRelease (ws : List Word) : Nat := u32At ws 4
def ssCountM1 (ws : List Word) : Nat := u32At ws 0xC % 8
def ssSections (ws : List Word) : Nat := fld (u32At ws 0xC) 15 8

/-- The sections whose headers lie inside the stream, at most `fuel` of them from offset `o`. -/
def sectionsFrom (ws : List Word) (len : Nat) : Nat → Nat → List Sect
  | 0, _ => []
  | fuel + 1, o =>
    if len < o + 16 then []
    else
      let w := u32At ws o
      let n := u32At ws (o + 4)
      { at_ := o, typ := w % 256, inst := fld w 10 8, body := o + 16, len := n } :: sectionsFrom ws len fuel (o + 16 + n)

def sections (ws : List Word) : List Sect := sectionsFrom ws (4 * ws.length) (ssSections ws) 96

/-- The section of a type for an instance. -/
def sectOf (ss : List Sect) (typ inst : Nat) : Option Sect := ss.find? fun q => decide (q.typ = typ ∧ q.inst = inst)

/-! ### The checks of a close (R355): the offset of the first offending field, none when the check passes -/

/-- The offset o when c holds. -/
def offIf (c : Bool) (o : Nat) : Option Nat := if c then some o else none

/-- The first offending offset of a list of tests in ascending order of their fields. -/
def firstOff (l : List (Option Nat)) : Option Nat := l.findSome? id

/-- Check 1: the length. -/
def ssCheck1 (ws : List Word) (over_ : Bool) : Option Nat :=
  let n := 4 * ws.length
  offIf (over_ || decide (n < 96) || decide (262144 < n) || decide (u32At ws 8 ≠ n)) 8

/-- Check 2: format, kind, reserved fields of the stream header and of the section headers. -/
def ssCheck2 (ws : List Word) : Option Nat :=
  firstOff ([offIf (decide (u8At ws 0 ≠ 1)) 0, offIf (decide (1 < ssKind ws)) 1, offIf (decide (fld (u32At ws 0) 31 16 ≠ 0)) 2,
      offIf (decide (fld (u32At ws 0xC) 7 3 ≠ 0)) 0xC, offIf (decide (fld (u32At ws 0xC) 31 16 ≠ 0)) 0xE,
      offIf ((List.range 6).any fun k => decide (u32At ws (0x18 + 4 * k) ≠ 0)) 0x18]
    ++ (sections ws).flatMap fun q =>
      [offIf (decide (u32At ws q.at_ / 2 ^ 11 ≠ 0)) (q.at_ + 1), offIf (decide (u32At ws (q.at_ + 8) ≠ 0)) (q.at_ + 8),
        offIf (decide (u32At ws (q.at_ + 12) ≠ 0)) (q.at_ + 12)])

/-- Check 3: the sections tile the stream, and there are section_count of them. -/
def ssCheck3 (ws : List Word) : Option Nat :=
  let ss := sections ws
  let n := 4 * ws.length
  let last := match ss.getLast? with
    | some q => q.body + q.len
    | none => 96
  firstOff ((ss.map fun q => offIf (decide (q.len % 4 ≠ 0) || decide (n < q.body + q.len)) (q.at_ + 4))
    ++ [offIf (decide (ss.length ≠ ssSections ws)) 0xD, offIf (decide (last ≠ n)) last])

/-- A package-wide section type (R348). -/
def ssWide (typ : Nat) : Bool := decide (typ = 2 ∨ typ = 3 ∨ typ = 6)

/-- Check 4: types, instance fields, occurrences. -/
def ssCheck4 (ws : List Word) : Option Nat :=
  let ss := sections ws
  let n := ssCountM1 ws + 1
  let full := decide (ssKind ws = 0)
  let one (p : Sect × Nat) : List (Option Nat) :=
    let q := p.1
    [offIf (decide (q.typ = 0 ∨ 6 < q.typ) || (!full && decide (q.typ ≠ 1))) q.at_,
      offIf (decide (n ≤ q.inst) || (ssWide q.typ && decide (q.inst ≠ 0))) (q.at_ + 1),
      offIf ((ss.take p.2).any fun u => decide (u.typ = q.typ ∧ u.inst = q.inst)) q.at_]
  let all := full && !((List.range n).all fun i => (sectOf ss 1 i).isSome && (sectOf ss 4 i).isSome && (sectOf ss 5 i).isSome)
    || (full && !((sectOf ss 2 0).isSome && (sectOf ss 3 0).isSome && (sectOf ss 6 0).isSome))
  firstOff ((ss.zipIdx.flatMap one) ++ [offIf (all || ss.isEmpty) 0xD])

/-- A section's body length fits its type (R348, R350, R407). -/
def ssLenOk (ws : List Word) (q : Sect) : Bool :=
  match q.typ with
  | 1 => decide (q.len = 256)
  | 2 => decide (q.len = 256)
  | 3 => decide (4 ≤ q.len) && decide (q.len ≤ 131072)
  | 4 => decide (16 ≤ q.len) && decide (q.len = 16 + 16 * (u32At ws (q.body + 8) / 2 ^ 16))
  | 5 => decide (q.len = 176)
  | _ => decide (q.len = 32)

/-- Check 5: body lengths. -/
def ssCheck5 (ws : List Word) : Option Nat :=
  firstOff ((sections ws).map fun q => offIf (!ssLenOk ws q) (q.at_ + 4))

/-- cells_built of an instance in the instance-ID section (R351), none in a patch. -/
def ssBuilt (ws : List Word) (i : Nat) : Option Nat :=
  (sectOf (sections ws) 6 0).map fun q => fld (u32At ws (q.body + 4 * i)) 24 16

/-- A cell-map body (R349): bits [6:4] are 0, and the byte of a cell at or above cells_built is 0. -/
def ssMapBad (ws : List Word) (q : Sect) : List (Option Nat) :=
  let built := ssBuilt ws q.inst
  (List.range 256).map fun j =>
    let b := u8At ws (q.body + j)
    offIf (decide (b / 16 % 8 ≠ 0) || (match built with
      | some n => decide (n ≤ j ∧ b ≠ 0)
      | none => false)) (q.body + j)

/-- A decode-table entry is finite (R47). -/
def ssTabBad (ws : List Word) (q : Sect) : List (Option Nat) :=
  (List.range 128).map fun k =>
    offIf (decide (fld (u32At ws (q.body + 2 * k)) (16 * (k % 2) + 14) (16 * (k % 2) + 10) = 31)) (q.body + 2 * k)

/-- Number of ranges of a tier-map body. -/
def ssRanges (q : Sect) : Nat := (q.len - 16) / 16

/-- First 4 KiB page and number of pages of range r (R350). -/
def ssRange (ws : List Word) (q : Sect) (r : Nat) : Nat × Nat :=
  let o := q.body + 16 + 16 * r
  (u32At ws o / 2 ^ 12 + u32At ws (o + 4) % 2 ^ 20 * 2 ^ 20, u32At ws (o + 8))

/-- A tier-map body (R350). -/
def ssTierBad (ws : List Word) (q : Sect) : List (Option Nat) :=
  let b := q.body
  [offIf (decide (fld (u32At ws b) 12 1 ≠ 0)) b, offIf (decide (fld (u32At ws (b + 4)) 31 20 ≠ 0)) (b + 6),
    offIf (decide (fld (u32At ws (b + 8)) 15 13 ≠ 0)) (b + 9), offIf (decide (64 < fld (u32At ws (b + 8)) 31 16)) (b + 10),
    offIf (decide (u32At ws (b + 12) ≠ 0)) (b + 12)]
  ++ (List.range (ssRanges q)).flatMap fun r =>
    let o := b + 16 + 16 * r
    let g := ssRange ws q r
    let overlap := (List.range r).any fun k =>
      let h := ssRange ws q k
      decide (g.1 < h.1 + h.2) && decide (h.1 < g.1 + g.2)
    [offIf (decide (fld (u32At ws o) 11 3 ≠ 0)) o, offIf overlap (o + 1),
      offIf (decide (fld (u32At ws (o + 4)) 31 20 ≠ 0)) (o + 6), offIf (decide (g.2 = 0)) (o + 8),
      offIf (decide (u32At ws (o + 12) ≠ 0)) (o + 12)]

/-- An instance-ID body (R351). -/
def ssIdsBad (ws : List Word) (q : Sect) : List (Option Nat) :=
  (List.range 8).flatMap fun i =>
    let o := q.body + 4 * i
    let w := u32At ws o
    if i ≤ ssCountM1 ws then
      [offIf (decide (w % 256 ≠ i + 128)) o, offIf (decide (fld w 15 8 ≠ 0)) (o + 1), offIf (decide (fld w 31 25 ≠ 0)) (o + 3)]
    else [offIf (decide (w ≠ 0)) o]

/-- Check 6: the bodies, in stream order. -/
def ssCheck6 (ws : List Word) : Option Nat :=
  firstOff ((sections ws).flatMap fun q => match q.typ with
    | 1 => ssMapBad ws q
    | 2 => ssTabBad ws q
    | 4 => ssTierBad ws q
    | 6 => ssIdsBad ws q
    | _ => [])

/-- The checks of R355 in order: the offset that the first failing one records. -/
def ssCheck (ws : List Word) (over_ : Bool) : Option Nat :=
  firstOff [ssCheck1 ws over_, ssCheck2 ws, ssCheck3 ws, ssCheck4 ws, ssCheck5 ws, ssCheck6 ws]

/-! ### The load window (R353) -/

/-- A write that the window loses. -/
def LoadWin.lose (l : LoadWin) : LoadWin := { l with lost := true }

/-- OPEN: any staged stream is discarded. -/
def LoadWin.open_ (l : LoadWin) : LoadWin :=
  if l.st = 2 ∨ l.st = 4 then l.lose else { l with st := 1, words := [], overrun := false, digest := [] }

/-- A write of HUB.SS_DATA. -/
def LoadWin.data (l : LoadWin) (w : Word) : LoadWin :=
  if l.st ≠ 1 then l.lose
  else if 65536 ≤ l.words.length then { l with overrun := true }
  else { l with words := l.words ++ [w] }

/-- CLOSE. -/
def LoadWin.close (l : LoadWin) : LoadWin := if l.st = 1 then { l with st := 2 } else l.lose

/-- CLOSING ends (R354, R355). -/
def LoadWin.closeDone (l : LoadWin) : LoadWin :=
  if l.st ≠ 2 then l
  else match ssCheck l.words l.overrun with
    | some o => { l with st := 0, code := errSsFormat, faultOff := o, digest := [] }
    | none => { l with st := 3, digest := sha384 (wordsBytes l.words) }

/-! ### The checks of a commit (R357) -/

/-- HUB.ID_VERSION (R3). -/
def idVersion : Nat := 0x00020100

/-- The die links on the way from instance 0 to die i carry a copy of the stream, and the instance takes it (R344, R389). -/
def State.reaches (s : State) (i : Nat) : Bool :=
  (List.range (i + 1)).all fun k => match s.insts[k]? with
    | none => false
    | some x => !x.flt.clockLost && !x.pwr.offTaken && decide (x.rst.phase = 0)
      && (if k = i then !x.flt.failstop && !x.test else x.east.up)

/-- Check 4 for instance i of n: reachable, its ID, its cells, its links (R28, R33). -/
def State.topologyOk (s : State) (ws : List Word) (n i : Nat) : Bool :=
  match s.insts[i]? with
  | none => false
  | some x =>
    s.reaches i && decide (x.id = i) && decide (ssBuilt ws i = some x.cellsBuilt)
      && (decide (n < 2) || (x.east.up && x.west.up && decide (x.east.peer = (i + 1) % n) && decide (x.west.peer = (i + n - 1) % n)))

/-- The cell map that a section gives: the byte of each cell. -/
def ssMap (ws : List Word) (q : Sect) : List Byte := (List.range 256).map fun j => BitVec.ofNat 8 (u8At ws (q.body + j))

/-- Check 2 for a patch section: no cell returns to service, no partition changes. -/
def patchOk (x : Inst) (m : List Byte) : Bool :=
  (List.range 256).all fun j =>
    let b := m.getD j 0
    (!b.getLsbD 7 || x.inService.getLsbD j) && decide (b.toNat % 16 = (x.stream.cellMap.getD j 0).toNat % 16)

/-- A cell that a patch may take out of service (R357 check 3). -/
def State.cellEmpty (s : State) (x : Inst) (n : Nat) : Bool :=
  let c := x.cell n
  c.slots.all (fun k => decide (k.phase = .idle)) && c.launchQ.isEmpty && c.casks.isEmpty
    && c.drain.all (fun t => t.beats.isEmpty) && c.outQ.all (fun w => decide (w.kind = 1))
    && s.insts.all fun y => y.mboxes.all fun p => !(p.2.sending && decide (p.2.receiver = coreAgent x.id n))

/-- Check 5: no cell at or above cells_built, none that failed its self-test (R437), and some cell in service. -/
def mapServes (x : Inst) (m : List Byte) : Bool :=
  let on := mapCells m
  decide (on ≠ 0) && decide (on &&& x.lstFail = 0) && decide (on.toNat < 2 ^ x.cellsBuilt)

/-- The cell-map sections of a stream with the instances they name. -/
def State.mapSections (s : State) (ws : List Word) : List (Sect × Option Inst) :=
  ((sections ws).filter fun q => q.typ == 1).map fun q => (q, s.insts[q.inst]?)

/-- The checks of a full stream (R357): 0 when they pass. -/
def State.fullCheck (s : State) (ws : List Word) : Nat :=
  let n := ssCountM1 ws + 1
  if ssRelease ws / 2 ^ 16 ≠ idVersion / 2 ^ 16 ∨ idVersion < ssRelease ws then errSsRelease
  else if s.insts.any fun x => x.vcs.any fun p => decide (p.2.st ≠ .free) then errSsBusy
  else if !(List.range n).all (s.topologyOk ws n) then errSsTopology
  else if !(s.mapSections ws).all (fun p => match p.2 with
      | some x => mapServes x (ssMap ws p.1)
      | none => false) then errSsCells
  else 0

/-- The base digest of a patch (R347). -/
def ssBase (ws : List Word) : List Byte := (List.range 48).map fun k => BitVec.ofNat 8 (u8At ws (0x30 + k))

/-- The checks of a cell-map patch (R357). -/
def State.patchCheck (s : State) (ws : List Word) : Nat :=
  let maps := s.mapSections ws
  let force := match s.insts[0]? with
    | some x => x.stream.inForce && decide (x.stream.digest = ssBase ws) && decide (x.stream.countM1 = ssCountM1 ws)
    | none => false
  let leaving (x : Inst) (m : List Byte) : List Nat :=
    (List.range 256).filter fun j => x.inService.getLsbD j && !(m.getD j 0).getLsbD 7
  if ssRelease ws / 2 ^ 16 ≠ idVersion / 2 ^ 16 ∨ idVersion < ssRelease ws then errSsRelease
  else if !force || !maps.all (fun p => match p.2 with
      | some x => patchOk x (ssMap ws p.1)
      | none => false) then errSsPatch
  else if maps.any (fun p => match p.2 with
      | some x => (leaving x (ssMap ws p.1)).any fun j => !s.cellEmpty x j
      | none => false) then errSsBusy
  else if maps.any (fun p => decide (mapCells (ssMap ws p.1) = 0)) then errSsCells
  else 0

/-! ### Cell resets (R414, R416) -/

/-- A cell reset: the owed counts of R155, unread words other than summaries, and requests in flight at the scratchpad
port are not the reset's to drop, nor is what the fault manager and the mailboxes hold. -/
def Cell.resetCell (c : Cell) : Cell :=
  let c1 := c.discardTiles (c.drain.map (·.id))
  { Cell.reset with
    owed := c1.owed, outQ := c.outQ.filter (fun w => decide (w.kind ≠ 0)), heldPost := c.heldPost
    respQ := c.respQ.filter (fun w => match w with
      | .queued => false
      | .fetching _ => false
      | .held => true
      | .done _ => true)
    spReads := c.spReads.map fun (q : SpRead) => { q with who := .nobody }
    spWrites := c.spWrites.map fun (q : SpWrite) => { q with who := .nobody }
    paused := c.paused, fault := c.fault, faults := c.faults, retire := c.retire }

def Inst.resetCells (x : Inst) : Inst := x.liveCells.foldl (fun x n => x.setCell n (x.cell n).resetCell) x

/-! ### Full commits (R358) and patches (R359) -/

/-- The tier ranges of a tier-map section (R350). -/
def ssTierRanges (ws : List Word) (q : Sect) : List TierRange :=
  (List.range (ssRanges q)).map fun r =>
    let g := ssRange ws q r
    let w := u32At ws (q.body + 16 + 16 * r)
    { base := g.1, pages := g.2, tier := w % 4, encReq := bitOf w 2 }

/-- The words of a body. -/
def ssWords (ws : List Word) (q : Sect) : List Word := (ws.drop (q.body / 4)).take (q.len / 4)

/-- What instance i takes from a full stream with a digest (R358). -/
def ssStream (ws : List Word) (i : Nat) (digest : List Byte) : Stream :=
  let ss := sections ws
  let body (t j : Nat) : List Word := match sectOf ss t j with
    | some q => ssWords ws q
    | none => []
  let tier := body 4 i
  let w0 := (wordAt tier 0).toNat + (wordAt tier 1).toNat * 2 ^ 32
  { inForce := true, countM1 := ssCountM1 ws
    tabs := (List.range 128).map fun k => BitVec.ofNat 16 (fld (wordAt (body 2 0) (k / 2)).toNat (16 * (k % 2) + 15) (16 * (k % 2)))
    mcode := body 3 0
    cellMap := match sectOf ss 1 i with
      | some q => ssMap ws q
      | none => []
    ranges := match sectOf ss 4 i with
      | some q => ssTierRanges ws q
      | none => []
    useTable := if bitOf w0 0 then some (fld w0 51 13 * 2 ^ 13) else none
    epoch := (wordAt tier 2).toNat % 2 ^ 13, power := body 5 i, digest := digest }

/-- An instance takes a full stream (R358): its settings, and a cell reset of every cell. The cells that faults had retired
are counted anew (R394). -/
def Inst.takeStream (x : Inst) (st : Stream) : Inst :=
  { x.resetCells with stream := st, inService := mapCells st.cellMap, flt := { x.flt with quiesced := 0 } }

/-- Apply a full stream to the instances that it lists. -/
def State.applyFull (s : State) (ws : List Word) (digest : List Byte) : State :=
  (List.range (ssCountM1 ws + 1)).foldl (fun s i => match s.insts[i]? with
    | some x => s.setInst i (x.takeStream (ssStream ws i digest))
    | none => s) s

/-- Apply a patch: the named cells leave service (R359), on an instance that sleeps when it is in RUN (R405). -/
def State.applyPatch (s : State) (ws : List Word) : State :=
  s.effs 0 ((s.mapSections ws).map fun p => .patch p.1.inst (ssMap ws p.1))

/-- The next instance that sleeps on the way of a stream's copy to each instance that it lists (R405), none when all take it. -/
def State.copySleeper (s : State) (ws : List Word) : Option Nat :=
  (List.range (ssCountM1 ws + 1)).find? fun i => decide (s.sleepers 0 i ≠ [])

/-- COMMIT (R353, R357, R359): refused, applied as a patch, or begun as a full commit. -/
def State.ssCommit (s : State) : State :=
  let l := s.ss
  if l.st ≠ 3 then { s with ss := l.lose }
  else if ssKind l.words = 1 then
    let code := s.patchCheck l.words
    if code ≠ 0 then { s with ss := { l with code := code } }
    else if (s.mapSections l.words).any fun p => !s.reaches p.1.inst then { s with ss := { l with code := errSsTopology } }
    else
      { s.applyPatch l.words with
        ss := { l with st := 0, code := 0, digest := [], patches := min (l.patches + 1) 255 } }
  else
    let code := s.fullCheck l.words
    if code ≠ 0 then { s with ss := { l with code := code } }
    else
      let s1 := match s.copySleeper l.words with
        | some i => s.wakeNext 0 i
        | none => s
      { s1 with ss := { l with st := 4 } }

/-- The instance has stopped or is cut off: a copy of the stream is not acknowledged (R391). -/
def State.copyFails (s : State) (ws : List Word) : Bool :=
  (List.range (ssCountM1 ws + 1)).any fun i => !s.reaches i

/-- A full commit ends (R358); a copy that was not acknowledged refuses it (R391), and one for an instance that sleeps wakes it and
waits until it is in RUN (R405). -/
def State.commitDone (s : State) : State :=
  let l := s.ss
  if l.st ≠ 4 then s
  else match s.copySleeper l.words with
  | some i => s.wakeNext 0 i
  | none =>
  if s.copyFails l.words then { s with ss := { l with st := 3, code := errSsTopology } }
  else
    { s.applyFull l.words l.digest with ss := { l with st := 0, code := 0, digest := [], patches := 0 } }

end Sys2Proof.Machine
end

