-- ==== Sys2Proof/Machine/Translation.lean ====
section
/-! DEFINITION. The translation request port (R296 to R298, R301, R426): answers, resolve notices, invalidations. -/

namespace Sys2Proof.Machine

/-- 4 KiB pages of an answer's page size (R426). -/
def sizePages (size : BitVec 2) : Nat := [1, 16, 512, 262144].getD size.toNat 1

/-- Cache an OK answer (R297): 8,192 entries, the oldest makes room. -/
def Inst.cacheAnswer (x : Inst) (q : XlReq) (a : XlAns) : Inst :=
  let n := sizePages a.size
  let t : TlbEntry := { asid := q.asid, vpn := q.vpn - q.vpn % n, pages := n, ppn := a.ppn.toNat - a.ppn.toNat % n, r := a.r, w := a.w }
  let old := x.tlb.filter fun u => decide (u ≠ t)
  { x with tlb := (if 8192 ≤ old.length then old.drop 1 else old) ++ [t] }

/-- A request leaves the port. -/
def Inst.dropXlReq (x : Inst) (tag : Nat) : Inst := { x with xreqs := x.xreqs.filter fun q => q.tag != tag }

/-- An access of a transfer or a slot ends with XLATE_FAULT (R296). -/
def Run.xlateFault (r : Run) (who : XlWho) : Run :=
  match who with
  | .slot n k => if (r.slot n k).wait = .xlate then r.failHere n k errXlate else r
  | .xfer id => match r.x.xfer id with
    | some t => if t.phase = .translating then r.xferFail t errXlate 0 else r
    | none => r
  | .nobody => r

/-- The access that waited goes on. A slot of a paused cell goes on when its tiles are re-run (R381). -/
def Run.xlateGo (e : Env) (r : Run) (who : XlWho) : Run :=
  match who with
  | .slot n k => if (r.slot n k).wait = .xlate ∧ r.x.cellRuns n then r.retry e n k else r
  | .xfer _ => r
  | .nobody => r

/-- Slots whose translation request found no free tag ask again. -/
def Run.kickSlots (e : Env) (r : Run) : Run :=
  r.x.liveCells.foldl (fun r n => (List.range 4).foldl (fun r k =>
    if (r.slot n k).wait = .xlate ∧ r.x.cellRuns n ∧ r.x.xreqs.all (fun q => decide (q.who ≠ .slot n k)) then
      r.retry e n k
    else r) r) r

/-- XLATE_ANSWER (R296, R426). -/
def xlateAnswer (tag : Nat) (a : XlAns) (e : Env) (x : Inst) : Run :=
  match x.xreqs.find? fun q => q.tag == tag && !q.pending with
  | none => pureRun x
  | some q =>
    match a.status with
    | 0 => ((({ x := (x.dropXlReq tag).cacheAnswer q a, effs := [] } : Run).xlateGo e q.who).kickXfers e).kickSlots e
    | 1 =>
      let x1 := { x with xreqs := x.xreqs.map fun p => if p.tag = tag then { p with pending := true } else p }
      match q.who with
      | .slot n k => pureRun (if (x1.slot n k).wait = .xlate then x1.setSlot n k { x1.slot n k with wait := .resolve } else x1)
      | .xfer _ => pureRun x1
      | .nobody => pureRun x1
    | _ => ((({ x := x.dropXlReq tag, effs := [] } : Run).xlateFault q.who).kickXfers e).kickSlots e

/-- A resolve notice is served (R296, R301): the named requests leave, tiles that waited for them run again, transfers ask
again. -/
def resolve (asid : BitVec 16) (vpn : Nat) (all : Bool) (e : Env) (x : Inst) : Run :=
  let hit (q : XlReq) : Bool := q.pending && decide (q.asid = asid) && (all || q.vpn == vpn)
  let gone := x.xreqs.filter hit
  let r0 := pureRun { x with xreqs := x.xreqs.filter fun q => !hit q }
  let r1 := gone.foldl (fun (r : Run) q => match q.who with
    | .slot n k => if (r.slot n k).wait = .resolve then r.rerun n k else r
    | .xfer _ => r
    | .nobody => r) r0
  (r1.kickXfers e).kickSlots e

/-- RESOLVE_NOTICE (R296, R301, R426): a notice has no ready and is always taken. One that meets an instance in NAP or
DORMANT wakes it and is served once it is in RUN (R405). -/
def resolveNotice (asid : BitVec 16) (vpn : Nat) (all : Bool) (e : Env) (x : Inst) : Run :=
  if x.awake then resolve asid vpn all e x
  else if x.asleep then pureRun { x.wakeBy 6 with notices := x.notices ++ [(asid, vpn, all)] }
  else pureRun x

/-- The entries that an invalidation drops (R298, R426): kind 0 a range of an ID, 1 all of an ID, 2 everything. -/
def invHits (kind : Nat) (asid : BitVec 16) (vpn pages : Nat) (a : BitVec 16) (first n : Nat) : Bool :=
  match kind with
  | 0 => decide (a = asid) && decide (first < vpn + pages) && decide (vpn < first + n)
  | 1 => decide (a = asid)
  | 2 => true
  | _ => false

/-- A tile that is not past its commit point and used a dropped entry (R298). -/
def Slot.usesHit (s : Slot) (hit : Nat → Nat → Bool) : Bool :=
  decide (s.phase = .running) && (match s.wait with
    | .commit .. => false
    | .fail .. => false
    | _ => s.tile.used.any fun u => hit u.1 u.2)

/-- A transfer before its commit point used a dropped entry (R298). -/
def Xfer.usesHit (t : Xfer) (hit : Nat → Nat → Bool) : Bool :=
  decide (t.phase = .translating ∨ t.phase = .reading ∨ t.phase = .exchanging)
    && t.pages.any fun p => p.ppn.isSome && hit p.used.1 p.used.2

/-- It starts again. -/
def Inst.restartXfer (x : Inst) (t : Xfer) : Inst := (x.orphanReqs t.id).setXfer t.restart

/-- INVALIDATION (R298): drop the entries, re-run what used one that the range overlaps, cached still or not, and acknowledge
after the write-outs in progress. Kind 3 is acknowledged without effect. -/
def invalidation (kind : Nat) (asid : BitVec 16) (vpn pages : Nat) (e : Env) (x : Inst) : Run :=
  atPort 6 x fun x =>
    let hit (t : TlbEntry) : Bool := invHits kind asid vpn pages t.asid t.vpn t.pages
    let x1 := { x with tlb := x.tlb.filter (fun t => !hit t), invOwed := x.invOwed + 1 }
    let dropped (a : BitVec 16) (first n : Nat) : Bool := invHits kind asid vpn pages a first n
    let r1 := x1.liveCells.foldl (fun (r : Run) n => (List.range 4).foldl (fun (r : Run) k =>
      let s := r.slot n k
      if s.usesHit (dropped (r.x.vc (ownerOf s.launch)).asid) then r.rerun n k else r) r) (pureRun x1)
    let gone := r1.x.xfers.filter fun t => t.usesHit (dropped (r1.x.vc t.vc).asid)
    (({ r1 with x := gone.foldl Inst.restartXfer r1.x } : Run).kickXfers e).ackInvalidations

/-- XLATE_ANSWER (R296). -/
def execXlateAnswer (inst : Nat) (tag : BitVec 10) (ans : XlAns) (s : State) : Host.Outcome State Fault Refusal :=
  onInst s inst (whenAlive (xlateAnswer tag.toNat ans))

/-- RESOLVE_NOTICE (R296, R301). -/
def execResolveNotice (inst : Nat) (asid : BitVec 16) (vpn : BitVec 40) (all : Bool) (s : State) :
    Host.Outcome State Fault Refusal := onInst s inst (resolveNotice asid vpn.toNat all)

/-- INVALIDATION (R298, R426). -/
def execInvalidation (inst : Nat) (kind : BitVec 2) (asid : BitVec 16) (vpn : BitVec 40) (pages : Word) (s : State) :
    Host.Outcome State Fault Refusal := onInst s inst (invalidation kind.toNat asid vpn.toNat pages.toNat)

end Sys2Proof.Machine
end

