-- ==== Sys2Proof/Machine/Power.lean ====
section
/-! DEFINITION. The power controller (R401 to R410): quiescence, entry into and exit from the power states, wakes, OFF. -/

namespace Sys2Proof.Machine

/-! ### Work (R401) -/

/-- The slot is active, other than by a WAITF that has not passed (R403). -/
def Slot.busy (s : Slot) : Bool :=
  decide (s.phase ≠ .idle) && !(decide (s.phase = .running) && s.fills.isEmpty && (match s.wait with
    | .fence .. => true
    | _ => false))

/-- Work of a cell besides its program slots: a queued launch, a held beat, an add in flight, an unread summary or
delivery, a mailbox record being taken (R401). -/
def Cell.portWork (c : Cell) : Bool :=
  !c.launchQ.isEmpty || c.drain.any (fun t => !t.beats.isEmpty) || c.casks.any (fun p => !p.2.adds.isEmpty)
    || c.outQ.any (fun w => decide (w.kind ≠ 1)) || c.heldPost.isSome

/-- The cell has no work (R401). -/
def Cell.noWork (c : Cell) : Bool := c.slots.all (fun s => decide (s.phase = .idle)) && !c.portWork

/-- The partition of a cell (R349). -/
def Inst.partition (x : Inst) (n : Nat) : Nat := (x.stream.cellMap.getD n 0).toNat % 16

/-- CELL_GATE (R401): a cell in RUN without work gates, while cell_gate_en is 1. -/
def Inst.gate (x : Inst) (n : Nat) : Inst :=
  let c := x.cell n
  if x.awake && decide (x.pwr.state = 0) && x.pwr.ctrl.getLsbD 9 && c.noWork then
    x.setCell n { c with gated := true }
  else x

/-! ### Quiescence (R403) -/

/-- A forwarded access is on its way through die i or has been answered beyond it (R344). -/
def State.forwards (s : State) (i : Nat) : Bool := s.fwd.any fun f => decide (i ≤ f.at_)

/-- IDLE's condition for die i. -/
def State.quietIdle (s : State) (i : Nat) (x : Inst) : Bool :=
  x.liveCells.all (fun n => let c := x.cell n
    c.slots.all (fun k => !k.busy) && !c.portWork)
  && x.xfers.all (fun t => decide (t.phase = .waiting))
  && !s.forwards i && x.vcs.all (fun p => p.2.cmd.isNone) && x.win.busy.isNone && x.mbFreeing.isNone
  && x.mbWait.isNone && x.keyWait.isNone
  && decide (s.ss.st ≠ 4) && !(decide (i = 0) && decide (s.ss.st = 2))

/-- NAP's condition beyond IDLE's: every cell gated (all are while the instance is in IDLE), no request at the translation
port, no collective. -/
def Inst.quietNap (x : Inst) : Bool :=
  (decide (x.pwr.state = 1) || x.allCells.all fun p => p.2.gated)
  && x.xreqs.all (fun q => q.pending) && x.xfers.all (fun t => decide (xKind t.words ≠ 1))

/-- DORMANT's condition beyond NAP's. -/
def State.quietDormant (s : State) (i : Nat) (x : Inst) : Bool :=
  x.liveCells.all (fun n => let c := x.cell n
    c.slots.all (fun k => decide (k.phase = .idle)) && c.casks.isEmpty && c.drain.all (fun t => t.beats.isEmpty))
  && x.xfers.isEmpty && !(decide (i = 0) && decide (s.ss.st ≠ 0))

/-- The instance meets the condition of a state: 1 IDLE, 2 NAP, 3 DORMANT. -/
def State.quiet (s : State) (i : Nat) (x : Inst) (st : Nat) : Bool :=
  s.quietIdle i x && (decide (st < 2) || x.quietNap) && (decide (st < 3) || s.quietDormant i x)

/-! ### The clock and power table (R407) -/

def Inst.pwrWord (x : Inst) (st k : Nat) : Nat := (wordAt x.stream.power (4 * (st - 1) + k)).toNat

/-- e[s], x[s] and b[s] of R404. -/
def Inst.entryTicks (x : Inst) (st : Nat) : Nat := x.pwrWord st 0
def Inst.exitTicks (x : Inst) (st : Nat) : Nat := x.pwrWord st 1
def Inst.evenTicks (x : Inst) (st : Nat) : Nat := x.pwrWord st 2

/-! ### The procedure of R404 -/

/-- The time to the next event allows a state. -/
def Inst.timeFor (x : Inst) (st : Nat) : Bool :=
  decide (x.pwr.next = BitVec.allOnes 32)
    || (decide (x.entryTicks st + x.exitTicks st ≤ x.pwr.next.toNat) && decide (x.evenTicks st ≤ x.pwr.next.toNat))

/-- The state that the procedure chooses, 0 for RUN. -/
def State.choose (s : State) (i : Nat) (x : Inst) : Nat :=
  (([3, 2, 1].find? fun st => x.pwr.ctrl.getLsbD (st - 1) && s.quiet i x st && x.timeFor st)).getD 0

/-- The count of HUB.PWR_NEXT_EVENT (R409). -/
def Power.count (p : Power) : Power :=
  if p.next = BitVec.allOnes 32 ∨ p.next = 0 then p else { p with next := p.next - 1 }

/-- PWR_TICK (R404, R409): a tick of KCLK. The procedure is evaluated in RUN and IDLE, when no transition is in
progress. -/
def State.tick (s : State) (i : Nat) (x0 : Inst) : State :=
  if x0.flt.clockLost || x0.pwr.offTaken || decide (x0.rst.phase = 2) then s
  else
    let x := { x0 with ticks := (x0.ticks + 1) % 2 ^ 64, pwr := x0.pwr.count }
    if !x.awake || x.pwr.busy || decide (2 ≤ x.pwr.state) then s.setInst i x
    else
      let st := s.choose i x
      if st = x.pwr.state then s.setInst i x
      else s.setInst i { x with pwr := { x.pwr with busy := true, target := if st = 0 then 1 else st } }

/-- A write of HUB.PWR_NEXT_EVENT (R406): during an entry it is applied after it. -/
def Inst.writeEvent (x : Inst) (w : Word) : Inst :=
  if x.pwr.busy ∧ x.pwr.state ≠ x.pwr.target then { x with pwr := { x.pwr with evWrite := some w } }
  else { x with pwr := { x.pwr with next := w } }

/-- PWR_ENTRY_DONE (R402, R406): the entry completes; a write of the next event that met it is applied, and a wake that met
it, or an event nearer than the exit takes, begins the exit at once; that from IDLE has no wake cause. -/
def entryDone (_ : Env) (x : Inst) : Run :=
  if !x.alive || !x.pwr.busy || decide (x.pwr.state = x.pwr.target) then pureRun x
  else
    let st := x.pwr.target
    let late := match x.pwr.evWrite with
      | some w => decide (w.toNat < x.exitTicks st)
      | none => false
    let next := x.pwr.evWrite.getD x.pwr.next
    let x1 := { x with pwr := { x.pwr with state := st, busy := false, target := 0, evWrite := none, next := next } }
    if st < 2 then pureRun { x1 with pwr := { x1.pwr with wake := none, busy := late, target := if late then st else 0 } }
    else match x1.pwr.wake with
      | some cause => pureRun (x1.beginExit cause)
      | none => pureRun (if late then x1.beginExit 1 else x1)

/-- PWR_EVENT_EXIT (R405): the next event is as near as the exit takes. -/
def eventExit (_ : Env) (x : Inst) : Run :=
  if x.alive ∧ 2 ≤ x.pwr.state ∧ !x.pwr.busy ∧ x.pwr.next ≠ BitVec.allOnes 32 ∧ x.pwr.next.toNat ≤ x.exitTicks x.pwr.state
  then pureRun (x.beginExit 1)
  else pureRun x

/-- What an exit from DORMANT returns to default (R416). -/
def Inst.fromDormant (x : Inst) : Inst :=
  let x1 := x.liveCells.foldl (fun x n => x.setCell n { x.cell n with scaleCheck := 0, stallFeed := 0, stallDrain := 0 }) x
  { x1 with
    win := { x1.win with args := List.replicate 6 0 }, keyHandle := 0, mbArg0 := 0, mbArg1 := 0, dbMask := BitVec.allOnes 32
    tlb := [], pwr := { x1.pwr with dormantExit := true }, intStat := x1.intStat ||| 8#4 }

/-- PWR_EXIT_DONE (R405, R409, R416): the instance is in RUN. -/
def exitDone (_ : Env) (x : Inst) : Run :=
  if !x.alive || !x.pwr.busy || decide (x.pwr.state ≠ x.pwr.target) then pureRun x
  else
    let x1 := if x.pwr.state = 3 then x.fromDormant else x
    pureRun { x1 with pwr := { x1.pwr with state := 0, busy := false, target := 0, cause := x1.pwr.wake.getD x1.pwr.cause, wake := none } }

/-- A command of die i for die t waits for die j: that die itself, or one on the way to it. -/
def State.waitsFor (s : State) (i t j : Nat) : Bool := decide (t = j) || (s.path i t).contains j

/-- A command that waited for die j goes on (R365, R405, R411): of channel commands, those that need no answer of the host. -/
def State.resumeAt (s : State) (j i : Nat) : State :=
  let s1 := s.atDie i fun x => match x.mbWait with
    | some (op, h) => if s.waitsFor i (handleInst h) j then s.mbRun i op h else s
    | none => s
  let s2 := s1.atDie i fun x => match x.keyWait with
    | some (w, h) => if s1.waitsFor i (handleInst h) j then s1.keyRun i x w h else s1
    | none => s1
  s2.atDie i fun x => match x.win.busy with
    | some (op, w) =>
      if op ≠ 1 ∧ op ≠ 6 ∧ !chArgsBad op w x.win.args x.instCount ∧ s2.waitsFor i (chTarget op x.win.args) j then
        s2.chRun op w noXl none
      else s2
    | none => s2

def State.resumeWaits (s : State) (j : Nat) : State := (List.range s.insts.length).foldl (fun s i => s.resumeAt j i) s

/-- What an instance in RUN again serves of what it held (R405): the messages of other dies, those for another die on their
further way, the resolve notices, and the commands that waited for it. -/
def State.serveHeld (s : State) (i : Nat) : State :=
  s.atDie i fun x =>
    if !x.awake then s
    else
      let s1 := s.setInst i { x with linkIn := [], notices := [] }
      let s2 := s1.effs i x.linkIn
      let s3 := x.notices.foldl (fun s q => s.run i (resolve q.1 q.2.1 q.2.2)) s2
      s3.resumeWaits i

/-- A write of HUB.PWR_CTRL that the hub takes: the fields of RUN. -/
def Inst.writePwrCtrl (x : Inst) (w : Word) : Inst := { x with pwr := { x.pwr with ctrl := w &&& 0x207 } }

/-- PWR_WAKE (R405, R406): a write of HUB.PWR_CTRL with its wake bit begins the exit, cause 7; in RUN and IDLE the other
fields are written. A word whose wake bit is 0 is not this command. -/
def pwrWake (w : Word) (x : Inst) : Inst :=
  let y := x.wakeBy 7
  if x.awake then y.writePwrCtrl w else y

/-- The OFF pattern (R409). -/
def offPattern : Word := 0x0FF00FF0

/-- A write of HUB.PWR_OFF (R410). -/
def State.offRequest (s : State) (i : Nat) (x : Inst) (w : Word) : State :=
  if w ≠ offPattern then s
  else if x.vcs.all (fun p => decide (p.2.st = .free)) && x.mboxes.all (fun p => !p.2.pending) && s.quiet i x 3 then
    s.setInst i { x with pwr := { x.pwr with offTaken := true } }
  else s.setInst i { x with pwr := { x.pwr with offRefused := true } }

/-- OFF_READY (R410): every write in progress has completed, and PWR_OFF_READY is asserted. -/
def offReady (_ : Env) (x : Inst) : Run :=
  let writes := x.liveCells.any fun n => !(x.cell n).spWrites.isEmpty
  pureRun (if x.pwr.offTaken && !writes then { x with pwr := { x.pwr with offReady := true } } else x)

/-- PWR_WAKE (R405): a write of HUB.PWR_CTRL with the wake bit. -/
def execPwrWake (inst : Nat) (data : Word) (s : State) : Host.Outcome State Fault Refusal :=
  if !data.getLsbD 8 then .next s
  else if (s.insts[inst]?).any fun x => x.holds 0x2004 true then .next (s.atDie inst fun x => s.setInst inst (x.wakeBy 7))
  else s.ctlRow inst 0x2004 data fun x => s.setInst inst (pwrWake data x)

/-- PWR_OFF_REQUEST (R410). -/
def execPwrOffRequest (inst : Nat) (data : Word) (s : State) : Host.Outcome State Fault Refusal :=
  s.ctlRow inst 0x200C data fun x => s.offRequest inst x data

/-- OFF_READY (R410). -/
def execOffReady (inst : Nat) (s : State) : Host.Outcome State Fault Refusal := onInst s inst offReady

/-- PWR_TICK (R404, R409). -/
def execPwrTick (inst : Nat) (s : State) : Host.Outcome State Fault Refusal := .next (s.atDie inst (s.tick inst))

/-- PWR_ENTRY_DONE (R402, R406). -/
def execPwrEntryDone (inst : Nat) (s : State) : Host.Outcome State Fault Refusal := onInst s inst entryDone

/-- PWR_EVENT_EXIT (R405). -/
def execPwrEventExit (inst : Nat) (s : State) : Host.Outcome State Fault Refusal := onInst s inst eventExit

/-- PWR_EXIT_DONE (R405): the instance is in RUN, and serves what it held. -/
def execPwrExitDone (inst : Nat) (s : State) : Host.Outcome State Fault Refusal :=
  .next ((s.run inst exitDone).serveHeld inst)

/-- CELL_GATE (R401). -/
def execCellGate (c : CellAt) (s : State) : Host.Outcome State Fault Refusal :=
  onCell s c fun _ x => pureRun (x.gate c.cell)

end Sys2Proof.Machine
end

