-- ==== Sys2Proof/Machine/Faults.lean ====
section
/-! DEFINITION. Faults (R367 to R394): recovery of a cell, retirement, fail-stop, uncorrectable words, the docent. -/

namespace Sys2Proof.Machine

/-! ### Windows and injections (R388, R394) -/

/-- The re-run of a slot's tile or adds has not issued yet (R388). -/
def Cell.rerunDue (c : Cell) (k : Nat) : Bool :=
  let s := c.slot k
  decide (s.phase = .running) && !s.inTile && decide (s.wait = .ready ∨ s.wait = .refetch)
    && (c.pendingAdds k).all fun a => a.load.isNone

/-- A recovery window of the instance is open (R388): a cell recovers, until every abandoned tile has issued again, or retires; a
stream-engine port repeats; or the hub is degraded. -/
def Inst.inWindow (x : Inst) : Bool :=
  x.flt.degraded || x.flt.mends.any x.repeating
    || x.liveCells.any fun n => let c := x.cell n; c.fault.isSome || c.recov.any c.rerunDue

/-- The class of an armed injection, its target cell or port, its index, and whether it corrupts two symbols (R394). -/
def injClass (w : Word) : Nat := fld w.toNat 27 24
def injAt (w : Word) : Nat := if injClass w = 6 ∨ injClass w = 7 then fld w.toNat 14 12 else fld w.toNat 19 12
def injIndex (w : Word) : Nat := fld w.toNat 11 0
def injSymbols (w : Word) : Nat := if w.getLsbD 30 then 2 else 1

/-- The injection that a use of this class at this cell or port meets. -/
def Inst.injection (x : Inst) (cls at_ : Nat) : Option Word :=
  x.flt.injected.bind fun w => if injClass w = cls ∧ injAt w = at_ then some w else none

/-- The armed injection has struck. -/
def Inst.disarm (x : Inst) : Inst := { x with flt := { x.flt with injected := none } }

/-- A write of HUB.FLT_INJECT (R394): classes 5 and 9 are refused without effect; classes 10 to 15 are reserved. -/
def Inst.inject (x : Inst) (w : Word) : Inst :=
  let cls := fld w.toNat 27 24
  if w.getLsbD 31 && decide (cls ≠ 5) && decide (cls < 9) then { x with flt := { x.flt with injected := some w } } else x

/-- A fault record's fields for the hub. -/
def hubFault (cls action : Nat) (second : Bool) (index : Nat) : FaultInfo :=
  { cell := none, port := 0, cls := cls, action := action, second := second, perm := false, index := index, address := 0,
    moved := 0 }

/-- Corrections and votes counted in HUB.FLT_CORR (R380). -/
def Inst.countCorr (x : Inst) : Inst := { x with flt := { x.flt with corr := satAdd 32 x.flt.corr 1 } }

/-! ### Fail-stop (R389) -/

/-- The tile of the slot is past its commit point. -/
def Slot.committing (s : Slot) : Bool := match s.wait with
  | .commit .. => true
  | _ => false

/-- The programs of a cell end with a code; with `later`, those whose write-out is in progress end after it. -/
def Run.endPrograms (r : Run) (n code : Nat) (later : Bool) : Run :=
  (List.range 4).foldl (fun r k =>
    let s := r.slot n k
    match s.phase with
    | .idle => r
    | .fetching => r.setCell n ((r.cell n).refuseFetch k code)
    | .running => if later && s.committing then r else r.endProgram n k code false s.idx s.counters4
    | .ending .. => r) r

/-- The queued launches of a cell are refused. -/
def Cell.refuseQueued (c : Cell) (code : Nat) : Cell :=
  (c.launchQ.map fun ws => wordAt ws 0).foldl (fun c h => c.refuseLaunches h code) c

/-- Every program, queued launch, transfer, collective and waiting channel command of the instance ends (R389 step 3); with
`later`, those whose write-out is in progress end after it, with the same code. -/
def Run.endWork (r : Run) (code : Nat) (later : Bool) : Run :=
  let r1 := r.x.liveCells.foldl (fun r n =>
    let r1 := r.endPrograms n code later
    r1.setCell n ((r1.cell n).refuseQueued code)) r
  let r2 := r1.x.xfers.foldl (fun r t => if later && decide (t.phase = .writing) then r else
    r.xferFail t code (if t.phase = .writing then Config.partialBytes (wordAt t.words 0) (xTag t.words) t.bytes
      else if t.phase = .finishing then t.bytes else 0)) r1
  let r3 := r2.x.vcs.foldl (fun (r : Run) p =>
    let h := r.x.handleOf p.1
    let r1 := (match p.2.cmd with
      | some d => [d]
      | none => []) ++ p.2.destroy
    let r2 := r1.foldl (fun (r : Run) d => r.emit (.record (recSimple 2 code h d.cmdId.toNat))) r
    { r2 with x := r2.x.setVc p.1 { p.2 with cmd := none, destroy := [] } }) r2
  match r3.x.win.busy with
  | some (_, w) => { r3 with x := { r3.x with win := r3.x.win.answer w (.refuse r3.x code) [] } }
  | none => r3

/-- Fail-stop (R389): the instance stops, its work ends with INST_FAILED, and the fault is recorded, after those whose repeats
end here (R393). Write-outs past their commit point complete. -/
def Run.failStop (r : Run) (cls : Nat) (handle : Word) (second : Bool) (index : Nat) (address : Word) : Run :=
  if r.x.flt.failstop then r
  else
    let x1 := { r.x with flt := { r.x.flt with failstop := true }
                         mbCode := if r.x.mbFreeing.isSome ∨ r.x.mbWait.isSome then errInstFailed else r.x.mbCode
                         mbFreeing := none, mbWait := none
                         keyCode := if r.x.keyWait.isSome then errInstFailed else r.x.keyCode, keyWait := none }
    let r1 := ({ r with x := x1 } : Run).endWork errInstFailed true
    let r2 := r1.x.flt.mends.foldl Run.mendRecord { r1 with x := { r1.x with flt := { r1.x.flt with mends := [] } } }
    r2.fault errInstFailed handle { hubFault cls 4 second index with address := address }

/-! ### Recovery of a cell (R381) -/

/-- Slots with a tile or an add that has not committed. -/
def Cell.openSlots (c : Cell) : List Nat :=
  (List.range 4).filter fun k =>
    let s := c.slot k
    decide (s.phase = .running) && !s.committing && (s.inTile || decide (s.wait ≠ .ready) || c.addsOpen k)

/-- The adds of a cell start again: what they have loaded is dropped, their beats are kept (R141, R381). -/
def Cell.resetAdds (c : Cell) : Cell :=
  (c.casks.map Prod.fst).foldl (fun c e =>
    match c.casks.find? (fun p => p.1 == e) with
    | some p => (c.orphan (.add e)).setCask e { p.2 with
        adds := p.2.adds.map fun (a : CaskAdd) => { a with load := none, storing := false }, closing := false }
    | none => c) c

/-- Pause a cell: every slot stops, and its uncommitted tiles are abandoned; bound tiles and cask beats are kept (R381). -/
def Run.pause (r : Run) (n : Nat) (f : CellFault) : Run :=
  let c := r.cell n
  let slots := c.openSlots
  let r1 := slots.foldl (fun (r : Run) k => match (r.slot n k).wait with
    | .fail .. => r
    | .refetch => r
    | _ => r.rerun n k) (r.setCell n c.resetAdds)
  r1.setCell n { r1.cell n with paused := true, fault := some f, recov := slots }

/-- The channel of a slot's program, 0 when none was struck (R392). -/
def Inst.struck (x : Inst) (n : Nat) (k : Option Nat) : Word := match k with
  | some k => if (x.slot n k).phase = .idle then 0 else wordAt (x.slot n k).launch 0
  | none => 0

/-- The fields of a fault of a cell found now. -/
def Inst.cellFault (x : Inst) (n cls index : Nat) (k : Option Nat) : CellFault :=
  { code := 0, cls := cls, index := index, address := 0, handle := x.struck n k, time := x.ticks, second := x.inWindow, prog := none }

/-! ### Retirement (R382, R383) -/

/-- The channels that have a program, a queued program or a cask on a cell. -/
def Inst.ownersOn (x : Inst) (n : Nat) : List Nat :=
  let c := x.cell n
  let ls := ((c.slots.filter fun s => decide (s.phase = .running ∨ s.phase = .fetching)).map fun s => s.launch) ++ c.launchQ
  let vs := (ls.filter fun ws =>
      let v := x.vc (ownerOf ws)
      decide (handleInst (wordAt ws 0) = x.id) && decide (v.gen = handleGen (wordAt ws 0)) && decide (v.st ≠ .free)).map ownerOf
  (vs ++ c.casks.map fun p => p.2.owner).eraseDups

/-- Migrate a channel off a retired cell: it is stopped and saved, or stands in PREEMPTED at once when it holds no context.
The answer says whether it migrates. -/
def Run.migrate (r : Run) (v : Nat) : Run × Bool :=
  let c := r.x.vc v
  let h := r.x.handleOf v
  match c.st with
  | .running => (({ r with x := r.x.setVc v { c with migrate := true } } : Run).beginSuspend v, true)
  | .suspending => ({ r with x := r.x.setVc v { c with migrate := true } }, true)
  | .ready =>
    (({ r with x := { r.x.setVc v { c with st := .preempted, ctx := none } with
                      readyQ := r.x.readyQ.filter (· != v) } } : Run).emit (.record (recSimple 4 errCellRetired h 0)), true)
  | .preempted => (r.emit (.record (recSimple 4 errCellRetired h 0)), true)
  | _ => (r, false)

/-- Retire cell n (R383). -/
def Run.retire (r : Run) (n : Nat) (f : CellFault) : Run :=
  let r0 := if (r.cell n).paused then r else r.pause n f
  let x1 := { r0.x with flt := { r0.x.flt with quiesced := r0.x.flt.quiesced ||| BitVec.ofNat 256 (2 ^ n) } }
  let owners := x1.ownersOn n
  let p := owners.foldl (fun (p : Run × List Nat) v =>
    let q := p.1.migrate v
    (q.1, if q.2 then p.2 ++ [v] else p.2)) (({ r0 with x := x1 } : Run), [])
  let c := ((p.1.cell n).refuseQueued errCellRetired).flushUnbound
  (p.1.setCell n { c with paused := true, fault := some f, faults := c.faults ++ (c.fault.toList.filter (· != f)), recov := [],
                          retire := some (p.2, p.2.length) }).finishRetire n

/-- A mismatch in a cell (R381, R382): it pauses; a second one before its re-runs have committed retires it. One in a cell that
retires is recorded when the retirement ends, one in a cell out of use at once (R388, R393). -/
def Run.cellMismatch (r : Run) (n : Nat) (f : CellFault) : Run :=
  let c := r.cell n
  if c.retire.isSome then r.setCell n { c with faults := c.faults ++ [f] }
  else if r.x.flt.quiesced.getLsbD n || r.x.lstFail.getLsbD n then r.retiredFault n f
  else if c.paused || !c.recov.isEmpty then r.retire n f
  else r.pause n f

/-- SELF_TEST_DONE (R381, R382): the fault is transient, and the abandoned tiles run again, or the cell retires. -/
def selfTestDone (n : Nat) (pass : Bool) (_ : Env) (x : Inst) : Run :=
  let c := x.cell n
  let r := pureRun x
  match c.fault with
  | none => r
  | some f =>
    if c.retire.isSome || !x.alive then r
    else if !pass then r.retire n f
    else
      let c1 := { c with paused := false, fault := none }.runAdds
      let c2 := match f.prog with
        | some k =>
          let s := c1.slot k
          if s.phase = .running ∧ s.wait = .ready then
            (c1.setSlot k { s with wait := .refetch, readBuf := [] }).request (.slot k) 3 (launchLines s.launch)
          else c1
        | none => c1
      let x1 := { x.setCell n c2 with flt := { x.flt with reruns := satAdd 16 x.flt.reruns 1 } }
      (pureRun x1).faultAt f.code f.handle f.time (f.info n 2 false 0)

/-! ### Hub control and stream-engine ports (R372, R380, R385) -/

/-- HUB_VOTE_MISMATCH (R372): masked; a copy that disagrees again is switched out; a degraded hub fail-stops. -/
def voteMismatch (copy index : Nat) (_ : Env) (x : Inst) : Run :=
  if !x.alive then pureRun x
  else if x.flt.degraded then (pureRun x).failStop 5 0 true index 0
  else
    let again := x.flt.suspects.contains copy
    let second := x.inWindow
    let x1 := x.countCorr
    let flt := if again then { x1.flt with degraded := true } else { x1.flt with suspects := x1.flt.suspects ++ [copy] }
    (pureRun { x1 with flt := flt }).fault 0 0 { hubFault 5 0 second index with perm := again }

/-- A request is performed again (R380, R385): what it still returns is not used, and its lines go first among the transfer's. -/
def Inst.repeatReq (x : Inst) (q : SeReq) : Inst :=
  match q.xfer.bind x.xfer with
  | none => x
  | some t =>
    { x.setXfer { t with tiles := [{ q with port := 0, ident := 0, xfer := none, again := true }] :: t.tiles } with
      seReqs := x.seReqs.map fun p => if p = q then { q with xfer := none } else p }

/-- The requests that a mismatch at a port strikes: the oldest one of the transfer, and every one of a port that retires. -/
def Inst.struckReqs (x : Inst) (port : Nat) (t : Option Nat) (perm : Bool) : List SeReq :=
  let mine := x.seReqs.filter fun q => q.port == port && q.xfer.isSome
  if perm then mine else (mine.filter fun q => decide (q.xfer = t)).take 1

/-- The save of a migration is being written (R383, R388). -/
def Inst.savesMigration (x : Inst) : Bool := x.vcs.any fun p => p.2.migrate && p.2.stopped

/-- A mismatch at a stream-engine port (R380, R385, R387): what it struck, requests or channels' save areas, is performed again,
and the fault is recorded when that has ended (R393). A permanent fault retires the port. -/
def Inst.portFault (x : Inst) (port cls index : Nat) (handle : Word) (perm : Bool) (struck : List SeReq) (vcs : List Nat) : Run :=
  let m : PortFault := { port := port, cls := cls, index := index, handle := handle, time := x.ticks, second := x.inWindow
                         perm := perm, xfers := (struck.filterMap SeReq.xfer).eraseDups, vcs := vcs }
  let x1 := { x with flt := { x.flt with
    repeats := satAdd 16 x.flt.repeats 1, mends := x.flt.mends ++ [m]
    ports := if perm then x.flt.ports ||| BitVec.ofNat 8 (2 ^ port) else x.flt.ports } }
  (pureRun (vcs.foldl Inst.repeatArea (struck.reverse.foldl Inst.repeatReq x1))).serve

/-- The channel whose transfer a mismatch at a port struck (R392). -/
def Inst.xferHandle (x : Inst) (t : Option Nat) : Word := match t.bind x.xfer with
  | some u => wordAt u.words 0
  | none => 0

/-- SE_PORT_MISMATCH (R380, R385): the affected operation is performed again; with no transfer named, what the hub itself writes
or reads (R387). One that strikes the save of a migration fail-stops the instance (R388). -/
def portMismatch (port : Nat) (enc : Bool) (t : Option Nat) (index : Nat) (perm : Bool) (_ : Env) (x : Inst) : Run :=
  if !x.alive then pureRun x
  else
    let cls := if enc then 6 else 7
    if t.isNone ∧ x.savesMigration then (pureRun x).failStop cls 0 true index 0
    else
      x.portFault port cls index (x.xferHandle t) perm (x.struckReqs port t perm)
        (if t.isNone then (x.vcs.map Prod.fst).filter x.atArea else [])

/-! ### Uncorrectable words (R390) -/

/-- A word of a drained tile is lost: the tile is discarded, and the consumer that bound it ends with HW_UNCORRECTABLE. -/
def Run.drainEntryLost (r : Run) (n id : Nat) : Run :=
  let c := r.cell n
  let r1 := r.setCell n (c.discardTile id)
  match c.drain.find? (fun t => t.id == id) with
  | none => r
  | some t => match t.bound with
    | none => r1
    | some (.slot k) =>
      let s := c.slot k
      r1.fail n k errHwUncorrectable s.idx s.counters4
    | some (.add e) => match c.casks.find? (fun p => p.1 == e) with
      | none => r1
      | some p => match p.2.adds.find? fun a => decide (a.src = .tile id) with
        | none => r1
        | some a => r1.addFail n e a errHwUncorrectable

/-- A word of the commit buffer of a slot past its commit point: the line is written as poisoned, and the instruction ends
with HW_UNCORRECTABLE without the tile's effects (R390, R302). -/
def Run.commitWordLost (r : Run) (n k line : Nat) : Run :=
  let c := r.cell n
  let s := c.slot k
  match s.wait with
  | .commit left err =>
    let mine (w : SpWrite) : Bool := decide (w.who = .slot k) && decide (w.line ≤ line) && decide (line < w.line + w.outs.length)
    let index := match c.spWrites.find? mine with
      | some w => w.index
      | none => s.tile.start
    let lost (w : SpWrite) : SpWrite := { w with outs := w.outs.modify (line - w.line) fun o => { o with poison := true } }
    let c1 := { c with spWrites := c.spWrites.map fun (w : SpWrite) => if mine w then lost w else w }
    r.setCell n (c1.setSlot k { s with wait := .commit left (some (err.getD (errHwUncorrectable, index))) })
  | _ => r

/-- A hardware context is lost (R390): the channel enters FAILED, and what it asked for ends with HW_UNCORRECTABLE. -/
def Run.contextLost (r : Run) (v : Nat) : Run :=
  let c := r.x.vc v
  let code := errHwUncorrectable
  if !c.resident then r
  else
    let x1 := r.x.liveCells.foldl (fun x n => x.setCell n ((x.cell n).refuseLaunches (x.handleOf v) code)) r.x
    let r1 := (x1.running v).foldl (fun (r : Run) p => r.stopProgram v p.1 p.2 code false) { r with x := x1 }
    let r2 := (r1.x.xfers.filter fun t => t.vc == v).foldl (fun r t =>
      r.xferFail t code (if t.phase = .writing then Config.partialBytes (wordAt t.words 0) (xTag t.words) t.bytes else 0)) r1
    let x2 := r2.x.setVc v { r2.x.vc v with st := .failed, stopped := false, sched := false, migrate := false }
    let h := x2.handleOf v
    let r3 : Run := { r2 with x := { x2 with readyQ := x2.readyQ.filter (· != v) } }
    (match c.cmd with
      | some d => r3.cmdDone v h code d.cmdId.toNat
      | none => r3).finishRetires

/-- The cell that holds a word, none for the hub. -/
def uncAtCell : UncAt → Option Nat
  | .cellWork n _ | .program n _ | .drainEntry n _ | .commitBuffer n _ _ => some n
  | .tlb _ | .staging _ | .keySlot _ | .hwContext _ | .vcTable => none

/-- The channel whose tile, transfer, key slot or context holds a word (R392). -/
def Inst.struckAt (x : Inst) : UncAt → Word
  | .cellWork n k => x.struck n k
  | .program n k => x.struck n (some k)
  | .commitBuffer n k _ => x.struck n (some k)
  | .drainEntry n id => match ((x.cell n).drain.find? fun t => t.id == id).bind DrainTile.bound with
    | some (.slot k) => x.struck n (some k)
    | some (.add e) => match (x.cell n).casks.find? fun p => p.1 == e with
      | some p => x.handleOf p.2.owner
      | none => 0
    | none => 0
  | .staging id => x.xferHandle (some id)
  | .keySlot k => match (x.key k).owner with
    | some v => x.handleOf v
    | none => 0
  | .hwContext v => x.handleOf v
  | .tlb _ => 0
  | .vcTable => 0

/-- A word of the staging buffer is lost before the commit point: what a transfer has read so far is read again (R390; log entry
106). -/
def Run.readAgain (r : Run) (t : Xfer) : Run :=
  let again (l : SeLine) : SeRead :=
    let pa := t.lineOf false (64 * l.va)
    { va := l.va, pa := pa, tier := r.x.tier (pa / 64), again := false, poll := none }
  if t.phase = .reading then
    (r.setXfer { t with got := [], tiles := t.tiles ++ (lineTiles (t.got.map again)).map readTile }).serve
  else r

/-- The case of an uncorrectable word (R390), found in operation (class 0) or by the docent (class 8, R379). Masked cases
are recorded while report_corrected is 1; a recovery of a cell records its fault when it ends; one that fail-stops the instance
has a record of its own before that of the fail-stop. -/
def Run.wordLost (r : Run) (cls : Nat) (w : UncAt) (index : Nat) (address : Word) : Run :=
  let x := r.x
  let second := x.inWindow
  let info (cell : Option Nat) (action : Nat) : FaultInfo :=
    { cell := cell, port := 0, cls := cls, action := action, second := second, perm := false, index := index,
      address := address, moved := 0 }
  let rerun (r : Run) (n : Nat) (k : Option Nat) (prog : Option Nat) : Run :=
    r.cellMismatch n { r.x.cellFault n cls index k with code := errHwUncorrectable, address := address, prog := prog }
  let masked (r : Run) : Run := r.fault 0 (x.struckAt w) (info none 0)
  let reported (r : Run) : Run := r.fault errHwUncorrectable (x.struckAt w) (info (uncAtCell w) 5)
  match w with
  | .cellWork n k => rerun r n k none
  | .program n k => rerun r n (some k) (some k)
  | .drainEntry n id =>
    reported (r.drainEntryLost n id)
  | .commitBuffer n k line =>
    if (r.slot n k).committing then
      reported (r.commitWordLost n k line)
    else rerun r n (some k) none
  | .tlb i => masked { r with x := { x with tlb := x.tlb.take i ++ x.tlb.drop (i + 1) } }
  | .staging id =>
    match x.xfer id with
    | some t =>
      if t.phase = .writing then
        reported (r.xferFail t errHwUncorrectable (Config.partialBytes (wordAt t.words 0) (xTag t.words) t.bytes))
      else masked (r.readAgain t)
    | none => masked r
  | .keySlot k =>
    reported { r with x := x.setKey k { KeySlot.empty with bad := true } }
  | .hwContext v =>
    if (x.vc v).migrate then (reported r).failStop cls (x.struckAt w) true index address else reported (r.contextLost v)
  | .vcTable => (reported r).failStop cls 0 second index address

/-- The unit of the fault is on a built cell. -/
def uncOk (x : Inst) : UncAt → Bool
  | .cellWork n _ => decide (n < x.cellsBuilt)
  | .program n k => decide (n < x.cellsBuilt) && decide (k < 4)
  | .drainEntry n _ => decide (n < x.cellsBuilt)
  | .commitBuffer n k _ => decide (n < x.cellsBuilt) && decide (k < 4)
  | .tlb _ | .staging _ | .keySlot _ | .hwContext _ | .vcTable => true

/-- A code word with erroneous symbols (R369, R380, R390): one is corrected and counted; two make it uncorrectable. -/
def Run.badWord (r : Run) (cls errs : Nat) (w : UncAt) (index : Nat) (address : Word) : Run :=
  match errs with
  | 0 => r
  | 1 => ({ r with x := r.x.countCorr } : Run).fault 0 (r.x.struckAt w)
      { cell := uncAtCell w, port := 0, cls := cls, action := 0, second := r.x.inWindow, perm := false, index := index
        address := if cls = 1 then 0 else address, moved := 0 }
  | _ => r.wordLost cls w index (if cls = 1 then 0 else address)

/-- UNCORRECTABLE_WORD (R369, R390): erroneous symbols of a word at its read, or at the receiving end of an internal bus; of a
word with one of them the data is used as corrected (R377, R380). -/
def uncorrectable (bus : Bool) (errs : Nat) (w : UncAt) (index : Nat) (address : Word) (_ : Env) (x : Inst) : Run :=
  if !x.alive || !uncOk x w then pureRun x else (pureRun x).badWord (if bus then 1 else 0) errs w index address

/-- The docent moves on (R378): the last word ends a sweep. -/
def Inst.sweep (x : Inst) (last : Bool) : Inst :=
  { x with flt := { x.flt with sweepPos := if last then 0 else x.flt.sweepPos + 1
                               sweeps := if last then x.flt.sweeps + 1 else x.flt.sweeps } }

/-- DOCENT_ACCESS (R378, R379): one code word in the docent's slot, while it runs: one symbol is corrected and counted, two
are handled as an operational find. An injection of class 8 for the cell strikes here (R394). -/
def docentAccess (errs : Nat) (w : UncAt) (index : Nat) (address : Word) (last : Bool) (_ : Env) (x : Inst) : Run :=
  if !x.awake || decide (x.flt.ctrl / 2 % 2 = 0) || !uncOk x w then pureRun x
  else
    let y := x.sweep last
    match (uncAtCell w).bind (y.injection 8) with
    | some i => (pureRun y.disarm).badWord 8 (max errs (injSymbols i)) w (injIndex i) address
    | none => (pureRun y).badWord 8 errs w index address

/-- CLOCK_LOSS (R375): the instance fail-stops and answers nothing (R389). -/
def clockLoss (_ : Env) (x : Inst) : Run :=
  if x.flt.clockLost || x.pwr.offTaken then pureRun x
  else
    let r := (pureRun x).failStop 9 0 x.inWindow 0 0
    { r with x := { r.x with flt := { r.x.flt with clockLost := true } } }

/-- RESIDUE_MISMATCH (R370, R381). -/
def residueMismatch (n : Nat) (cask : Bool) (slot : Option Nat) (index : Nat) (_ : Env) (x : Inst) : Run :=
  if !x.alive then pureRun x
  else
    (pureRun x).cellMismatch n (x.cellFault n (if cask then 3 else 2) index slot)

/-- LOCKSTEP_MISMATCH (R371, R381). -/
def lockstepMismatch (n : Nat) (slot : Option Nat) (_ : Env) (x : Inst) : Run :=
  if !x.alive then pureRun x else (pureRun x).cellMismatch n (x.cellFault n 4 0 slot)

/-! ### Injected faults (R394) -/

/-- An injected fault strikes a use of cell n by a slot: a lane or sequencer mismatch, a cask residue, or symbols of a word or
bus of the cell. It is detected, recovered and reported as a real one. -/
def Run.strikeCell (r : Run) (n : Nat) (slot : Option Nat) (w : Word) : Run :=
  let r0 : Run := { r with x := r.x.disarm }
  if injClass w ≤ 1 then r0.badWord (injClass w) (injSymbols w) (.cellWork n slot) (injIndex w) 0
  else r0.cellMismatch n (r0.x.cellFault n (injClass w) (injIndex w) slot)

/-- A step that uses cell n with the units of some classes of R392, and the injection that it meets: it counts as a use when it
changes the cell. One corrected symbol changes nothing of what it does; any other fault is detected before it takes effect,
so that nothing that it would commit commits (R376, R380). -/
def withInjection (classes : List Nat) (n : Nat) (slot : Option Nat) (f : Env → Inst → Run) (e : Env) (x : Inst) : Run :=
  let r := f e x
  match classes.findSome? fun k => x.injection k n with
  | none => r
  | some w =>
    if r.x.cell n = x.cell n then r
    else
      let r0 := (pureRun x).strikeCell n slot w
      if injClass w ≤ 1 ∧ injSymbols w = 1 then r0.after (f e r0.x) else r0

/-- A step that uses stream-engine port `port` for the request `ident`, and the injection that it meets: the request that it
answers is performed again, and the answer is not used (R380, R394). -/
def portUse (port ident : Nat) (f : Env → Inst → Run) (e : Env) (x : Inst) : Run :=
  match (x.injection 6 port).or (x.injection 7 port), x.seReqs.find? fun q => q.port == port && q.ident == ident with
  | some w, some q =>
    let r := x.disarm.portFault port (injClass w) (injIndex w) (x.xferHandle q.xfer) false (if q.xfer.isSome then [q] else []) []
    r.after (f e r.x)
  | _, _ => f e x

/-- FLT_INJECT (R394). -/
def execFltInject (inst : Nat) (data : Word) (s : State) : Host.Outcome State Fault Refusal :=
  s.ctlRow inst 0x1070 data fun x => s.setInst inst (x.inject data)

/-- RESIDUE_MISMATCH (R370, R381). -/
def execResidueMismatch (c : CellAt) (cask : Bool) (slot : Option Nat) (index : BitVec 16) (s : State) :
    Host.Outcome State Fault Refusal := onCell s c (residueMismatch c.cell cask slot index.toNat)

/-- LOCKSTEP_MISMATCH (R371, R381). -/
def execLockstepMismatch (c : CellAt) (slot : Option Nat) (s : State) : Host.Outcome State Fault Refusal :=
  onCell s c (lockstepMismatch c.cell slot)

/-- SELF_TEST_DONE (R381, R382). -/
def execSelfTestDone (c : CellAt) (pass : Bool) (s : State) : Host.Outcome State Fault Refusal :=
  onCell s c (selfTestDone c.cell pass)

/-- HUB_VOTE_MISMATCH (R372). -/
def execHubVoteMismatch (inst : Nat) (copy : Nat) (index : BitVec 16) (s : State) : Host.Outcome State Fault Refusal :=
  onInst s inst (voteMismatch copy index.toNat)

/-- SE_PORT_MISMATCH (R380, R385). -/
def execSePortMismatch (inst : Nat) (port : Nat) (enc : Bool) (x : Option Nat) (index : BitVec 16) (permanent : Bool)
    (s : State) : Host.Outcome State Fault Refusal := onInst s inst (mending (portMismatch port enc x index.toNat permanent))

/-- UNCORRECTABLE_WORD (R369, R390). -/
def execUncorrectableWord (inst : Nat) (word : BadWord) (index : BitVec 16) (address : Word) (s : State) :
    Host.Outcome State Fault Refusal :=
  onInst s inst (uncorrectable word.bus word.errs word.at_ index.toNat address)

/-- SE_READ_RETURN (R317, R425). A beat that an injected fault of its port strikes is read again. -/
def execSeReadReturn (inst : Nat) (tag : SeTag) (lower upper : BitVec 2 × Line) (s : State) :
    Host.Outcome State Fault Refusal := onInst s inst (mending (portUse tag.port tag.ident (seReadReturn tag.port tag.ident lower upper)))

/-- SE_WRITE_DONE (R425). A write that an injected fault of its port strikes is written again. -/
def execSeWriteDone (inst : Nat) (tag : SeTag) (err : Bool) (s : State) : Host.Outcome State Fault Refusal :=
  onInst s inst (mending (portUse tag.port tag.ident (seWriteDone tag.port tag.ident err)))

/-- DOCENT_ACCESS (R378). -/
def execDocentAccess (inst : Nat) (errs : Nat) (where_ : UncAt) (index : BitVec 16) (address : Word) (lastWord : Bool)
    (s : State) : Host.Outcome State Fault Refusal := onInst s inst (docentAccess errs where_ index.toNat address lastWord)

/-- CLOCK_LOSS (R375). -/
def execClockLoss (inst : Nat) (s : State) : Host.Outcome State Fault Refusal := onInst s inst clockLoss

end Sys2Proof.Machine
end

