-- ==== Sys2Proof/Machine/Programs.lean ====
section
/-! DEFINITION. The meanings of the instructions of tile programs (R203 to R244) and of the steps by which tiles, adds, drains
and waits complete. An instruction issues when it is the next one of its slot and may issue; otherwise nothing changes. -/

namespace Sys2Proof.Machine

/-- A step of a slot. It uses the cell's memories, buses, lanes and sequencer, where an injected fault may strike (R394). -/
def onSlot (s : State) (a : Site) (f : Nat → Nat → Env → Inst → Run) : Host.Outcome State Fault Refusal :=
  onCell s { inst := a.inst, cell := a.cell } (withInjection [0, 1, 2, 4] a.cell (some a.slot) (f a.cell a.slot))

/-- VLD_LOAD (R228). -/
def execVldLoad (a : Site) (s : State) : Host.Outcome State Fault Refusal :=
  onSlot s a (issueRow .vldLoad)

/-- VLD_DRAIN (R151, R228). -/
def execVldDrain (a : Site) (s : State) : Host.Outcome State Fault Refusal :=
  onSlot s a (issueRow .vldDrain)

/-- VLD_FEED (R157, R168, R198, R229). -/
def execVldFeed (a : FeedSite) (s : State) : Host.Outcome State Fault Refusal :=
  onSlot s a.site (issueFeed a.pro)

/-- VST (R230). -/
def execVst (a : Site) (s : State) : Host.Outcome State Fault Refusal :=
  onSlot s a (issueRow .vst)

/-- CVT_MEMORY (R224, R231). -/
def execCvtMemory (a : Site) (s : State) : Host.Outcome State Fault Refusal :=
  onSlot s a (issueRow .cvtMemory)

/-- CVT_VITRINE (R231). -/
def execCvtVitrine (a : Site) (s : State) : Host.Outcome State Fault Refusal :=
  onSlot s a (issueRow .cvtVitrine)

/-- SCL (R96, R232). -/
def execScl (a : Site) (s : State) : Host.Outcome State Fault Refusal :=
  onSlot s a (issueRow .scl)

/-- SCL_FOLD (R98, R232). -/
def execSclFold (a : Site) (s : State) : Host.Outcome State Fault Refusal :=
  onSlot s a (issueRow .sclFold)

/-- RND (R232). -/
def execRnd (a : Site) (s : State) : Host.Outcome State Fault Refusal :=
  onSlot s a (issueRow .rnd)

/-- CLP (R233). -/
def execClp (a : Site) (s : State) : Host.Outcome State Fault Refusal :=
  onSlot s a (issueRow .clp)

/-- CMP (R233). -/
def execCmp (a : Site) (s : State) : Host.Outcome State Fault Refusal :=
  onSlot s a (issueRow .cmp)

/-- SEL (R233). -/
def execSel (a : Site) (s : State) : Host.Outcome State Fault Refusal :=
  onSlot s a (issueRow .sel)

/-- PERM (R234). -/
def execPerm (a : Site) (s : State) : Host.Outcome State Fault Refusal :=
  onSlot s a (issueRow .perm)

/-- SHUF (R234). -/
def execShuf (a : Site) (s : State) : Host.Outcome State Fault Refusal :=
  onSlot s a (issueRow .shuf)

/-- PACK (R235). -/
def execPack (a : Site) (s : State) : Host.Outcome State Fault Refusal :=
  onSlot s a (issueRow .pack)

/-- UNPK (R235). -/
def execUnpk (a : Site) (s : State) : Host.Outcome State Fault Refusal :=
  onSlot s a (issueRow .unpk)

/-- FMA (R68, R236). -/
def execFma (a : Site) (s : State) : Host.Outcome State Fault Refusal :=
  onSlot s a (issueRow .fma)

/-- FN (R69, R237). -/
def execFn (a : Site) (s : State) : Host.Outcome State Fault Refusal :=
  onSlot s a (issueRow .fn)

/-- FN_SOFTMAX (R181, R237). -/
def execFnSoftmax (a : Site) (s : State) : Host.Outcome State Fault Refusal :=
  onSlot s a (issueRow .fnSoftmax)

/-- FN_MERGE (R201, R237). -/
def execFnMerge (a : Site) (s : State) : Host.Outcome State Fault Refusal :=
  onSlot s a (issueRow .fnMerge)

/-- RED_PLAIN (R247, R238). -/
def execRedPlain (a : Site) (s : State) : Host.Outcome State Fault Refusal :=
  onSlot s a (issueRow .redPlain)

/-- RED_ROW_RECORD (R167, R238). -/
def execRedRowRecord (a : Site) (s : State) : Host.Outcome State Fault Refusal :=
  onSlot s a (issueRow .redRowRecord)

/-- RED_SOFTMAX_RECORD (R197, R238). -/
def execRedSoftmaxRecord (a : Site) (s : State) : Host.Outcome State Fault Refusal :=
  onSlot s a (issueRow .redSoftmaxRecord)

/-- RED_OFFSET (R180, R238). -/
def execRedOffset (a : Site) (s : State) : Host.Outcome State Fault Refusal :=
  onSlot s a (issueRow .redOffset)

/-- RED_SUM (R249, R238). -/
def execRedSum (a : Site) (s : State) : Host.Outcome State Fault Refusal :=
  onSlot s a (issueRow .redSum)

/-- RED_MERGE (R201, R238). -/
def execRedMerge (a : Site) (s : State) : Host.Outcome State Fault Refusal :=
  onSlot s a (issueRow .redMerge)

/-- STEEP_GATHER (R82, R238). -/
def execSteepGather (a : Site) (s : State) : Host.Outcome State Fault Refusal :=
  onSlot s a (issueRow .steepGather)

/-- STEEP_SETTLE (R83, R238). -/
def execSteepSettle (a : Site) (s : State) : Host.Outcome State Fault Refusal :=
  onSlot s a (issueRow .steepSettle)

/-- STEEP_SMOOTHING_SETTLE (R97, R238). -/
def execSteepSmoothingSettle (a : Site) (s : State) : Host.Outcome State Fault Refusal :=
  onSlot s a (issueRow .steepSmoothing)

/-- MASH (R89, R239). -/
def execMash (a : Site) (s : State) : Host.Outcome State Fault Refusal :=
  onSlot s a (issueRow .mash)

/-- KILN (R172, R238). -/
def execKiln (a : Site) (s : State) : Host.Outcome State Fault Refusal :=
  onSlot s a (issueRow .kiln)

/-- CASK_OPEN (R127). -/
def execCaskOpen (a : Site) (s : State) : Host.Outcome State Fault Refusal :=
  onSlot s a (issueRow .caskOpen)

/-- CASK_ADD (R129). -/
def execCaskAdd (a : Site) (s : State) : Host.Outcome State Fault Refusal :=
  onSlot s a (issueRow .caskAdd)

/-- CASK_DRAIN (R131). -/
def execCaskDrain (a : Site) (s : State) : Host.Outcome State Fault Refusal :=
  onSlot s a (issueRow .caskDrain)

/-- CASK_CLOSE (R134). -/
def execCaskClose (a : Site) (s : State) : Host.Outcome State Fault Refusal :=
  onSlot s a (issueRow .caskClose)

/-- LOOP (R213). -/
def execLoop (a : Site) (s : State) : Host.Outcome State Fault Refusal :=
  onSlot s a (issueRow .loop)

/-- WAITF (R241). -/
def execWaitf (a : Site) (s : State) : Host.Outcome State Fault Refusal :=
  onSlot s a (issueRow .waitf)

/-- SIGF (R242). -/
def execSigf (a : Site) (s : State) : Host.Outcome State Fault Refusal :=
  onSlot s a (issueRow .sigf)

/-- SUMM (R244). -/
def execSumm (a : Site) (s : State) : Host.Outcome State Fault Refusal :=
  onSlot s a (issueRow .summ)

/-- MSK (R243). -/
def execMsk (a : Site) (s : State) : Host.Outcome State Fault Refusal :=
  onSlot s a (issueRow .msk)

/-- TILE_COMMIT (R217, R300). -/
def execTileCommit (a : Site) (s : State) : Host.Outcome State Fault Refusal := onSlot s a tileCommit

/-- CASK_ADD_COMMIT (R130, R189): the add at the head of a cask table entry. -/
def execCaskAddCommit (c : CellAt) (entry : Nat) (s : State) : Host.Outcome State Fault Refusal :=
  onCell s c fun e x => withInjection [3] c.cell ((x.cell c.cell).addSlot entry) (fun e x =>
    if x.cellRuns c.cell then ((pureRun x).addCommit c.cell entry).readersGoOn e c.cell else pureRun x) e x

/-- CASK_DRAIN_COMPLETE (R131, R149). -/
def execCaskDrainComplete (a : Site) (s : State) : Host.Outcome State Fault Refusal := onSlot s a drainStep

/-- CASK_CLOSE_DONE (R134). -/
def execCaskCloseDone (a : Site) (s : State) : Host.Outcome State Fault Refusal :=
  onSlot s a fun n k _ x =>
    if x.cellRuns n ∧ (x.slot n k).phase = .running then (pureRun x).closeDone n k else pureRun x

/-- WAITF_PASS (R241). -/
def execWaitfPass (a : Site) (s : State) : Host.Outcome State Fault Refusal :=
  onSlot s a fun n k e x =>
    if x.cellRuns n ∧ (x.slot n k).phase = .running then (pureRun x).waitfPass e n k else pureRun x

/-- DRAIN_BEAT (R150). -/
def execDrainBeat (c : CellAt) (tag : BitVec 16) (beat : List Word) (s : State) : Host.Outcome State Fault Refusal :=
  onCell s c (drainBeatStep c.cell tag beat)

/-- FEED_VECTOR_ACCEPT (R420). -/
def execFeedVectorAccept (c : CellAt) (s : State) : Host.Outcome State Fault Refusal := onCell s c (feedAccept c.cell)

/-- SP_READ_DATA (R421). -/
def execSpReadData (c : CellAt) (resp : List (BitVec 2)) (data : List Line) (s : State) :
    Host.Outcome State Fault Refusal := onCell s c (spRead c.cell (resp.zip data))

/-- SP_WRITE_ACK (R421). -/
def execSpWriteAck (c : CellAt) (err : Bool) (s : State) : Host.Outcome State Fault Refusal :=
  onCell s c (spWrite c.cell err)

/-- LAUNCH_RECORD (R205). -/
def execLaunchRecord (c : CellAt) (ws : List Word) (s : State) : Host.Outcome State Fault Refusal :=
  onCell s c (launchRecord c.cell ws)

/-- LAUNCH_ADMIT (R205, R206). -/
def execLaunchAdmit (c : CellAt) (s : State) : Host.Outcome State Fault Refusal := onCell s c (launchAdmit c.cell)

/-- LAUNCH_FETCH_DONE (R205, R222). -/
def execLaunchFetchDone (a : Site) (s : State) : Host.Outcome State Fault Refusal := onSlot s a launchFetchDone

/-- RESERVED_KIND_RECORD (R422): the words of the record have no meaning. -/
def execReservedKindRecord (c : CellAt) (_ : List Word) (s : State) : Host.Outcome State Fault Refusal :=
  onCell s c (reservedRecord c.cell)

/-- FLUSH_UNBOUND (R153): a write of flush_unbound at the cell's DRAIN_STAT. -/
def execFlushUnbound (c : CellAt) (s : State) : Host.Outcome State Fault Refusal :=
  s.ctlRow c.inst (0x100C8 + 0x1000 * c.cell) 0x80000000 fun x =>
    if c.cell < x.cellsBuilt then s.setInst c.inst ((x.ungate c.cell).setCell c.cell ((x.ungate c.cell).cell c.cell).flushUnbound)
    else s

end Sys2Proof.Machine
end

