-- ==== Sys2Proof/Machine/Resets.lean ====
section
/-! DEFINITION. Resets (R411 to R416), test state (R436) and what they do to the die links (R431). -/

namespace Sys2Proof.Machine

/-! ### Die links (R431) -/

/-- The collective that sent a packet (R331). -/
def Inst.packetSender (x : Inst) (bs : List Byte) : Option Xfer :=
  x.xfers.find? fun t => decide (xKind t.words = 1) && decide (t.plan_.step = pktField bs 8 4)
    && decide (t.plan_.tag = pktField bs 12 4) && decide (t.plan_.rank = pktField bs 4 2)

/-- The port of an instance on one side. -/
def Inst.port (x : Inst) (east : Bool) : Port := if east then x.east else x.west

def Inst.setPort (x : Inst) (east : Bool) (p : Port) : Inst := if east then { x with east := p } else { x with west := p }

/-- The die at the other end of a port of die i: none in a package of one (R26). -/
def State.peer (s : State) (i : Nat) (east : Bool) : Option Nat :=
  let n := s.insts.length
  if n < 2 then none else some (if east then (i + 1) % n else (i + n - 1) % n)

/-- A port of an instance leaves the active and L1 states (R431): its up bit clears, and a fault record of class 1,
action 5 is posted. -/
def Run.portDown (r : Run) (east : Bool) : Run :=
  let p := r.x.port east
  if !p.up then r
  else
    let second := r.x.inWindow
    ({ r with x := r.x.setPort east { Port.down with training := p.training, sent := p.sent } } : Run).fault errHwUncorrectable 0
      (hubFault 1 5 second 0)

/-! ### Messages of an abandoned flit (R391) -/

/-- A record that does not reach instance 0 counts as dropped (R291, R391). -/
def State.dropRecord (s : State) : State :=
  match s.insts[0]? with
  | none => s
  | some x =>
    { s with ring := s.ring.drop
             insts := s.insts.set 0 { x with intStat := x.intStat ||| 4#4 } }

/-- The request of a cell that is lost ends with INST_FAILED (R391): a queued launch or a held mailbox post for another
instance, which leaves the cell, or a request that waited at its port. -/
def Cell.requestLost (c : Cell) (own : Nat) : Cell :=
  let away (ws : List Word) : Bool := decide (handleInst (wordAt ws 0) ≠ own)
  match c.launchQ.findIdx? away with
  | some i =>
    let at_ := (c.respQ.zipIdx.filter fun p => decide (p.1 = .queued)).map Prod.snd
    { c with launchQ := c.launchQ.eraseIdx i, respQ := c.respQ.set (at_.getD i c.respQ.length) (.done errInstFailed) }.flushResp
  | none =>
    if c.heldPost.any away then { c with heldPost := none }.answer .held (.done errInstFailed)
    else c.respond (.done errInstFailed)

/-- The request of a requester ends with INST_FAILED. -/
def Inst.requestLost (x : Inst) (q : ReqBy) : Inst :=
  match q with
  | .cell n => if n < x.cellsBuilt then x.setCell n ((x.cell n).requestLost x.id) else x
  | .channelWindow => match x.win.busy with
    | some (_, w) => { x with win := x.win.answer w (.refuse x errInstFailed) [] }
    | none => x
  | .keyWindow => { x with keyCode := errInstFailed, keyWait := none, keyWrap := List.replicate 12 0 }
  | .mailboxWindow => { x with mbCode := errInstFailed, mbWait := none, mbFreeing := none }

/-- A delivery of mailbox m of die k that does not arrive (R391): its record is withdrawn, unless it has begun, and the message
stays pending and is sent again. -/
def State.deliveryLost (s : State) (k m : Nat) : State :=
  s.atDie k fun x =>
    let b := x.mbox m
    let h := x.mbHandleOf m
    if b.sending && decide (s.wordsLeft b.receiver h = 6) then
      (s.recall b.receiver h).atDie k fun x => (s.recall b.receiver h).setInst k (x.setMbox m { x.mbox m with sending := false })
    else s

/-- A forwarded access that does not arrive ends with CTL_UNREACHABLE (R343, R391). -/
def State.controlLost (s : State) (acc : CtlAcc) : State :=
  match s.fwd.findIdx? fun f => f.ans.isNone && decide (f.acc = acc) with
  | some j => { s.ctlRecord acc.addr.toNat acc.we errCtlUnreachable with
      fwd := s.fwd.modify j fun f => { f with ans := some (CtlResp.ofCode errCtlUnreachable) } }
  | none => s

/-- The message of a flit from die k for die i that was abandoned ends (R391): a request at its requester, which is die i for
an answer. -/
def State.abandon (s : State) (i k : Nat) (m : LinkMsg) : State :=
  match m with
  | .control acc => s.controlLost acc
  | .fenceAdd f _ => s.onFence (1024 * i + f % 1024) fun g => g.fail errInstFailed
  | .fenceSet f _ => s.onFence (1024 * i + f % 1024) fun g => g.fail errInstFailed
  | .fenceErr f => s.onFence (1024 * i + f % 1024) fun g => g.fail errInstFailed
  | .request q answer =>
    let j := if answer then i else k
    s.atDie j fun x => s.setInst j (x.requestLost q)
  | .post n _ _ => s.atDie k fun x => if n < x.cellsBuilt then s.setInst k (x.respond n errInstFailed) else s
  | .delivery m => s.deliveryLost k m
  | .xferData id => s.run k fun _ x => match x.xfer id with
    | some t => (pureRun x).xferFail t errInstFailed
        (if t.phase = .writing then Config.partialBytes (wordAt t.words 0) (xTag t.words) t.bytes else 0)
    | none => pureRun x
  | .packet bs => s.run k fun _ x => match x.packetSender bs with
    | some t => (pureRun x).xferFail t errInstFailed 0
    | none => pureRun x
  | .stream => if s.ss.st = 4 then { s with ss := { s.ss with st := 3, code := errSsTopology } } else s
  | .record _ => s.dropRecord
  | .stateUpdate => s

/-- The class of a message (R430, R391). -/
def linkClass : LinkMsg → Nat
  | .control _ => 0
  | .fenceAdd .. | .fenceSet .. | .fenceErr _ | .request .. | .post .. | .delivery _ => 1
  | .xferData _ | .packet _ => 2
  | .stream => 3
  | .record _ | .stateUpdate => 4

/-- The messages of a flit: those of its class (R430); one that uses no payload byte carries none. -/
def flitMessages (f : Flit) : List LinkMsg := if f.used = 0 then [] else f.msgs.filter fun m => decide (linkClass m = f.cls.toNat)

/-- The messages of a flit that goes no further end (R391, R431). -/
def State.endFlit (s : State) (f : Flit) : State :=
  (flitMessages f).foldl (fun s m => s.abandon f.dst.toNat f.src.toNat m) s

/-- The accesses whose answers would cross the link between die k and die k + 1 end with CTL_UNREACHABLE (R343, R344). -/
def State.cutForwards (s : State) (k : Nat) : State :=
  let lost (f : Fwd) : Bool := f.ans.isNone && decide (k < f.at_)
  (s.fwd.filter lost).foldl (fun s f => s.ctlRecord f.acc.addr.toNat f.acc.we errCtlUnreachable)
    { s with fwd := s.fwd.map fun f => if lost f then { f with ans := some (CtlResp.ofCode errCtlUnreachable) } else f }

/-- The requests of die i that wait for a die which no link reaches any more end with INST_FAILED (R391, R431): the commands of
its windows, held mailbox posts, and collectives with a packet for it. A die in reset is waited for. -/
def State.cutRequests (s : State) (i : Nat) : State :=
  let cut (j : Nat) : Bool := match s.insts[j]? with
    | some y => decide (y.rst.phase = 0) && !s.linked i j
    | none => false
  s.atDie i fun x =>
    let x1 := match x.win.busy with
      | some (op, w) => if cut (chTarget op x.win.args) then { x with win := x.win.answer w (.refuse x errInstFailed) [] } else x
      | none => x
    let x2 := match x1.keyWait with
      | some (_, h) =>
        if cut (handleInst h) then { x1 with keyCode := errInstFailed, keyWait := none, keyWrap := List.replicate 12 0 } else x1
      | none => x1
    let x3 := match x2.mbWait with
      | some (_, h) => if cut (handleInst h) then { x2 with mbCode := errInstFailed, mbWait := none } else x2
      | none => x2
    let x4 := match x3.mbFreeing with
      | some m => if cut (m / 32) then { x3 with mbCode := errInstFailed, mbFreeing := none } else x3
      | none => x3
    let x5 := x4.liveCells.foldl (fun (x : Inst) n => match (x.cell n).heldPost with
      | some ws => if cut (handleInst (wordAt ws 0)) then
          x.setCell n ({ x.cell n with heldPost := none }.answer .held (.done errInstFailed)) else x
      | none => x) x4
    let lost := x5.linkOut.filter fun q => cut q.1
    let x6 := { x5 with linkOut := x5.linkOut.filter fun q => !cut q.1 }
    lost.foldl (fun s q => s.run i fun _ x => match x.packetSender q.2 with
      | some t => (pureRun x).xferFail t errInstFailed 0
      | none => pureRun x) (s.setInst i x6)

/-- A port of die i goes down with the accesses that cross it, and the messages of the flits that it still holds end (R391, R431). -/
def State.linkFalls (s : State) (i : Nat) (east : Bool) : State :=
  let n := s.insts.length
  s.atDie i fun x =>
  if !(x.port east).up then s
  else
    let s0 := (x.port east).replay.foldl State.endFlit (s.run i fun _ x => (pureRun x).portDown east)
    let s1 := s0.cutForwards (if east then i else (i + n - 1) % n)
    (List.range n).foldl State.cutRequests s1

/-- A port joins a training (R413 step 4, R431). -/
def State.joins (s : State) (i : Nat) (east : Bool) : State :=
  match s.insts[i]? with
  | some x => s.setInst i (x.setPort east { x.port east with training := true })
  | none => s

/-- The reset of die i takes both of its links down; the neighbours' ports join the training that follows. -/
def State.linksReset (s : State) (i : Nat) : State :=
  let down (s : State) (east : Bool) : State := match s.peer i east with
    | some k => (s.linkFalls k !east).joins k !east
    | none => s
  down (down s true) false

/-! ### The end of every channel (R413 steps 1 and 2) -/

/-- The increments of the tiles that are past their commit point: their write-outs complete (R413 step 1). -/
def Inst.committedSigs (x : Inst) : List Eff :=
  x.liveCells.flatMap fun n => (x.cell n).slots.flatMap fun s => match s.wait with
    | .commit _ none => s.tile.sigs.map fun p => .fenceAdd p.1 p.2
    | _ => []

/-- The lines that committed transfers have still to write: their write-outs complete (R413 step 1). -/
def Inst.flushWrites (x : Inst) : Inst :=
  (x.xfers.filter fun t => decide (t.phase = .writing)).foldl (fun (x : Inst) t => { x with
    seWrites := x.seWrites ++
      (t.tiles.flatMap (·.flatMap SeReq.writes) ++ t.stages.tail.flatMap (·.tiles.flatten)).map fun w => (t.id, w) }) x

/-- Channels and mailboxes that are in use are freed, with their generations advanced; key slots are zeroed. -/
def Inst.freeAll (x : Inst) : Inst :=
  let x1 := x.vcs.foldl (fun (x : Inst) p =>
    if p.2.st = .free then x else x.setVc p.1 { Vc.free with gen := nextGen p.2.gen }) x
  let x2 := x1.mboxes.foldl (fun (x : Inst) p => if p.2.alloc then x.mbRelease p.1 else x) x1
  { x2 with keys := [], readyQ := [] }

/-- Steps 1 and 2 of R413: programs, transfers, collectives and commands end with INST_FAILED and post no record; every
channel and mailbox is freed. -/
def stopReset (_ : Env) (x : Inst) : Run :=
  let r := (pureRun x.flushWrites).endWork errInstFailed false
  { x := r.x.freeAll, effs := x.committedSigs ++ r.effs.filter fun e => match e with
      | .record _ => false
      | .fault _ _ => false
      | .fenceAdd .. | .fenceErr .. | .patch .. | .taken _ | .ask _ => true }

/-- Deliveries into a reset instance are sent again later; MB_FREE commands that wait for one go on; those that wait for a
mailbox of the instance end with INST_FAILED (R364, R389). -/
def State.dropDeliveries (s : State) (i : Nat) : State :=
  let fix (x : Inst) : Inst :=
    let x1 := x.mboxes.foldl (fun (x : Inst) p =>
      if p.2.sending ∧ agentCell p.2.receiver ≠ none ∧ agentInst p.2.receiver = i then
        x.setMbox p.1 { p.2 with sending := false }
      else x) x
    match x1.mbFreeing with
    | some k => if k / 32 = i then { x1 with mbFreeing := none, mbCode := errInstFailed } else x1
    | none => x1
  let s1 := { s with insts := s.insts.map fix }
  (List.range s1.insts.length).foldl (fun s j => (List.range 32).foldl (fun s m => match s.insts[j]? with
    | some y => if (y.mbox m).sending then s else s.mbFreed j m
    | none => s) s) s1

/-! ### Instance and power-on resets (R412, R413) -/

/-- The ports of an instance in reset: down, in training; those of a package of one are unused (R26). -/
def Inst.portsReset (x : Inst) (ring : Bool) : Inst :=
  { x with east := { Port.down with training := ring, sent := x.east.sent }
           west := { Port.down with training := ring, sent := x.west.sent } }

/-- An instance reset begins (R413 steps 1 and 2); the neighbours' ports go down (step 4). -/
def State.resetBegin (s : State) (i : Nat) : State :=
  let s1 := ((s.run i stopReset).dropDeliveries i).linksReset i
  match s1.insts[i]? with
  | none => s1
  | some x => s1.setInst i { x.portsReset (decide (1 < s.insts.length)) with
      rst := { x.rst with phase := 1, waiting := false }, pwr := Power.reset }

/-- INST_RESET (R413): by the pin, or by inst_reset. It waits for a commit in progress; OFF, test state and a power-on reset
are left by power-on reset alone (R410, R436). -/
def State.instReset (s : State) (i : Nat) (x : Inst) : State :=
  if x.rst.phase ≠ 0 ∨ x.pwr.offTaken ∨ x.test then s
  else if s.ss.st = 4 then s.setInst i { x with rst := { x.rst with waiting := true } }
  else s.resetBegin i

/-- The registers of the package that instance 0 holds (R416); patches follow the stream in force. -/
def State.resetPackage (s : State) (patches : Nat) : State :=
  { s with ss := { LoadWin.reset with patches := patches },
           ring := { Ring.reset with out := s.ring.out, tries := s.ring.tries }, ctlErr := 0,
           ctlErrAddr := 0 }

/-- Every fence in its error state, a first code kept (R413 step 6). -/
def Inst.fencesFailed (x : Inst) : Tbl Fence :=
  (List.range 1024).map fun k => (k, (x.fence k).fail errInstFailed)

/-- An instance after an instance reset (R413, R416): kept are its ID, cells, stream, cell map, generations, instance key,
fence values, the fault log and the retired cells. -/
def Inst.afterReset (x : Inst) (failed : BitVec 256) : Inst :=
  { Inst.reset 1 x.id x.cellsBuilt with
    inService := x.inService, stream := x.stream, vcs := x.vcs, mboxes := x.mboxes, instKey := x.instKey
    fences := x.fencesFailed, xferSeq := x.xferSeq, seWrites := x.seWrites, linkOut := x.linkOut, hubWrites := x.hubWrites
    flt := { Flt.reset with logValid := x.flt.logValid, log := x.flt.log, lastCode := x.flt.lastCode,
                            quiesced := x.flt.quiesced }
    east := { x.east with training := false }, west := { x.west with training := false }
    lstFail := failed &&& cellsBelow x.cellsBuilt, ticks := x.ticks, tapIr := x.tapIr, wir := x.wir,
    winBase := x.winBase, idcMfr := x.idcMfr }

/-- A hub that failed its self-test fail-stops (R437). -/
def State.hubTest (s : State) (i : Nat) (hubFail : Bool) : State :=
  if hubFail then s.run i fun _ x => (pureRun x).failStop 5 0 false 0 0 else s

/-- INST_RESET_DONE (R413 steps 3 to 6). What waited for the instance goes on (R411). -/
def State.instResetDone (s : State) (i : Nat) (x : Inst) (failed : BitVec 256) (hubFail : Bool) : State :=
  if x.rst.phase ≠ 1 then s
  else
    let s1 := s.setInst i (x.afterReset failed)
    ((if i = 0 then s1.resetPackage s.ss.patches else s1).hubTest i hubFail).resumeWaits i

/-- An instance in power-on reset (R412): INST_POS is sampled, and nothing else is kept but the logs of what left it. -/
def Inst.powerOn (x : Inst) (ring : Bool) (pos : BitVec 3) : Inst :=
  ({ Inst.reset 1 pos.toNat x.cellsBuilt with
    xferSeq := x.xferSeq, seWrites := x.seWrites, linkOut := x.linkOut, hubWrites := x.hubWrites, lstDone := false,
    winBase := x.winBase, idcMfr := x.idcMfr
    rst := { Rst.reset with phase := 2 } } : Inst).portsReset ring

/-- The instance resets that waited for a commit begin (R413). -/
def State.resetWaiting (s : State) : State :=
  (List.range s.insts.length).foldl (fun s i => match s.insts[i]? with
    | some x => if x.rst.waiting then s.resetBegin i else s
    | none => s) s

/-- Messages have been lost: a commit that this refused (`st` the window's state before) lets the resets that waited for it begin,
and the answers that it released leave (R342, R391, R413). -/
def State.afterLoss (s : State) (st : Nat) : State := (if st = 4 ∧ s.ss.st ≠ 4 then s.resetWaiting else s).released

/-- POWER_ON_RESET (R412); a commit that instance 0 was carrying out is lost with its window. What the end of messages at its
links leaves at the instance (R391) is gone with its state. -/
def State.powerOnReset (s : State) (i : Nat) (x : Inst) (pos : BitVec 3) : State :=
  let y := x.powerOn (decide (1 < s.insts.length)) pos
  let s1 := (((s.setInst i y).dropDeliveries i).linksReset i).setInst i y
  if i = 0 then ({ s1.resetPackage 0 with fwd := [], resp := [] } : State).resetWaiting else s1.afterLoss s.ss.st

/-- POWER_ON_RESET_DONE (R412, R437). -/
def State.powerOnDone (s : State) (i : Nat) (x : Inst) (failed : BitVec 256) (hubFail : Bool) : State :=
  if x.rst.phase ≠ 2 then s
  else
    ((s.setInst i { x with
      rst := Rst.reset, lstDone := true, lstFail := failed &&& cellsBelow x.cellsBuilt
      east := { x.east with training := false }, west := { x.west with training := false } }).hubTest i hubFail).resumeWaits i

/-- SS_COMMIT_DONE, and the instance resets that waited for it (R358, R413): they go on waiting while a copy waits for an instance
that sleeps. -/
def State.commitEnds (s : State) : State :=
  if s.ss.st ≠ 4 then s
  else if s.commitDone.ss.st = 4 then s.commitDone
  else s.commitDone.resetWaiting

/-! ### Cell resets (R414) -/

/-- The cell refuses a reset requested through HUB.RST_CTRL (R414). -/
def Cell.refusesReset (c : Cell) : Bool :=
  c.slots.any (fun s => decide (s.phase ≠ .idle)) || !c.launchQ.isEmpty || !c.casks.isEmpty
    || c.drain.any (fun t => t.bound.isSome) || c.outQ.any (fun w => decide (w.kind = 0))

/-- A cell reset is requested: refused or begun (R414). A cell at or above cells_built does not exist. -/
def Inst.cellResetReq (x : Inst) (n : Nat) : Inst :=
  if n < x.cellsBuilt ∧ (x.cell n).refusesReset then { x with rst := { x.rst with refused := true, lastCell := n } }
  else { x with rst := { x.rst with cellBusy := x.rst.cellBusy ++ [n] } }

/-- CELL_RESET_DONE (R414). -/
def cellResetDone (_ : Env) (x : Inst) : Run :=
  match x.rst.cellBusy with
  | [] => pureRun x
  | n :: rest =>
    let x1 := if n < x.cellsBuilt then x.setCell n (x.cell n).resetCell else x
    pureRun { x1 with rst := { x1.rst with cellBusy := rest, lastCell := n } }

/-- A write of HUB.RST_CTRL (R414): inst_reset ignores every other field. -/
def State.rstCtrl (s : State) (i : Nat) (x : Inst) (w : Word) : State :=
  if w.getLsbD 31 then s.instReset i x
  else if w.getLsbD 16 then s.setInst i (x.cellResetReq (fld w.toNat 7 0))
  else s

/-! ### Test state (R436) -/

/-- The data register that the test access port selects (R435): 0 BYPASS, 1 IDCODE, 2 IJTAG, 3 WIR_SEL, 4 WDR_SEL. -/
def tapSelect (ir : BitVec 8) : Nat :=
  if ir = 0x01 then 1 else if ir = 0x10 then 2 else if ir = 0x20 then 3 else if ir = 0x21 then 4 else 0

/-- The wrapper instruction of a block, 0 the hub and n + 1 cell n (R436). -/
def Inst.wrapper (x : Inst) (block : Nat) : Wrapper := Tbl.get .bypass x.wir block

/-- The instruments that leave the instance out of test state (R436). -/
def instrumentReadOnly : Instrument → Bool
  | .clockMonitor | .selfTestResults => true
  | .cellSelfTest _ | .sramTest | .linkMargin => false

/-- Every SRAM and key slot zeroed and the instance key discarded (R367, R436): cells, translation cache, channel table and
contexts, the tables and microcode of the stream, the staging buffer with its packets and the data of its requests, replay
buffers and messages held. -/
def Inst.zeroAll (x : Inst) : Inst :=
  { x with vcs := [], readyQ := [], seReqs := [], seRound := [], east := { x.east with replay := [] }, west := { x.west with replay := [] }
           cells := [], tlb := [], xreqs := [], keys := [], instKey := none, held := [], linkIn := [], linkOut := [], notices := []
           xfers := [], stream := { x.stream with tabs := [], mcode := [], ranges := [], power := [] } }

/-- Entry to test state (R436): every channel ends as in an instance reset, then the memories are zeroed, with the load window's
at instance 0. -/
def State.testState (s : State) (i : Nat) : State :=
  let s1 := (s.run i stopReset).dropDeliveries i
  match s1.insts[i]? with
  | some x =>
    let s2 := s1.setInst i { x.zeroAll with test := true }
    if i = 0 then { s2 with ss := { s2.ss with words := [] } } else s2
  | none => s1

/-- TEST_STATE_ENTER (R435, R436): an operation of the test access port. A wrapper instruction reaches its block while WIR_SEL
is selected, an instrument while IJTAG is; any other but the harmless ones enters test state. -/
def State.testEnter (s : State) (i : Nat) (op : TapOp) (x : Inst) : State :=
  match op with
  | .ir code => s.setInst i { x with tapIr := code }
  | .wir b w =>
    if tapSelect x.tapIr ≠ 3 ∨ x.cellsBuilt < b then s
    else
      let s1 := s.setInst i { x with wir := Tbl.set .bypass x.wir b w }
      if w = .bypass ∨ x.test then s1 else s1.testState i
  | .instrument k => if tapSelect x.tapIr ≠ 2 ∨ instrumentReadOnly k ∨ x.test then s else s.testState i

/-- INST_RESET (R413). -/
def execInstReset (inst : Nat) (byPin : Bool) (s : State) : Host.Outcome State Fault Refusal :=
  if byPin then .next (s.atDie inst (s.instReset inst)).released else s.ctlRow inst 0x2010 0x80000000 (s.instReset inst)

/-- INST_RESET_DONE (R413). -/
def execInstResetDone (inst : Nat) (failed : BitVec 256) (hubFail : Bool) (s : State) : Host.Outcome State Fault Refusal :=
  .next (s.atDie inst fun x => s.instResetDone inst x failed hubFail)

/-- CELL_RESET (R414): a write of HUB.RST_CTRL with cell_reset. -/
def execCellReset (inst : Nat) (cell : BitVec 8) (s : State) : Host.Outcome State Fault Refusal :=
  s.ctlRow inst 0x2010 (BitVec.ofNat 32 (0x10000 + cell.toNat)) fun x => s.setInst inst (x.cellResetReq cell.toNat)

/-- CELL_RESET_DONE (R414). -/
def execCellResetDone (inst : Nat) (s : State) : Host.Outcome State Fault Refusal := onInst s inst cellResetDone

/-- POWER_ON_RESET (R412). -/
def execPowerOnReset (inst : Nat) (pos : BitVec 3) (s : State) : Host.Outcome State Fault Refusal :=
  .next (s.atDie inst fun x => s.powerOnReset inst x pos).released

/-- POWER_ON_RESET_DONE (R412). -/
def execPowerOnResetDone (inst : Nat) (failed : BitVec 256) (hubFail : Bool) (s : State) :
    Host.Outcome State Fault Refusal :=
  .next (s.atDie inst fun x => s.powerOnDone inst x failed hubFail)

/-- TEST_STATE_ENTER (R436). -/
def execTestStateEnter (inst : Nat) (op : TapOp) (s : State) : Host.Outcome State Fault Refusal :=
  .next (s.atDie inst (s.testEnter inst op))

/-- SS_COMMIT_DONE (R358). -/
def execSsCommitDone (s : State) : Host.Outcome State Fault Refusal := .next s.commitEnds

end Sys2Proof.Machine
end

