-- ==== Sys2Proof/Machine/Registers.lean ====
section
/-! DEFINITION. The control port (R341 to R346): the registers of the address map (R439), forwarding (R344), and the
commands that are writes of a register. -/

namespace Sys2Proof.Machine

/-! ### Values that registers report -/

/-- Number of 1 bits. -/
def bitCount {w : Nat} (b : BitVec w) : Nat := ((List.range w).filter fun i => b.getLsbD i).length

/-- Word k of a map of 256 bits. -/
def mapWord (b : BitVec 256) (k : Nat) : Word := BitVec.ofNat 32 (b.toNat >>> (32 * k))

/-- HUB.ID_CONFIG (R31). -/
def Inst.idConfig (x : Inst) : Word :=
  BitVec.ofNat 32 (x.id * 2 ^ 29 + x.stream.countM1 * 2 ^ 26 + bitCount x.inService * 2 ^ 9 + x.cellsBuilt)

/-- HUB.ID_LINK (R31); the peer fields are valid while their port is up. -/
def Inst.idLink (x : Inst) : Word :=
  BitVec.ofNat 32 (flagAt x.east.up 0 + flagAt x.west.up 1 + x.east.peer % 8 * 2 ^ 4 + x.west.peer % 8 * 2 ^ 8)

/-- The IDCODE of the instance's test access port (R435). -/
def Inst.idCode (x : Inst) : Word := 0x24D4D001#32 + 2 * BitVec.ofNat 32 x.idcMfr.toNat

/-- HUB.INT_STAT (R346); the channel bit exists at instance 0 only. -/
def Inst.intStatWord (x : Inst) : Word := BitVec.ofNat 32 (x.intStat.toNat + flagAt x.doorbellInt 1)

/-- HUB.INT_SRC (R346): bit 8x + i, the instances that drive output x; one in OFF drives none (R402). -/
def State.intSrc (s : State) : Word :=
  BitVec.ofNat 32 (s.insts.foldl (fun n x =>
    let b := if x.pwr.offTaken then 0 else x.intStatWord.toNat &&& x.intEn.toNat
    n + (List.range 4).foldl (fun n k => n + flagAt (bitOf b k) (8 * k + x.id % 8)) 0) 0)

/-- An interrupt output of instance 0 (R346): 0 INT_FAULT, 1 INT_DOORBELL, 2 INT_CHANNEL, 3 INT_POWER. In OFF it is not driven
(R402). -/
def State.intOut (s : State) (k : Nat) : Bool :=
  decide (s.intSrc.toNat / 2 ^ (8 * k) % 256 ≠ 0) && !(s.insts.head?.any fun x => x.pwr.offTaken)

/-- HUB.CH_STATUS (R268). -/
def ChWin.status (w : ChWin) : Word := BitVec.ofNat 32 (flagAt w.busy.isSome 0 + flagAt w.lost 1 + w.qstate % 8 * 2 ^ 8)

/-- HUB.SCHED_STAT (R273). -/
def Inst.schedStat (x : Inst) : Word := BitVec.ofNat 32 (min x.readyQ.length 0xFFFF + x.residents * 2 ^ 16)

/-- Collectives past acceptance and not complete (R337). -/
def Inst.collActive (x : Inst) : Nat := (x.xfers.filter fun t => decide (xKind t.words = 1)).length

/-- HUB.FLT_STAT (R394). -/
def Inst.fltStat (x : Inst) : Word :=
  BitVec.ofNat 32 (flagAt x.flt.failstop 31 + flagAt x.flt.degraded 30 + flagAt x.flt.logValid 29 + x.flt.ports.toNat * 2 ^ 16
    + x.flt.lastCode)

/-- HUB.PWR_STAT (R409). -/
def Power.stat (p : Power) : Word :=
  BitVec.ofNat 32 (p.state + p.target * 2 ^ 4 + flagAt p.busy 7 + p.cause * 2 ^ 8 + flagAt p.dormantExit 16
    + flagAt p.earlyWake 17 + flagAt p.offRefused 18)

/-- HUB.RST_STAT (R414). -/
def Inst.rstStat (x : Inst) : Word :=
  BitVec.ofNat 32 (flagAt (decide (x.rst.phase = 1)) 31 + flagAt (!x.rst.cellBusy.isEmpty) 30 + flagAt x.rst.refused 29
    + x.rst.lastCell)

/-- HUB.LST_STAT (R437). -/
def Inst.lstStat (x : Inst) : Word :=
  let n := bitCount x.lstFail
  BitVec.ofNat 32 (flagAt x.lstDone 31 + flagAt (x.lstDone && decide (n = 0)) 30 + n)

/-- HUB.KEY_STATUS (R284). -/
def Inst.keyStatus (x : Inst) : Word := BitVec.ofNat 32 (flagAt x.keyWait.isSome 0 + flagAt x.instKey.isSome 1 + x.keyCode * 2 ^ 16)

/-- HUB.SS_STATUS (R356). -/
def State.ssStatus (s : State) (x : Inst) : Word :=
  BitVec.ofNat 32 (s.ss.st + flagAt x.stream.inForce 3 + flagAt s.ss.lost 4 + s.ss.patches * 2 ^ 8 + s.ss.code * 2 ^ 16)

/-- Word k of a digest; an absent digest reads 0. -/
def digestWord (d : List Byte) (k : Nat) : Word := BitVec.ofNat 32 (ofLeBytes ((d.drop (4 * k)).take 4))

/-- HUB.MB_STATm (R366). -/
def Mbox.stat (b : Mbox) : Word := BitVec.ofNat 32 (flagAt b.alloc 31 + flagAt b.pending 30 + b.gen * 2 ^ 16 + b.taken)

/-- CELL[n].CASK_MAP (R125): entries open or closing; all their adds issued. -/
def Cell.caskMap (c : Cell) : Word :=
  BitVec.ofNat 32 (c.casks.foldl (fun n p => n + flagAt true p.1 + flagAt (decide (p.2.I = p.2.A)) (16 + p.1)) 0)

/-- CELL[n].DRAIN_STAT (R156). -/
def Cell.drainStat (c : Cell) : Word :=
  let held := c.drain.filter fun t => !t.beats.isEmpty
  let bound := (held.filter fun t => t.bound.isSome).length
  BitVec.ofNat 32 (c.heldBeats + held.length * 2 ^ 8 + bound * 2 ^ 16 + flagAt (!c.owed.isEmpty) 29
    + flagAt (decide (c.heldBeats = 64) && decide (bound = 0)) 30)

/-- A slot waits on a WAITF, a translation, or drained beats (R207). -/
def Slot.waiting (s : Slot) : Bool :=
  decide (s.phase = .running) && (!s.fills.isEmpty || (match s.wait with
    | .fence .. => true
    | .xlate => true
    | .resolve => true
    | _ => false))

/-- CELL[n].SLOT_STAT (R207): an add of the slot that waits for its drained beats sets slot_waiting too. -/
def Cell.slotStat (c : Cell) : Word :=
  let act := c.slots.filter fun s => decide (s.phase ≠ .idle)
  let vits := act.foldl (fun n s => n ||| vitClaim s.launch) 0
  let masks := act.foldl (fun n s => n ||| maskClaim s.launch) 0
  let per (f : Slot × Nat → Bool) (lo : Nat) : Nat := c.slots.zipIdx.foldl (fun n p => n + flagAt (f p) (lo + p.2)) 0
  let beats (k : Nat) : Bool := (c.pendingAdds k).any c.waitsBeats
  BitVec.ofNat 32 (vits + masks * 2 ^ 8 + per (fun p => p.1.waiting || beats p.2) 20
    + per (fun p => decide (p.1.phase ≠ .idle)) 24
    + c.launchQ.length * 2 ^ 29)

/-! ### Reading (R12, R13, R439) -/

/-- A register of a cell window: offset within the window. -/
def Cell.readReg (c : Cell) (o : Nat) : Word :=
  if o = 0xC0 then c.scaleCheck
  else if o = 0xC4 then c.caskMap
  else if o = 0xC8 then c.drainStat
  else if o = 0xCC then c.stallFeed
  else if o = 0xD0 then c.stallDrain
  else if o = 0xD4 then c.slotStat
  else 0

/-- The registers of the package that only instance 0 has. -/
def State.readPackage (s : State) (x : Inst) (off : Nat) : Word :=
  if off = 0x100 then s.ctlErr
  else if off = 0x104 then s.ctlErrAddr
  else if off = 0x118 then s.intSrc
  else if off = 0x890 then s.ring.baseLo
  else if off = 0x894 then s.ring.baseHi
  else if off = 0x898 then s.ring.ctrl
  else if off = 0x89C then s.ring.head
  else if off = 0x8A0 then s.ring.tail
  else if off = 0x8A4 then s.ring.lost
  else if off = 0x4008 then s.ssStatus x
  else if off = 0x400C then BitVec.ofNat 32 s.ss.words.length
  else if off = 0x4010 then BitVec.ofNat 32 s.ss.faultOff
  else if 0x4040 ≤ off ∧ off < 0x4070 then digestWord s.ss.digest ((off - 0x4040) / 4)
  else 0

/-- The identification, interrupt, mailbox and channel registers of an instance. -/
def Inst.readLow (x : Inst) (off : Nat) : Word :=
  if off = 0 then 0x0A3D4D4D
  else if off = 4 then BitVec.ofNat 32 idVersion
  else if off = 8 then x.idConfig
  else if 0x10 ≤ off ∧ off < 0x30 then mapWord x.inService ((off - 0x10) / 4)
  else if off = 0x30 then x.idLink
  else if off = 0x110 then x.intStatWord
  else if off = 0x114 then BitVec.ofNat 32 x.intEn.toNat
  else if off = 0x404 then x.mbArg0
  else if off = 0x408 then x.mbArg1
  else if off = 0x40C then BitVec.ofNat 32 (flagAt (x.mbFreeing.isSome || x.mbWait.isSome) 31 + x.mbCode)
  else if off = 0x410 then x.mbHandle
  else if off = 0x414 then x.doorbells
  else if off = 0x418 then x.dbMask
  else if 0x500 ≤ off ∧ off < 0x600 then
    let b := x.mbox ((off - 0x500) / 8)
    if off % 8 = 0 then BitVec.ofNat 32 (b.sender * 2 ^ 16 + b.receiver) else b.stat
  else if 0x600 ≤ off ∧ off < 0x800 then wordAt (x.mbox ((off - 0x600) / 16)).msg (off % 16 / 4)
  else if 0x804 ≤ off ∧ off < 0x81C then wordAt x.win.args ((off - 0x804) / 4)
  else if off = 0x820 then x.win.result
  else if off = 0x824 then x.win.handle
  else if off = 0x828 then x.win.status
  else if 0x840 ≤ off ∧ off < 0x880 then wordAt x.win.data ((off - 0x840) / 4)
  else if off = 0x880 then x.schedCtrl
  else if off = 0x884 then x.schedStat
  else if off = 0x8C0 then x.collCtrl
  else if off = 0x8C4 then BitVec.ofNat 32 (x.collActive % 2 ^ 12 + x.collOut * 2 ^ 16)
  else 0

/-- The fault, power, key and fence registers of an instance. -/
def Inst.readHigh (x : Inst) (off : Nat) : Word :=
  if off = 0x1000 then x.fltStat
  else if off = 0x1004 then BitVec.ofNat 32 x.flt.ctrl
  else if off = 0x1008 then BitVec.ofNat 32 x.flt.corr
  else if off = 0x100C then BitVec.ofNat 32 (x.flt.repeats + x.flt.reruns * 2 ^ 16)
  else if 0x1010 ≤ off ∧ off < 0x1028 then wordAt x.flt.log ((off - 0x1010) / 4)
  else if 0x1040 ≤ off ∧ off < 0x1060 then mapWord x.flt.quiesced ((off - 0x1040) / 4)
  else if off = 0x1060 then x.flt.sweeps
  else if off = 0x1080 then BitVec.ofNat 32 x.flt.ledgerOr.toNat
  else if off = 0x2000 then x.pwr.next
  else if off = 0x2004 then x.pwr.ctrl
  else if off = 0x2008 then x.pwr.stat
  else if off = 0x2014 then x.rstStat
  else if off = 0x2040 then x.lstStat
  else if 0x2044 ≤ off ∧ off < 0x2064 then mapWord x.lstFail ((off - 0x2044) / 4)
  else if off = 0x2804 then x.keyHandle
  else if off = 0x2808 then x.keyStatus
  else if 0x3000 ≤ off ∧ off < 0x4000 then (x.fence ((off - 0x3000) / 4)).value
  else if 0x4080 ≤ off ∧ off < 0x40B0 then digestWord x.stream.digest ((off - 0x4080) / 4)
  else 0

/-- The registers that act on instance 0 only (R439). -/
def offPackage (off : Nat) : Bool :=
  decide (off = 0x100) || decide (off = 0x104) || decide (off = 0x118) || (decide (0x890 ≤ off) && decide (off < 0x8A8))
    || (decide (0x4000 ≤ off) && decide (off < 0x4080))

/-- The value that a read of die i returns (R12, R13, R439). -/
def State.readReg (s : State) (i : Nat) (x : Inst) (off : Nat) : Word :=
  if 0x10000 ≤ off then
    let n := (off - 0x10000) / 0x1000
    if n < x.cellsBuilt then (x.cell n).readReg (off % 0x1000) else 0
  else if offPackage off then (if i = 0 then s.readPackage x off else 0)
  else if off < 0x1000 then x.readLow off
  else x.readHigh off

/-- What a read clears (R12: RC); a read of a cell's window ungates the cell (R401). -/
def State.readClear (s : State) (i : Nat) (x : Inst) (off : Nat) : State :=
  let set (x : Inst) : State := s.setInst i x
  let n := (off - 0x10000) / 0x1000
  let c := { x.cell n with gated := false }
  if off = 0x8A4 then (if i = 0 then { s with ring := { s.ring with lost := 0 } } else s)
  else if off = 0x8C4 then set { x with collOut := 0 }
  else if off = 0x1008 then set { x with flt := { x.flt with corr := 0 } }
  else if off = 0x100C then set { x with flt := { x.flt with reruns := 0, repeats := 0 } }
  else if off = 0x1080 then set { x with flt := { x.flt with ledgerOr := 0 } }
  else if 0x10000 ≤ off ∧ n < x.cellsBuilt ∧ off % 0x1000 = 0xCC then set (x.setCell n { c with stallFeed := 0 })
  else if 0x10000 ≤ off ∧ n < x.cellsBuilt ∧ off % 0x1000 = 0xD0 then set (x.setCell n { c with stallDrain := 0 })
  else if 0x10000 ≤ off ∧ n < x.cellsBuilt then set (x.setCell n c)
  else s

/-! ### Writing -/

/-- Clear bit 31 of a register when the written word has it (W1C). -/
def clearTop (r w : Word) : Word := if w.getLsbD 31 then r &&& 0x7FFFFFFF else r

/-- A write of a cell window. -/
def Cell.writeReg (c : Cell) (o : Nat) (w : Word) : Cell :=
  if o = 0xC0 then { c with scaleCheck := clearTop c.scaleCheck w }
  else if o = 0xC8 then (if w.getLsbD 31 then c.flushUnbound else c)
  else c

/-- The window and ring registers of instance 0. -/
def State.writePackage (s : State) (off : Nat) (w : Word) : State :=
  if off = 0x100 then { s with ctlErr := clearTop s.ctlErr w }
  else if off = 0x890 then { s with ring := { s.ring with baseLo := w } }
  else if off = 0x894 then { s with ring := { s.ring with baseHi := w &&& 0xFFFFF } }
  else if off = 0x898 then { s with ring := { s.ring with ctrl := w &&& 0x31F } }
  else if off = 0x8A0 then { s with ring := { s.ring with tail := w } }
  else if off = 0x4000 then
    match w.toNat % 4 with
    | 1 => { s with ss := s.ss.open_ }
    | 2 => { s with ss := s.ss.close }
    | 3 => s.ssCommit
    | _ => s
  else if off = 0x4004 then { s with ss := s.ss.data w }
  else if off = 0x4008 then (if w.getLsbD 4 then { s with ss := { s.ss with lost := false } } else s)
  else s

/-- A write of HUB.MB_MSGm_j (R366). -/
def Inst.writeMsg (x : Inst) (m j : Nat) (w : Word) : Inst :=
  let b := x.mbox m
  if b.alloc && decide (b.sender = 0) && !b.pending then x.setMbox m { b with msg := b.msg.set j w } else x

/-- A write of a register of an instance that changes this instance only. -/
def Inst.writeReg (x : Inst) (off : Nat) (w : Word) : Inst :=
  if off = 0x110 then { x with intStat := x.intStat &&& ~~~(BitVec.ofNat 4 (w.toNat % 16)) }
  else if off = 0x114 then { x with intEn := BitVec.ofNat 4 w.toNat }
  else if off = 0x404 then { x with mbArg0 := w }
  else if off = 0x408 then { x with mbArg1 := w }
  else if off = 0x418 then { x with dbMask := w }
  else if 0x600 ≤ off ∧ off < 0x800 then x.writeMsg ((off - 0x600) / 16) (off % 16 / 4) w
  else if 0x804 ≤ off ∧ off < 0x81C then { x with win := { x.win with args := x.win.args.set ((off - 0x804) / 4) w } }
  else if off = 0x828 then (if w.getLsbD 1 then { x with win := { x.win with lost := false } } else x)
  else if off = 0x880 then { x with schedCtrl := w }
  else if off = 0x8C0 then { x with collCtrl := w }
  else if off = 0x1000 then (if w.getLsbD 29 then { x with flt := { x.flt with logValid := false } } else x)
  else if off = 0x1004 then { x with flt := { x.flt with ctrl := w.toNat % 4 } }
  else if off = 0x1070 then x.inject w
  else if off = 0x2000 then x.writeEvent w
  else if off = 0x2004 then (if w.getLsbD 8 then pwrWake w x else x.writePwrCtrl w)
  else if off = 0x2008 then
    { x with pwr := { x.pwr with dormantExit := x.pwr.dormantExit && !w.getLsbD 16, earlyWake := x.pwr.earlyWake && !w.getLsbD 17,
                                 offRefused := x.pwr.offRefused && !w.getLsbD 18 } }
  else if off = 0x2014 then (if w.getLsbD 29 then { x with rst := { x.rst with refused := false } } else x)
  else if off = 0x2804 then { x with keyHandle := w }
  else if 0x2810 ≤ off ∧ off < 0x2840 then { x with keyWrap := x.keyWrap.set ((off - 0x2810) / 4) w }
  else if 0x3000 ≤ off ∧ off < 0x4000 then x.setFence ((off - 0x3000) / 4) { value := w, err := 0 }
  else x

/-- The fields of a write of HUB.CH_CMD at instance i (R268). -/
def chFields (i : Nat) (w : Word) : ChCmd :=
  { win := i, cmdId := BitVec.ofNat 16 (w.toNat / 2 ^ 16), rsv := BitVec.ofNat 7 (w.toNat / 2 ^ 9), clear := w.getLsbD 8 }

/-- The answers of the host that a create or a query needs are there, or none is needed: the page of the save area is
cached, the queried channel is resident (R264, R268). -/
def State.chAnswered (s : State) (x : Inst) (op : Nat) (w : ChCmd) : Bool :=
  let args := x.win.args
  if chArgsBad op w args x.instCount then true
  else match op with
  | 1 => match s.insts[chTarget 1 args]? with
    | some y => y.flt.failstop || !y.stream.inForce || decide (s.ss.st = 4) || decide (fld (wn args 0) 15 8 = 0)
        || (y.tlbFind (BitVec.ofNat 16 (fld (wn args 0) 31 16)) ((wn args 1 + wn args 2 * 2 ^ 32) / 4096)).isSome
    | none => true
  | 6 => match s.insts[chTarget 6 args]? with
    | some y =>
      let c := y.vc (handleVc (wordAt args 0))
      y.flt.failstop || c.live || decide (c.st = .destroying) || decide (c.st = .free) || decide (c.gen ≠ handleGen (wordAt args 0))
    | none => true
  | _ => true

/-- A write of HUB.CH_CMD (R268): a busy window drops it; a create or query that needs the host waits for it. -/
def State.chWrite (s : State) (i : Nat) (x : Inst) (w : Word) : State :=
  let op := w.toNat % 256
  let c := chFields i w
  if x.win.busy.isSome then s.setWin i fun win => { win with lost := true }
  else if s.chAnswered x op c then s.chRun op c noXl none
  else s.setWin i fun win => { win with busy := some (op, c) }

/-- A write takes effect at die i (R12, R13, R439). -/
def State.writeReg (s : State) (i : Nat) (x : Inst) (off : Nat) (w : Word) : State :=
  if 0x10000 ≤ off then
    let n := (off - 0x10000) / 0x1000
    if n < x.cellsBuilt then s.setInst i (x.setCell n { (x.cell n).writeReg (off % 0x1000) w with gated := false }) else s
  else if offPackage off then (if i = 0 then s.writePackage off w else s)
  else if off = 0x400 then s.mbCmd i x (w.toNat % 256)
  else if off = 0x800 then s.chWrite i x w
  else if off = 0x2800 then s.keyCmd i x w
  else if off = 0x200C then s.offRequest i x w
  else if off = 0x2010 then s.rstCtrl i x w
  else s.setInst i (x.writeReg off w)

/-! ### Accesses (R341 to R344) -/

/-- The offset of an address (R341). -/
def addrOff (a : Nat) : Nat := fld a 20 0

/-- An offset outside every defined range (R343, R439). -/
def offUndefined (off : Nat) : Bool := (decide (0x5000 ≤ off) && decide (off < 0x10000)) || decide (0x110000 ≤ off)

/-- An access is performed at die i, with its response. -/
def State.perform (s : State) (i : Nat) (a : CtlAcc) : State :=
  let off := addrOff a.addr.toNat
  s.ctlGate i off a.we fun x =>
    if a.we then (s.writeReg i x off a.data).ctlOk 0
    else (s.readClear i x off).ctlOk (s.readReg i x off)

/-- An access to the next die is held: that die is in reset, and the port to it takes part in its training (R411, R413
step 4; log entry 78). -/
def State.hopHeld (s : State) (i addr : Nat) : Bool :=
  match s.insts[i]?, s.insts[i + 1]? with
  | some x, some y => x.east.training && decide (y.rst.phase ≠ 0) && decide (addrInst addr = y.id)
  | _, _ => false

/-- An access that the control port has taken (R342 to R344): an error, an access of instance 0, or one that leaves over its
east port. -/
def State.ctlTake (a : CtlAcc) (s : State) : State :=
  let addr := a.addr.toNat
  match s.insts[0]? with
  | none => s
  | some x =>
    if x.holds (if addrInst addr = x.id then addrOff addr else 0) a.we then s.setInst 0 (x.wakeBy 2)
    else if x.flt.clockLost || x.pwr.offTaken then s
    else if addr % 4 ≠ 0 then s.ctlFail addr a.we errCtlSize
    else if offUndefined (addrOff addr) then s.ctlFail addr a.we errCtlAddr
    else if addrInst addr = x.id then s.perform 0 a
    else if !x.east.up then
      (if s.hopHeld 0 addr then { s with fwd := s.fwd ++ [{ acc := a, at_ := 0, ans := none }] }
       else s.ctlFail addr a.we errCtlUnreachable)
    else { s with fwd := s.fwd ++ [{ acc := a, at_ := 1, ans := none }] }

/-- An access of the control port (R342). -/
def State.ctlPort (s : State) (a : CtlAcc) : State := s.access (State.ctlTake a)

/-- A forwarded access goes on (R344): the hub that holds it performs it, or passes it east. `rest` are the accesses behind it.
Its command for a channel may bring the host's answer. -/
def State.forwardOne (s : State) (f : Fwd) (rest : List Fwd) (xl : XlAns) (led : Option Line) : State :=
  let addr := f.acc.addr.toNat
  let s0 := { s with fwd := rest }
  let dead := s0.ctlFail addr f.acc.we errCtlUnreachable
  match s.insts[f.at_]? with
  | none => dead
  | some x =>
    if addrInst addr = x.id then
      if x.holds (addrOff addr) f.acc.we then s.setInst f.at_ (x.wakeBy 2)
      else if f.acc.we && decide (addrOff addr = 0x800) && x.awake && x.win.busy.isNone then
        (s0.chRun (f.acc.data.toNat % 256) (chFields f.at_ f.acc.data) xl led).ctlOk 0
      else s0.perform f.at_ f.acc
    else if x.flt.clockLost || x.pwr.offTaken then dead
    else if !x.east.up then (if s.hopHeld f.at_ addr then s else dead)
    else if x.holds 0 f.acc.we && !x.test then s.setInst f.at_ (x.wakeBy 2)
    else
      let k := f.at_ + 1
      if k < s.insts.length then { s with fwd := { f with at_ := k } :: rest } else dead

/-- The oldest forwarded access goes on; its answer leaves with those that waited behind it (R342). -/
def State.forward (s : State) (xl : XlAns) (led : Option Line) : State :=
  match s.fwd with
  | [] => s
  | f :: rest =>
    let s1 := (({ s with resp := [] } : State).forwardOne f rest xl led)
    let s2 := if s1.resp.isEmpty then s1 else s1.flushResp
    if s2.resp.isEmpty then { s2 with resp := s.resp } else s2

/-- REGISTER_WRITE (R12, R341). -/
def execRegisterWrite (addr : BitVec 24) (data : Word) (s : State) : Host.Outcome State Fault Refusal :=
  .next (s.ctlPort { addr := addr, we := true, data := data })

/-- RC_READ (R12, R341): a read; the fields with access RC are cleared by it. -/
def execRcRead (addr : BitVec 24) (s : State) : Host.Outcome State Fault Refusal :=
  .next (s.ctlPort { addr := addr, we := false, data := 0 })

/-- CTL_FORWARD (R344). -/
def execCtlForward (xl : XlAns) (led : Option Line) (s : State) : Host.Outcome State Fault Refusal :=
  .next (s.forward xl led)

/-- CTL_ERROR_RESPONSE (R14, R343): an access of a size other than a word ends with CTL_SIZE, held while instance 0 is in reset or
asleep as any other; one of a word is an access of the port, which answers CTL_SIZE or CTL_ADDR where its address asks for it. -/
def execCtlErrorResponse (acc : CtlAcc) (size : BitVec 2) (s : State) : Host.Outcome State Fault Refusal :=
  .next (s.access fun s => s.atDie 0 fun x =>
    if size = 2 then s.ctlTake acc
    else if x.holds 0 acc.we then s.setInst 0 (x.wakeBy 2)
    else if x.flt.clockLost || x.pwr.offTaken then s
    else s.ctlFail acc.addr.toNat acc.we errCtlSize)

/-- FENCE_WRITE (R313): the value is set and the error state cleared. -/
def execFenceWrite (inst : Nat) (idx : Nat) (val : Word) (s : State) : Host.Outcome State Fault Refusal :=
  s.ctlRow inst (0x3000 + 4 * idx) val fun x => s.setInst inst (x.setFence (idx % 1024) { value := val, err := 0 })

/-- SS_OPEN (R353). -/
def execSsOpen (s : State) : Host.Outcome State Fault Refusal :=
  s.ctlRow 0 0x4000 1 fun _ => { s with ss := s.ss.open_ }

/-- SS_DATA_WRITE (R353). -/
def execSsDataWrite (w : Word) (s : State) : Host.Outcome State Fault Refusal :=
  s.ctlRow 0 0x4004 w fun _ => { s with ss := s.ss.data w }

/-- SS_CLOSE (R353). -/
def execSsClose (s : State) : Host.Outcome State Fault Refusal :=
  s.ctlRow 0 0x4000 2 fun _ => { s with ss := s.ss.close }

/-- SS_CLOSE_DONE (R354, R355). -/
def execSsCloseDone (s : State) : Host.Outcome State Fault Refusal :=
  .next (s.atDie 0 fun x => if x.alive then { s with ss := s.ss.closeDone } else s)

/-- SS_COMMIT (R357). -/
def execSsCommit (s : State) : Host.Outcome State Fault Refusal := s.ctlRow 0 0x4000 3 fun _ => s.ssCommit

end Sys2Proof.Machine
end

