-- ==== Sys2Proof/Machine/Links.lean ====
section
/-! DEFINITION. The die links (R26, R374, R391, R429 to R431): flits received, ports that go down, training. The messages of
the model's own dies take effect at once (log entry 20); this file gives what a port does with a flit that is presented
to it. -/

namespace Sys2Proof.Machine

/-! ### Messages that arrive (R430) -/

/-- A forwarded access reaches die i: the outstanding one with its words, which another die held, or one more (R344). -/
def State.controlArrives (s : State) (i : Nat) (acc : CtlAcc) : State :=
  match s.fwd.findIdx? fun f => f.ans.isNone && decide (f.acc = acc) && decide (f.at_ ≠ i) with
  | some j => { s with fwd := s.fwd.modify j fun f => { f with at_ := i } }
  | none => if s.fwd.length < 8 then { s with fwd := s.fwd ++ [{ acc := acc, at_ := i, ans := none }] } else s

/-- A collective packet of die k reaches die i (R331); it no longer waits in die k's hub. -/
def State.packetArrives (s : State) (i k : Nat) (bs : List Byte) : State :=
  (s.atDie k fun y => s.setInst k { y with linkOut := y.linkOut.erase (i, bs) }).run i (takePacket bs)

/-- A message that arrives at die i from die `k` takes effect. The requests, data and copies of the package's own dies have
theirs with the command that sends them (log entry 20). -/
def State.deliver (s : State) (i k : Nat) (m : LinkMsg) : State :=
  match m with
  | .control acc => if i = 0 then s else s.controlArrives i acc
  | .fenceAdd f inc => s.onFence (1024 * i + f % 1024) fun g => { g with value := g.value + inc }
  | .fenceSet f val => s.onFence (1024 * i + f % 1024) fun _ => { value := val, err := 0 }
  | .fenceErr f => s.onFence (1024 * i + f % 1024) fun g => g.fail errInstFailed
  | .request .. => s
  | .post n h msg => s.atDie k fun x => s.mailboxRecord { inst := k, cell := n } x (h :: msg)
  | .delivery m => s.atDie k (s.delivery k m)
  | .xferData _ => s
  | .packet bs => s.packetArrives i k bs
  | .stream => s
  | .record ws => if i = 0 then s.post ws else s
  | .stateUpdate => s

/-! ### Ports (R374, R431) -/

/-- The sequence number a is acknowledged by ack: at most 128 flits are unacknowledged (R431). -/
def acked (a ack : BitVec 12) : Bool := decide ((ack - a).toNat < 2048)

/-- A port takes the acknowledgement that a flit carries. -/
def Port.takeAck (p : Port) (f : Flit) : Port := { p with replay := p.replay.filter fun g => !acked g.seq f.ack }

/-- The last flit that the port received in order. -/
def Port.lastRx (p : Port) : BitVec 12 := p.rxSeq - 1

/-- A flit without payload that a port of instance x sends to its peer: type 2 acknowledges what arrived in order, type 3
requests the flits from rxSeq onward again (R430, R431; its seq field is the model's choice, log entry 20). -/
def Port.notice (p : Port) (typ : BitVec 4) (x : Inst) : Port :=
  { p with sent := p.sent ++ [{ typ := typ, cls := 0, seq := if typ = 3 then p.rxSeq else p.txSeq, ack := p.lastRx
                                src := BitVec.ofNat 3 x.id, dst := BitVec.ofNat 3 p.peer, used := 0, msgs := [] }] }

/-- A message flit leaves on a port; the replay buffer keeps it (R431). -/
def Port.send (p : Port) (f : Flit) : Port :=
  let g : Flit := { f with seq := p.txSeq, ack := p.lastRx }
  { p with txSeq := p.txSeq + 1, replay := p.replay ++ [g], sent := p.sent ++ [g] }

/-- The port sends again from the flit `seq` onward (R431). -/
def Port.resend (p : Port) (seq : BitVec 12) : Port := { p with sent := p.sent ++ p.replay.filter fun g => acked seq g.seq }

/-- The messages of a flit that goes no further end, with the resets that a refused commit lets begin (R391, R413, R431). -/
def State.abandonAll (s : State) (f : Flit) : State := (s.endFlit f).afterLoss s.ss.st

/-- The flit for another instance goes on over the other port (R26, R430); where that one is down its messages end. -/
def State.passOn (s : State) (i : Nat) (east : Bool) (f : Flit) : State :=
  s.atDie i fun x =>
    if (x.port !east).up then s.setInst i (x.setPort (!east) ((x.port !east).send f)) else s.abandonAll f

/-- The hub has room for what a flit brings: packets for itself, or a place in the replay buffer of the port over which it
goes on (R331, R431). -/
def Inst.flitRoom (x : Inst) (east : Bool) (f : Flit) : Bool :=
  if f.dst.toNat = x.id then (flitMessages f).all fun m => match m with
    | .packet bs => x.packetRoom bs
    | _ => true
  else decide ((x.port !east).replay.length < 128)

/-- A flit that can be read (R430, R431): it acknowledges; a resend request is served; a message flit that is the expected one
is acknowledged and takes effect or goes on, and one out of sequence, or without room, is not taken. -/
def State.flitGood (s : State) (i : Nat) (east : Bool) (x : Inst) (f : Flit) : State :=
  let p := (x.port east).takeAck f
  if f.typ = 3 then s.setInst i (x.setPort east (p.resend f.seq))
  else if f.typ ≠ 1 ∨ f.seq ≠ p.rxSeq ∨ !x.flitRoom east f then s.setInst i (x.setPort east p)
  else
    let s1 := s.setInst i (x.setPort east (({ p with rxSeq := p.rxSeq + 1, resends := 0 } : Port).notice 2 x))
    if f.dst.toNat = x.id then (flitMessages f).foldl (fun s m => s.deliver i f.src.toNat m) s1 else s1.passOn i east f

/-- A flit with two erroneous symbols (R374, R431): a resend is requested; after four resends it is abandoned, its messages end,
and the receiver records the fault. -/
def State.flitBad (s : State) (i k : Nat) (east : Bool) (x : Inst) (f : Flit) : State :=
  let p := x.port east
  if p.resends < 4 then s.setInst i (x.setPort east (({ p with resends := p.resends + 1 } : Port).notice 3 x))
  else
    let s1 := (s.setInst i (x.setPort east { p with resends := 0, rxSeq := p.rxSeq + 1 })).run i fun _ y =>
      (pureRun y).fault errHwUncorrectable 0 (hubFault 1 5 y.inWindow k)
    s1.abandonAll f

/-- The erroneous symbols of a flit with those that an armed injection of class 1 adds (R394). -/
def Inst.flitSymbols (x : Inst) (bad : Nat) : Nat := match x.flt.injected with
  | some w => if injClass w = 1 then max bad (injSymbols w) else bad
  | none => bad

/-- FLIT_RECEIVE (R374, R430, R431). `bad` is the largest number of erroneous symbols in one of its code words: one is
corrected and counted. Die-link traffic wakes an instance (R405). -/
def State.flitReceive (s : State) (i : Nat) (east : Bool) (f : Flit) (bad : Nat) (x : Inst) : State :=
  match s.peer i east with
  | none => s
  | some k =>
    if !(x.port east).up then s
    else if !x.awake then s.setInst i (x.wakeBy 4)
    else
      let n := x.flitSymbols bad
      let y := if n = bad then x else x.disarm
      if 2 ≤ n then s.flitBad i k east y f
      else if n = 1 then
        let s1 := (s.setInst i y).run i fun _ z => (pureRun z.countCorr).fault 0 0 (hubFault 1 0 z.inWindow 0)
        s1.atDie i fun z => s1.flitGood i east z f
      else s.flitGood i east y f

/-- LINK_TRAIN_DONE (R26, R412, R431): a port in training is up, with its peer's ID. The ports of a package of one lead to no
die and stay down. -/
def State.trainDone (s : State) (i : Nat) (east : Bool) (peer : BitVec 3) : State :=
  match s.peer i east with
  | none => s
  | some _ => s.atDie i fun x =>
    if (x.port east).training then
      s.setInst i (x.setPort east { Port.down with up := true, peer := peer.toNat, sent := (x.port east).sent })
    else s

/-- FLIT_RECEIVE (R430, R431). -/
def execFlitReceive (inst : Nat) (east : Bool) (flit : Flit) (badSymbols : Nat) (s : State) :
    Host.Outcome State Fault Refusal := .next (s.atDie inst (s.flitReceive inst east flit badSymbols))

/-- LINK_DOWN (R431). -/
def execLinkDown (inst : Nat) (east : Bool) (s : State) : Host.Outcome State Fault Refusal :=
  .next ((s.linkFalls inst east).afterLoss s.ss.st)

/-- LINK_TRAIN_DONE (R431). -/
def execLinkTrainDone (inst : Nat) (east : Bool) (peer : BitVec 3) (s : State) : Host.Outcome State Fault Refusal :=
  .next (s.trainDone inst east peer)

end Sys2Proof.Machine
end

