-- ==== Sys2Proof/Machine/Dispatch.lean ====
section
/-! DEFINITION. The meaning of every command: one arm per constructor of Instr, each one direct call. -/

namespace Sys2Proof.Machine

/-- The effect of a command on everything but the queue. -/
def exec (i : Instr) (s : State) : Host.Outcome State Fault Refusal :=
  match i with
  | .vldLoad at_ => Sys2Proof.Machine.execVldLoad at_ s
  | .vldDrain at_ => Sys2Proof.Machine.execVldDrain at_ s
  | .vldFeed at_ => Sys2Proof.Machine.execVldFeed at_ s
  | .vst at_ => Sys2Proof.Machine.execVst at_ s
  | .cvtMemory at_ => Sys2Proof.Machine.execCvtMemory at_ s
  | .cvtVitrine at_ => Sys2Proof.Machine.execCvtVitrine at_ s
  | .scl at_ => Sys2Proof.Machine.execScl at_ s
  | .sclFold at_ => Sys2Proof.Machine.execSclFold at_ s
  | .rnd at_ => Sys2Proof.Machine.execRnd at_ s
  | .clp at_ => Sys2Proof.Machine.execClp at_ s
  | .cmp at_ => Sys2Proof.Machine.execCmp at_ s
  | .sel at_ => Sys2Proof.Machine.execSel at_ s
  | .perm at_ => Sys2Proof.Machine.execPerm at_ s
  | .shuf at_ => Sys2Proof.Machine.execShuf at_ s
  | .pack at_ => Sys2Proof.Machine.execPack at_ s
  | .unpk at_ => Sys2Proof.Machine.execUnpk at_ s
  | .fma at_ => Sys2Proof.Machine.execFma at_ s
  | .fn at_ => Sys2Proof.Machine.execFn at_ s
  | .fnSoftmax at_ => Sys2Proof.Machine.execFnSoftmax at_ s
  | .fnMerge at_ => Sys2Proof.Machine.execFnMerge at_ s
  | .redPlain at_ => Sys2Proof.Machine.execRedPlain at_ s
  | .redRowRecord at_ => Sys2Proof.Machine.execRedRowRecord at_ s
  | .redSoftmaxRecord at_ => Sys2Proof.Machine.execRedSoftmaxRecord at_ s
  | .redOffset at_ => Sys2Proof.Machine.execRedOffset at_ s
  | .redSum at_ => Sys2Proof.Machine.execRedSum at_ s
  | .redMerge at_ => Sys2Proof.Machine.execRedMerge at_ s
  | .steepGather at_ => Sys2Proof.Machine.execSteepGather at_ s
  | .steepSettle at_ => Sys2Proof.Machine.execSteepSettle at_ s
  | .steepSmoothingSettle at_ => Sys2Proof.Machine.execSteepSmoothingSettle at_ s
  | .mash at_ => Sys2Proof.Machine.execMash at_ s
  | .kiln at_ => Sys2Proof.Machine.execKiln at_ s
  | .caskOpen at_ => Sys2Proof.Machine.execCaskOpen at_ s
  | .caskAdd at_ => Sys2Proof.Machine.execCaskAdd at_ s
  | .caskDrain at_ => Sys2Proof.Machine.execCaskDrain at_ s
  | .caskClose at_ => Sys2Proof.Machine.execCaskClose at_ s
  | .loop at_ => Sys2Proof.Machine.execLoop at_ s
  | .waitf at_ => Sys2Proof.Machine.execWaitf at_ s
  | .sigf at_ => Sys2Proof.Machine.execSigf at_ s
  | .summ at_ => Sys2Proof.Machine.execSumm at_ s
  | .msk at_ => Sys2Proof.Machine.execMsk at_ s
  | .tileCommit at_ => Sys2Proof.Machine.execTileCommit at_ s
  | .caskAddCommit c entry => Sys2Proof.Machine.execCaskAddCommit c entry s
  | .caskDrainComplete at_ => Sys2Proof.Machine.execCaskDrainComplete at_ s
  | .caskCloseDone at_ => Sys2Proof.Machine.execCaskCloseDone at_ s
  | .waitfPass at_ => Sys2Proof.Machine.execWaitfPass at_ s
  | .drainBeat c tag beat => Sys2Proof.Machine.execDrainBeat c tag beat s
  | .feedVectorAccept c => Sys2Proof.Machine.execFeedVectorAccept c s
  | .spReadData c resp data => Sys2Proof.Machine.execSpReadData c resp data s
  | .spWriteAck c err => Sys2Proof.Machine.execSpWriteAck c err s
  | .launchRecord c ws => Sys2Proof.Machine.execLaunchRecord c ws s
  | .launchAdmit c => Sys2Proof.Machine.execLaunchAdmit c s
  | .launchFetchDone at_ => Sys2Proof.Machine.execLaunchFetchDone at_ s
  | .transferRequest c ws lines => Sys2Proof.Machine.execTransferRequest c ws lines s
  | .mailboxRecord c ws => Sys2Proof.Machine.execMailboxRecord c ws s
  | .mbHeldPostRelease c => Sys2Proof.Machine.execMbHeldPostRelease c s
  | .outboundWordAccept c => Sys2Proof.Machine.execOutboundWordAccept c s
  | .mbDelivery inst m => Sys2Proof.Machine.execMbDelivery inst m s
  | .xlateAnswer inst tag ans => Sys2Proof.Machine.execXlateAnswer inst tag ans s
  | .resolveNotice inst asid vpn all => Sys2Proof.Machine.execResolveNotice inst asid vpn all s
  | .invalidation inst kind asid vpn pages => Sys2Proof.Machine.execInvalidation inst kind asid vpn pages s
  | .xferFencePass inst x => Sys2Proof.Machine.execXferFencePass inst x s
  | .xferStagingReserve inst => Sys2Proof.Machine.execXferStagingReserve inst s
  | .seReadReturn inst tag lower upper => Sys2Proof.Machine.execSeReadReturn inst tag lower upper s
  | .xferCommitPoint inst x => Sys2Proof.Machine.execXferCommitPoint inst x s
  | .seWriteDone inst tag err => Sys2Proof.Machine.execSeWriteDone inst tag err s
  | .collPoll inst x gather idx => Sys2Proof.Machine.execCollPoll inst x gather idx s
  | .collLocalPacket inst sender => Sys2Proof.Machine.execCollLocalPacket inst sender s
  | .collTimeout inst x => Sys2Proof.Machine.execCollTimeout inst x s
  | .chCreate w xl => Sys2Proof.Machine.execChCreate w xl s
  | .chCreateDone inst vc fault => Sys2Proof.Machine.execChCreateDone inst vc fault s
  | .chStart w => Sys2Proof.Machine.execChStart w s
  | .chPreempt w => Sys2Proof.Machine.execChPreempt w s
  | .preemptStopDone inst vc => Sys2Proof.Machine.execPreemptStopDone inst vc s
  | .contextSaveDone inst vc fault => Sys2Proof.Machine.execContextSaveDone inst vc fault s
  | .chResume w => Sys2Proof.Machine.execChResume w s
  | .saveCheckDone inst vc area => Sys2Proof.Machine.execSaveCheckDone inst vc area s
  | .chDestroy w => Sys2Proof.Machine.execChDestroy w s
  | .destroyScrubDone inst vc fault => Sys2Proof.Machine.execDestroyScrubDone inst vc fault s
  | .chQuery w led => Sys2Proof.Machine.execChQuery w led s
  | .schedAdmit inst => Sys2Proof.Machine.execSchedAdmit inst s
  | .restoreDone inst vc area => Sys2Proof.Machine.execRestoreDone inst vc area s
  | .schedEvict inst => Sys2Proof.Machine.execSchedEvict inst s
  | .keyLoad inst word => Sys2Proof.Machine.execKeyLoad inst word s
  | .keyClear inst word => Sys2Proof.Machine.execKeyClear inst word s
  | .instanceKeyProvision inst key lastOnBeat3 => Sys2Proof.Machine.execInstanceKeyProvision inst key lastOnBeat3 s
  | .mbAlloc inst => Sys2Proof.Machine.execMbAlloc inst s
  | .mbFree inst => Sys2Proof.Machine.execMbFree inst s
  | .mbSend inst => Sys2Proof.Machine.execMbSend inst s
  | .mbTake inst => Sys2Proof.Machine.execMbTake inst s
  | .ssOpen => Sys2Proof.Machine.execSsOpen s
  | .ssDataWrite w => Sys2Proof.Machine.execSsDataWrite w s
  | .ssClose => Sys2Proof.Machine.execSsClose s
  | .ssCloseDone => Sys2Proof.Machine.execSsCloseDone s
  | .ssCommit => Sys2Proof.Machine.execSsCommit s
  | .ssCommitDone => Sys2Proof.Machine.execSsCommitDone s
  | .registerWrite addr data => Sys2Proof.Machine.execRegisterWrite addr data s
  | .rcRead addr => Sys2Proof.Machine.execRcRead addr s
  | .ctlForward xl led => Sys2Proof.Machine.execCtlForward xl led s
  | .fenceWrite inst idx val => Sys2Proof.Machine.execFenceWrite inst idx val s
  | .flushUnbound c => Sys2Proof.Machine.execFlushUnbound c s
  | .pwrWake inst data => Sys2Proof.Machine.execPwrWake inst data s
  | .pwrOffRequest inst data => Sys2Proof.Machine.execPwrOffRequest inst data s
  | .offReady inst => Sys2Proof.Machine.execOffReady inst s
  | .instReset inst byPin => Sys2Proof.Machine.execInstReset inst byPin s
  | .instResetDone inst failed hubFail => Sys2Proof.Machine.execInstResetDone inst failed hubFail s
  | .cellReset inst cell => Sys2Proof.Machine.execCellReset inst cell s
  | .cellResetDone inst => Sys2Proof.Machine.execCellResetDone inst s
  | .powerOnReset inst pos => Sys2Proof.Machine.execPowerOnReset inst pos s
  | .powerOnResetDone inst failed hubFail => Sys2Proof.Machine.execPowerOnResetDone inst failed hubFail s
  | .fltInject inst data => Sys2Proof.Machine.execFltInject inst data s
  | .residueMismatch c cask slot index => Sys2Proof.Machine.execResidueMismatch c cask slot index s
  | .lockstepMismatch c slot => Sys2Proof.Machine.execLockstepMismatch c slot s
  | .selfTestDone c pass => Sys2Proof.Machine.execSelfTestDone c pass s
  | .hubVoteMismatch inst copy index => Sys2Proof.Machine.execHubVoteMismatch inst copy index s
  | .sePortMismatch inst port enc x index permanent => Sys2Proof.Machine.execSePortMismatch inst port enc x index permanent s
  | .uncorrectableWord inst word index address => Sys2Proof.Machine.execUncorrectableWord inst word index address s
  | .docentAccess inst errs where_ index address lastWord => Sys2Proof.Machine.execDocentAccess inst errs where_ index address lastWord s
  | .clockLoss inst => Sys2Proof.Machine.execClockLoss inst s
  | .flitReceive inst east flit badSymbols => Sys2Proof.Machine.execFlitReceive inst east flit badSymbols s
  | .linkDown inst east => Sys2Proof.Machine.execLinkDown inst east s
  | .linkTrainDone inst east peer => Sys2Proof.Machine.execLinkTrainDone inst east peer s
  | .pwrTick inst => Sys2Proof.Machine.execPwrTick inst s
  | .pwrEntryDone inst => Sys2Proof.Machine.execPwrEntryDone inst s
  | .pwrEventExit inst => Sys2Proof.Machine.execPwrEventExit inst s
  | .pwrExitDone inst => Sys2Proof.Machine.execPwrExitDone inst s
  | .cellGate c => Sys2Proof.Machine.execCellGate c s
  | .testStateEnter inst op => Sys2Proof.Machine.execTestStateEnter inst op s
  | .ctlErrorResponse acc size => Sys2Proof.Machine.execCtlErrorResponse acc size s
  | .reservedKindRecord c ws => Sys2Proof.Machine.execReservedKindRecord c ws s

end Sys2Proof.Machine
end

