-- ==== Sys2Proof/Safety.lean ====
section
/-! DEFINITION. What counts as a well-kept state of the block, where commands act, and what an instruction of a tile
program leaves unchanged, in the terms that claims use. -/

namespace Sys2Proof

open Sys2Proof.Machine

/-! ### Invariants -/

/-- The load window stays inside its staging buffer: at most 65,536 words, a state of R353, a digest exactly while the
window is CLOSED or COMMITTING (R353, R356). -/
def LoadWinOk (l : LoadWin) : Prop :=
  l.words.length ≤ 65536 ∧ l.st ≤ 4 ∧ (l.st = 3 ∨ l.st = 4 ↔ l.digest ≠ [])

/-- The load window of the package is well kept. -/
def Inv (s : State) : Prop := LoadWinOk s.ss

/-! ### Where a command acts -/

/-- Die i of the package is x, and it is at work: in RUN or IDLE and not on the way deeper, in no reset, not fail-stopped,
with clocks, not in OFF or test state (R402, R389, R375, R410, R411, R436). -/
def AtWork (s : State) (i : Nat) (x : Inst) : Prop := s.insts[i]? = some x ∧ x.awake = true

/-- Die i of the package is x, and its hub runs, awake or asleep. -/
def Alive (s : State) (i : Nat) (x : Inst) : Prop := s.insts[i]? = some x ∧ x.alive = true

/-- Die i of the package is x, and cell n of it is built (R15, R32). -/
def Built (s : State) (a : CellAt) (x : Inst) : Prop := s.insts[a.inst]? = some x ∧ a.cell < x.cellsBuilt

/-- The cell may work: it is not paused by a recovery, was not retired, and passed its self-test (R381, R383, R437). -/
def CellUp (x : Inst) (n : Nat) : Prop :=
  (x.cell n).paused = false ∧ x.flt.quiesced.getLsbD n = false ∧ x.lstFail.getLsbD n = false

/-- The cell of a slot. -/
def Site.at_ (a : Site) : CellAt := { inst := a.inst, cell := a.cell }

/-- The command that issues an instruction at a slot; that of a feed request brings its prologue (R168, R198). -/
def cmdOf (o : TileOp) (a : Site) (pro : Prologue := .none) : Instr :=
  match o with
  | .vldLoad .. => .vldLoad a
  | .vldDrain .. => .vldDrain a
  | .vldFeed .. => .vldFeed { site := a, pro := pro }
  | .vst .. => .vst a
  | .cvtMemory .. => .cvtMemory a
  | .cvtVitrine .. => .cvtVitrine a
  | .scl .. => .scl a
  | .sclFold .. => .sclFold a
  | .rnd .. => .rnd a
  | .clp .. => .clp a
  | .cmp .. => .cmp a
  | .sel .. => .sel a
  | .perm .. => .perm a
  | .shuf .. => .shuf a
  | .pack .. => .pack a
  | .unpk .. => .unpk a
  | .fma .. => .fma a
  | .fn .. => .fn a
  | .fnSoftmax .. => .fnSoftmax a
  | .fnMerge .. => .fnMerge a
  | .redPlain .. => .redPlain a
  | .redRowRecord .. => .redRowRecord a
  | .redSoftmaxRecord .. => .redSoftmaxRecord a
  | .redOffset .. => .redOffset a
  | .redSum .. => .redSum a
  | .redMerge .. => .redMerge a
  | .steepGather .. => .steepGather a
  | .steepSettle .. => .steepSettle a
  | .steepSmoothing .. => .steepSmoothingSettle a
  | .mash .. => .mash a
  | .kiln .. => .kiln a
  | .caskOpen .. => .caskOpen a
  | .caskAdd .. => .caskAdd a
  | .caskDrain .. => .caskDrain a
  | .caskClose .. => .caskClose a
  | .loop .. => .loop a
  | .waitf .. => .waitf a
  | .sigf .. => .sigf a
  | .summ .. => .summ a
  | .msk .. => .msk a

/-- The next instruction of slot a of instance x is o, and it issues: instance and cell are at work, the program runs and
waits for nothing, its channel is RUNNING, its tile has not ended, no register of o is still to be filled by a drained tile,
no close of the channel is in progress on any cell, and no injected fault is armed (R203, R212, R217, R134, R394). -/
def Ready (s : State) (a : Site) (x : Inst) (o : TileOp) : Prop :=
  AtWork s a.inst x ∧ a.cell < x.cellsBuilt ∧ CellUp x a.cell
    ∧ (x.slot a.cell a.slot).phase = .running ∧ (x.slot a.cell a.slot).wait = .ready
    ∧ (x.slot a.cell a.slot).nextOp = some o
    ∧ (x.vc (ownerOf (x.slot a.cell a.slot).launch)).st = .running
    ∧ ((x.slot a.cell a.slot).idx = (x.slot a.cell a.slot).tile.start ∨ (x.slot a.cell a.slot).atEdge = false)
    ∧ (x.slot a.cell a.slot).held o = false
    ∧ x.closing (ownerOf (x.slot a.cell a.slot).launch) = false ∧ x.flt.injected = none

/-! ### What an instruction leaves unchanged -/

/-- Instance y is x but for its cell n. -/
def OnlyCell (x y : Inst) (n : Nat) : Prop := y = { x with cells := y.cells } ∧ ∀ m, m ≠ n → y.cell m = x.cell m

/-- Cell d is c but for the vitrines in `vs`, the masks in `ms` and its slot k. -/
def OnlyRegs (c d : Cell) (k : Nat) (vs ms : List Nat) : Prop :=
  d = { c with vits := d.vits, masks := d.masks, slots := d.slots }
    ∧ (∀ i, i ∉ vs → d.vit i = c.vit i) ∧ (∀ i, i ∉ ms → d.mask i = c.mask i) ∧ ∀ j, j ≠ k → d.slot j = c.slot j

/-- Issued at slot a of x, the instruction o runs to its end at once and works on registers alone: the package, the other
cells, everything else of its own cell, all vitrines but those in `vs` and all masks but those in `ms` stay, the slot moves
on with the ledger update `led` in its tile, and `out` holds of the cell afterwards. -/
def LaneRun (o : TileOp) (s : State) (a : Site) (x : Inst) (vs ms : List Nat) (led : Led) (out : Cell → Prop) : Prop :=
  ∃ y, exec (cmdOf o a) s = .next (s.setInst a.inst y) ∧ OnlyCell x y a.cell
    ∧ OnlyRegs (x.cell a.cell) (y.cell a.cell) a.slot vs ms
    ∧ y.slot a.cell a.slot = ((x.slot a.cell a.slot).addLed led).next
    ∧ out (y.cell a.cell)

/-! ### Lanes (R209, R211, R215) -/

/-- What a source operand supplies at position (r, c). -/
def srcElem (d : Cell) (launch : List Word) (o r c : Nat) : Word :=
  match opMode o with
  | 0 => elemAt (d.vit (opVit o)) r c
  | 1 => elemAt (d.vit (opVit o)) (opK o) c
  | 2 => elemAt (d.vit (opVit o)) r (opK o)
  | _ => scalarOf launch (opK o)

/-- Position (r, c) belongs to a destination shape. -/
def inShape (o r c : Nat) : Bool :=
  match opMode o with
  | 1 => r == opK o
  | 2 => c == opK o
  | _ => true

/-- The lane's bit is 1 in the mask that a field names, or the field names none. -/
def maskOn (d : Cell) (mk r c : Nat) : Bool := !bitOf mk 3 || (d.mask (fld mk 2 0)).getLsbD (32 * r + c)

/-- The lane is enabled for an instruction that names no descriptor: its named mask and its loop's tail mask. -/
def laneOpen (d : Cell) (k : Slot) (mk r c : Nat) : Bool := maskOn d mk r c && k.loopTail.getLsbD (32 * r + c)

/-- The sum of the ledger updates of all lanes, in lane order. -/
def laneSum (f : Nat → Nat → Led) : Led := Led.sum ((List.range 1024).map fun p => f (p / 32) (p % 32))

/-- The instruction o writes the vitrine of operand field dst: at the positions of its shape whose lanes are enabled, the
first part of f, with the second part for the ledger; the other elements stay. -/
def VitRun (o : TileOp) (s : State) (a : Site) (x : Inst) (dst mk : Nat) (f : Nat → Nat → Word × Led) : Prop :=
  let d := x.cell a.cell
  let on (r c : Nat) : Bool := laneOpen d (x.slot a.cell a.slot) mk r c && inShape dst r c
  LaneRun o s a x [opVit dst] [] (laneSum fun r c => if on r c then (f r c).2 else Led.zero) fun d1 =>
    ∀ r c, r < 32 → c < 32 →
      elemAt (d1.vit (opVit dst)) r c = if on r c then (f r c).1 else elemAt (d.vit (opVit dst)) r c

/-- The instruction o rewrites columns of the step vector sv in all rows (R186): `cols` gives the new columns, columns 7 to
31 become +0, the other columns stay. -/
def StepRun (o : TileOp) (s : State) (a : Site) (x : Inst) (sv : Nat) (led : Led) (cols : Nat → Nat → Option Word) : Prop :=
  LaneRun o s a x [sv] [] led fun d1 => ∀ r c, r < 32 → c < 32 →
    elemAt (d1.vit sv) r c = match cols r c with
      | some w => w
      | none => if 7 ≤ c then 0#32 else elemAt ((x.cell a.cell).vit sv) r c

/-! ### Memory (R295 to R301) -/

/-- Who the instruction o of slot k reads casks as: a VLD as its channel, any other as a stranger (R135). -/
def readerOf (o : TileOp) (k : Slot) : Option Nat := if o.isVld then some (ownerOf k.launch) else none

/-- Every byte at the addresses `as` can be read now by the instruction o of slot a of x: cached translations permit it (pages
`ps`, entries `us`), none lies in a range of an open cask that it may not read or that an earlier add of the slot still
writes, and the slot holds every line without an error. -/
def Held (o : TileOp) (a : Site) (x : Inst) (as : List Adr) (ps us : List (Nat × Nat)) : Prop :=
  let k := x.slot a.cell a.slot
  x.trans a.cell (x.vc (ownerOf k.launch)).asid false as = .ok ps us
    ∧ (x.cell a.cell).caskHit (readerOf o k) (as.map (offOf ps)) = false
    ∧ (x.cell a.cell).addsWrite a.slot (as.map (offOf ps)) = false
    ∧ (∀ b ∈ as, ∃ l ∈ k.readBuf, l.line = offOf ps b / 64) ∧ ∀ l ∈ k.readBuf, l.resp = 0

/-- Every address of `ws` can be written: cached translations permit it, and none lies in an open cask. -/
def Placed (a : Site) (x : Inst) (ws : List Adr) (ps us : List (Nat × Nat)) : Prop :=
  x.trans a.cell (x.vc (ownerOf (x.slot a.cell a.slot).launch)).asid true ws = .ok ps us
    ∧ (x.cell a.cell).caskHit none (ws.map (offOf ps)) = false

/-- Issued at slot a of x, the instruction o has run to its end and changed its cell alone, to what `d` gives of the
translations that its tile has used. -/
def MemEnds (o : TileOp) (s : State) (a : Site) (x : Inst) (d : List (Nat × Nat) → Cell) : Prop :=
  ∃ y used, exec (cmdOf o a (x.slot a.cell a.slot).prologue) s = .next (s.setInst a.inst y) ∧ OnlyCell x y a.cell
    ∧ y.cell a.cell = d used

/-- Issued at slot a of x, the instruction o has run to its end with the output `m`, its bytes placed by the pages `ps`:
registers, commit buffer and ledger take it, and nothing else changes but the translations that the tile has used. -/
def MemRun (o : TileOp) (s : State) (a : Site) (x : Inst) (m : MemOut) (ps : List (Nat × Nat)) : Prop :=
  let c := x.cell a.cell
  let k := c.slot a.slot
  MemEnds o s a x fun used => (c.writeRegs m.vits m.masks).setSlot a.slot
    { k.next with tile := { k.tile with
        led := k.tile.led.add m.led, used := used
        writes := k.tile.writes ++ m.writes.map fun w => { addr := offOf ps w.1, byte := w.2, index := k.idx } } }

/-- As for MemRun, of a gather with the record updates `g`: its tile holds them for its commit (R82). -/
def GatherRun (o : TileOp) (s : State) (a : Site) (x : Inst) (g : Gather) : Prop :=
  let c := x.cell a.cell
  let k := c.slot a.slot
  MemEnds o s a x fun used => c.setSlot a.slot
    { k.next with tile := { k.tile with used := used, gathers := k.tile.gathers ++ [g] } }

/-- As for MemRun, of a feed request: its operand vectors wait at the port, but for those that the multiplier took before a
re-run, its ledger events wait for their consumer, and no window of it stays open (R143, R157, R159, R219). -/
def FeedRun (o : TileOp) (s : State) (a : Site) (x : Inst) (m : MemOut) : Prop :=
  let c := x.cell a.cell
  let k := c.slot a.slot
  let t := k.tile
  let old := min t.fedOld m.feed.length
  MemEnds o s a x fun used => { ((c.openWins a.slot).closeWins a.slot).setSlot a.slot
      { k.next with
        feedNew := if t.given.contains t.feeds then k.feedNew else k.feedNew ++ [(t.feeds, m.led)]
        tile := { t with used := used, feeds := t.feeds + 1, fedOld := t.fedOld - old } } with
    feedQ := c.feedQ ++ (m.feed.drop old).map fun v => { v with slot := a.slot } }

/-! ### What the kiln writes -/

/-- An element x of lane (r, c) as the kiln stores it in a tile of d under zero point zp and scale exponent k (R59, R60). -/
def stored (d : Desc) (env : KEnv) (f : Fmt) (t : TIdx) (zp : Nat) (k : Int) (r c : Nat) (x : XV) : Enc :=
  encodeElem env.tabs f d.nw.mode zp d.nw.rnd d.nw.sat (env.draw d.nw (d.laneIndex t r c)) (x.scale (-k))

/-- The codes, by column, and the scale byte of the block of lanes (r, c) to (r, c + 15) or (r, c + 31) whose valid elements are
`xs`: the byte that R76 to R79 derive from their largest magnitude, and each element under it; a NaN block where an element needs
the NaN rule (R56). Under a NaN tensor byte t every element is NaN (mode 5). -/
def storedBlock (d : Desc) (env : KEnv) (f : Fmt) (t : TIdx) (tb r c : Nat) (xs : Nat → Option KIn) : (Nat → Nat) × Nat :=
  let ys (j : Nat) : Option KIn := if d.nw.mode = 5 ∧ tb = 127 then (xs j).map fun _ => KIn.plain .nan else xs j
  let byte := (blockByte env.tabs f d.nw tb (blockAmax ((List.range d.nw.block).map fun j => ys (c + j)))).1
  let k := (addExp (scaleExp d.nw.mode byte) (if d.nw.mode = 5 then scaleExp 5 tb else some 0)).getD 0
  let code (j : Nat) : Option Enc := (ys j).map fun x => stored d env f t 0 k r j x.val
  if (List.range d.nw.block).any fun j => (code (c + j)).any fun e => e.nanRule then
    (fun _ => 0, if d.nw.mode = 4 then 255 else 127)
  else (fun j => ((code j).map fun e => e.code).getD 0, byte)

/-- The bytes, elements before scales, that an encode of the lanes `en` of tile t of d writes (R54, R58, R72, R107, R108, R224):
lane (r, c) holds `v r c`, `rd` reads the bytes that the encode asks for, and `direct r` gives the codes and the scale byte of a
row that a transcode copies. A mode without blocks stores the enabled lanes under the supplied scale, and NaN under a NaN scale; a
block mode stores every block inside the extent, its disabled lanes with code 0, and the tail behind the tensor's last block. -/
def encoded (d : Desc) (env : KEnv) (f : Fmt) (rd : Nat → Nat) (t : TIdx) (direct : Nat → Option ((Nat → Nat) × Nat)) (en : Mask)
    (v : Nat → Nat → KIn) : List (Nat × Byte) :=
  let n := d.nw
  let val (r c : Nat) : KIn := (v r c).scale (.fin false 1 1) d.shift
  let rows (code : Nat → Nat → Nat) (wr : Nat → Nat → Bool) : List (Nat × Byte) := (List.range 32).flatMap fun r =>
    let o : RowOut := { codes := (List.range 32).map (code r), wr := (List.range 32).map (wr r), scales := [], led := Led.zero }
    if (List.range 32).any (wr r) then o.bytes d.bits (d.tileCols t) (d.tileRow t r) rd else []
  if n.isBlock then
    let tb := if n.mode = 5 then d.tensorByte rd else 0
    let inside (r c : Nat) : Bool := decide (32 * t.t1 + r < d.e1 ∧ 32 * t.t0 + c < d.e0 ∧ t.t2 < d.e2 ∧ t.t3 < d.e3)
    let first (c : Nat) : Nat := c / n.block * n.block
    let block (r c : Nat) : (Nat → Nat) × Nat :=
      let own := storedBlock d env f t tb r c fun j => if laneOn en r j then some (val r j) else none
      if (List.range n.block).any fun j => laneOn en r (c + j) then (direct r).getD own else own
    let bytes := (List.range 32).flatMap fun r => (d.blockCols.filter (inside r)).map fun c => (d.posOf t r c, (block r c).2)
    rows (fun r c => if inside r (first c) then (block r (first c)).1 c else 0) (fun r c => inside r (first c))
      ++ bytes.map (fun p => (d.scale + p.1, if n.mode = 4 then BitVec.ofNat 8 p.2 else seqByte d.seed p.1 p.2))
      ++ (if n.checked && bytes.any (fun p => decide (p.1 + 1 = d.positions)) then d.tailBytes tb else [])
  else
    let code (r c : Nat) : Nat := match d.laneScale f rd t r 0 with
      | (some k, zp) => (stored d env f t zp k r c (val r c).val).code
      | (none, zp) => (stored d env f t zp 0 r c .nan).code
    rows (fun r c => if laneOn en r c then code r c else 0) (laneOn en)

/-- What a steep record holds of the valid elements `xs` of its group (R81, R82): their count, whether a NaN, +∞ or −∞ is among
them, and the largest magnitude, the smallest and the largest value of the finite ones. -/
def Folds (xs : List Word) (r : Steep) : Prop :=
  let fin := xs.filter f32IsFinite
  r.count = xs.length
    ∧ (r.flags.testBit 2 = xs.any fun w => decide (f32 w = XV.nan)) ∧ (r.flags.testBit 1 = xs.any fun w => decide (f32 w = XV.inf false))
    ∧ (r.flags.testBit 0 = xs.any fun w => decide (f32 w = XV.inf true))
    ∧ r.amax = fin.foldl (fun m w => fMax m (w &&& 0x7FFFFFFF#32)) 0#32
    ∧ r.vmin = fin.foldl fMin 0x7F800000#32 ∧ r.vmax = fin.foldl fMax 0xFF800000#32

/-- The command `i` changes one cell alone, to d. -/
def CellRun (i : Instr) (s : State) (a : CellAt) (x : Inst) (d : Cell) : Prop :=
  exec i s = .next (s.setInst a.inst (x.setCell a.cell d))

/-- The command `i` changes one slot alone, to k1. -/
def SlotRun (i : Instr) (s : State) (a : Site) (x : Inst) (k1 : Slot) : Prop :=
  CellRun i s a.at_ x ((x.cell a.cell).setSlot a.slot k1)

/-- Slot k of a cell once the tile in progress has ended and another begins at instruction `idx` (R217): ledger events of feed
requests that no consumer has taken stay with it (R159). -/
def nextTile (k : Slot) (idx : Nat) (l : Option LoopSt) : Slot :=
  { k with idx := idx, loop := l, tile := TileBuf.at idx l k.mash k.feedEvents, readBuf := [], feedOld := k.feedEvents
           feedNew := [], wait := .ready }

/-- Where the program of a slot stands after the tile that ends at its present index: the loop's next iteration, past the
loop, or the same index (R213, R217). -/
def afterTile (k : Slot) : Nat × Option LoopSt :=
  match k.loop with
  | some l =>
    if k.idx = l.start + l.len then
      if l.it + 1 < l.total then (l.start, some { l with it := l.it + 1 }) else (k.idx, none)
    else (k.idx, some l)
  | none => (k.idx, none)

/-- Instance x after the tile of slot k of cell n has committed, while its program goes on (R103, R152, R217, R244): the
channel's ledger, the drained tiles that it bound, its summaries in order, a cask that its drain closes, and the slot at
its next tile. -/
def tileDone (x : Inst) (n j : Nat) : Inst :=
  let k := x.slot n j
  let v := ownerOf k.launch
  let x1 := x.book v (k.tile.led.add { Led.zero with tiles := 1 })
  let c0 := (k.tile.bound ++ k.tile.kept).foldl Cell.freeTile (((x.cell n)).settled j)
  let c1 := k.tile.sums.foldl (fun c m => c.postSummary (launchTag k.launch) m.code.toNat
    (m.val.getD (BitVec.ofNat 32 (x1.vc v).led.flags.toNat))) c0
  let c2 := match k.tile.closes with
    | some p => if c1.casks.any (fun q => q.1 == p.1 && q.2.no == p.2) then (c1.releaseCask p.1).runAdds else c1
    | none => c1
  x1.setCell n (c2.setSlot j (nextTile k (afterTile k).1 (afterTile k).2))

/-- The fence increments of the tile in progress of a slot (R242). -/
def tileSigs (k : Slot) : List Eff := k.tile.sigs.map fun p => .fenceAdd p.1 p.2

/-- The program of a slot goes on after the tile that ends at its present index. -/
def GoesOn (k : Slot) : Prop := (afterTile k).1 < k.prog.length

/-- The tile in progress of a slot is complete (R217): at its boundary, every consumer of it has its beats, its operand vectors
are taken, the slot's earlier adds have committed, and its summaries have places; no injected fault is armed. -/
def TileReady (s : State) (a : Site) (x : Inst) : Prop :=
  let c := x.cell a.cell
  let k := c.slot a.slot
  AtWork s a.inst x ∧ a.cell < x.cellsBuilt ∧ CellUp x a.cell ∧ k.phase = .running ∧ k.wait = .ready
    ∧ k.idx ≠ k.tile.start ∧ k.atEdge = true ∧ k.fills = [] ∧ c.addsOpen a.slot = false
    ∧ c.feedQ.all (fun f => f.slot != a.slot) ∧ (k.tile.sums = [] ∨ c.summaries + c.reserved + min k.tile.sums.length 16 ≤ 16)
    ∧ x.flt.injected = none

/-- The entry of a cask table. -/
def Cell.caskAt (c : Cell) (e : Nat) : Option Cask := (c.casks.find? fun p => p.1 == e).map Prod.snd

/-- The cask table is well kept (R122, R127, R129): its entries rise, their ranges lie in the window and apart, and each cask has
issued the adds that have committed and those in progress, no more than its A. -/
def CasksOk (c : Cell) : Prop :=
  (c.casks.map Prod.fst).Pairwise (· < ·)
    ∧ (∀ p ∈ c.casks, p.2.base + 0x4000 ≤ 2 ^ 20 ∧ p.2.I = p.2.D + p.2.adds.length ∧ p.2.I ≤ p.2.A)
    ∧ c.casks.Pairwise fun p q => p.2.base + 0x4000 ≤ q.2.base ∨ q.2.base + 0x4000 ≤ p.2.base

/-! ### The hub -/

/-- The command `i` changes die j alone, from x to y, and the package gets the effects `es`. -/
def HubRun (i : Instr) (s : State) (j : Nat) (y : Inst) (es : List Eff) : Prop :=
  exec i s = .next ((s.setInst j y).effs j es)

/-- The command `i` changes die j alone, to y with the effects `es`; the repeats of faults that have ended with it are recorded
behind them (R393). -/
def MendRun (i : Instr) (s : State) (j : Nat) (y : Inst) (es : List Eff) : Prop :=
  let r := ({ x := y, effs := es } : Run).mended
  HubRun i s j r.x r.effs

/-- The control port takes an access: fewer than eight are outstanding, and the first of them has no answer (R342). -/
def PortOpen (s : State) : Prop := s.fwd.length < 8 ∧ ∀ f rest, s.fwd = f :: rest → f.ans = none

/-- State t with the answer of an access: it leaves, or waits behind those of earlier accesses (R342). -/
def replied (t : State) (r : CtlResp) : State :=
  if t.fwd = [] then { t with resp := [r] } else { t with fwd := t.fwd ++ [Fwd.answered r] }

/-- State t with an answer without error. That the answer of a write carries the data 0 is the model's choice (log entry 9). -/
def granted (t : State) (data : Word) : State := replied t { err := false, data := data }

/-- The instance, the offset and the word of the write at the control port that a command with a row of its own is (R341). -/
def rowWrite : Instr → Nat × Nat × Word
  | .chCreate w _ => (w.win, 0x800, chWord 1 w)
  | .chStart w => (w.win, 0x800, chWord 2 w)
  | .chPreempt w => (w.win, 0x800, chWord 3 w)
  | .chResume w => (w.win, 0x800, chWord 4 w)
  | .chDestroy w => (w.win, 0x800, chWord 5 w)
  | .chQuery w _ => (w.win, 0x800, chWord 6 w)
  | .keyLoad i w => (i, 0x2800, w)
  | .keyClear i w => (i, 0x2800, w)
  | .mbAlloc i => (i, 0x400, 1)
  | .mbFree i => (i, 0x400, 2)
  | .mbSend i => (i, 0x400, 3)
  | .mbTake i => (i, 0x400, 4)
  | .ssOpen => (0, 0x4000, 1)
  | .ssClose => (0, 0x4000, 2)
  | .ssCommit => (0, 0x4000, 3)
  | .ssDataWrite w => (0, 0x4004, w)
  | .fenceWrite i k w => (i, 0x3000 + 4 * k, w)
  | .flushUnbound a => (a.inst, 0x100C8 + 0x1000 * a.cell, 0x80000000)
  | .pwrWake i w => (i, 0x2004, w)
  | .pwrOffRequest i w => (i, 0x200C, w)
  | .instReset i _ => (i, 0x2010, 0x80000000)
  | .cellReset i n => (i, 0x2010, BitVec.ofNat 32 (0x10000 + n.toNat))
  | .fltInject i w => (i, 0x1070, w)
  | _ => (0, 0, 0)

/-- State s with the write of a row forwarded behind the accesses that are outstanding (R342). -/
def forwarded (s : State) (p : Nat × Nat × Word) : State :=
  { s with fwd := s.fwd ++ [{ acc := { addr := BitVec.ofNat 24 (p.1 * 2 ^ 21 + p.2.1), we := true, data := p.2.2 }, at_ := 0, ans := none }] }

/-- What the command `i`, a write at the control port, leaves of state s: t with the answer of a write, whose data 0 is the model's
choice (log entry 9); or s with the write forwarded, as long as an older access to its instance is outstanding (R342). -/
def served (i : Instr) (s t : State) : State := if s.behind (rowWrite i).1 then forwarded s (rowWrite i) else granted t 0

/-- The command `i` is a write at the control port that changes die j alone, to y, and is answered without an error, with the
data 0 (log entry 9), or is forwarded behind an older access to its instance. -/
def CtlRun (i : Instr) (s : State) (j : Nat) (y : Inst) : Prop := exec i s = .next (served i s (s.setInst j y))

/-- A command of the window of die w.win ends (R268): die w.win becomes y, the package gets the effects `es`, and the window
shows the command's number with its code, not busy, changed further by f; the write is answered with the data 0 (log entry 9),
or is forwarded behind an older access to its instance. -/
def WinRun (i : Instr) (s : State) (w : ChCmd) (y : Inst) (es : List Eff) (code : Nat) (f : ChWin → ChWin) : Prop :=
  exec i s = .next (served i s (((s.setInst w.win y).effs w.win es).setWin w.win fun win =>
    f { win with result := BitVec.ofNat 32 (w.cmdId.toNat * 2 ^ 16 + code), busy := none }))

/-! ### Transfers -/

/-- Instance x without a transfer, whose outstanding requests nobody waits for. -/
def without (x : Inst) (t : Xfer) : Inst := { x.orphanReqs t.id with xfers := x.xfers.filter fun u => u.id != t.id }

/-- What a transfer that ends with an error leaves (R312, R314): its record, and its signal fence in the error state. -/
def xferErrs (t : Xfer) (code bytes : Nat) : List Eff :=
  .record (xferRecord t (wordAt t.words 0) code bytes false false)
    :: if xSigEn t.words then [.fenceErr (xSigFence t.words) code] else []

/-- What a transfer that ends well leaves (R307, R312): its signal, then its record. -/
def xferEnds (t : Xfer) (empty : Bool) : List Eff :=
  (if xSigEn t.words then [.fenceAdd (xSigFence t.words) (xSigInc t.words)] else [])
    ++ [.record (xferRecord t (wordAt t.words 0) 0 t.bytes empty false)]

/-! ### Channels -/

/-- Instance y differs from x in its cells and in virtual channel v, which is c. -/
def OnlyVc (x y : Inst) (v : Nat) (c : Vc) : Prop :=
  y = { x with cells := y.cells, vcs := y.vcs } ∧ y.vc v = c ∧ ∀ u, u ≠ v → y.vc u = x.vc u

/-! ### Faults -/

/-- Instance x with a posted fault record in its registers (R393, R394): the log takes it unless it is valid already. -/
def logged (x : Inst) (code : Nat) (ws : List Word) : Inst :=
  let flt := if x.flt.logValid then x.flt else { x.flt with logValid := true, log := ws.drop 2 }
  { x with flt := { flt with lastCode := code }, intStat := x.intStat ||| 1#4 }

/-- The command `i` posts a fault record on die j, which is x but for the record's registers (R392 to R394). -/
def FaultRun (i : Instr) (s : State) (j : Nat) (x : Inst) (code : Nat) (handle : Word) (f : FaultInfo) : Prop :=
  HubRun i s j (logged x code (faultRecord x code handle x.ticks f))
    [.fault (faultRecord x code handle x.ticks f) (!x.flt.logValid)]

end Sys2Proof
end

