-- ==== Sys2Proof/Certificates/Slice0/Obligations.lean ====
section
/-! DEFINITION. The statements of the model: what each command of the block does, by the rules of the spec. A statement about
the issue of an instruction of a tile program assumes `Ready`; one about a command of the hub assumes `AtWork` or `Alive`. -/

open Sys2Proof Sys2Proof.Machine

/-! ### The queue -/

/-- A step takes the command at the front of the queue and runs it with the queue's rest; an empty queue idles (log entry
4). -/
def Obligations.StepRunsFront : Prop :=
  (∀ (c : Instr) (rest : List Instr) (s : State), step { s with pending := c :: rest } = exec c { s with pending := rest })
    ∧ ∀ s : State, s.pending = [] → step s = .next s

/-! ### Instructions that work on vitrines, masks and scalars -/

/-- SCL, CLP, FMA and FN compute every enabled lane of their destination shape from their operands' lanes (R68, R69, R96,
R233, R236, R237), with the ledger updates of those lanes; FMA with a rounding mode that R68 accepts. Nothing else changes. It
rests on readings that are the model's (log entry 27). -/
def Obligations.LaneArithmetic : Prop := ∀ s a x,
  let src := srcElem (x.cell a.cell) (x.slot a.cell a.slot).launch
  (∀ mk dst p q kmode sat, Ready s a x (.scl mk dst p q kmode sat) →
    VitRun (.scl mk dst p q kmode sat) s a x dst mk fun r c => sclLane kmode sat (src p r c) (src q r c))
  ∧ (∀ mk dst p q u, Ready s a x (.clp mk dst p q u) →
    VitRun (.clp mk dst p q u) s a x dst mk fun r c => (fMin (fMax (src p r c) (src q r c)) (src u r c), Led.zero))
  ∧ (∀ mk dst p q u rnd sat, rnd ∈ [0, 1, 2, 4, 5] → Ready s a x (.fma mk dst p q u rnd sat) →
    VitRun (.fma mk dst p q u rnd sat) s a x dst mk fun r c => fmaLane rnd sat (src p r c) (src q r c) (src u r c))
  ∧ (∀ mk dst p func, Ready s a x (.fn mk dst p func) →
    VitRun (.fn mk dst p func) s a x dst mk fun r c => fnLane func (src p r c))

/-- RND rounds every enabled lane onto the grid of its numeric word's format, with the word's rounding, or to nearest even in
the multiplier's operand formats with opf = 1 (R187, R232). It rests on readings that are the model's (log entries 27 and 28).
-/
def Obligations.RoundLanes : Prop := ∀ s a x mk dst p num opf beta f,
  (NumWord.of num).fmt = some f → (NumWord.of num).mode = 0 → f ≠ .tw64 → f.isZp = false → f.isCodebook = false →
  (if opf then (opFmt (NumWord.of num).fmtCode).isSome = true else rndBad (NumWord.of num).rnd = false) →
  Ready s a x (.rnd mk dst p num opf beta) →
  VitRun (.rnd mk dst p num opf beta) s a x dst mk fun r c =>
    let w := srcElem (x.cell a.cell) (x.slot a.cell a.slot).launch p r c
    if opf then rndLane f 0 true beta w else rndLane f (NumWord.of num).rnd (NumWord.of num).sat beta w

/-- CVT between vitrines (R231): narrow = 1 rounds each pair once to binary32; narrow = 0 writes (x, +0), a NaN as the
canonical NaN, into both vitrines of the pair. It rests on readings that are the model's: log entry 24, and log entry 27 for
the NaN of the widening form and its ledger. -/
def Obligations.ConvertVitrine : Prop := ∀ s a x mk dst p rnd sat,
  let d := x.cell a.cell
  let k := x.slot a.cell a.slot
  let src := srcElem d k.launch
  rndBad rnd = false →
  (Ready s a x (.cvtVitrine mk dst p true rnd sat) →
    VitRun (.cvtVitrine mk dst p true rnd sat) s a x dst mk fun r c =>
      roundLane rnd sat (twVal (src p r c) (src (p + 32) r c)))
  ∧ (Ready s a x (.cvtVitrine mk dst p false rnd sat) →
    let i := opVit dst
    LaneRun (.cvtVitrine mk dst p false rnd sat) s a x [i, i + 1] []
      (laneSum fun r c => if laneOpen d k mk r c then Led.nonfin (!f32IsFinite (src p r c)) else Led.zero)
      fun d1 => ∀ r c, r < 32 → c < 32 →
        elemAt (d1.vit i) r c = (if laneOpen d k mk r c then
          (if f32IsNan (src p r c) then f32Nan else src p r c) else elemAt (d.vit i) r c)
        ∧ elemAt (d1.vit (i + 1)) r c = if laneOpen d k mk r c then 0#32 else elemAt (d.vit (i + 1)) r c)

/-- CLP, CMP and SEL (R233): CLP writes min(max(a, b), c); CMP writes all 1,024 bits of its mask, 1 exactly where the lane is
enabled and the predicate holds; SEL writes a where the selector's bit is 1 or no mask is named and b elsewhere, on the lanes
of its tail mask. None updates the ledger. -/
def Obligations.ClampCompareSelect : Prop := ∀ s a x,
  let d := x.cell a.cell
  let k := x.slot a.cell a.slot
  let src := srcElem d k.launch
  (∀ mk dst p q u, Ready s a x (.clp mk dst p q u) →
    VitRun (.clp mk dst p q u) s a x dst mk fun r c => (fMin (fMax (src p r c) (src q r c)) (src u r c), Led.zero))
  ∧ (∀ mk md p q pred ty, Ready s a x (.cmp mk md p q pred ty) →
    LaneRun (.cmp mk md p q pred ty) s a x [] [md] Led.zero fun d1 => ∀ r c, r < 32 → c < 32 →
      (d1.mask md).getLsbD (32 * r + c) = (laneOpen d k mk r c && cmpLane pred ty (src p r c) (src q r c)))
  ∧ (∀ mk dst p q, Ready s a x (.sel mk dst p q) →
    LaneRun (.sel mk dst p q) s a x [opVit dst] [] Led.zero fun d1 => ∀ r c, r < 32 → c < 32 →
      elemAt (d1.vit (opVit dst)) r c =
        if k.loopTail.getLsbD (32 * r + c) && inShape dst r c then
          (if maskOn d mk r c then src p r c else src q r c)
        else elemAt (d.vit (opVit dst)) r c)

/-- PERM and SHUF (R234): every mode's source position; an index of 32 or more writes 0; elements move unchanged and the ledger
stays. -/
def Obligations.PermuteShuffle : Prop := ∀ s a x,
  let src := srcElem (x.cell a.cell) (x.slot a.cell a.slot).launch
  (∀ mk dst p q mode, mode < 3 → Ready s a x (.perm mk dst p q mode) →
    VitRun (.perm mk dst p q mode) s a x dst mk fun r c =>
      let idx := (src q r c).toNat
      (if mode = 0 then src p c r
        else if 32 ≤ idx then 0#32
        else if mode = 1 then src p r idx else src p idx c, Led.zero))
  ∧ (∀ mk dst p q mode amount, mode < 6 → Ready s a x (.shuf mk dst p q mode amount) →
    VitRun (.shuf mk dst p q mode amount) s a x dst mk fun r c =>
      (if mode = 0 then (if c % 2 = 0 then src p r (c / 2) else src q r ((c - 1) / 2))
        else if mode = 1 then (if c % 2 = 0 then src p r (c / 2 + 16) else src q r ((c - 1) / 2 + 16))
        else if mode = 2 then (if c < 16 then src p r (2 * c) else src q r (2 * c - 32))
        else if mode = 3 then (if c < 16 then src p r (2 * c + 1) else src q r (2 * c - 31))
        else if mode = 4 then src p r ((c + amount) % 32)
        else src p ((r + amount) % 32) c, Led.zero))

/-- PACK and UNPK (R235): the vitrine that PACK writes holds, as one byte string, the code of every enabled lane at bit
position width × lane and zeros elsewhere; UNPK decodes the code of each enabled lane of its destination shape. It rests on
readings that are the model's (log entry 28). -/
def Obligations.PackUnpack : Prop := ∀ s a x mk dst p num f,
  let d := x.cell a.cell
  let k := x.slot a.cell a.slot
  let n := NumWord.of num
  let src := srcElem d k.launch p
  packFmt num = some f →
  (rndBad n.rnd = false → Ready s a x (.pack mk dst p num) →
    let enc (r c : Nat) := encodeElem x.stream.tabs f 0 0 n.rnd n.sat 0 (f32 (src r c))
    LaneRun (.pack mk dst p num) s a x [opVit dst] []
      (laneSum fun r c => if laneOpen d k mk r c then encLed x.stream.tabs f n 0 0 (f32 (src r c)) (enc r c) else Led.zero)
      fun d1 => ∀ r c, r < 32 → c < 32 → elemAt (d1.vit (opVit dst)) r c =
        if inShape dst r c then
          BitVec.ofNat 32 (((List.range 1024).map fun l =>
            if laneOpen d k mk (l / 32) (l % 32) then (enc (l / 32) (l % 32)).code * 2 ^ (f.bits * l) else 0).sum
              / 2 ^ (32 * (32 * r + c)))
        else elemAt (d.vit (opVit dst)) r c)
  ∧ (Ready s a x (.unpk mk dst p num) →
    VitRun (.unpk mk dst p num) s a x dst mk fun r c =>
      let string := ((List.range 1024).map fun l => (src (l / 32) (l % 32)).toNat * 2 ^ (32 * l)).sum
      let v := decodeCode x.stream.tabs f 0 0 (string / 2 ^ (f.bits * (32 * r + c)) % 2 ^ f.bits)
      (rne v, Led.nonfin (!v.isFin)))

/-- FN in softmax form (R181, R182, R237). lse = 0 writes each lane's weight under its row's offset in column 1 of the step
vector, 0 where the lane is not enabled, and α into column 5; lse = 1 takes the row's value in column 4 and leaves the step
vector. FN in merge form (R201) writes α into column 5 and μ into column 6. It rests on readings that are the model's (log
entries 82, 85 and 87, the last for the weight +0 of a logit of −∞ under an offset that is a NaN). -/
def Obligations.SoftmaxLanes : Prop := ∀ s a x,
  let d := x.cell a.cell
  let k := x.slot a.cell a.slot
  let src := srcElem d k.launch
  (∀ mk dst p sv, Ready s a x (.fnSoftmax mk dst p sv false) →
    ∃ led, LaneRun (.fnSoftmax mk dst p sv false) s a x [opVit dst, sv] [] led fun d1 => ∀ r c, r < 32 → c < 32 →
      (opVit dst ≠ sv → elemAt (d1.vit (opVit dst)) r c = if inShape dst r c then
          (if laneOpen d k mk r c then weight (src p r c) (elemAt (d.vit sv) r 1) else 0#32)
        else elemAt (d.vit (opVit dst)) r c)
      ∧ elemAt (d1.vit sv) r c = if c = 5 then corr (elemAt (d.vit sv) r 0) (elemAt (d.vit sv) r 1)
          else if 7 ≤ c then 0#32 else elemAt (d.vit sv) r c)
  ∧ (∀ mk dst p sv, Ready s a x (.fnSoftmax mk dst p sv true) →
    ∃ led, LaneRun (.fnSoftmax mk dst p sv true) s a x [opVit dst] [] led fun d1 => ∀ r c, r < 32 → c < 32 →
      elemAt (d1.vit (opVit dst)) r c = if inShape dst r c then
          (if laneOpen d k mk r c then weightLse (src p r c) (elemAt (d.vit sv) r 4) else 0#32)
        else elemAt (d.vit (opVit dst)) r c)
  ∧ (∀ mk p sv, Ready s a x (.fnMerge mk p sv) →
    ∃ led, StepRun (.fnMerge mk p sv) s a x sv led fun r c =>
      if c = 5 then some (corr (elemAt (d.vit sv) r 0) (elemAt (d.vit sv) r 1))
      else if c = 6 then some (corr (src p r 0) (elemAt (d.vit sv) r 1)) else none)

/-- RED in plain form (R238, R247, R248): for each row, or column, its valid elements in ascending order give one word, or two
for SUM and SUMSQ, at k and k + 1 along the axis; nothing else of the vitrine changes. It rests on readings that are the model's
(log entry 81). -/
def Obligations.ReducePlain : Prop := ∀ s a x mk p dst op cols,
  let d := x.cell a.cell
  let k := x.slot a.cell a.slot
  let on (g : Nat) : List (Nat × Word) := (List.range 32).filterMap fun j =>
    let r := if cols then j else g
    let c := if cols then g else j
    if laneOpen d k mk r c then some (j, srcElem d k.launch p r c) else none
  opK dst + (if op = 2 ∨ op = 3 then 1 else 0) < 32 → op < 7 →
  Ready s a x (.redPlain mk p dst op cols) →
  LaneRun (.redPlain mk p dst op cols) s a x [opVit dst] [] (Led.sum ((List.range 32).map fun g => (redGroup op (on g)).2))
    fun d1 => ∀ g j, g < 32 → j < 32 →
      (if cols then elemAt (d1.vit (opVit dst)) j g else elemAt (d1.vit (opVit dst)) g j) =
        if opK dst ≤ j ∧ j < opK dst + (redGroup op (on g)).1.length then (redGroup op (on g)).1.getD (j - opK dst) 0#32
        else if cols then elemAt (d.vit (opVit dst)) j g else elemAt (d.vit (opVit dst)) g j

/-- The step forms of RED (R180, R186, R187, R197, R201). Offset form: column 0 the issued offset, column 1 the larger of it
and the ceiling of the row's largest valid element, column 4 the positions inside the key extent, column 6 one; the issued
offset is −∞ with nogroup, else that of the channel's chain cask. Sum form: the row sum in columns 2 and 3. Merge form: the
segment's record against the cask's issued offsets. It rests on readings that are the model's: log entry 82, and log entry 83
for the mask columns that column 4 counts. -/
def Obligations.ReduceSteps : Prop := ∀ s a x,
  let d := x.cell a.cell
  let k := x.slot a.cell a.slot
  let src := srcElem d k.launch
  let valid (mk p r : Nat) : List Word := (List.range 32).filterMap fun c =>
    if laneOpen d k mk r c then some (src p r c) else none
  let offset (mk p sv group : Nat) (nogroup : Bool) (issued : Nat → Word) : Prop :=
    ∃ led, StepRun (.redOffset mk p group nogroup sv) s a x sv led fun r c =>
      if c = 0 then some (issued r)
      else if c = 1 then some (fMax (issued r) (ceil32 (redMax (valid mk p r))))
      else if c = 4 then some (BitVec.ofNat 32 ((List.range 32).filter fun j =>
        (List.range 32).any fun i => k.loopTail.getLsbD (32 * i + j)).length)
      else if c = 6 then some 0x3F800000#32
      else none
  (∀ mk p group sv, Ready s a x (.redOffset mk p group true sv) → offset mk p sv group true fun _ => 0xFF800000#32)
  ∧ (∀ mk p group sv e q, d.findCask (ownerOf k.launch) group = some (e, q) → q.chain = true →
    Ready s a x (.redOffset mk p group false sv) → offset mk p sv group false q.issuedOf)
  ∧ (∀ mk p sv, Ready s a x (.redSum mk p sv) →
    StepRun (.redSum mk p sv) s a x sv Led.zero fun r c =>
      if c = 2 then some (redSum false (valid mk p r)).hi else if c = 3 then some (redSum false (valid mk p r)).lo else none)
  ∧ (∀ mk p group sv e q, d.findCask (ownerOf k.launch) group = some (e, q) → q.chain = true →
    Ready s a x (.redMerge mk p group sv) →
    ∃ led, StepRun (.redMerge mk p group sv) s a x sv led fun r c =>
      if c = 0 then some (q.issuedOf r)
      else if c = 1 then some (fMax (q.issuedOf r) (src p r 0))
      else if c = 2 then some (src p r 2)
      else if c = 3 then some (src p r 3)
      else if c = 4 then some (src p r 1 &&& 0x7FFFFF#32)
      else none)

/-- MSK without memory (R243): the bitwise operations on all 1,024 bits, and CAUSAL by the loop's counters and the scalar
shift. -/
def Obligations.MaskOperations : Prop := ∀ s a x md ma mb op dk kk q j,
  let d := x.cell a.cell
  let k := x.slot a.cell a.slot
  let bit (m : Mask) (i : Nat) : Bool := m.getLsbD i
  op ≤ 6 ∨ op = 8 → Ready s a x (.msk md ma mb op dk kk q j) →
  LaneRun (.msk md ma mb op dk kk q j) s a x [] [md] Led.zero fun d1 => ∀ i, i < 1024 →
    bit (d1.mask md) i =
      if op = 0 then bit (d.mask ma) i && bit (d.mask mb) i
      else if op = 1 then bit (d.mask ma) i || bit (d.mask mb) i
      else if op = 2 then bit (d.mask ma) i ^^ bit (d.mask mb) i
      else if op = 3 then bit (d.mask ma) i && !bit (d.mask mb) i
      else if op = 4 then !bit (d.mask ma) i
      else if op = 5 then true
      else if op = 6 then false
      else decide ((32 * k.counters.getD j 0 + i % 32 : Int) ≤ (32 * k.counters.getD q 0 + i / 32 : Int)
        + (scalarOf k.launch kk).toInt)

/-! ### Instructions that read or write tensors -/

/-- An instruction that reads or writes memory runs to its end as soon as what it reads is held and what it writes is
translated (R230 to R232, R238, R243, R295 to R301, R157): VLD in load and feed form, VST, CVT and SCL in memory form, RED in
record forms, STEEP, KILN, MSK TAIL and LOAD take their output `m` from the bytes read. A gather is held for its tile's commit;
a feed request presents its operand vectors, and brings its prologue. It rests on readings that are the model's (log entries
37, 38, 40, 93, 95, 96 and 97). -/
def Obligations.MemoryRuns : Prop := ∀ s a x o,
  let k := x.slot a.cell a.slot
  (∀ q m rps rus wps wus,
    let rd : Rd := fun b => bufByte k.readBuf (offOf rps b)
    memAsk ((pureRun x).memEnv a.cell a.slot) o = some (.ok (MemAsk.now q)) →
    Held o a x q.reads rps rus → firstFail q.checks rd = none → q.fin rd = .ok m → Placed a x (m.writes.map Prod.fst) wps wus →
    Ready s a x o →
    (m.gather = none → o.isFeed = false → MemRun o s a x m wps)
    ∧ (∀ g, m.gather = some g → GatherRun o s a x g)
    ∧ (m.gather = none → o.isFeed = true → FeedRun o s a x m))
  ∧ (∀ pro,
    let x1 := x.setSlot a.cell a.slot { k with prologue := pro }
    let s1 := s.setInst a.inst x1
    s.insts[a.inst]? = some x → o.isFeed = true → Ready s1 a x1 o →
    exec (.vldFeed { site := a, pro := pro }) s = exec (.vldFeed { site := a, pro := pro }) s1)

/-- An instruction whose bytes are not all held requests the lines that are missing, once each and in requests of 1 to 4
consecutive lines, and waits for them (R22, R421): the windows of a feed request open (R229), and nothing else changes but the
translations that the tile has used. A read of a cask's range that an earlier add of the slot writes waits for that add (R218).
That each missing line is requested once, and how lines are grouped, is the model's choice (log entry 37). -/
def Obligations.MemoryWaits : Prop := ∀ s a x o q ps us,
  let c0 := x.cell a.cell
  let k := c0.slot a.slot
  let c := if o.isFeed then c0.openWins a.slot else c0
  let offs := q.reads.map (offOf ps)
  let need := missing k.readBuf (offs.map (· / 64)).eraseDups
  let waits (w : Wait) (used : List (Nat × Nat)) : Slot := { k with wait := w, tile := { k.tile with used := used } }
  memAsk ((pureRun x).memEnv a.cell a.slot) o = some (.ok (MemAsk.now q)) →
  x.trans a.cell (x.vc (ownerOf k.launch)).asid false q.reads = .ok ps us →
  c0.caskHit (readerOf o k) offs = false → Ready s a x o →
  (c0.addsWrite a.slot offs = false → need ≠ [] → ∃ used, CellRun (cmdOf o a k.prologue) s a.at_ x
    { c.setSlot a.slot (waits .lines used) with
      spReads := c.spReads ++ (runsOf need).map fun p =>
        { line := p.1, n := p.2, who := .slot a.slot, rank := if o.isFeed then 2 else 3 } })
  ∧ (c0.addsWrite a.slot offs = true → ∃ used, CellRun (cmdOf o a k.prologue) s a.at_ x (c.setSlot a.slot (waits .adds used)))

/-- VLD in load form (R228): from a window descriptor whose lines are held, each enabled lane of Vi, or of the pair Vi and
Vi+1 with pair = 1, takes the decoded element: the nearest binary32, or the twin word. It rests on readings that are the
model's (log entry 35). -/
def Obligations.LoadForm : Prop := ∀ s a x mk dk map i pair f,
  let c := x.cell a.cell
  let k := c.slot a.slot
  let d := k.desc dk
  let t := k.tileIdx map
  let en := c.mkMask mk &&& tailMask d t
  let rd : Rd := fun b => bufByte k.readBuf b.addr
  let val (r j : Nat) : XV := d.laneVal x.stream.tabs f (d.rd rd) t r j
  d.virt = false → d.nw.fmt = some f → d.isEmpty = false → d.illegal false false = false → d.nw.checked = false →
  ((d.readPlan t en).1.all fun b => decide (b < 2 ^ 20) && k.readBuf.any fun l => l.line == b / 64) →
  (k.readBuf.all fun l => l.resp == 0#2) →
  c.caskHit (some (ownerOf k.launch)) (d.readPlan t en).1 = false → c.addsWrite a.slot (d.readPlan t en).1 = false →
  Ready s a x (.vldLoad mk dk map i pair) →
  ∃ y, exec (.vldLoad a) s = .next (s.setInst a.inst y) ∧ OnlyCell x y a.cell
    ∧ (∀ j, j ≠ i → ¬(pair ∧ j = i + 1) → (y.cell a.cell).vit j = c.vit j) ∧ (y.cell a.cell).masks = c.masks
    ∧ (y.cell a.cell).spWrites = c.spWrites ∧ (y.slot a.cell a.slot).idx = k.idx + 1
    ∧ (y.slot a.cell a.slot).tile.writes = k.tile.writes
    ∧ ∀ r j, r < 32 → j < 32 →
      elemAt ((y.cell a.cell).vit i) r j = (if en.getLsbD (32 * r + j) then
        (if pair then (toTw (val r j)).1 else rne (val r j)) else elemAt (c.vit i) r j)
      ∧ (pair → elemAt ((y.cell a.cell).vit (i + 1)) r j =
        if en.getLsbD (32 * r + j) then (toTw (val r j)).2 else elemAt (c.vit (i + 1)) r j)

/-- VST (R230). With the numeric word 0x0000, or 0x0010 for a pair, each enabled lane's 32-bit element moves unchanged into
the commit buffer, a pair with lo first; with another numeric word VST ends with FMT_ILLEGAL. -/
def Obligations.StoreForm : Prop := ∀ s a x mk dk map i pair,
  let c := x.cell a.cell
  let k := c.slot a.slot
  let d := k.desc dk
  let t := k.tileIdx map
  let en := c.mkMask mk &&& tailMask d t
  let word (v r j : Nat) : List Byte := leBytes 4 (elemAt (c.vit v) r j).toNat
  let bytes : List (Nat × Byte) := (List.range 1024).flatMap fun p =>
    if en.getLsbD p then
      (if pair then word (i + 1) (p / 32) (p % 32) ++ word i (p / 32) (p % 32) else word i (p / 32) (p % 32)).zipIdx.map fun q =>
        (d.tileRow t (p / 32) + p % 32 * (d.bits / 8) + q.2, q.1)
    else []
  Ready s a x (.vst mk dk map i pair) →
  (d.num = (if pair then 0x0010 else 0) → d.isEmpty = false → d.illegal true false = false → ∀ ps us,
    Placed a x (bytes.map fun q => d.adr q.1) ps us →
    ∃ m, m.vits = [] ∧ m.masks = [] ∧ m.feed = [] ∧ m.gather = none ∧ m.led.flags = 0
      ∧ m.writes = bytes.map (fun q => (d.adr q.1, q.2)) ∧ MemRun (.vst mk dk map i pair) s a x m ps)
  ∧ (d.num ≠ (if pair then 0x0010 else 0) →
    exec (.vst a) s = .next (s.runAt a.inst x fun _ x => (pureRun x).fail a.cell a.slot 0x0001 k.idx k.counters4))

/-- What the instructions that write tensors write, and a descriptor with an extent of 0. With a legal numeric word an extent of 0
completes the instruction with no other effect than EMPTY in the program's status (R225). KILN and CVT write the codes, the scale
bytes and the tail that the kiln makes of their lanes (R59, R77, R224, R58); SCL folds scale bytes, or ends with SCALE_RANGE where
one leaves its range (R98, R232); the records of RED hold sums, sums of squares, maximum, minimum and count of a row, or the
offset, the count and the sum of a softmax row (R166, R197); a gather folds the elements of its groups (R82), settles give scale
entries or the tail of R84, and smoothing exponents of R97; TAIL and LOAD write a mask (R243). It rests on readings that are the
model's (log entries 15, 37, 38, 41, 88, 89, 92, 93, 96, 108 and 110). -/
def Obligations.TensorOutputs : Prop := ∀ s a x,
  let c := x.cell a.cell
  let k := c.slot a.slot
  let sc := scalarOf k.launch
  let kenv (d : Desc) : KEnv := KEnv.ofDesc x.stream.tabs (x.vc (ownerOf k.launch)).seed.toNat d
  let win (off n : Nat) : List Adr := (List.range n).map fun j => .win (off + j)
  let empty (dk : Nat) : Prop := (k.desc dk).nw.fmt ≠ none ∧ (k.desc dk).isEmpty = true
  let legal (dk : Nat) (written aux : Bool) : Prop :=
    (k.desc dk).nw.fmt ≠ none ∧ (k.desc dk).isEmpty = false ∧ (k.desc dk).illegal written aux = false
  let positive (q : Nat) : Prop := (f32 (sc q)).isFin = true ∧ (f32 (sc q)).isNeg = false ∧ (f32 (sc q)).isZero = false
  let ends (o : TileOp) : Prop := Ready s a x o → SlotRun (cmdOf o a k.prologue) s a x { k.next with empty := true }
  let held (o : TileOp) (reads : List Adr) (checks : List Check) (rps : List (Nat × Nat)) : Prop :=
    (reads = [] ∧ rps = [] ∨ ∃ rus, Held o a x reads rps rus) ∧ firstFail checks (fun b => bufByte k.readBuf (offOf rps b)) = none
  let writes (o : TileOp) (d : Desc) (reads : List Adr) (checks : List Check) (out : (Nat → Nat) → List (Nat × Byte)) : Prop :=
    ∀ rps wps wus, let bs := out fun b => bufByte k.readBuf (offOf rps (d.adr b))
      held o reads checks rps → Placed a x (bs.map fun q => d.adr q.1) wps wus → Ready s a x o →
      ∃ m, m.vits = [] ∧ m.masks = [] ∧ m.feed = [] ∧ m.gather = none ∧ m.writes = bs.map (fun q => (d.adr q.1, q.2))
        ∧ MemRun o s a x m wps
  (∀ mk dk map i pair, empty dk →
    ends (.vldLoad mk dk map i pair)
    ∧ ((k.desc dk).num = (if pair then 0x0010 else 0) → ends (.vst mk dk map i pair))
    ∧ ends (.redRowRecord mk i dk map) ∧ (∀ sv, ends (.redSoftmaxRecord mk i dk map sv))
    ∧ (∀ accum g sa, ends (.steepGather mk dk map i accum g sa))
    ∧ (∀ sa sb, (k.desc dk).nw.mode = 1 ∨ (k.desc dk).nw.mode = 2 ∨ (k.desc dk).nw.mode = 5 → ends (.steepSettle mk dk map sa sb))
    ∧ (∀ sa sb n, ends (.steepSmoothing mk dk map sa sb n))
    ∧ (∀ drop ctr step tag thr q, (drop = true → positive q) → ends (.kiln mk dk map i pair drop ctr step tag thr q))
    ∧ (∀ md ma mb kk q j, ends (.msk md ma mb 7 dk kk q j)))
  ∧ (∀ mk dk map vit i opfmt beta xpose gather gk rep side,
    let wide := decide (opfmt = 0x01 ∨ opfmt = 0x02)
    empty dk → opFmt opfmt ≠ none → (xpose && wide) = false → (vit && gather) = false → proClaimed k.launch k.prologue = true →
    (vit = true → k.prologue ≠ .none) → (vit = false → (k.desc dk).nw.fmt = some .uint8zp → wide = true) →
    ends (.vldFeed mk dk map vit i opfmt beta xpose gather gk rep side))
  ∧ (∀ mk dk map d2k map2 delta, (k.desc dk).nw.fmt ≠ none → (k.desc d2k).nw.fmt ≠ none →
    (k.desc dk).isEmpty = true ∨ (k.desc d2k).isEmpty = true →
    ends (.cvtMemory mk dk map d2k map2) ∧ ends (.sclFold mk dk map d2k map2 delta))
  ∧ (∀ mk dk map i pair drop ctr step tag thr q f,
    let d := k.desc dk
    let t := k.tileIdx map
    let en := c.mkMask mk &&& tailMask d t
    let env := if ctr then { kenv d with step := (sc step).toNat, tag := (sc tag).toNat } else kenv d
    let val (r j : Nat) : KIn :=
      if pair then KIn.tw (twVal (elemAt (c.vit i) r j) (elemAt (c.vit (i + 1)) r j)) else KIn.plain (f32 (elemAt (c.vit i) r j))
    let kept (r j : Nat) : Bool := decide (rng16 env.seed 1 env.step env.tag (d.laneIndex t r j) < (sc thr).toNat)
    d.nw.fmt = some f → legal dk true false → (drop = true → positive q) →
    writes (.kiln mk dk map i pair drop ctr step tag thr q) d ((d.encodePlan t en).1.map d.adr) [{ d := d, ps := (d.encodePlan t en).2 }]
      fun rd => encoded d env f rd t (fun _ => none) en fun r j =>
        if drop then (if kept r j then (val r j).scale (f32 (sc q)) 0 else KIn.plain .zero) else val r j)
  ∧ (∀ mk dk map d2k map2 sf df,
    let d1 := k.desc dk
    let d := k.desc d2k
    let t1 := k.tileIdx map
    let t := k.tileIdx map2
    let en1 := c.mkMask mk &&& tailMask d1 t1
    let en := en1 &&& tailMask d t
    let read := d1.readPlan t1 en1
    let kept := d.encodePlan t en
    d1.nw.fmt = some sf → d.nw.fmt = some df → legal dk false false → legal d2k true false →
    ∀ rps wps wus,
      let rd1 (b : Nat) : Nat := bufByte k.readBuf (offOf rps (d1.adr b))
      let rd (b : Nat) : Nat := bufByte k.readBuf (offOf rps (d.adr b))
      let copied (r : Nat) : Option ((Nat → Nat) × Nat) :=
        if directPair d1 d then (directByte d1 d (rd1 (d1.scale + d1.posOf t1 r 0))).map fun b =>
          (fun j => if laneOn en r j ∧ b ≠ (if d.nw.mode = 4 then 255 else 127) then d1.codeAt rd1 t1 r j else 0, b)
        else none
      let bs := encoded d (kenv d) df rd t copied en fun r j =>
        (if sf = .tw64 then KIn.tw else KIn.plain) (d1.laneVal x.stream.tabs sf rd1 t1 r j)
      held (.cvtMemory mk dk map d2k map2) (read.1.map d1.adr ++ kept.1.map d.adr)
        [{ d := d1, ps := read.2 }, { d := d, ps := kept.2 }] rps →
      Placed a x (bs.map fun q => d.adr q.1) wps wus → Ready s a x (.cvtMemory mk dk map d2k map2) →
      ∃ m, m.vits = [] ∧ m.masks = [] ∧ m.feed = [] ∧ m.gather = none ∧ m.writes = bs.map (fun q => (d.adr q.1, q.2))
        ∧ MemRun (.cvtMemory mk dk map d2k map2) s a x m wps)
  ∧ (∀ mk dk map d2k map2 delta,
    let d1 := k.desc dk
    let d := k.desc d2k
    let o := TileOp.sclFold mk dk map d2k map2 delta
    let ps := d1.foldPositions (k.tileIdx map)
    let cs := if d1.nw.checked && !ps.isEmpty then d1.streamPositions ps (decide (d1.nw.mode = 5)) else []
    let wide := decide (d1.nw.mode = 1 ∨ d1.nw.mode = 2)
    let at_ (p : Nat) : Nat := if wide then 2 * p else p
    let reads := (if wide then ps.flatMap fun p => [d1.scale + 2 * p, d1.scale + 2 * p + 1]
      else (if d1.nw.checked then cs else ps).map (d1.scale + ·)).map d1.adr
    legal dk false false → legal d2k true false → d1.nw.mode = d.nw.mode → d1.nw.blk16 = d.nw.blk16 →
    d1.e0 = d.e0 ∧ d1.e1 = d.e1 ∧ d1.e2 = d.e2 ∧ d1.e3 = d.e3 →
    ∀ rps, let rd (b : Nat) : Nat := bufByte k.readBuf (offOf rps (d1.adr b))
      held o reads [{ d := d1, ps := cs }] rps → Ready s a x o →
      (∀ new : Nat → Nat, (∀ p ∈ ps, foldByte d1.nw.mode delta (rd (d1.scale + at_ p)) = some (new p)) →
        let bs : List (Nat × Byte) := ps.flatMap fun p => (d.scale + at_ p, BitVec.ofNat 8 (new p))
          :: if wide then [(d.scale + at_ p + 1, BitVec.ofNat 8 (rd (d1.scale + at_ p + 1)))] else []
        ∀ wps wus, Placed a x (bs.map fun q => d.adr q.1) wps wus →
        ∃ m, m.vits = [] ∧ m.masks = [] ∧ m.feed = [] ∧ m.gather = none ∧ m.writes = bs.map (fun q => (d.adr q.1, q.2))
          ∧ MemRun o s a x m wps)
      ∧ ((∃ p ∈ ps, foldByte d1.nw.mode delta (rd (d1.scale + at_ p)) = none) →
        ∃ used, exec (.sclFold a) s = .next (s.runAt a.inst x fun _ y =>
          (pureRun (y.setSlot a.cell a.slot { k with tile := { k.tile with used := used } })).fail a.cell a.slot errScaleRange k.idx
            k.counters4)))
  ∧ (∀ mk av dk map,
    let d := k.desc dk
    let t := k.tileIdx map
    let en := c.mkMask mk &&& tailMask d t
    let vals (r : Nat) : List Word := (List.range 32).filterMap fun j =>
      if laneOn en r j then some (srcElem c k.launch av r j) else none
    let rows (words : Nat → List Word) : List (Nat × Byte) := ((List.range 32).filter (rowOn (tailMask d t))).flatMap fun r =>
      let ws := words r
      (wordsBytes ws).zipIdx.map fun q =>
        (d.aux + 4 * ws.length * (d.row (32 * t.t1 + r) t.t2 t.t3 * ceilDiv d.e0 32 + t.t0) + q.2, q.1)
    legal dk false true →
    writes (.redRowRecord mk av dk map) d [] [] (fun _ => rows fun r =>
      let xs := vals r
      [(redSum false xs).lo, (redSum false xs).hi, (redSum true xs).lo, (redSum true xs).hi, redMax xs, redMin xs
      , BitVec.ofNat 32 xs.length, 0#32])
    ∧ ∀ sv, writes (.redSoftmaxRecord mk av dk map sv) d [] [] fun _ => rows fun r =>
      let l := redSum false (vals r)
      [elemAt (c.vit sv) r 1, elemAt (c.vit sv) r 4 &&& 0x7FFFFF#32, l.lo, l.hi])
  ∧ (∀ mk dk map i accum g sa,
    let d := k.desc dk
    let t := k.tileIdx map
    let o := TileOp.steepGather mk dk map i accum g sa
    let on := lanes.filter fun p => laneOn (c.mkMask mk &&& tailMask d t) p.1 p.2
    let group (p : Nat × Nat) : Nat := if g = 0 then 0 else if g = 1 then 32 * t.t1 + p.1 else 32 * t.t0 + p.2
    let groups := (on.map group).eraseDups
    legal dk false false → (sc sa).toNat < 2 ^ 20 → ∀ wps wus,
      Placed a x (groups.flatMap fun j => win ((sc sa).toNat + 16 * j) 16) wps wus → Ready s a x o →
      ∃ m, GatherRun o s a x m ∧ m.index = k.idx ∧ m.accum = accum ∧ m.obj = d.obj ∧ m.lane = d.laneIndex t 0 0
        ∧ m.recs.map Prod.fst = groups.map (fun j => (sc sa).toNat + 16 * j)
        ∧ ∀ j ∈ groups, ∃ r, ((sc sa).toNat + 16 * j, r) ∈ m.recs
          ∧ Folds ((on.filter fun p => group p == j).map fun p => elemAt (c.vit i) p.1 p.2) r)
  ∧ (∀ mk dk map sa sb f,
    let d := k.desc dk
    let o := TileOp.steepSettle mk dk map sa sb
    let off := (sc sa).toNat
    let per := (sc sb).toNat
    let groups := if d.nw.mode = 2 then d.e1 else 1
    d.nw.fmt = some f → legal dk true false → d.nw.mode = 1 ∨ d.nw.mode = 2 ∨ d.nw.mode = 5 →
    off < 2 ^ 20 → off + 16 * (per * groups) ≤ 2 ^ 20 →
    ∀ rps wps wus, let rd : Rd := fun b => bufByte k.readBuf (offOf rps b)
      held o (win off (16 * (per * groups))) [] rps → Ready s a x o →
      ∃ entry : Nat → Nat,
        (∀ j, let r := steepGroup rd off per j
          (r.count = 0 → entry j = 0)
          ∧ (r.count ≠ 0 → (f32 r.amax).isZero = true → entry j = 0)
          ∧ (r.count ≠ 0 → f.isZp = true → entry j = (settleAsym d.nw r).1)
          ∧ (r.count ≠ 0 → f.isZp = false → ∀ n m, Steep.mag r.amax = some (n, m) → (fmtMax x.stream.tabs f d.nw.mode).1 ≠ 0 →
            entry j = (clampByte 126 (scaleK n m (fmtMax x.stream.tabs f d.nw.mode).1 (fmtMax x.stream.tabs f d.nw.mode).2 d.nw.rule
              + 63)).1))
        ∧ let bs := if d.nw.mode = 5 then d.tailBytes (entry 0 % 128)
            else (List.range groups).flatMap fun j =>
              [(d.scale + 2 * j, BitVec.ofNat 8 (entry j)), (d.scale + 2 * j + 1, BitVec.ofNat 8 (entry j / 256))]
          (Placed a x (bs.map fun q => d.adr q.1) wps wus →
            ∃ m, m.vits = [] ∧ m.masks = [] ∧ m.feed = [] ∧ m.gather = none ∧ m.writes = bs.map (fun q => (d.adr q.1, q.2))
              ∧ MemRun o s a x m wps))
  ∧ (∀ mk dk map sa sb n,
    let d := k.desc dk
    let o := TileOp.steepSmoothing mk dk map sa sb n
    let reads (q : Nat) : List Adr := win (sc q).toNat (16 * ((sc n).toNat * d.e0))
    let recAt (rd : Rd) (q j : Nat) : Steep := steepGroup rd (sc q).toNat (sc n).toNat j
    let fits (q : Nat) : Prop := (sc q).toNat < 2 ^ 20 ∧ (sc q).toNat + 16 * ((sc n).toNat * d.e0) ≤ 2 ^ 20
    legal dk true false → fits sa → fits sb → ∀ rps wps wus, let rd : Rd := fun b => bufByte k.readBuf (offOf rps b)
      held o (reads sa ++ reads sb) [] rps → Ready s a x o →
      ∃ e : Nat → Nat,
        (∀ j, let p := recAt rd sa j
          let w := recAt rd sb j
          (p.count = 0 ∨ w.count = 0 ∨ (f32 p.amax).isZero = true ∨ (f32 w.amax).isZero = true → e j = 63)
          ∧ (p.count ≠ 0 → w.count ≠ 0 → ∀ pn pd wn wd, Steep.mag p.amax = some (pn, pd) → Steep.mag w.amax = some (wn, wd) →
            e j = (clampByte 126 (63 + (floorLog2 pn pd - floorLog2 wn wd) / 2)).1))
        ∧ let bs : List (Nat × Byte) := (List.range d.e0).map fun j => (d.scale + j, BitVec.ofNat 8 (e j))
          (Placed a x (bs.map fun q => d.adr q.1) wps wus →
            ∃ m, m.vits = [] ∧ m.masks = [] ∧ m.feed = [] ∧ m.gather = none ∧ m.writes = bs.map (fun q => (d.adr q.1, q.2))
              ∧ MemRun o s a x m wps))
  ∧ (∀ md ma mb dk kk q j, legal dk false false → Ready s a x (.msk md ma mb 7 dk kk q j) →
    ∃ m, MemRun (.msk md ma mb 7 dk kk q j) s a x m [] ∧ m.vits = [] ∧ m.masks = [(md, tailMask (k.desc dk) k.walkIdx)]
      ∧ m.writes = [] ∧ m.feed = [] ∧ m.gather = none ∧ m.led = Led.zero)
  ∧ (∀ md ma mb dk kk q j rps, let o := TileOp.msk md ma mb 9 dk kk q j
    (sc kk).toNat < 2 ^ 20 → (sc kk).toNat % 128 = 0 → held o (win (sc kk).toNat 128) [] rps → Ready s a x o →
    ∃ m v, MemRun o s a x m [] ∧ m.vits = [] ∧ m.masks = [(md, v)] ∧ m.writes = [] ∧ m.feed = [] ∧ m.gather = none
      ∧ ∀ p, p < 1024 → v.getLsbD p = (bufByte k.readBuf (offOf rps (.win ((sc kk).toNat + p / 8)))).testBit (p % 8))

/-! ### Loops, fences, summaries, mash -/

/-- LOOP (R213): the trip counts of the dimensions in its mask give the total; the body starts at the start scalar's
iteration, or is skipped when that is not below the total. A LOOP with nothing before it in its tile leaves the slot at the
first instruction of a tile; one behind other instructions belongs to their tile, which an entered body ends (R217). A
descriptor that R295 refuses ends the program with DESC_ILLEGAL. It rests on readings that are the model's (log entries 41 and
103), also that feed events which no consumer has taken stay with the slot (log entry 97). -/
def Obligations.LoopEnters : Prop := ∀ s a x dk dims len startEn startK,
  let k := x.slot a.cell a.slot
  let d := k.desc dk
  let trip (b n : Nat) : Nat := if bitOf dims b then n else 1
  let total := trip 0 (ceilDiv d.e0 32) * trip 1 (ceilDiv d.e1 32) * trip 2 d.e2 * trip 3 d.e3
  let start := if startEn then (scalarOf k.launch startK).toNat else 0
  let k1 := { k with empty := k.empty || d.isEmpty }
  let legal := d.isEmpty = true ∨ d.illegal false false = false
  d.nw.fmt ≠ none → Ready s a x (.loop dk dims len startEn startK) →
  (legal → start < total →
    let l : LoopSt := { start := k.idx + 1, len := len, d := dk, dims := dims, it := start, total := total }
    (k.idx = k.tile.start → SlotRun (.loop a) s a x
      { k1 with idx := k.idx + 1, loop := some l, tile := TileBuf.at (k.idx + 1) (some l) k.mash k.feedEvents, readBuf := []
                feedOld := k.feedEvents, feedNew := [] })
    ∧ (k.idx ≠ k.tile.start → SlotRun (.loop a) s a x { k1 with idx := k.idx + 1, loop := some l }))
  ∧ (legal → total ≤ start →
    (k.idx = k.tile.start → k.loop = none → k.idx + 1 + len < k.prog.length →
      SlotRun (.loop a) s a x (nextTile k1 (k.idx + 1 + len) none))
    ∧ (k.idx ≠ k.tile.start → SlotRun (.loop a) s a x { k1 with idx := k.idx + 1 + len }))
  ∧ (¬legal → exec (.loop a) s = .next (s.runAt a.inst x fun _ y => (pureRun y).fail a.cell a.slot errDesc k.idx k.counters4))

/-- WAITF (R241, R313, R314): it passes when (value − target), taken as i32, is 0 or more, and otherwise its program waits; a
fence in its error state ends it with the fence's code. A wait that passes later adds itself and its ticks to the tile's
ledger. While another instance whose fence it is cannot be asked, being asleep, behind one that is, or in reset, the program
waits, and the request wakes the next one that sleeps (R405; log entries 19 and 20). -/
def Obligations.FenceWaits : Prop := ∀ s a x,
  let k := x.slot a.cell a.slot
  (∀ f scalar sk imm, Ready s a x (.waitf f scalar sk imm) →
    let target := if scalar then scalarOf k.launch sk else BitVec.ofNat 32 imm
    let waits : Slot := { k with wait := .fence f target x.ticks }
    ((s.env a.inst).away (f / 1024) = true → exec (.waitf a) s =
      .next ((s.setInst a.inst (x.setSlot a.cell a.slot waits)).effs a.inst [.ask (f / 1024)]))
    ∧ ((s.env a.inst).away (f / 1024) = false →
      ((s.fence f).err = 0 → 0 ≤ ((s.fence f).value - target).toInt → SlotRun (.waitf a) s a x k.next)
      ∧ ((s.fence f).err = 0 → ((s.fence f).value - target).toInt < 0 → SlotRun (.waitf a) s a x waits)
      ∧ ((s.fence f).err ≠ 0 →
        exec (.waitf a) s = .next (s.runAt a.inst x fun _ x => (pureRun x).fail a.cell a.slot (s.fence f).err k.idx k.counters4))))
  ∧ (∀ f target since, AtWork s a.inst x → a.cell < x.cellsBuilt → CellUp x a.cell → k.phase = .running →
    x.flt.injected = none → k.wait = .fence f target since →
    ((s.env a.inst).away (f / 1024) = true →
      exec (.waitfPass a) s = .next ((s.setInst a.inst x).effs a.inst [.ask (f / 1024)]))
    ∧ ((s.env a.inst).away (f / 1024) = false →
      ((s.fence f).err = 0 → 0 ≤ ((s.fence f).value - target).toInt →
        SlotRun (.waitfPass a) s a x (k.addLed { Led.zero with waits := 1, ticks := x.ticks - since }).next)
      ∧ ((s.fence f).err = 0 → ((s.fence f).value - target).toInt < 0 → exec (.waitfPass a) s = .next (s.setInst a.inst x))))

/-- SIGF and SUMM (R242, R244) hold their increment and their summary in the tile: SUMM's value is an element, the number of
enabled 1 bits of a mask, the channel's flags at the commit, or a scalar. -/
def Obligations.SignalsAndSummaries : Prop := ∀ s a x,
  let c := x.cell a.cell
  let k := c.slot a.slot
  (∀ f inc, Ready s a x (.sigf f inc) →
    SlotRun (.sigf a) s a x { k.next with tile := { k.tile with sigs := k.tile.sigs ++ [(f, BitVec.ofNat 32 inc)] } })
  ∧ (∀ mk kind i row col code, kind < 4 → Ready s a x (.summ mk kind i row col code) →
    let v : Option Word :=
      if kind = 0 then some (elemAt (c.vit i) row col)
      else if kind = 1 then some (BitVec.ofNat 32 ((List.range 1024).filter fun p =>
        (c.mask (col % 8)).getLsbD p && laneOpen c k mk (p / 32) (p % 32)).length)
      else if kind = 2 then none
      else some (scalarOf k.launch col)
    SlotRun (.summ a) s a x
      { k.next with tile := { k.tile with sums := k.tile.sums ++ [{ code := BitVec.ofNat 16 code, val := v }] } })

/-- MASH (R89, R92, R239): with an input vitrine or none it takes the enabled lanes of its input into the run and, once a
segment is complete, writes the next output tile: row r's lanes are the rotation of that row across the segment's tiles under
the segment's sign vector. With a drained tile that has not arrived it binds one and waits for it, its dst written only if an
output is due. It rests on readings that are the model's (log entry 47). -/
def Obligations.MashRuns : Prop := ∀ s a x mk dst input ivit sign m inv first tag u,
  let c := x.cell a.cell
  let k := c.slot a.slot
  let o : MashOp := { dst := dst, input := input, ivit := ivit, sign := sign, m := m, inv := inv, first := first, tag := tag }
  let tile := (List.range 1024).map fun p => if laneOpen c k mk (p / 32) (p % 32) then (c.vit ivit).getD p 0#32 else 0#32
  let tiles := if input = 2 then u.tiles ++ [tile] else u.tiles
  let signs := if input ≠ 0 ∧ u.supplied % u.g = 0 then u.signs ++ [c.mask sign] else u.signs
  let u1 : MashRun := { u with tiles := tiles, signs := signs, count := u.count + 1, closed := u.closed || decide (input = 0) }
  (∀ w ∈ u.tiles, w.length = 1024) → mashRunOf k.mash o = some u → mashBad u o (k.loop.map fun l => (k.desc l.d).e0) = false →
  Ready s a x (.mash mk dst input ivit sign m inv first tag) →
  (input = 1 → (∀ w ∈ c.drain, w.tag ≠ tag) → (c.drain.find? fun w => w.id == c.freshTile) = none →
    CellRun (.mash a) s a.at_ x { c.setSlot a.slot { k.next with
        mash := u1
        fills := k.fills ++ [{ id := c.freshTile, kind := .mash dst (decide (u.g ≤ u.count + 1)) (c.mkMask mk &&& k.loopTail) }] } with
      drain := c.drain ++ [{ id := c.freshTile, tag := tag, beats := [], bound := some (.slot a.slot) }] })
  ∧ (input ≠ 1 → u.count + 1 < u.g → SlotRun (.mash a) s a x { k.next with mash := u1 })
  ∧ (input ≠ 1 → u.g ≤ u.count + 1 → u.g ≤ tiles.length →
    let ends := (u.outs + 1) % u.g = 0
    ∃ y led, exec (.mash a) s = .next (s.setInst a.inst y) ∧ OnlyCell x y a.cell
      ∧ OnlyRegs c (y.cell a.cell) a.slot [opVit dst] []
      ∧ y.slot a.cell a.slot = ({ k with mash := { u1 with
          outs := u.outs + 1, tiles := if ends then tiles.drop u.g else tiles
          signs := if ends then signs.drop 1 else signs } }.addLed led).next
      ∧ ∀ r j, r < 32 → j < 32 → elemAt ((y.cell a.cell).vit (opVit dst)) r j =
        if laneOpen c k mk r j then
          ((mashSegment u.m u.inv (signs.getD 0 0).toNat ((tiles.take u.g).flatMap fun w => (w.drop (32 * r)).take 32)).drop
            (32 * (u.outs % u.g))).getD j 0#32
        else elemAt (c.vit (opVit dst)) r j)

/-- VLD in drain form (R151, R228) binds the oldest drained tile with its tag that nothing has bound: a complete one fills the
enabled lanes of Vi at once, and the tile takes the ledger events of the feed requests before it (R159); for one that has not
fully arrived the instruction is passed and its vitrine waits. It rests on readings that are the model's (log entries 26 and
97). -/
def Obligations.DrainForm : Prop := ∀ s a x mk i tag,
  let c := x.cell a.cell
  let k := c.slot a.slot
  let mine (t : DrainTile) : Bool := t.tag == tag && t.bound.isNone
  let bound (t : DrainTile) : List DrainTile := c.drain.map fun u => if u.id = t.id then { u with bound := some (.slot a.slot) } else u
  (∀ t ∈ c.drain, t.tag = tag → t.id ∉ k.tile.kept) → Ready s a x (.vldDrain mk i tag) →
  (∀ t, c.drain.find? mine = some t → t.beats.length = 4 → (c.drain.find? fun u => u.id == t.id) = some t →
    t.beats.flatten.length = 1024 → (∀ f ∈ k.fills, f.id ≠ t.id) →
    ∃ y, exec (.vldDrain a) s = .next (s.setInst a.inst y) ∧ OnlyCell x y a.cell
      ∧ (y.cell a.cell).drain = bound t ∧ (∀ j, j ≠ i → (y.cell a.cell).vit j = c.vit j)
      ∧ y.slot a.cell a.slot = { k.next with
          feedOld := Led.zero, feedNew := []
          tile := { k.tile with led := k.tile.led.add k.feedEvents, bound := k.tile.bound ++ [t.id] } }
      ∧ ∀ r j, r < 32 → j < 32 → elemAt ((y.cell a.cell).vit i) r j =
        if laneOpen c k mk r j then elemAt t.beats.flatten r j else elemAt (c.vit i) r j)
  ∧ (∀ t, c.drain.find? mine = some t → t.beats.length < 4 → (c.drain.find? fun u => u.id == t.id) = some t →
    CellRun (.vldDrain a) s a.at_ x { c.setSlot a.slot { k.next with
      fills := k.fills ++ [{ id := t.id, kind := .vit i (c.mkMask mk &&& k.loopTail) }] } with drain := bound t })
  ∧ (c.drain.find? mine = none → (c.drain.find? fun u => u.id == c.freshTile) = none →
    CellRun (.vldDrain a) s a.at_ x { c.setSlot a.slot { k.next with
        fills := k.fills ++ [{ id := c.freshTile, kind := .vit i (c.mkMask mk &&& k.loopTail) }] } with
      drain := c.drain ++ [{ id := c.freshTile, tag := tag, beats := [], bound := some (.slot a.slot) }] })

/-! ### Casks -/

/-- CASK_OPEN (R127, R128, R183, R262): when every check of R127 passes, a free entry holds the new cask, with A from its scalar,
I = D = 0, and, for a chain, the row state of R183; its tile commits, and a well-kept table stays so. A check that fails ends the
program with its code, in the order of R127: a range past the window with SP_RANGE, a group that the channel holds with CASK_BUSY,
a range that meets another with CASK_OVERLAP, too many terms with CASK_LIMIT, no entry or 32 casks with CASK_FULL, an offset count
above 2^22 with CHAIN_LIMIT. That the entry is the lowest free one is the model's choice (log entry 98). -/
def Obligations.CaskOpens : Prop := ∀ s a x group base cnt init bound chain rs,
  let c := x.cell a.cell
  let k := c.slot a.slot
  let v := ownerOf k.launch
  let A := (scalarOf k.launch cnt).toNat
  let rows := openRows chain init (c.vit rs)
  let q : Cask := { no := c.opens, owner := v, group := group, base := base, A := A, I := 0, D := 0, init := init, bound := bound,
                    chain := chain, rows := rows, adds := [], wins := [], closing := false }
  let fits := base + 0x4000 ≤ 2 ^ 20
  let new := c.findCask v group = none
  let apart := ∀ p ∈ c.casks, base + 0x4000 ≤ p.2.base ∨ p.2.base + 0x4000 ≤ base
  let small := A + (if init then 1 else 0) + (if chain then A else 0) ≤ (if bound then 2 ^ 22 else 2 ^ 32 - 1)
  let free (e : Nat) := c.freeEntry = some e ∧ x.caskCount v < 32
  let counts := chain = true → init = true → ∀ r ∈ rows, r.posC ≤ 2 ^ 22
  let fail (code : Nat) : Prop :=
    exec (.caskOpen a) s = .next (s.runAt a.inst x fun _ x => (pureRun x).fail a.cell a.slot code k.idx k.counters4)
  Ready s a x (.caskOpen group base cnt init bound chain rs) →
  (∀ e, fits → new → apart → small → free e → counts → GoesOn k.next →
    exec (.caskOpen a) s = .next ((s.setInst a.inst
      (tileDone (x.setCell a.cell ({ c.setCask e q with opens := c.opens + 1 }.setSlot a.slot k.next)) a.cell a.slot)).effs
        a.inst (tileSigs k)) ∧ (CasksOk c → CasksOk (c.setCask e q)))
  ∧ (¬fits → fail 0x0003) ∧ (fits → ¬new → fail 0x0020) ∧ (fits → new → ¬apart → fail 0x0021)
  ∧ (fits → new → apart → ¬small → fail 0x0022)
  ∧ (fits → new → apart → small → (∀ e, ¬free e) → fail 0x0023)
  ∧ (∀ e, fits → new → apart → small → free e → ¬counts → fail 0x0028)

/-- CASK_ADD (R129, R130, R189): a cask of the group with I below A takes the add behind its others, from vitrines or from a
drained tile that it binds, with its step vector if it is a chain; I grows by one and stays at most A, and the load of the
committed half, 32 rows of 4 lines, starts when the add is the first of the cell's adds, or the second one and into another cask
(R122). An add to a cask that has all its adds ends with CASK_OVERRUN, one with a wrong step with CHAIN_ORDER or CHAIN_LIMIT, and
one to no cask with CASK_NONE. The order of adds into different casks, over all slots of the cell, is the model's reading (log
entry 44); so are log entries 30 and 37. -/
def Obligations.CaskAddIssues : Prop := ∀ s a x group src i step sv tag,
  let c := x.cell a.cell
  let k := c.slot a.slot
  let bare (z : CaskAdd) : CaskAdd := { z with load := none, tslot := 0, storing := false }
  let after := nextTile k.next (afterTile k.next).1 (afterTile k.next).2
  let vector (r j : Nat) : Word := elemAt (c.vit sv) r j
  let ordered (q : Cask) : Prop := ∀ p ∈ q.rows.zipIdx, vector p.2 0 = p.1.mI
  let counted (q : Cask) : Prop := ∀ p ∈ q.rows.zipIdx, p.1.posI + (vector p.2 4).toNat ≤ 2 ^ 22
  let fail (code : Nat) : Prop :=
    exec (.caskAdd a) s = .next (s.runAt a.inst x fun _ x => (pureRun x).fail a.cell a.slot code k.idx k.counters4)
  Ready s a x (.caskAdd group src i step sv tag) →
  (∀ e q, c.findCask (ownerOf k.launch) group = some (e, q) → q.I ≠ q.A → q.chain = step →
    (step = true → ordered q ∧ counted q) →
    (src = 0 → (∀ t ∈ c.drain, t.tag ≠ tag) ∧ (c.drain.find? fun t => t.id == c.freshTile) = none) → src ≤ 2 →
    ∃ d q1, CellRun (.caskAdd a) s a.at_ x d
      ∧ d = { c with casks := d.casks, addQ := c.addQ ++ [(a.slot, e)], spReads := d.spReads, spWrites := d.spWrites
                     slots := d.slots, caskSlots := d.caskSlots, tileSlot := d.tileSlot
                     drain := c.drain ++ if src = 0 then [(⟨c.freshTile, tag, [], some (.add e)⟩ : DrainTile)] else [] }
      ∧ ((∀ e1 q2 z ls ts, c.addReady e1 = some (q2, z, ls, ts) → z.storing = true) → d.spWrites = c.spWrites)
      ∧ d.slot a.slot = after ∧ Cell.caskAt d e = some q1 ∧ q1.I = q.D + q.adds.length + 1 ∧ q1.D = q.D ∧ q1.A = q.A
      ∧ q1.adds.map bare = (q.adds ++ [({
          slot := a.slot, index := k.idx, iter := (k.loop.map LoopSt.it).getD 0
          src := if src = 0 then .tile c.freshTile
            else .words (((c.vit i).zip (c.vit (i + 1))).map fun w => { hi := w.1, lo := if src = 2 then w.2 else 0#32 })
          step := if step then (List.range 32).map fun r => (List.range 7).map fun j => vector r j else []
          load := none, tslot := 0, storing := false, led := Led.zero } : CaskAdd)]).map bare
      ∧ (q.adds = [] → c.addQ = [] ∨ (∃ w, c.addQ = [w] ∧ w.2 ≠ e) → ∀ j, j < 32 →
          ({ line := (q.base + 0x2000 * (q.D % 2)) / 64 + 4 * j, n := 4, who := .add e, rank := 1 } : SpRead) ∈ d.spReads)
      ∧ (CasksOk c → CasksOk d))
  ∧ (∀ e q, c.findCask (ownerOf k.launch) group = some (e, q) → q.I = q.A → fail 0x0025)
  ∧ (∀ e q, c.findCask (ownerOf k.launch) group = some (e, q) → q.I ≠ q.A →
      q.chain ≠ step ∨ (step = true ∧ ¬ordered q) → fail 0x0027)
  ∧ (∀ e q, c.findCask (ownerOf k.launch) group = some (e, q) → q.I ≠ q.A → q.chain = true → step = true → ordered q →
      ¬counted q → fail 0x0028)
  ∧ (c.findCask (ownerOf k.launch) group = none → fail 0x0024)

/-- CASK_ADD_COMMIT and the store before it (R129, R130, R136, R189). The add at the head of a cask whose source is there forms
its sums with the last row of its committed half: each element is the twin-word sum of the old one (zero for the first add of
an init = 0 cask) and the source, of a chain scaled by its row's α and μ. It stores them in the other half once it is the
cell's first add in issue order, or the second one into another cask while the first one's are being stored. Once every row
is stored, and every add of the cell that issued earlier has committed, the add commits: D grows by one, its cask tile slot
holds the sums (R149), a chain takes each row's sum, position and offset, and the channel's ledger counts a tile; the slot goes
on as before, or its program ends. It rests on readings that are the model's (log entries 37, 44, 45 and 116). -/
def Obligations.CaskAddCommits : Prop := ∀ s c x e q z ls src,
  let d := x.cell c.cell
  let k := d.slot z.slot
  let terms (ls : List SpLine) : List (Tw × Tw) :=
    let plain := (if q.D = 0 ∧ q.init = false then List.replicate src.length Tw.zero else tileFrom ls (q.half (q.D % 2))).zip src
    if q.chain then
      plain.zipIdx.map fun p => (twScale p.1.1 (z.stepAt (p.2 / 32) 5), twScale p.1.2 (z.stepAt (p.2 / 32) 6))
    else plain
  let sums (ls : List SpLine) : List Tw := (terms ls).map fun p => twAdd p.1 p.2
  let rowTerms (r : Nat) (w : RowState) : Tw × Tw :=
    (twScale w.l (z.stepAt r 5), twScale { hi := z.stepAt r 2, lo := z.stepAt r 3 } (z.stepAt r 6))
  let stores (p : Nat × Nat) : Prop := ∀ q1 z1 ls1 ts, d.addReady p.2 = some (q1, z1, ls1, ts) → z1.storing = true
  AtWork s c.inst x → c.cell < x.cellsBuilt → CellUp x c.cell → src.length = 1024 →
  (∀ w resp data zs,
    let full := ls ++ w.answer (resp.zip data)
    d.nextRead = some w → w.who = .add e → Cell.caskAt d e = some q → q.adds = z :: zs → z.load = some ls →
    (resp.zip data).length = w.n → full.length = 128 → (∀ l ∈ w.answer (resp.zip data), l.resp = 0) → z.storing = false → d.addSource z = some src →
    let stored : Cell := { d.setCask e { q with adds := { z with load := some full, storing := true } :: zs } with
      spReads := d.spReads.erase w
      spWrites := d.spWrites ++ (List.range 32).map fun j =>
        { line := q.half ((q.D + 1) % 2) + 4 * j
          outs := (List.range 4).map fun i => { data := tileLine (sums full) (4 * j + i), be := BitVec.allOnes 64, poison := false }
          who := .add e, rank := 2, index := z.index, iter := z.iter } }
    let loaded : Cell := { d.setCask e { q with adds := { z with load := some full } :: zs } with spReads := d.spReads.erase w }
    let turn := d.addQ.head?.map Prod.snd = some e ∨ ∃ p b rest, d.addQ = p :: b :: rest ∧ b.2 = e ∧ p.2 ≠ e ∧ d.storing p.2 = true
    ((∀ p ∈ d.addQ.take 2, p.2 ≠ e → stores p) →
      (turn → CellRun (.spReadData c resp data) s c x stored) ∧ (¬turn → CellRun (.spReadData c resp data) s c x loaded))
    ∧ ∀ p b rest, d.addQ = p :: b :: rest → p.2 = e → b.2 ≠ e →
      CellRun (.spReadData c resp data) s c x (stored.startStore b.2))
  ∧ (d.addReady e = some (q, z, ls, src) → z.storing = true → d.spWrites.all (fun w => decide (w.who ≠ .add e)) = true →
    d.addQ.head? = some (z.slot, e) → x.flt.injected = none → (∀ j, (d.slot j).wait ≠ .adds) →
    (k.idx < k.prog.length → (∀ code index cs, k.wait ≠ .fail code index cs) →
      ∃ t y q1, exec (.caskAddCommit c e) s = .next t ∧ t = s.setInst c.inst y
        ∧ Cell.caskAt (y.cell c.cell) e = some q1 ∧ q1.D = q.D + 1
        ∧ (d.addQ.length = 1 →
            ({ at_ := z.tslot, entry := e, d := q.D + 1, sums := sums ls } : CaskSlot) ∈ (y.cell c.cell).caskSlots)
        ∧ (∀ r w, q.rows[r]? = some w → ∃ w1, q1.rows[r]? = some w1 ∧ w1.l = twAdd (rowTerms r w).1 (rowTerms r w).2
            ∧ w1.posC = w.posC + (z.stepAt r 4).toNat ∧ w1.mC = z.stepAt r 1)
        ∧ ((∀ p ∈ d.addQ.drop 1, p.2 ≠ e ∧ stores p) → (y.cell c.cell).spWrites = d.spWrites)
        ∧ (y.cell c.cell).vits = d.vits ∧ (y.cell c.cell).masks = d.masks ∧ (CasksOk d → CasksOk (y.cell c.cell))
        ∧ (y.cell c.cell).addQ = d.addQ.drop 1 ∧ (y.cell c.cell).slot z.slot = k
        ∧ (y.vc q.owner).led = (x.vc q.owner).led.add
          (((Led.nonfin ((terms ls).any (fun p => twAddFlags p.1 p.2)
            || q.rows.zipIdx.any fun p => twAddFlags (rowTerms p.2 p.1).1 (rowTerms p.2 p.1).2)).add z.led).add { Led.zero with tiles := 1 }))
    ∧ (k.phase = .running → k.wait = .ready → k.idx = k.prog.length → k.tile.start = k.idx → d.pendingAdds z.slot = [z] →
      d.summaries + d.reserved < 16 → (d.casks.map Prod.fst).Pairwise (· < ·) →
      ∃ y q1, HubRun (.caskAddCommit c e) s c.inst y
          [.record (recProgram k.empty false 0 (wordAt k.launch 0) (launchTag k.launch) c.cell z.slot 0 [])]
        ∧ Cell.caskAt (y.cell c.cell) e = some q1 ∧ q1.D = q.D + 1 ∧ (y.cell c.cell).slot z.slot = Slot.idle))

/-- CASK_DRAIN and CASK_DRAIN_COMPLETE (R131, R133, R149, R184, R191, R192). A drain of a group that the channel does not hold
ends with CASK_NONE, one that asks a plain cask for row records with CHAIN_ORDER, one before every add has issued with
CASK_EARLY_DRAIN; otherwise it waits until all have committed and no window is open. Once S_A is held it completes: dst 0 writes
the encoded tile of its descriptor, rows normalised for a chain, which leaves line by line; dst 1 writes the one rounding of every
element, of a chain divided by its row sum, to Vi; dst 2 the pair itself; rec = 1 the row records, to aux or to the next vitrine;
with close = 1 the entry is then free. The order of a drain against adds into other casks is the model's reading (log entry 44),
and so are log entries 16, 37, 42, 43 and 104. -/
def Obligations.CaskDrains : Prop := ∀ s a x mk dk map group dst i close recs rnd sat,
  let c := x.cell a.cell
  let k := c.slot a.slot
  let d := k.desc dk
  let o : TileOp := .caskDrain mk dk map group dst i close recs rnd sat
  let op : DrainOp := { en := mk, dk := dk, map := map, group := group, dst := dst, i := i, close := close, recs := recs,
                        rnd := rnd, sat := sat }
  let mine := c.findCask (ownerOf k.launch) group
  let fail (code : Nat) : Prop :=
    exec (.caskDrain a) s = .next (s.runAt a.inst x fun _ x => (pureRun x).fail a.cell a.slot code k.idx k.counters4)
  let legal := dst = 0 ∧ d.nw.fmt ≠ none ∧ d.isEmpty = false ∧ d.illegal true recs = false
    ∨ dst = 1 ∧ rnd ∈ [0, 1, 2, 4, 5] ∨ dst = 2
  let released (y : Inst) (e : Nat) : Prop :=
    (close = true → Cell.caskAt (y.cell a.cell) e = none) ∧ (close = false → (y.cell a.cell).casks = c.casks)
  (legal → Ready s a x o →
    (mine = none → fail 0x0024)
    ∧ (∀ e q, mine = some (e, q) → recs = true → q.chain = false → fail 0x0027)
    ∧ (∀ e q, mine = some (e, q) → (recs = true → q.chain = true) → q.I < q.A → fail 0x0026)
    ∧ (∀ e q, mine = some (e, q) → (recs = true → q.chain = true) → q.I = q.A → q.D < q.A ∨ q.wins ≠ [] →
      SlotRun (.caskDrain a) s a x { k with wait := .drain }))
  ∧ (dst = 0 → d.nw.fmt ≠ none → d.isEmpty = true → Ready s a x o → GoesOn k.next →
    exec (.caskDrain a) s = .next ((s.setInst a.inst
      (tileDone (x.setCell a.cell (c.setSlot a.slot { k.next with empty := true })) a.cell a.slot)).effs a.inst (tileSigs k)))
  ∧ (∀ e q, mine = some (e, q) → (recs = true → q.chain = true) → legal → q.I = q.A → q.D = q.A → q.wins = [] →
    AtWork s a.inst x → a.cell < x.cellsBuilt → CellUp x a.cell → x.flt.injected = none → k.phase = .running → k.wait = .drain →
    k.nextOp = some o → c.addsOpen a.slot = false → k.readBuf.all (fun l => l.resp == 0#2) →
    (c.drainReads e q).all (fun b => k.readBuf.any fun l => l.line == b.addr / 64) →
    let sums := c.drainSums e q k.readBuf
    sums.length = 1024 →
    (dst ≠ 0 → k.tile.writes = [] → GoesOn k.next →
      ∃ y, exec (.caskDrainComplete a) s = .next ((s.setInst a.inst y).effs a.inst (tileSigs k))
        ∧ (∀ r j, r < 32 → j < 32 →
          let w := sums.getD (32 * r + j) Tw.zero
          (dst = 1 → elemAt ((y.cell a.cell).vit i) r j =
            (roundLane rnd sat (if q.chain then quotient (q.row r) w else w.val)).1)
          ∧ (dst = 2 → elemAt ((y.cell a.cell).vit i) r j = w.hi ∧ elemAt ((y.cell a.cell).vit (i + 1)) r j = w.lo)
          ∧ (recs = true → elemAt ((y.cell a.cell).vit (i + dst)) r j = (recordWords q.group r (q.row r)).getD j 0#32))
        ∧ (∀ j, j ≠ i → ¬(dst = 2 ∧ j = i + 1) → ¬(recs = true ∧ j = i + dst) → (y.cell a.cell).vit j = c.vit j)
        ∧ (y.cell a.cell).masks = c.masks
        ∧ (q.adds = [] → (∀ p ∈ c.addQ, ∀ q1 z ls ts, c.addReady p.2 = some (q1, z, ls, ts) → z.storing = true) →
          (y.cell a.cell).spWrites = (if close then (c.orphan (.add e)).spWrites else c.spWrites))
        ∧ released y e ∧ (y.slot a.cell a.slot).idx = (afterTile k.next).1)
    ∧ (∀ f ps us wps wus,
      let en := c.mkMask mk &&& tailMask d (k.tileIdx map)
      let plan := d.encodePlan (k.tileIdx map) en
      let rd : Rd := fun b => bufByte k.readBuf (offOf ps b)
      let m := drainKiln ((pureRun x).memEnv a.cell a.slot) op q f sums rd
      dst = 0 → d.nw.fmt = some f → Held o a x (plan.1.map d.adr) ps us → firstFail [{ d := d, ps := plan.2 }] rd = none →
      Placed a x (m.writes.map Prod.fst) wps wus → m.writes ≠ [] →
      ∃ used,
        let k1 : Slot := { k.next with tile := { k.tile with
          led := k.tile.led.add m.led, used := used, closes := if close then some (e, q.no) else none
          writes := k.tile.writes ++ m.writes.map fun w => { addr := offOf wps w.1, byte := w.2, index := k.idx } } }
        CellRun (.caskDrainComplete a) s a.at_ x
          { c.setSlot a.slot { k1 with wait := .commit (k1.writeOut a.slot).length none } with
            spWrites := c.spWrites ++ k1.writeOut a.slot }))

/-- CASK_CLOSE and CASK_CLOSE_DONE (R134): the close waits with the entry marked; when every issued add has committed, the
entry and its range are released and the tile commits. A close for a group that the channel does not hold ends with CASK_NONE.
It rests on readings that are the model's (log entry 46). -/
def Obligations.CaskCloses : Prop := ∀ s a x group,
  let c := x.cell a.cell
  let k := c.slot a.slot
  (∀ e q, c.findCask (ownerOf k.launch) group = some (e, q) → Ready s a x (.caskClose group) →
    CellRun (.caskClose a) s a.at_ x ((c.setCask e { q with closing := true }).setSlot a.slot { k with wait := .close e q.no }))
  ∧ (c.findCask (ownerOf k.launch) group = none → Ready s a x (.caskClose group) →
    exec (.caskClose a) s = .next (s.runAt a.inst x fun _ x => (pureRun x).fail a.cell a.slot 0x0024 k.idx k.counters4))
  ∧ (∀ e no, k.wait = .close e no → c.addsOpen a.slot = false → AtWork s a.inst x → a.cell < x.cellsBuilt →
    CellUp x a.cell → x.flt.injected = none → k.phase = .running → GoesOn k.next →
    let found := c.casks.find? fun p => p.1 == e && p.2.no == no
    let goesOn (d : Cell) : Prop := exec (.caskCloseDone a) s = .next ((s.setInst a.inst
      (tileDone (x.setCell a.cell (d.setSlot a.slot k.next)) a.cell a.slot)).effs a.inst (tileSigs k))
    (∀ p, found = some p → p.2.adds = [] → Cell.caskAt (c.releaseCask e) e = none ∧ goesOn (c.releaseCask e))
    ∧ (∀ p, found = some p → p.2.adds ≠ [] → exec (.caskCloseDone a) s = .next (s.setInst a.inst x))
    ∧ (found = none → goesOn c))

/-! ### The commit of a tile and the end of a program -/

/-- TILE_COMMIT (R217, R242, R300): a tile without memory output commits at once: ledger, bound drained tiles, fence
increments, summaries, and its program goes on at the next tile. The bytes of one with output leave in requests of 1 to 4
consecutive lines, each line once, and the tile waits for their acknowledgements. A tile whose gathers accumulate first reads
the records onto which they do (R82), while no other slot of the cell forms its own. It rests on readings that are the model's
(log entries 36, 37 and 95). -/
def Obligations.TileCommits : Prop := ∀ s a x,
  let c := x.cell a.cell
  let k := c.slot a.slot
  let lines := (k.tile.writes.map fun w => w.addr / 64).eraseDups
  let base := recordLines (gatherBase k.tile.gathers)
  let formed := formGathers (bufByte k.readBuf) k.tile.gathers
  let leaves (t : Slot) : Prop := CellRun (.tileCommit a) s a.at_ x
    { c.setSlot a.slot { t with wait := .commit (t.writeOut a.slot).length none } with spWrites := c.spWrites ++ t.writeOut a.slot }
  TileReady s a x →
  (k.tile.gathers = [] → k.tile.writes = [] → GoesOn k →
    exec (.tileCommit a) s = .next ((s.setInst a.inst (tileDone x a.cell a.slot)).effs a.inst (tileSigs k)))
  ∧ (k.tile.gathers = [] → k.tile.writes ≠ [] → leaves k)
  ∧ (k.tile.gathers ≠ [] → c.gatherBusy a.slot = false → base ≠ [] →
    CellRun (.tileCommit a) s a.at_ x { c.setSlot a.slot { k with readBuf := [], wait := .gather } with
      spReads := c.spReads ++ (runsOf base).map fun p => { line := p.1, n := p.2, who := .slot a.slot, rank := 3 } })
  ∧ (k.tile.gathers ≠ [] → c.gatherBusy a.slot = false → base = [] → formed.1 ≠ [] →
    leaves { k with tile := { k.tile with writes := k.tile.writes ++ formed.1, led := k.tile.led.add formed.2 } })
  ∧ (k.tile.gathers ≠ [] → c.gatherBusy a.slot = true → exec (.tileCommit a) s = .next (s.setInst a.inst x))
  ∧ (∀ w ∈ k.writeOut a.slot, 1 ≤ w.outs.length ∧ w.outs.length ≤ 4 ∧ w.who = .slot a.slot
      ∧ w.outs = (List.range w.outs.length).map fun j => lineOut k.tile.writes (w.line + j))
  ∧ ((k.writeOut a.slot).flatMap fun w => (List.range w.outs.length).map (w.line + ·)).Perm lines

/-- The commit of a program's last tile ends it with success (R206, R244, R289): its record and its end summary are posted, its
claimed vitrines and masks are zeroed, and its slot is free. -/
def Obligations.ProgramEnds : Prop := ∀ s a x,
  let c := x.cell a.cell
  let k := c.slot a.slot
  TileReady s a x → k.tile.gathers = [] → k.tile.writes = [] → k.tile.sums = [] → k.tile.closes = none → k.loop = none →
  k.idx = k.prog.length → c.summaries + c.reserved < 16 →
  ∃ y, exec (.tileCommit a) s = .next ((s.setInst a.inst y).effs a.inst (tileSigs k
      ++ [.record (recProgram k.empty false 0 (wordAt k.launch 0) (launchTag k.launch) a.cell a.slot 0 [])]))
    ∧ y.slot a.cell a.slot = Slot.idle
    ∧ (∀ i, bitOf (vitClaim k.launch) i → (y.cell a.cell).vit i = List.replicate 1024 0#32)
    ∧ (∀ i, bitOf (maskClaim k.launch) i → (y.cell a.cell).mask i = 0)
    ∧ (∀ i, bitOf (vitClaim k.launch) i = false → (y.cell a.cell).vit i = c.vit i)
    ∧ (y.cell a.cell).outQ = c.outQ ++
      [{ data := BitVec.ofNat 32 (launchTag k.launch % 2 ^ 16 * 2 ^ 16 + 0xFFFF), kind := 0, last := false, box := none },
       { data := BitVec.ofNat 32 (flagAt k.empty 16), kind := 0, last := true, box := none }]

/-! ### The ports of a cell -/

/-- DRAIN_BEAT and FLUSH_UNBOUND (R150, R153, R155, R177). A beat whose tag owes beats is dropped and the count falls; one that
finds a place joins the tile of its tag, or begins one; with all 64 entries taken it is not accepted and counts in STALL_DRAIN. No
beat makes the queue hold more than 64 beats, or count more than 16 tiles and records of beats owed. Any beat ungates the cell,
and so does the flush. The last beat of a tile that a VLD waits for fills its vitrine, and that of a tile which a cask add has
bound lets the stores that may begin do so (R129); either consumer takes the ledger events of its slot's feed requests (R159). The
flush discards every drained tile that nothing has bound, and only those. It rests on readings that are the model's (log entries
19, 22 and 97). -/
def Obligations.DrainPort : Prop :=
  (∀ (s : State) (a : CellAt) (x : Inst) (tag : BitVec 16) (beat : List Word),
    let c : Cell := { x.cell a.cell with gated := false }
    AtWork s a.inst x → a.cell < x.cellsBuilt → CellUp x a.cell →
    (∀ n, c.owed.find? (fun p => p.1 == tag) = some (tag, n) → CellRun (.drainBeat a tag beat) s a x { c with
        owed := if n ≤ 1 then c.owed.filter (fun p => p.1 != tag) else c.owed.map fun p => if p.1 == tag then (tag, n - 1) else p })
    ∧ (c.owed.all (fun p => p.1 != tag) → c.heldBeats < 64 → c.beatTile tag = none → c.counted < 16 →
      CellRun (.drainBeat a tag beat) s a x
        { c with drain := c.drain ++ [{ id := c.freshTile, tag := tag, beats := [beat], bound := none }] })
    ∧ (∀ t, c.owed.all (fun p => p.1 != tag) → c.heldBeats < 64 → c.beatTile tag = some t → t.beats ≠ [] ∨ c.counted < 16 →
      let joined : Cell := { c with drain := c.drain.map fun u => if u.id = t.id then { u with beats := t.beats ++ [beat] } else u }
      let waits (k : Nat) (f : Fill) : Prop := (c.slot k).fills.find? (fun f => f.id == t.id) = some f
      ((t.beats.length = 3 → (∀ k f, ¬waits k f) ∧ ∀ u ∈ c.drain, u.id = t.id → ∀ e, u.bound ≠ some (.add e)) →
        CellRun (.drainBeat a tag beat) s a x joined)
      ∧ (t.beats.length = 3 → c.drain.find? (fun u => u.id == t.id) = some t →
        (∀ e, t.bound = some (.add e) → (∀ k f, ¬waits k f) →
          CellRun (.drainBeat a tag beat) s a x (joined.addTakes e t.id).startStores)
        ∧ (∀ k j i en, t.bound = some (.slot j) → waits k { id := t.id, kind := .vit i en } → (∀ m f, m ≠ k → ¬waits m f) → k < 4 →
          let z := c.slot k
          CellRun (.drainBeat a tag beat) s a x ((joined.setSlot k { z with
              fills := z.fills.filter fun f => f.id != t.id
              feedOld := Led.zero, feedNew := []
              tile := { z.tile with led := z.tile.led.add z.feedEvents, bound := z.tile.bound ++ [t.id] } }).setVit i
            (pickLanes en (c.vit i) (t.beats ++ [beat]).flatten)))))
    ∧ (c.owed.all (fun p => p.1 != tag) →
      64 ≤ c.heldBeats ∨ 16 ≤ c.counted ∧ (∀ t, c.beatTile tag = some t → t.beats = []) →
      CellRun (.drainBeat a tag beat) s a x { c with stallDrain := satInc c.stallDrain })
    ∧ ((c.drain.map DrainTile.id).Nodup → c.heldBeats ≤ 64 → c.counted ≤ 16 →
      ∃ y, exec (.drainBeat a tag beat) s = .next (s.setInst a.inst y) ∧ OnlyCell x y a.cell
        ∧ ((y.cell a.cell).drain.map DrainTile.id).Nodup ∧ (y.cell a.cell).heldBeats ≤ 64 ∧ (y.cell a.cell).counted ≤ 16))
  ∧ ∀ (s : State) (a : CellAt) (x : Inst),
    let c := x.cell a.cell
    AtWork s a.inst x → PortOpen s → a.cell < x.cellsBuilt → (c.drain.map DrainTile.id).Nodup →
    ∃ d, CtlRun (.flushUnbound a) s a.inst (x.setCell a.cell d)
      ∧ d = { c with drain := c.drain.filter fun t => t.bound.isSome, owed := d.owed, gated := false }
      ∧ ∀ t ∈ c.drain, t.bound = none → 1 ≤ t.beats.length → t.beats.length < 4 → (t.tag, 4 - t.beats.length) ∈ d.owed

/-- FEED_VECTOR_ACCEPT (R177, R420): the multiplier takes the oldest operand vector; with none presented nothing is taken, and
the cycle counts as a stall only while a feed request is active: it waits for its operands, or the cell is paused. It rests on
readings that are the model's (log entries 14 and 22). -/
def Obligations.FeedAccepts : Prop := ∀ (s : State) (a : CellAt) (x : Inst),
  let c := x.cell a.cell
  AtWork s a.inst x → a.cell < x.cellsBuilt →
  (∀ f rest, CellUp x a.cell → c.feedQ = f :: rest →
    let k := c.slot f.slot
    CellRun (.feedVectorAccept a) s a x
      ({ c with feedQ := rest }.setSlot f.slot { k with tile := { k.tile with fed := k.tile.fed + 1 } }))
  ∧ (c.feedQ = [] ∧ c.feedWaits = true ∨ c.feedQ ≠ [] ∧ c.paused = true →
    CellRun (.feedVectorAccept a) s a x { c with stallFeed := satInc c.stallFeed })
  ∧ (c.feedQ = [] → c.feedWaits = false → exec (.feedVectorAccept a) s = .next (s.setInst a.inst x))

/-- SP_READ_DATA (R22, R130, R421): the oldest request of the highest priority is granted, and its beat answers all its lines:
a program being fetched, an instruction or a commit that still misses others, or the add at the head of a cask that misses
others keeps them; nobody's are dropped. With its last lines an instruction goes on as if it issued then: the outcome is that
of its issue in the state where the slot holds them. A beat of another number of lines answers nothing. That requests of one
priority are served in their order is the model's choice (log entry 37); so is the order of a cask's loads (log entry 45). -/
def Obligations.ReadData : Prop :=
  (∀ (s : State) (a : CellAt) (x : Inst) (resp : List (BitVec 2)) (data : List Line) (q : SpRead),
    let c := x.cell a.cell
    let ls := q.answer (resp.zip data)
    let d : Cell := { c with spReads := c.spReads.erase q }
    Built s a x → c.nextRead = some q →
    ((resp.zip data).length ≠ q.n → exec (.spReadData a resp data) s = .next (s.setInst a.inst x))
    ∧ ((resp.zip data).length = q.n →
    (∀ j, q.who = .slot j →
      (c.slot j).phase = .fetching ∨ ((c.slot j).wait = .lines ∨ (c.slot j).wait = .gather) ∧ d.owesSlot j = true →
      CellRun (.spReadData a resp data) s a x (d.setSlot j { c.slot j with readBuf := (c.slot j).readBuf ++ ls }))
    ∧ (∀ e z zs m, q.who = .add e → Cell.caskAt c e = some z → z.adds = m :: zs →
      (∀ l ∈ ls, l.resp = 0) ∨ z.D = 0 ∧ z.init = false → (∀ old, m.load = some old → old.length + q.n < 128) →
      CellRun (.spReadData a resp data) s a x
        (d.setCask e { z with adds := { m with load := m.load.map (· ++ ls) } :: zs }).startStores)
    ∧ (q.who = .nobody → CellRun (.spReadData a resp data) s a x d)
    ∧ (ls.map SpLine.line = (List.range q.n).map (q.line + ·))
    ∧ (∀ p ∈ c.spReads, p.rank < q.rank → p.rank ≠ 1 ∧ p.rank ≠ 2)))
  ∧ ∀ (s : State) (a : Site) (x : Inst) (resp : List (BitVec 2)) (data : List Line) (q : SpRead) (o : TileOp),
    let c := x.cell a.cell
    let k := c.slot a.slot
    let d : Cell := { c with spReads := c.spReads.erase q }
    let x1 := x.setCell a.cell (d.setSlot a.slot { k with readBuf := k.readBuf ++ q.answer (resp.zip data), wait := .ready })
    Built s a.at_ x → c.nextRead = some q → (resp.zip data).length = q.n → q.who = .slot a.slot → k.phase = .running → k.wait = .lines →
    d.owesSlot a.slot = false → Ready (s.setInst a.inst x1) a x1 o →
    exec (.spReadData a.at_ resp data) s = exec (cmdOf o a k.prologue) (s.setInst a.inst x1)

/-- SP_WRITE_ACK (R22, R130, R300, R302): the oldest write request of the highest priority is granted and acknowledged. One of
a tile's write-out is counted; with the last one, and no error, the tile takes effect; a failed one is remembered, and ends the
program with MEM_WRITE_ERROR and the failed instruction's index after the last. One of a cask add's store leaves the add to
its commit, or ends it with MEM_WRITE_ERROR; one of nobody, and an acknowledgement with no request, change nothing else. When
the invalidations waiting for a write-out are acknowledged is the model's reading (log entry 61), and so is log entry 37. -/
def Obligations.WriteAcknowledged : Prop := ∀ (s : State) (a : Site) (x : Inst) (w : SpWrite),
  let c := x.cell a.cell
  let k := c.slot a.slot
  let d : Cell := { c with spWrites := c.spWrites.erase w }
  let x1 := x.setCell a.cell d
  Built s a.at_ x →
  (∀ err, c.spWrites = [] → exec (.spWriteAck a.at_ err) s = .next (s.setInst a.inst x))
  ∧ (∀ err, c.nextWrite = some w → w.who = .nobody ∨ (∃ v, w.who = .scrub v) → CellRun (.spWriteAck a.at_ err) s a.at_ x d)
  ∧ (∀ e, c.nextWrite = some w → w.who = .add e → CellRun (.spWriteAck a.at_ false) s a.at_ x d)
  ∧ (∀ e q z zs, c.nextWrite = some w → w.who = .add e → Cell.caskAt c e = some q → q.adds = z :: zs →
    exec (.spWriteAck a.at_ true) s = .next (s.runAt a.inst x1 fun _ y => (pureRun y).addFail a.cell e z 0x0053))
  ∧ (c.nextWrite = some w → w.who = .slot a.slot →
  (∀ left old err, k.wait = .commit left old → 1 < left →
    CellRun (.spWriteAck a.at_ err) s a.at_ x (d.setSlot a.slot { k with
      wait := .commit (left - 1) (match old with
        | some p => some p
        | none => if err then some (0x0053, w.index) else none) }))
  ∧ (∀ left, k.wait = .commit left none → left ≤ 1 → GoesOn k → x.flt.failstop = false →
    exec (.spWriteAck a.at_ false) s =
      .next ((s.setInst a.inst (tileDone x1 a.cell a.slot).ackInvalidations).effs a.inst (tileSigs k)))
  ∧ (∀ left old err p, k.wait = .commit left old → left ≤ 1 → old = some p ∨ old = none ∧ err = true ∧ p = (0x0053, w.index) →
    c.summaries + (c.setSlot a.slot Slot.idle).reserved < 16 →
    ∃ y, exec (.spWriteAck a.at_ err) s = .next ((s.setInst a.inst y).effs a.inst
        [.record (recProgram k.empty false p.1 (wordAt k.launch 0) (launchTag k.launch) a.cell a.slot p.2 k.counters4)])
      ∧ y.slot a.cell a.slot = Slot.idle ∧ y.vcs = x.vcs ∧ y.fences = x.fences))

/-- LAUNCH_RECORD, LAUNCH_ADMIT, LAUNCH_FETCH_DONE and RESERVED_KIND_RECORD (R205, R206, R222, R422). A legal record waits in
the queue for its response; while the queue is full or a post is held the port holds it; one that breaks check 2 is answered
with CH_ARG, as is a record of a reserved kind, and one to a cell out of service with CELL_RETIRED, with no other effect. The
record at the head of the queue that passes its checks takes an idle slot, its claimed vitrines and masks are zeroed, and its
program and descriptors are requested; when they have arrived and pass the static checks, the launch is accepted and the
program runs from its first instruction. That the slot is the lowest idle one is the model's choice (log entry 99); how the
lines are requested is log entry 37's. It also rests on log entry 49. -/
def Obligations.Launches : Prop :=
  (∀ (s : State) (a : CellAt) (x : Inst) (ws : List Word),
    let c : Cell := { x.cell a.cell with gated := false }
    let refusal (code : Word) : Cell := { c with outQ := c.outQ ++ [{ data := code, kind := 1, last := true, box := none }] }
    AtWork s a.inst x → a.cell < x.cellsBuilt →
    (c.heldPost ≠ none ∨ 4 ≤ c.launchQ.length → CellRun (.launchRecord a ws) s a x c)
    ∧ (c.heldPost ≠ none → CellRun (.reservedKindRecord a ws) s a x c)
    ∧ (c.heldPost = none →
    (x.cellOut a.cell = false → launchArg x ws = true → c.launchQ.length < 4 →
      (∀ w ∈ c.respQ, ∀ code, w ≠ .done code) →
      CellRun (.launchRecord a ws) s a x { c with launchQ := c.launchQ ++ [ws], respQ := c.respQ ++ [.queued] })
    ∧ (x.cellOut a.cell = false → launchArg x ws = false → c.launchQ.length < 4 → c.respQ = [] →
      CellRun (.launchRecord a ws) s a x (refusal 0x00000030#32))
    ∧ (x.cellOut a.cell = true → c.launchQ.length < 4 → c.respQ = [] →
      CellRun (.launchRecord a ws) s a x (refusal 0x00000039#32))
    ∧ (c.respQ = [] → CellRun (.reservedKindRecord a ws) s a x
        (refusal (if x.lstFail.getLsbD a.cell then 0x00000039#32 else 0x00000030#32)))))
  ∧ ∀ (s : State) (a : Site) (x : Inst) (ws : List Word),
    let c := x.cell a.cell
    AtWork s a.inst x → a.cell < x.cellsBuilt → CellUp x a.cell →
    (∀ rest, c.launchQ = ws :: rest → c.freeSlot = some a.slot → c.claimed ws = false → x.admitCheck (s.env a.inst) ws = 0 →
      ∃ d, CellRun (.launchAdmit a.at_) s a.at_ x d ∧ d.launchQ = rest
        ∧ (∀ i, bitOf (vitClaim ws) i → d.vit i = List.replicate 1024 0#32)
        ∧ (∀ i, bitOf (vitClaim ws) i = false → d.vit i = c.vit i) ∧ (∀ i, bitOf (maskClaim ws) i → d.mask i = 0)
        ∧ (∀ i, bitOf (maskClaim ws) i = false → d.mask i = c.mask i)
        ∧ d.spReads = c.spReads ++ (runsOf (launchLines ws)).map (fun p =>
            ({ line := p.1, n := p.2, who := .slot a.slot, rank := 3 } : SpRead))
        ∧ d.slots = c.slots.set a.slot { Slot.idle with phase := .fetching, launch := ws })
    ∧ (∀ rest, x.flt.injected = none → (c.slot a.slot).phase = .fetching → (c.slot a.slot).launch = ws → c.owesSlot a.slot = false →
      (c.slot a.slot).readBuf.all (fun l => l.resp == 0#2) →
      staticOk (fetchedProg (c.slot a.slot).readBuf ws) (descCount ws) (vitClaim ws) (maskClaim ws) = true →
      c.respQ = .fetching a.slot :: rest → (∀ w ∈ rest, ∀ code, w ≠ .done code) →
      CellRun (.launchFetchDone a) s a.at_ x { c.setSlot a.slot { Slot.idle with
          phase := .running, launch := ws, prog := fetchedProg (c.slot a.slot).readBuf ws
          descs := fetchedDescs (c.slot a.slot).readBuf ws } with
        respQ := rest, outQ := c.outQ ++ [{ data := 0x80000000#32, kind := 1, last := true, box := none }] })

/-! ### Transfer requests and mailboxes -/

/-- TRANSFER_REQUEST (R305, R306, R331, R360), at the instance of its handle: while 2,048 transfers are queued there the request
is held, whatever it asks; else the first check of R306 that fails is the response; a request that passes them all is accepted
with a new transfer, which waits, and which takes the packets held for it. Nothing else changes but that the cell is ungated. It
rests on readings that are the model's (log entries 19, 50 and 56). -/
def Obligations.TransferRequests : Prop := ∀ (s : State) (a : CellAt) (x : Inst) (ws : List Word) (lines : List SpLine),
  let x0 := x.ungate a.cell
  let h := wordAt ws 0
  let v := x.vc (handleVc h)
  let mine := (x.xfers.filter fun t => t.vc == handleVc h).length
  let desc (o : Nat) : Desc := Desc.of (dataIn lines (o / 64))
  let shape := shapeCheck ws (desc (xSrc ws)) (desc (xDst ws)) (dataIn lines (xSrc ws / 64 + 1))
  let refuse (code : Nat) : Prop :=
    exec (.transferRequest a ws lines) s = .next (s.setInst a.inst (x0.respond a.cell code))
  let full := ∃ y, (s.setInst a.inst x0).insts[handleInst h]? = some y ∧ y.awake = true ∧ 2048 ≤ y.queuedXfers
  let t := newXfer ((s.setInst a.inst x0).env a.inst) x0 a.cell ws lines
  AtWork s a.inst x → a.cell < x.cellsBuilt → (x.cell a.cell).heldPost = none →
  (full → exec (.transferRequest a ws lines) s = .next (s.setInst a.inst x0))
  ∧ (¬full → x.cellOut a.cell = true → refuse 0x0039)
  ∧ (¬full → x.cellOut a.cell = false →
  (ws.length ≠ 8 ∨ xWordsOk ws = false ∨ x.instCount ≤ handleInst h → refuse 0x0030)
  ∧ (ws.length = 8 → xWordsOk ws = true → handleInst h = a.inst → a.inst < x.instCount →
    (x.stream.inForce = false → refuse 0x0038)
    ∧ (x.stream.inForce = true →
      (v.st = .free ∨ v.gen ≠ handleGen h → refuse 0x0031)
      ∧ (v.gen = handleGen h → v.st ≠ .free → v.st ≠ .running → refuse 0x0032)
      ∧ (v.gen = handleGen h → v.st = .running → 32 ≤ mine → refuse 0x0056)
      ∧ (v.gen = handleGen h → v.st = .running → mine < 32 →
        (requestRange ws = false → refuse 0x0003)
        ∧ (requestRange ws = true → (∀ l ∈ requestLines ws, ∃ q, lineIn lines l = some q ∧ q.resp = 0) →
          (shape ≠ 0 → refuse shape)
          ∧ (shape = 0 →
            exec (.transferRequest a ws lines) s = .next (s.setInst a.inst (({ x0 with
              xfers := x0.xfers ++ [t], xferSeq := x0.xferSeq + 1 }.claimHeld t).respond a.cell 0))))))))

/-- MB_ALLOC, MB_FREE, MB_SEND and MB_TAKE (R361, R362, R364), the window at work and not busy, or busy, when they are ignored:
the lowest free mailbox is allocated; a mailbox of the window's own instance is released with its next generation, a record
of which no word was sent withdrawn, and after a delivery whose first word was sent; a message is posted for, or taken by, the
management processor; every failing check has its code and changes nothing else; a mailbox of a sleeping instance, or of one
behind a die that sleeps, makes the command wait and wakes the first of them. It rests on readings that are the model's (log
entries 19, 20 and 63). -/
def Obligations.MailboxCommands : Prop := ∀ (s : State) (i : Nat) (x : Inst) (m : Nat),
  let h := x.mbArg0
  let b := x.mbox m
  let from_ := x.mbArg0.toNat
  let to_ := x.mbArg1.toNat
  let ends (c : Instr) (y : Inst) (code : Nat) : Prop := CtlRun c s i { y with mbCode := code, mbWait := none }
  let agents := agentOk from_ && agentOk to_ && decide (from_ ≠ to_) && decide (agentInst from_ < x.instCount)
    && decide (agentInst to_ < x.instCount) && s.agentServed from_ && s.agentServed to_
  let busy := x.mbFreeing.isSome || x.mbWait.isSome
  AtWork s i x → PortOpen s →
  (busy = true → CtlRun (.mbAlloc i) s i x ∧ CtlRun (.mbFree i) s i x ∧ CtlRun (.mbSend i) s i x ∧ CtlRun (.mbTake i) s i x)
  ∧ (busy = false → m < 32 →
  (agents = false → ends (.mbAlloc i) x 0x0078)
  ∧ (agents = true → (∀ k, k < 32 → (x.mbox k).alloc = true) → ends (.mbAlloc i) x 0x0079)
  ∧ (agents = true → b.alloc = false → (∀ k, k < m → (x.mbox k).alloc = true) →
    CtlRun (.mbAlloc i) s i { x.setMbox m { Mbox.free with alloc := true, gen := b.gen, sender := from_, receiver := to_ } with
      mbCode := 0, mbHandle := mkHandle x.id b.gen m })
  ∧ (handleInst h = i → handleVc h = m → (b.alloc = false ∨ b.gen ≠ handleGen h) →
    ends (.mbFree i) x 0x007A ∧ ends (.mbSend i) x 0x007A ∧ ends (.mbTake i) x 0x007A)
  ∧ (∀ y, handleInst h ≠ i → s.insts[handleInst h]? = some y → s.linked i (handleInst h) = true →
    (y.asleep = true → handleInst h ∈ s.sleepers i (handleInst h))
    ∧ ∀ k rest z, s.sleepers i (handleInst h) = k :: rest → s.insts[k]? = some z →
      exec (.mbTake i) s = .next (served (.mbTake i) s
        ((s.setInst k (z.wakeBy 4)).setInst i { x with mbWait := some (4, h) })))
  ∧ (handleInst h = i → handleVc h = m → b.alloc = true → b.gen = handleGen h →
    let left := s.wordsLeft b.receiver h
    let free := x.setMbox m { Mbox.free with gen := nextGen b.gen }
    (agentCell b.receiver = none → ends (.mbFree i) free 0)
    ∧ (left = 0 ∨ 6 ≤ left →
      exec (.mbFree i) s = .next (served (.mbFree i) s (((s.setInst i free).recall b.receiver h).mbEnd i 0)))
    ∧ (0 < left → left < 6 → CtlRun (.mbFree i) s i { x with mbFreeing := some (32 * i + m), mbWait := none })
    ∧ (b.sender ≠ 0 → ends (.mbSend i) x 0x007B)
    ∧ (b.sender = 0 → b.pending = true → ends (.mbSend i) x 0x007C)
    ∧ (b.sender = 0 → b.pending = false → ends (.mbSend i) (x.setMbox m { b with pending := true }) 0)
    ∧ (b.receiver ≠ 0 → ends (.mbTake i) x 0x0078)
    ∧ (b.receiver = 0 → b.pending = false → ends (.mbTake i) x 0x007C)
    ∧ (b.receiver = 0 → b.pending = true → ends (.mbTake i)
        (x.setMbox m { b with pending := false, taken := (b.taken + 1) % 2 ^ 16, sending := false }) 0)))

/-- The mailbox commands of a cell's port (R244, R363, R364, R422). A core that is the mailbox's sender posts its message into an
empty mailbox, waits with a held record while one is pending, and is refused at another's; the release posts the held message. A
pending message whose doorbell is not masked leaves for its core as six words; one whose doorbell is masked before the core has
taken its first word is put back; the core takes the oldest outbound word; the last word of a delivery takes the message; the
place that a taken word frees ends a program whose end summary waited. It rests on readings that are the model's (log entries 20
and 63). -/
def Obligations.MailboxPort : Prop :=
  (∀ (s : State) (a : CellAt) (x : Inst) (ws : List Word),
    let c : Cell := { x.cell a.cell with gated := false }
    let m := handleVc (wordAt ws 0)
    let b := x.mbox m
    let resp (code : Word) : OutWord := { data := code, kind := 1, last := true, box := none }
    let posted := x.setMbox m { b with pending := true, msg := ws.drop 1 }
    AtWork s a.inst x → a.cell < x.cellsBuilt → handleInst (wordAt ws 0) = a.inst →
    m < 32 → b.alloc = true → b.gen = handleGen (wordAt ws 0) →
    (c.heldPost = none → c.respQ = [] → x.cellOut a.cell = false → ws.length = 5 →
      (b.sender = coreAgent x.id a.cell → b.pending = false → exec (.mailboxRecord a ws) s =
        .next (s.setInst a.inst (posted.setCell a.cell { c with outQ := c.outQ ++ [resp 0x80000000#32] })))
      ∧ (b.sender = coreAgent x.id a.cell → b.pending = true →
        CellRun (.mailboxRecord a ws) s a x { c with heldPost := some ws, respQ := [.held] })
      ∧ (b.sender ≠ coreAgent x.id a.cell →
        CellRun (.mailboxRecord a ws) s a x { c with outQ := c.outQ ++ [resp 0x0000007B#32] }))
    ∧ (∀ rest, c.heldPost = some ws → c.respQ = .held :: rest → (∀ w ∈ rest, ∀ code, w ≠ .done code) →
      b.sender = coreAgent x.id a.cell → b.pending = false → exec (.mbHeldPostRelease a) s =
        .next (s.setInst a.inst (posted.setCell a.cell { x.cell a.cell with
          heldPost := none, respQ := rest, outQ := c.outQ ++ [resp 0x80000000#32] }))))
  ∧ ∀ (s : State) (x : Inst),
    (∀ (a : CellAt) (w : OutWord) (rest : List OutWord),
      let c := x.cell a.cell
      let ending (k : Nat) : Prop := ∃ code pre index cs, (c.slot k).phase = .ending code pre index cs
      let d : Cell := { c with outQ := rest }
      AtWork s a.inst x → a.cell < x.cellsBuilt → c.outQ = w :: rest → s.maskedOut c.outQ = [] →
      ((∀ k, k < 4 → ¬ending k) →
        (w.box = none → CellRun (.outboundWordAccept a) s a x d)
        ∧ (∀ h, w.box = some h → w.last = true → handleInst h = a.inst → handleVc h < 32 →
          let b := x.mbox (handleVc h)
          b.alloc = true → b.gen = handleGen h → b.sending = true →
          (∀ y ∈ s.insts, y.mbFreeing ≠ some (32 * a.inst + handleVc h)) →
          exec (.outboundWordAccept a) s = .next (s.setInst a.inst ((x.setCell a.cell d).setMbox (handleVc h)
            { b with pending := false, taken := (b.taken + 1) % 2 ^ 16, sending := false }))))
      ∧ (∀ k code pre index cs, k < 4 → (∀ j, j < 4 → j ≠ k → ¬ending j) → (c.slot k).phase = .ending code pre index cs →
        w.box = none → d.summaries + d.reserved < 16 →
        ∃ y, exec (.outboundWordAccept a) s = .next ((s.setInst a.inst y).effs a.inst [.record (recProgram (c.slot k).empty pre code
            (wordAt (c.slot k).launch 0) (launchTag (c.slot k).launch) a.cell k index cs)])
          ∧ y.slot a.cell k = Slot.idle ∧ y.vcs = x.vcs))
    ∧ (∀ a h, AtWork s a.inst x → a.cell < x.cellsBuilt → s.maskedOut (x.cell a.cell).outQ = [h] →
      exec (.outboundWordAccept a) s = exec (.outboundWordAccept a) (s.putBack a h))
    ∧ (∀ i m n,
      let b := x.mbox m
      let c := x.cell n
      AtWork s i x → agentCell b.receiver = some (i, n) → b.pending = true → b.sending = false →
      x.dbMask.getLsbD m = false → n < x.cellsBuilt → x.cellOut n = false →
      exec (.mbDelivery i m) s = .next (s.setInst i ((x.setMbox m { b with sending := true }).setCell n
        { c with gated := false, outQ := c.outQ ++ deliveryWords (mkHandle x.id b.gen m) b })))

/-! ### Translation, transfers, collectives -/

/-- XLATE_ANSWER, RESOLVE_NOTICE and INVALIDATION (R296 to R298, R301, R426): an OK answer is cached under the pages of its size,
and of 8,192 entries that are all taken the oldest leaves; a PENDING one makes its instruction wait for the notice, which starts
its tile again, and which an instance that sleeps takes, wakes for and keeps until it is in RUN (R405, R419; log entry 19); a
refused one ends a transfer with XLATE_FAULT; an invalidation drops every entry that it names, starts again the tiles that used a
translation of its range, and is acknowledged. How an answer's page size masks its page numbers is the model's reading (log entry
38); so is log entry 61. -/
def Obligations.TranslationPort : Prop := ∀ (s : State) (i : Nat) (x : Inst),
  let restarted (y : Inst) (n k : Nat) : Prop :=
    let t := (x.slot n k).tile
    (y.slot n k).wait = .ready ∧ (y.slot n k).idx = t.start ∧ (y.slot n k).loop = t.loop0 ∧ (y.slot n k).tile.writes = []
      ∧ (y.slot n k).tile.led = Led.zero
  (Alive s i x → x.awake = false → ∀ (asid : BitVec 16) (vpn : BitVec 40) (all : Bool),
    HubRun (.resolveNotice i asid vpn all) s i { x.wakeBy 6 with notices := x.notices ++ [(asid, vpn.toNat, all)] } [])
  ∧ (AtWork s i x →
  (∀ (tag : BitVec 10) (ans : XlAns) (q : XlReq),
    x.xreqs.find? (fun p => p.tag == tag.toNat && !p.pending) = some q →
    let left := x.xreqs.filter fun p => p.tag != tag.toNat
    (ans.status = 0 → q.who = .nobody → x.xfers = [] → (∀ n k, (x.slot n k).wait ≠ .xlate) →
      let pages := if ans.size = 0 then 1 else if ans.size = 1 then 16 else if ans.size = 2 then 512 else 262144
      let e : TlbEntry := { asid := q.asid, vpn := q.vpn - q.vpn % pages, pages := pages,
                            ppn := ans.ppn.toNat - ans.ppn.toNat % pages, r := ans.r, w := ans.w }
      let others := x.tlb.filter fun u => decide (u ≠ e)
      HubRun (.xlateAnswer i tag ans) s i
        { x with tlb := (if others.length < 8192 then others else others.drop 1) ++ [e], xreqs := left } [])
    ∧ (∀ n k, ans.status = 1 → q.who = .slot n k → (x.slot n k).wait = .xlate →
      HubRun (.xlateAnswer i tag ans) s i { x.setSlot n k { x.slot n k with wait := .resolve } with
        xreqs := x.xreqs.map fun p => if p.tag = tag.toNat then { p with pending := true } else p } [])
    ∧ (∀ t, ans.status ≠ 0 → ans.status ≠ 1 → q.who = .xfer t.id → x.xfers = [t] → t.phase = .translating →
      (∀ n k, (x.slot n k).wait ≠ .xlate) →
      HubRun (.xlateAnswer i tag ans) s i (without { x with xreqs := left } t) (xferErrs t 0x0050 0)))
  ∧ (∀ (asid : BitVec 16) (vpn : BitVec 40) (all : Bool) (q : XlReq) (n k : Nat),
    x.xreqs.filter (fun q => q.pending && decide (q.asid = asid) && (all || q.vpn == vpn.toNat)) = [q] →
    q.who = .slot n k → (x.slot n k).wait = .resolve → x.xfers = [] → (∀ n k, (x.slot n k).wait ≠ .xlate) →
    ∃ y, HubRun (.resolveNotice i asid vpn all) s i y [] ∧ restarted y n k ∧ (∀ m, m ≠ n → y.cell m = x.cell m)
      ∧ y.tlb = x.tlb ∧ q ∉ y.xreqs)
  ∧ (∀ (kind : BitVec 2) (asid : BitVec 16) (vpn : BitVec 40) (pages : Word),
    let hit (t : TlbEntry) : Bool := invHits kind.toNat asid vpn.toNat pages.toNat t.asid t.vpn t.pages
    x.xfers = [] → (∀ n k left err, (x.slot n k).wait ≠ .commit left err) →
    ∃ y, HubRun (.invalidation i kind asid vpn pages) s i y [] ∧ y.tlb = x.tlb.filter (fun t => !hit t)
      ∧ y.invAcks = x.invAcks + x.invOwed + 1 ∧ y.invOwed = 0
      ∧ ∀ n k, k < 4 → (x.slot n k).phase = .running → (x.slot n k).wait = .ready →
        let named (u : Nat × Nat) : Bool := invHits kind.toNat asid vpn.toNat pages.toNat
          (x.vc (ownerOf (x.slot n k).launch)).asid u.1 u.2
        (∀ u ∈ (x.slot n k).tile.used, named u = true → restarted y n k)
        ∧ ((∀ u ∈ (x.slot n k).tile.used, named u = false) → y.slot n k = x.slot n k)))

/-- XFER_FENCE_PASS, XFER_STAGING_RESERVE and SE_READ_RETURN (R307, R308, R314, R317, R320, R425): the fence wait passes, or ends
the transfer with the fence's code, once the instance of the fence can be asked (R405); an empty transfer completes when those of
its channel before it have started; staging space is taken once it is there, and the transfer translates; a beat answers up to two
lines of its request, and each line is kept, read again once, or ends the transfer. A repeated line is a request of its own, which
leaves at a port in its channel's turn (R272). It rests on readings that are the model's (log entries 19, 20, 53 and 101). -/
def Obligations.TransferSteps : Prop := ∀ (s : State) (i : Nat) (x : Inst) (t : Xfer),
  let f := s.fence (xWaitFence t.words)
  let reached := xWaitEn t.words = false ∨ f.err = 0 ∧ 0 ≤ (f.value - xTarget t.words).toInt
  let waited : Led := if t.waited then { Led.zero with waits := 1, ticks := x.ticks - t.since } else Led.zero
  let turn := ∀ u ∈ x.xfers, u.vc = t.vc → u.id < t.id → u.phase ≠ .waiting ∧ u.phase ≠ .ready
  let away := xWaitEn t.words = true ∧ (s.env i).away (xWaitFence t.words / 1024) = true
  AtWork s i x → x.xfer t.id = some t →
  (t.phase = .waiting → away → HubRun (.xferFencePass i t.id) s i x [.ask (xWaitFence t.words / 1024)])
  ∧ (t.phase = .waiting → ¬away → (∀ u ∈ x.xfers, u.id ≠ t.id → u.isEmpty = false) →
    (xWaitEn t.words = true → f.err ≠ 0 → HubRun (.xferFencePass i t.id) s i (without x t) (xferErrs t f.err 0))
    ∧ (xWaitEn t.words = true → f.err = 0 → (f.value - xTarget t.words).toInt < 0 → HubRun (.xferFencePass i t.id) s i x [])
    ∧ (reached → t.isEmpty = false ∨ ¬turn → HubRun (.xferFencePass i t.id) s i
        (x.setXfer { t with phase := .ready, ticks := if t.waited then x.ticks - t.since else 0 }) [])
    ∧ (reached → t.isEmpty = true → turn →
      HubRun (.xferFencePass i t.id) s i (without (x.book t.vc waited) t) (xferEnds t true)))
  ∧ (x.xfers.find? x.eligible = some t →
    2 ^ 23 < (x.xfers.map Xfer.space).sum + t.need ∨ 32 ≤ (x.xfers.filter fun u => decide (u.space ≠ 0)).length →
    HubRun (.xferStagingReserve i) s i x [])
  ∧ (x.xfers = [t] → t.phase = .ready → t.space + t.need ≤ 2 ^ 23 → x.tlb = [] → t.firstPages ≠ [] →
    ∃ y, HubRun (.xferStagingReserve i) s i y [] ∧ y = { x with xfers := y.xfers, xreqs := y.xreqs }
      ∧ y.xfers = [{ t with phase := .translating, space := t.need, pages := t.firstPages }])
  ∧ (∀ q port ident lower upper, x.seReqs.find? (fun q => q.port == port && q.ident == ident && !q.reads.isEmpty) = some q →
    q.xfer = some t.id → xKind t.words = 0 → (∀ u ∈ x.xfers, u.tiles = []) → (∀ p ∈ q.reads, p.poll = none) → x.flt.injected = none →
    let left := q.reads.drop 2
    let x1 := { x with seReqs := if left = [] then x.seReqs.erase q else x.seReqs.map fun p => if p = q then { q with reads := left } else p }
    let c : Instr := .seReadReturn i { port := port, ident := ident } lower upper
    let ends (code : Nat) : Prop := MendRun c s i (without x1 t) (xferErrs t code 0)
    let kept (ls : List SeLine) : Prop := MendRun c s i (x1.setXfer { t with got := t.got ++ ls }) []
    (lower.1 = 0 → upper.1 = 0 ∨ q.reads.length = 1 →
      kept ((q.reads.zip [lower.2, upper.2]).map fun p => { va := p.1.va, data := p.2, bad := false }))
    ∧ (∀ p, q.reads = [p] →
      let slow := p.tier = 1 ∨ p.tier = 2
      (lower.1 = 2 → ends 0x0051)
      ∧ (lower.1 = 1 → p.again = false → ends 0x0052)
      ∧ (lower.1 = 3 → ¬slow → p.again = false → ends 0x0052)
      ∧ (lower.1 = 1 ∨ lower.1 = 3 → p.again = true → t.poisons x = false → ends 0x0052)
      ∧ (lower.1 = 1 ∨ lower.1 = 3 → p.again = true → t.poisons x = true → kept [{ va := p.va, data := 0, bad := true }])
      ∧ (∀ pt, lower.1 = 3 → slow → p.again = false → x.xfers = [t] → (x.vc t.vc).resident = true → x1.nextPort = some pt →
        ∃ y, MendRun c s i y [] ∧ y = { x1 with seRound := y.seRound, seReqs := x1.seReqs ++ [{
          port := pt.1, ident := pt.2, xfer := some t.id, reads := [{ p with again := true }], writes := [], again := false }] })))

/-- XFER_COMMIT_POINT and SE_WRITE_DONE (R307, R309, R310, R312, R338): a move that only copies writes the source's bytes to the
destination's addresses, in transfer tiles, each line once; an error found at the commit point ends the transfer; with the last
acknowledgement the ledger is updated, then the fence, then the record is posted; a failed write ends the transfer with
MEM_WRITE_ERROR and the count of bytes that the host gives, but one of the use table ends nothing (R319). It rests on readings
that are the model's (log entries 18 for that count, 55, 61, 101, and 113 for the code of a transfer both of whose streams fail).
-/
def Obligations.TransferCommits : Prop := ∀ (s : State) (i : Nat) (x : Inst) (t : Xfer),
  AtWork s i x → x.xfer t.id = some t →
  (x.readDone t = true → xKind t.words = 0 →
    (∀ code, t.image x = .error code → HubRun (.xferCommitPoint i t.id) s i (without x t) (xferErrs t code 0))
    ∧ (converts t.words t.sd t.dd (t.dec x) (t.enc x) = false →
      let move (p : Nat × Nat) : XByte := { addr := p.2, byte := BitVec.ofNat 8 (t.raw p.1).1, bad := (t.raw p.1).2 }
      let elems := (t.sd.elemAddrs.zip t.dd.elemAddrs).map move
      let scales := (t.sd.scaleAddrs.zip t.dd.scaleAddrs).map move
      t.lineWrites elems ++ t.lineWrites scales ≠ [] →
      ∃ (t1 : Xfer) (tiles : List (List SeWrite)), HubRun (.xferCommitPoint i t.id) s i (x.setXfer t1).serve []
        ∧ t1 = { t with phase := .writing, got := [], failed := false, tiles := tiles.map writeTile
                        bytes := elems.length + scales.length, led := t1.led, poisoned := t1.poisoned
                        firstBad := t1.firstBad, stages := t1.stages, sentAt := t1.sentAt }
        ∧ (∀ w, w ∈ tiles.flatten ↔ w ∈ t.lineWrites elems ++ t.lineWrites scales)
        ∧ tiles.flatten.length = (t.lineWrites elems ++ t.lineWrites scales).length
        ∧ t1.led.fp = commitCrc t.dd 0 (elems.map XByte.byte) (scales.map XByte.byte) [] % 2 ^ 64 ∧ t1.led.sat = 0))
  ∧ (∀ q port ident err st, x.seReqs.find? (fun q => q.port == port && q.ident == ident && !q.writes.isEmpty) = some q →
    q.xfer = some t.id → (∀ u ∈ x.xfers, u.tiles = []) → t.stages = [st] → x.flt.injected = none →
    let x1 := { x with seReqs := x.seReqs.erase q }
    let c : Instr := .seWriteDone i { port := port, ident := ident } err
    (t.phase = .writing → x1.writesLeft t = true → MendRun c s i (x1.setXfer { t with failed := t.failed || err }).ackInvalidations [])
    ∧ (t.phase = .writing → x1.writesLeft t = false → (t.failed || err) = true →
      MendRun c s i (without x1 t).ackInvalidations
        (xferErrs t 0x0053 (Config.partialBytes (wordAt t.words 0) (xTag t.words) t.bytes)))
    ∧ (t.phase = .writing → x1.writesLeft t = false → (t.failed || err) = false → x.useWrites (s.env i) t = [] →
      MendRun c s i (without (x1.book t.vc t.led) t).ackInvalidations (xferEnds t false))
    ∧ (t.phase = .finishing → x1.writesLeft t = false →
      MendRun c s i (without x1 t).ackInvalidations (xferEnds t false)))

/-- COLL_POLL, COLL_LOCAL_PACKET, COLL_TIMEOUT and SE_READ_RETURN of the receive window (R331, R332, R336, R425): a poll reads the
header line of an awaited slot that is not being read; a header of another packet, or with poison, has not arrived; an
accepted one has its payload read, and the packet whose last line is there is verified, kept, or ends the collective. The
oldest packet that a local peer has for this die arrives over links that lead here, once every die on the way is awake: into
the receive window, payload before header, or kept until that window is open, or held, up to 64, while its collective has not
been accepted. A collective whose slots have not all arrived in time ends with COLL_TIMEOUT. It rests on readings that are
the model's (log entries 20, 57, 58, 101 and 105). -/
def Obligations.CollectivePort : Prop := ∀ (s : State) (i : Nat) (x : Inst),
  AtWork s i x →
  (∀ (t : Xfer) (gather : Bool) (idx : Nat),
    let slot := if gather then t.plan_.k * t.plan_.nOwn t.dd + idx else idx
    let awaited := ∃ a ∈ t.open_, a.slot = slot ∧ a.phase = if gather then 1 else 0
    let va := (t.plan_.recv + slotBytes t.plan_ t.dd * slot) % 2 ^ 52 / 64
    let header : SeRead := { va := va, pa := t.lineOf false (64 * va), tier := x.tier (t.lineOf false (64 * va) / 64), again := false
                             poll := some slot }
    x.xfer t.id = some t → t.phase = .exchanging →
    (¬awaited ∨ (∃ k ∈ t.polls, k.slot = slot) → HubRun (.collPoll i t.id gather idx) s i x [])
    ∧ (awaited → (∀ k ∈ t.polls, k.slot ≠ slot) → HubRun (.collPoll i t.id gather idx) s i (x.setXfer { t with
        polls := t.polls ++ [{ slot := slot, head := false, got := [] }]
        tiles := t.tiles ++ [[SeReq.waiting [header] []]] }).serve []))
  ∧ (∀ (t : Xfer) q p a k port ident lower upper,
    x.xfer t.id = some t → x.seReqs.find? (fun q => q.port == port && q.ident == ident && !q.reads.isEmpty) = some q →
    q.xfer = some t.id → q.reads = [p] → p.poll = some a.slot → t.open_.find? (fun b => b.slot == a.slot) = some a →
    t.polls.find? (fun j => j.slot == a.slot) = some k → t.phase = .exchanging → (∀ u ∈ x.xfers, u.tiles = []) → x.flt.injected = none →
    let c : Instr := .seReadReturn i { port := port, ident := ident } lower upper
    let x1 := { x with seReqs := x.seReqs.erase q }
    let n := ceilDiv (t.plan_.expect t.dd a).2.2 64
    let k1 : Poll := { k with head := true, got := k.got ++ [{ va := p.va, data := lower.2, bad := false }] }
    let t1 := { t with polls := t.polls.map fun j => if j.slot = a.slot then k1 else j }
    let unread := { t with polls := t.polls.filter fun j => j.slot != a.slot }
    let arrived := t.plan_.headerIs a (lineBytes lower.2) = true
    let ends (code : Nat) : Prop := MendRun c s i (without x1 t) (xferErrs t code 0)
    (lower.1 = 2 → (k.head = false → MendRun c s i (x1.setXfer unread) []) ∧ (k.head = true → ends 0x0051))
    ∧ (lower.1 = 1 ∨ lower.1 = 3 → ends 0x0052)
    ∧ (lower.1 = 0 → k.head = false → ¬arrived → MendRun c s i (x1.setXfer unread) [])
    ∧ (lower.1 = 0 → k.head = false → arrived → n ≠ 0 → MendRun c s i (x1.setXfer { t1 with
        tiles := (lineTiles (t.pollReads x a.slot 1 n)).map readTile }).serve [])
    ∧ (lower.1 = 0 → k.head = true → k1.got.length ≠ n + 1 → MendRun c s i (x1.setXfer t1) [])
    ∧ (lower.1 = 0 → (k.head = false ∧ arrived ∧ n = 0 ∨ k.head = true ∧ k1.got.length = n + 1) →
      let code := t.plan_.packetCode t.dd a k1.bytes
      (code ≠ 0 → ends code)
      ∧ (code = 0 → t.plan_.op = 2 → (∃ b ∈ t.open_, b.slot ≠ a.slot) → MendRun c s i (x1.setXfer { unread with
          accepted := t.accepted ++ [{ slot := a.slot
                                       bytes := (k1.bytes.drop 32).take 32 ++ (k1.bytes.drop 64).take (t.plan_.expect t.dd a).2.2 }] }) [])))
  ∧ (∀ j z q, j ≠ i → s.insts[j]? = some z → z.linkOut.find? (fun q => q.1 == i) = some q →
    let bs := q.2
    let c : Instr := .collLocalPacket i j
    let sent : Inst := { z with linkOut := z.linkOut.erase q }
    let arrives (y : Inst) : Prop := exec c s = .next ((s.setInst j sent.sendsEnd).setInst i y)
    (s.linked j i = false → exec c s = .next s)
    ∧ (s.linked j i = true → ∀ k rest y, s.sleepers j i = k :: rest → s.insts[k]? = some y → exec c s = .next (s.setInst k (y.wakeBy 4)))
    ∧ (s.linked j i = true → s.sleepers j i = [] →
      (x.packetHome bs = none →
        (x.held.length < 64 → arrives { x with held := x.held ++ [bs] }) ∧ (64 ≤ x.held.length → exec c s = .next s))
      ∧ (∀ t, x.packetHome bs = some t → t.windowOpen = false → arrives (x.setXfer { t with inbox := t.inbox ++ [bs] }))
      ∧ (∀ t a, x.packetHome bs = some t → t.windowOpen = true → t.stages = [] →
        (t.plan_.awaits t.dd).find? (fun a => t.plan_.headerIs a bs) = some a →
        let base := t.plan_.recv + slotBytes t.plan_ t.dd * a.slot
        let pay := lineTiles (t.lineWrites (bytesAt (base + 64) (bs.drop 64)))
        let head := [t.lineWrites (bytesAt base (bs.take 64))]
        let now := pay.filter fun ws => !ws.isEmpty
        now ≠ [] → arrives (x.setXfer { t with
          stages := [{ tiles := pay, send := false }, { tiles := head, send := false }], tiles := t.tiles ++ now.map writeTile
          failed := false, sentAt := if x.linkOwes t then none else some (t.sentAt.getD x.ticks) }).serve)))
  ∧ (∀ (t : Xfer) (sent : Nat),
    let limit := x.collCtrl.toNat / 2 ^ 16
    let late := ∃ a ∈ t.open_, ∀ k ∈ t.polls, k.head = true → k.slot ≠ a.slot
    x.xfer t.id = some t → t.phase = .exchanging → t.sentAt = some sent → limit ≠ 0 → sent + limit * 1024 ≤ x.ticks →
    (late → HubRun (.collTimeout i t.id) s i (without { x with collOut := min (x.collOut + 1) 0xFFFF } t) (xferErrs t 0x0063 0))
    ∧ (¬late → HubRun (.collTimeout i t.id) s i x []))

/-! ### Channels and keys -/

/-- The commands of a channel of the instance whose window takes them (R259 to R268, R274, R278): check after check of R265;
what CH_START, CH_PREEMPT, CH_RESUME and CH_QUERY change; the record that a command which ends at once posts; another command
written to a busy window is dropped and sets lost. It rests on readings that are the model's (log entries 49, 79 and 102). -/
def Obligations.ChannelCommands : Prop := ∀ (s : State) (w : ChCmd) (x : Inst),
  let h := wordAt x.win.args 0
  let v := handleVc h
  let c := x.vc v
  let cmd (op : Nat) : VcCmd := { op := op, cmdId := w.cmdId, win := w.win }
  let rec_ : List Eff := [.record (recSimple 2 0 h w.cmdId.toNat)]
  let fails (i : Instr) (code : Nat) : Prop := WinRun i s w x [] code id
  let words (bs : List Byte) : List Word :=
    (List.range 16).map fun i => BitVec.ofNat 32 (ofLeBytes ((bs.drop (4 * i)).take 4))
  let clean : Led := { Led.zero with fp := c.led.fp }
  AtWork s w.win x → PortOpen s →
  (∀ b, x.win.busy = some b → b.2 ≠ w →
    let lost (i : Instr) : Prop := CtlRun i s w.win { x with win := { x.win with lost := true } }
    lost (.chStart w) ∧ lost (.chPreempt w) ∧ lost (.chResume w) ∧ lost (.chDestroy w) ∧ (∀ led, lost (.chQuery w led))
      ∧ ∀ xl, lost (.chCreate w xl))
  ∧ (x.win.busy = none →
  (w.rsv ≠ 0 → fails (.chStart w) 0x0030 ∧ fails (.chPreempt w) 0x0030 ∧ fails (.chResume w) 0x0030
    ∧ fails (.chDestroy w) 0x0030 ∧ ∀ led, fails (.chQuery w led) 0x0030)
  ∧ (w.rsv = 0 → handleInst h = w.win → w.win < x.instCount →
    (c.st = .free ∨ c.gen ≠ handleGen h → fails (.chStart w) 0x0031 ∧ fails (.chPreempt w) 0x0031
      ∧ fails (.chResume w) 0x0031 ∧ fails (.chDestroy w) 0x0031 ∧ ∀ led, fails (.chQuery w led) 0x0031)
    ∧ (c.st ≠ .free → c.gen = handleGen h →
      (c.st ≠ .created → fails (.chStart w) 0x0032)
      ∧ (c.st = .created ∨ c.st = .destroying ∨ c.st = .failed → fails (.chPreempt w) 0x0032)
      ∧ (c.st ≠ .preempted → fails (.chResume w) 0x0032)
      ∧ (c.st = .destroying → fails (.chDestroy w) 0x0032)
      ∧ (c.st = .created → c.cmd.isSome = true → fails (.chStart w) 0x0033)
      ∧ (c.st = .running → c.cmd.isSome = true → fails (.chPreempt w) 0x0033)
      ∧ (c.st = .preempted → c.cmd.isSome = true → fails (.chResume w) 0x0033)
      ∧ (c.st = .created → c.cmd = none →
        WinRun (.chStart w) s w { x.setVc v { c with st := .ready } with readyQ := x.readyQ ++ [v] } rec_ 0 id)
      ∧ (c.st = .running → c.cmd = none → x.xfers.all (fun t => t.vc != v) = true →
        ∃ y, WinRun (.chPreempt w) s w y [] 0 id
          ∧ OnlyVc x y v { c with st := .suspending, cmd := some (cmd 3), stopped := false, resume := [], xrecs := [] }
          ∧ ∀ n, (y.cell n).launchQ = (x.cell n).launchQ.filter fun ws => wordAt ws 0 ≠ x.handleOf v)
      ∧ (c.st = .ready → c.cmd = none → WinRun (.chPreempt w) s w
        { x.setVc v { c with st := .preempted, ctx := none } with readyQ := x.readyQ.filter (· != v) } rec_ 0 id)
      ∧ (c.st = .preempted → c.cmd = none → WinRun (.chPreempt w) s w x rec_ 0 id
        ∧ WinRun (.chResume w) s w (x.setVc v { c with cmd := some (cmd 4) }) [] 0 id)
      ∧ (c.st ≠ .destroying → c.cmd.isSome = true →
        WinRun (.chDestroy w) s w (x.setVc v { c with destroy := c.destroy ++ [cmd 5] }) [] 0 id)
      ∧ (∀ led, c.ctx.isSome = true → c.st ≠ .ready → (c.st ≠ .suspending ∨ c.stopped = false ∨ w.clear = false) →
        WinRun (.chQuery w led) s w (if w.clear then x.setVc v { c with led := clean } else x) [] 0
          fun win => { win with qstate := c.st.code, data := words c.led.bytes })
      ∧ (∀ led, c.ctx.isSome = true → c.st = .suspending → c.stopped = true → w.clear = true →
        ∃ z, WinRun (.chQuery w led) s w { x.setVc v { c with led := clean, areaSeal := z } with
            hubWrites := x.hubWrites ++ [{ asid := c.asid, va := c.saveVa + 0x40, bytes := clean.bytes },
              { asid := c.asid, va := c.saveVa + 0x38, bytes := leBytes 8 z }] } [] 0
          fun win => { win with qstate := c.st.code, data := words c.led.bytes })
      ∧ (∀ l, (c.ctx = none ∨ c.st = .ready) → c.st ≠ .destroying → w.clear = false →
        WinRun (.chQuery w (some l)) s w x [] 0 fun win => { win with qstate := c.st.code, data := words (lineBytes l) })
      ∧ (∀ l, (c.ctx = none ∨ c.st = .ready) → c.st ≠ .destroying → w.clear = true →
        let old := lineBytes l
        let new : Led := { Led.zero with fp := (Led.ofBytes old).fp }
        ∃ z, WinRun (.chQuery w (some l)) s w
          { x.setVc v { c with areaSeal := z } with
            hubWrites := x.hubWrites ++ [{ asid := c.asid, va := c.saveVa + 0x40, bytes := new.bytes },
              { asid := c.asid, va := c.saveVa + 0x38, bytes := leBytes 8 z }] } [] 0
          fun win => { win with qstate := c.st.code, data := words old }))))

/-- CH_CREATE (R259, R264, R275) on the window's own instance, its save area in T0 and cached: the lowest FREE channel is
CREATED with the arguments, keeps its generation, and its initial save area is written; CH_CREATE_DONE ends the command, or
takes the channel back when the area cannot be written, with its key slot if that is still the channel's (R282). It rests on readings that are the model's (log entry 59). -/
def Obligations.ChannelCreation : Prop := ∀ (s : State) (w : ChCmd) (x : Inst),
  let arg (k : Nat) : Nat := (wordAt x.win.args k).toNat
  let asid := BitVec.ofNat 16 (arg 0 / 2 ^ 16)
  let va := arg 1 + arg 2 * 2 ^ 32
  let cmd : VcCmd := { op := 1, cmdId := w.cmdId, win := w.win }
  AtWork s w.win x →
  (∀ xl, PortOpen s → x.win.busy = none → chArgsBad 1 w x.win.args x.instCount = false → arg 0 % 8 = w.win →
    (x.stream.inForce = false → WinRun (.chCreate w xl) s w x [] 0x0038 id)
    ∧ (x.stream.inForce = true → s.ss.st ≠ 4 → arg 0 / 2 ^ 8 % 2 ^ 8 = 0 → WinRun (.chCreate w xl) s w x [] 0x0030 id)
    ∧ (∀ e v, x.stream.inForce = true → s.ss.st ≠ 4 → arg 0 / 2 ^ 8 % 2 ^ 8 ≠ 0 → arg 5 / 2 ^ 12 % 2 = 0 →
      x.tlbFind asid (va / 4096) = some e → e.r = true → e.w = true → x.tier (e.ppn + (va / 4096 - e.vpn)) = 0 →
      x.freeVc = some v →
      let c : Vc := { Vc.free with
        st := .created, gen := (x.vc v).gen, weight := arg 0 / 2 ^ 8 % 2 ^ 8, asid := asid, key := arg 5 % 2 ^ 12
        saveVa := va, seed := BitVec.ofNat 64 (arg 3 + arg 4 * 2 ^ 32), cmd := some cmd }
      let x1 := x.setVc v c
      WinRun (.chCreate w xl) s w
        { x.setVc v { c with areaSeal := x1.sealOf v } with hubWrites := x.hubWrites ++ x1.saveWrites v } [] 0
        fun win => { win with handle := mkHandle x.id (x.vc v).gen v }))
  ∧ (∀ v d,
    let c := x.vc v
    c.st = .created → c.cmd = some d → d.op = 1 → c.destroy = [] →
    MendRun (.chCreateDone w.win v false) s w.win (x.setVc v { c with seed := 0, cmd := none })
        [.record (recSimple 2 0 (x.handleOf v) d.cmdId.toNat)]
      ∧ MendRun (.chCreateDone w.win v true) s w.win
        ((if c.keyEn = true ∧ (x.key c.key).owner = some v then x.setKey c.key KeySlot.empty else x).setVc v { Vc.free with gen := c.gen })
        [.record (recSimple 2 0x0036 (x.handleOf v) d.cmdId.toNat)])

/-- CH_DESTROY and DESTROY_SCRUB_DONE (R144, R260, R278): a channel without running programs and without a transfer past its
commit point is scrubbed at once: its transfers are abandoned, its casks released and both halves of their ranges written with
zeros, its key slot emptied, its save area overwritten; once its programs' end summaries are posted and the last scrub is written
it is FREE with its next generation. -/
def Obligations.ChannelDestruction : Prop := ∀ (s : State) (w : ChCmd) (x : Inst),
  let h := wordAt x.win.args 0
  let v := handleVc h
  let c := x.vc v
  let cmd : VcCmd := { op := 5, cmdId := w.cmdId, win := w.win }
  AtWork s w.win x →
  (PortOpen s → x.win.busy = none → w.rsv = 0 → handleInst h = w.win → w.win < x.instCount → c.st ≠ .free → c.st ≠ .destroying →
    c.gen = handleGen h → c.cmd = none → x.running v = [] →
    x.xfers.all (fun t => t.vc != v || decide (t.phase ≠ .writing ∧ t.phase ≠ .finishing)) = true →
    ∃ y, WinRun (.chDestroy w) s w y [] 0 id
      ∧ y.vc v = { c with st := .destroying, cmd := some cmd, sched := false, migrate := false, stopped := true
                          led := Led.zero, seed := 0 }
      ∧ (∀ u, u ≠ v → y.vc u = x.vc u) ∧ y.readyQ = x.readyQ.filter (· != v)
      ∧ y.xfers = x.xfers.filter (fun t => t.vc != v) ∧ (∀ n, ∀ p ∈ (y.cell n).casks, p.2.owner ≠ v)
      ∧ (∀ n, ((x.cell n).casks.map Prod.fst).Pairwise (· < ·) → ∀ p ∈ (x.cell n).casks, p.2.owner = v → ∀ j, j < 64 →
        ({ line := p.2.base / 64 + 4 * j, outs := List.replicate 4 { data := 0, be := BitVec.allOnes 64, poison := false }
           who := .scrub v, rank := 2, index := 0, iter := 0 } : SpWrite) ∈ (y.cell n).spWrites)
      ∧ (c.keyEn = true → (x.key c.key).owner = some v → y.key c.key = KeySlot.empty)
      ∧ ((x.key c.key).owner ≠ some v → y.keys = x.keys)
      ∧ y.hubWrites = x.hubWrites ++ [{ asid := c.asid, va := c.saveVa, bytes := List.replicate 2048 0 }])
  ∧ (∀ u d fault,
    let e := x.vc u
    e.st = .destroying → e.cmd = some d → e.stopped = true → e.destroy = [] →
    (∀ n, ∀ q ∈ (x.cell n).spWrites, q.who ≠ .scrub u) →
    (∀ n, ∀ k ∈ (x.cell n).slots, k.phase ≠ .idle → wordAt k.launch 0 ≠ x.handleOf u) →
    MendRun (.destroyScrubDone w.win u fault) s w.win (x.setVc u { Vc.free with gen := if e.gen = 0x1FFF then 1 else e.gen + 1 })
      [.record (recSimple 2 (if fault then 0x0036 else 0) (x.handleOf u) d.cmdId.toNat)])

/-- PREEMPT_STOP_DONE, CONTEXT_SAVE_DONE and SAVE_CHECK_DONE (R264, R266, R270, R274 to R277): the stop of a channel without
running programs ends with its save; the save leaves it PREEMPTED for a command, READY for the scheduler, FAILED on a fault;
the check of a CH_RESUME makes it READY, or leaves it PREEMPTED with CH_SAVE_BAD. It rests on readings that are the model's
(log entries 59 and 79). -/
def Obligations.ChannelSaves : Prop := ∀ (s : State) (i : Nat) (x : Inst) (v : Nat),
  let c := x.vc v
  let h := x.handleOf v
  AtWork s i x →
  (c.st = .suspending → c.stopped = false → x.running v = [] → x.xfers.all (fun t => t.vc != v) = true →
    ∃ y, MendRun (.preemptStopDone i v) s i y []
      ∧ y.vc v = { c with stopped := true, resume := [], savedAt := x.ticks, saves := (c.saves + 1) % 2 ^ 16, areaSeal := y.sealOf v }
      ∧ (∀ u, u ≠ v → y.vc u = x.vc u) ∧ y.hubWrites = x.hubWrites ++ y.saveWrites v)
  ∧ (c.st = .suspending → c.stopped = true → (∀ n, (x.cell n).retire = none) → c.migrate = false → c.destroy = [] →
    let saved : Vc := { c with ctx := none, stopped := false, sched := false, migrate := false, led := Led.zero, seed := 0
                               resume := [], xrecs := [] }
    (∀ d, c.cmd = some d → c.sched = false → MendRun (.contextSaveDone i v false) s i
      (x.setVc v { saved with st := .preempted, cmd := none }) [.record (recSimple 2 0 h d.cmdId.toNat)])
    ∧ (c.cmd = none → c.sched = true → MendRun (.contextSaveDone i v false) s i
      { x.setVc v { saved with st := .ready } with readyQ := x.readyQ ++ [v] } [.record (recSimple 4 0 h 0)])
    ∧ (∀ d, c.cmd = some d → MendRun (.contextSaveDone i v true) s i
      (x.setVc v { c with st := .failed, stopped := false, sched := false, migrate := false, cmd := none })
      [.record (recSimple 2 0x0036 h d.cmdId.toNat)]))
  ∧ (∀ area d, c.st = .preempted → c.cmd = some d → d.op = 4 → c.destroy = [] →
    (x.areaOk v area = true → MendRun (.saveCheckDone i v area) s i
      { x.setVc v { c with st := .ready, cmd := none } with readyQ := x.readyQ ++ [v] } [.record (recSimple 2 0 h d.cmdId.toNat)])
    ∧ (x.areaOk v area = false → MendRun (.saveCheckDone i v area) s i
      (x.setVc v { c with cmd := none }) [.record (recSimple 2 0x0037 h d.cmdId.toNat)]))

/-- SCHED_ADMIT, RESTORE_DONE and SCHED_EVICT (R261, R269, R270, R277): the head of the ready queue takes the lowest free
context; a save area that passes its check makes it RUNNING with its ledger and seed, with a record; an eviction begins the
stop of the channel that the scheduler names, and only while more channels wait than contexts are free or being freed. That
the context is the lowest is the model's choice (log entry 101); it also rests on log entry 59. -/
def Obligations.Scheduler : Prop := ∀ (s : State) (i : Nat) (x : Inst),
  AtWork s i x →
  (∀ v rest k, x.readyQ = v :: rest → (x.vcs.filter fun p => p.2.ctx.isSome).length < 4096 →
    (∀ p ∈ x.vcs, p.2.ctx ≠ some k) → (∀ j, j < k → ∃ p ∈ x.vcs, p.2.ctx = some j) →
    HubRun (.schedAdmit i) s i { x.setVc v { x.vc v with ctx := some k } with readyQ := rest } [])
  ∧ (∀ v area,
    let c := x.vc v
    let at_ (o k : Nat) : Nat := ofLeBytes ((area.bytes.drop o).take k)
    c.st = .ready → c.ctx.isSome = true →
    (x.areaOk v area = true → MendRun (.restoreDone i v area) s i (x.setVc v { c with
        st := .running, led := Led.ofBytes ((area.bytes.drop 0x40).take 64), seed := BitVec.ofNat 64 (at_ 0x80 8), slice := 0
        since := x.ticks }) [.record (recSimple 3 0 (x.handleOf v) 0)])
    ∧ (x.areaOk v area = false → MendRun (.restoreDone i v area) s i (x.setVc v { c with st := .failed })
        [.record (recSimple 3 0x0037 (x.handleOf v) 0)]))
  ∧ (x.readyQ.length ≤ 4096 - x.residents + x.leaving → HubRun (.schedEvict i) s i x [])
  ∧ (∀ v, 4096 - x.residents + x.leaving < x.readyQ.length → x.victim = some v → x.xfers.all (fun t => t.vc != v) = true →
    ∃ y, HubRun (.schedEvict i) s i y []
      ∧ OnlyVc x y v { x.vc v with sched := true, st := .suspending, stopped := false, resume := [], xrecs := [] })

/-- KEY_LOAD, KEY_CLEAR and INSTANCE_KEY_PROVISION (R281 to R284, R427), for a key slot of the instance whose window takes the
command: ignored while one is in progress; check after check of R284; the unwrapped key and a counter of 0; the words of the
wrapped key are zeroed whatever the outcome. The instance key is taken unless a slot holds a key. It rests on readings that
are the model's (log entry 62, and log entry 52 for the byte order of the key that a load unwraps). -/
def Obligations.KeyCommands : Prop := ∀ (s : State) (i : Nat) (x : Inst) (w : Word),
  let h := x.keyHandle
  let v := x.vc (handleVc h)
  let slot := w.toNat / 2 ^ 4 % 2 ^ 12
  let k := x.key slot
  let fresh (d : KeyData) : KeySlot :=
    { owner := k.owner, hasKey := true, key := d.key, keyId := d.keyId, nonce := d.nonce, counter := 0, bad := false }
  let ends (c : Instr) (y : Inst) (code : Nat) : Prop :=
    CtlRun c s i { y with keyCode := code, keyWrap := List.replicate 12 0, keyWait := none }
  let rsv : Bool := decide (w.toNat / 2 ^ 16 ≠ 0 ∨ w.toNat / 2 ^ 2 % 2 ^ 2 ≠ 0)
  let both (code : Nat) : Prop := (w.toNat % 4 = 1 → ends (.keyLoad i w) x code) ∧ (w.toNat % 4 = 2 → ends (.keyClear i w) x code)
  AtWork s i x →
  (PortOpen s → x.keyWait.isSome = true →
    (w.toNat % 4 = 1 → CtlRun (.keyLoad i w) s i x) ∧ (w.toNat % 4 = 2 → CtlRun (.keyClear i w) s i x))
  ∧ (PortOpen s → x.keyWait = none → (rsv = true → both 0x0040) ∧ (rsv = false → x.instCount ≤ handleInst h → both 0x0030))
  ∧ (PortOpen s → x.keyWait = none → rsv = false → handleInst h = i → i < x.instCount →
    (v.st = .free ∨ v.gen ≠ handleGen h → both 0x0031)
    ∧ (v.st ≠ .free → v.gen = handleGen h →
      (k.bad = true → both 0x00F0)
      ∧ (k.bad = false → k.owner ≠ some (handleVc h) → both 0x0040)
      ∧ (k.bad = false → k.owner = some (handleVc h) →
        (w.toNat % 4 = 2 → ends (.keyClear i w) (x.setKey slot { KeySlot.empty with owner := k.owner }) 0)
        ∧ (w.toNat % 4 = 1 →
          (x.instKey = none → ends (.keyLoad i w) x 0x0041)
          ∧ (∀ ik, x.instKey = some ik → unwrapKey ik x.keyWrap = none → ends (.keyLoad i w) x 0x0041)
          ∧ (∀ ik d, x.instKey = some ik → unwrapKey ik x.keyWrap = some d →
            (s.keyReused d = true → ends (.keyLoad i w) x 0x0042)
            ∧ (s.keyReused d = false → ends (.keyLoad i w) (x.setKey slot (fresh d)) 0))))))
  ∧ (∀ key last,
    let held := x.instKey.isSome && x.keys.any fun p => p.2.hasKey
    HubRun (.instanceKeyProvision i key last) s i
      (if last = false then { x with keyResp := some 2#2 }
        else if held then { x with keyResp := some 1#2 }
        else { x with instKey := some key, keyResp := some 0#2 }) [])

/-! ### The structure stream -/

/-- The load window's table (R353), row by row, with a full staging buffer's further word; a close that succeeds (R355) makes it
CLOSED, one that fails EMPTY with SS_FORMAT; a commit that is refused leaves it CLOSED, one that succeeds makes it EMPTY, once
every instance that it lists is awake (R405). The checks of a close and of a commit are those of R354 to R358, as log entries
52 (the digest's bytes), 64, 65 and 67 read them; it also rests on log entries 19 and 20. -/
def Obligations.LoadWindow : Prop := ∀ (s : State) (x : Inst),
  let l := s.ss
  let goes (c : Instr) (m : LoadWin) : Prop := exec c s = .next (served c s { s with ss := m })
  let lost (c : Instr) : Prop := goes c { l with lost := true }
  AtWork s 0 x → PortOpen s → State.reset.ss.st = 0
  ∧ (l.st ∈ [0, 1, 3] → goes .ssOpen { l with st := 1, words := [], overrun := false, digest := [] })
  ∧ (l.st ∈ [2, 4] → lost .ssOpen)
  ∧ (l.st = 1 → goes .ssClose { l with st := 2 }) ∧ (l.st ∈ [0, 2, 3, 4] → lost .ssClose)
  ∧ (∀ w, (l.st = 1 → l.words.length < 65536 → goes (.ssDataWrite w) { l with words := l.words ++ [w] })
    ∧ (l.st = 1 → 65536 ≤ l.words.length → goes (.ssDataWrite w) { l with overrun := true })
    ∧ (l.st ∈ [0, 2, 3, 4] → lost (.ssDataWrite w)))
  ∧ (l.st ∈ [0, 1, 2, 4] → lost .ssCommit)
  ∧ (l.st = 3 → ssKind l.words = 0 → s.fullCheck l.words = 0 →
    (s.copySleeper l.words = none → goes .ssCommit { l with st := 4 })
    ∧ ∀ i, s.copySleeper l.words = some i →
      exec .ssCommit s = .next (served .ssCommit s { s.wakeNext 0 i with ss := { l with st := 4 } }))
  ∧ (∀ code, l.st = 3 → code ≠ 0 → (ssKind l.words = 0 ∧ s.fullCheck l.words = code ∨ ssKind l.words = 1 ∧ s.patchCheck l.words = code) →
    goes .ssCommit { l with code := code })
  ∧ (l.st = 2 →
    (∀ o, ssCheck l.words l.overrun = some o →
      exec .ssCloseDone s = .next { s with ss := { l with st := 0, code := 0x0080, faultOff := o, digest := [] } })
    ∧ (ssCheck l.words l.overrun = none →
      exec .ssCloseDone s = .next { s with ss := { l with st := 3, digest := sha384 (wordsBytes l.words) } })
    ∧ (l.overrun = true → (ssCheck l.words l.overrun).isSome = true))
  ∧ (l.st = 4 → s.copySleeper l.words = none → s.copyFails l.words = false → (∀ y ∈ s.insts, y.rst.waiting = false) →
    ∃ t, exec .ssCommitDone s = .next t ∧ t.ss = { l with st := 0, code := 0, digest := [], patches := 0 })

/-- SS_COMMIT and SS_COMMIT_DONE (R347, R358, R359): a full commit gives every listed instance its part of the stream, with a
cell reset of every cell and no retired cell; a patch takes the cells that it names on each of its instances out of service and
touches nothing else, is refused where no link leads to one of them (R391), and waits at a die that sleeps on its way (R405).
It rests on readings that are the model's (log entries 19, 20, 66 and 67). -/
def Obligations.StreamCommits : Prop := ∀ (s : State) (x : Inst),
  let l := s.ss
  AtWork s 0 x →
  (l.st = 4 → s.copySleeper l.words = none → s.copyFails l.words = false → (∀ y ∈ s.insts, y.rst.waiting = false) →
    ∃ t, exec .ssCommitDone s = .next t ∧ t.insts.length = s.insts.length
      ∧ (∀ i y, ssCountM1 l.words < i → s.insts[i]? = some y → t.insts[i]? = some y)
      ∧ ∀ i y, i ≤ ssCountM1 l.words → s.insts[i]? = some y → ∃ z, t.insts[i]? = some z
        ∧ z = { y with cells := z.cells, stream := ssStream l.words i l.digest
                       inService := mapCells (ssStream l.words i l.digest).cellMap, flt := { y.flt with quiesced := 0 } }
        ∧ ∀ n, (z.cell n).vits = [] ∧ (z.cell n).masks = [] ∧ (z.cell n).casks = [] ∧ (z.cell n).launchQ = []
          ∧ (z.cell n).drain = [] ∧ ∀ k, z.slot n k = Slot.idle)
  ∧ (PortOpen s → l.st = 3 → ssKind l.words = 1 → s.patchCheck l.words = 0 →
    let maps := (sections l.words).filter fun q => q.typ == 1
    let done : LoadWin := { l with st := 0, code := 0, digest := [], patches := min (l.patches + 1) 255 }
    ((∃ q ∈ maps, s.reaches q.inst = false) →
      exec .ssCommit s = .next (served .ssCommit s { s with ss := { l with code := 0x0084 } }))
    ∧ ((∀ q ∈ maps, s.reaches q.inst = true) →
      ((∀ q ∈ maps, s.sleepers 0 q.inst = []) →
        ∃ t, exec .ssCommit s = .next (served .ssCommit s t) ∧ t = { s with insts := t.insts, ss := done }
          ∧ t.insts.length = s.insts.length
          ∧ (∀ i y, (∀ q ∈ maps, q.inst ≠ i) → s.insts[i]? = some y → t.insts[i]? = some y)
          ∧ ∀ i y q, (maps.filter fun p => p.inst == i) = [q] → s.insts[i]? = some y →
            t.insts[i]? = some { y with
              inService := y.inService &&& mapCells (ssMap l.words q), stream := { y.stream with cellMap := ssMap l.words q } })
      ∧ ∀ q k rest z, maps = [q] → s.sleepers 0 q.inst = k :: rest → s.insts[k]? = some z →
        exec .ssCommit s = .next (served .ssCommit s ({ s with ss := done }.setInst k
          { z.wakeBy 4 with linkIn := z.linkIn ++ [Eff.patch q.inst (ssMap l.words q)] }))))

/-! ### The control port -/

/-- HUB.ID_VERSION (R3) reads 0x0002_0100 at every instance of every state: at instance 0's port, at the end of a forwarded
read, with which the answers that waited behind it leave (R342), and of an instance that has fail-stopped. -/
def Obligations.VersionReads : Prop := ∀ (s : State) (x : Inst),
  (∀ i, s.readReg i x 4 = 0x00020100#32)
  ∧ (AtWork s 0 x → PortOpen s → x.id = 0 → exec (.rcRead 4#24) s = .next (granted s 0x00020100#32))
  ∧ (s.insts[0]? = some x → PortOpen s → x.id = 0 → x.flt.failstop = true → x.rst.phase = 0 → x.flt.clockLost = false →
    x.pwr.offTaken = false → exec (.rcRead 4#24) s = .next (granted s 0x00020100#32))
  ∧ (∀ f rest xl led, s.fwd = f :: rest → (∀ g more, rest = g :: more → g.ans = none) → AtWork s f.at_ x → x.id < 8 →
    f.acc.we = false → f.acc.addr.toNat = x.id * 2 ^ 21 + 4 →
    exec (.ctlForward xl led) s = .next { s with fwd := rest, resp := [{ err := false, data := 0x00020100#32 }] })
  ∧ (∀ f g r xl led, s.fwd = [f, g] → g.ans = some r → AtWork s f.at_ x → x.id < 8 → f.acc.we = false →
    f.acc.addr.toNat = x.id * 2 ^ 21 + 4 →
    exec (.ctlForward xl led) s = .next { s with fwd := [], resp := [{ err := false, data := 0x00020100#32 }, r] })

/-- REGISTER_WRITE, RC_READ and FENCE_WRITE (R12, R13, R116, R177, R268, R284, R291, R313, R346, R366, R394, R409, R414, R439) at
instance 0: the fields with access RC read their value and become 0; a writable field takes the value, a message word while its
mailbox is the management processor's and empty; one written 1 to clear clears; a read-only register ignores a write; a fence
takes the value and leaves its error state; an access of a cell's window ungates the cell (R401). -/
def Obligations.Registers : Prop := ∀ (s : State) (x : Inst),
  let reads (off : Nat) (d : Word) (t : State) : Prop := exec (.rcRead (BitVec.ofNat 24 off)) s = .next (granted t d)
  let writes (off : Nat) (w : Word) (t : State) : Prop := exec (.registerWrite (BitVec.ofNat 24 off) w) s = .next (granted t 0)
  let hub (y : Inst) : State := s.setInst 0 y
  AtWork s 0 x → PortOpen s → x.id = 0 →
  (reads 0x8A4 s.ring.lost { s with ring := { s.ring with lost := 0 } }
    ∧ reads 0x8C4 (BitVec.ofNat 32 (x.collActive % 2 ^ 12 + x.collOut * 2 ^ 16)) (hub { x with collOut := 0 })
    ∧ reads 0x1008 (BitVec.ofNat 32 x.flt.corr) (hub { x with flt := { x.flt with corr := 0 } })
    ∧ reads 0x100C (BitVec.ofNat 32 (x.flt.repeats + x.flt.reruns * 2 ^ 16))
      (hub { x with flt := { x.flt with reruns := 0, repeats := 0 } })
    ∧ reads 0x1080 (BitVec.ofNat 32 x.flt.ledgerOr.toNat) (hub { x with flt := { x.flt with ledgerOr := 0 } })
    ∧ ∀ n, n < x.cellsBuilt → n < 256 →
      let c : Cell := { x.cell n with gated := false }
      reads (0x10000 + 0x1000 * n + 0xCC) c.stallFeed (hub (x.setCell n { c with stallFeed := 0 }))
      ∧ reads (0x10000 + 0x1000 * n + 0xD0) c.stallDrain (hub (x.setCell n { c with stallDrain := 0 }))
      ∧ reads (0x10000 + 0x1000 * n + 0xC0) c.scaleCheck (hub (x.setCell n c)))
  ∧ (∀ w : Word,
    writes 0x110 w (hub { x with intStat := x.intStat &&& ~~~(BitVec.ofNat 4 (w.toNat % 16)) })
    ∧ writes 0x114 w (hub { x with intEn := BitVec.ofNat 4 w.toNat })
    ∧ writes 0x100 w (if w.getLsbD 31 then { s with ctlErr := s.ctlErr &&& 0x7FFFFFFF } else s)
    ∧ writes 0x890 w { s with ring := { s.ring with baseLo := w } }
    ∧ writes 0x894 w { s with ring := { s.ring with baseHi := w &&& 0xFFFFF } }
    ∧ writes 0x898 w { s with ring := { s.ring with ctrl := w &&& 0x31F } }
    ∧ writes 0x8A0 w { s with ring := { s.ring with tail := w } }
    ∧ writes 0x404 w (hub { x with mbArg0 := w }) ∧ writes 0x408 w (hub { x with mbArg1 := w })
    ∧ (∀ k, k < 6 → writes (0x804 + 4 * k) w (hub { x with win := { x.win with args := x.win.args.set k w } }))
    ∧ writes 0x2804 w (hub { x with keyHandle := w })
    ∧ (∀ k, k < 12 → writes (0x2810 + 4 * k) w (hub { x with keyWrap := x.keyWrap.set k w }))
    ∧ (∀ m k, m < 32 → k < 4 →
      let b := x.mbox m
      writes (0x600 + 16 * m + 4 * k) w
        (if b.alloc = true ∧ b.sender = 0 ∧ b.pending = false then hub (x.setMbox m { b with msg := b.msg.set k w }) else s))
    ∧ (w.getLsbD 8 = false → writes 0x2004 w (hub { x with pwr := { x.pwr with ctrl := w &&& 0x207 } }))
    ∧ writes 0x828 w (if w.getLsbD 1 then hub { x with win := { x.win with lost := false } } else s)
    ∧ writes 0x4008 w (if w.getLsbD 4 then { s with ss := { s.ss with lost := false } } else s)
    ∧ writes 0x2008 w (hub { x with pwr := { x.pwr with
        dormantExit := x.pwr.dormantExit && !w.getLsbD 16, earlyWake := x.pwr.earlyWake && !w.getLsbD 17
        offRefused := x.pwr.offRefused && !w.getLsbD 18 } })
    ∧ writes 0x2014 w (if w.getLsbD 29 then hub { x with rst := { x.rst with refused := false } } else s)
    ∧ writes 0x418 w (hub { x with dbMask := w }) ∧ writes 0x880 w (hub { x with schedCtrl := w })
    ∧ writes 0x8C0 w (hub { x with collCtrl := w })
    ∧ writes 0x1000 w (if w.getLsbD 29 then hub { x with flt := { x.flt with logValid := false } } else s)
    ∧ writes 0x1004 w (hub { x with flt := { x.flt with ctrl := w.toNat % 4 } })
    ∧ (x.pwr.busy = false → writes 0x2000 w (hub { x with pwr := { x.pwr with next := w } }))
    ∧ (∀ off ∈ [0x0, 0x4, 0x8, 0x10, 0x2C, 0x30, 0x104, 0x118, 0x40C, 0x410, 0x414, 0x820, 0x824, 0x884, 0x89C, 0x8A4, 0x8C4,
        0x1008, 0x1010, 0x1040, 0x1060, 0x1080, 0x2040, 0x2044, 0x2808, 0x400C, 0x4010, 0x4040, 0x4080], writes off w s)
    ∧ ∀ n, n < x.cellsBuilt → n < 256 →
      let c : Cell := { x.cell n with gated := false }
      writes (0x10000 + 0x1000 * n + 0xC0) w
        (hub (x.setCell n (if w.getLsbD 31 then { c with scaleCheck := c.scaleCheck &&& 0x7FFFFFFF } else c))))
  ∧ (∀ k w, k < 1024 → writes (0x3000 + 4 * k) w (hub (x.setFence k { value := w, err := 0 })))
  ∧ (∀ i y k w, AtWork s i y → k < 1024 → CtlRun (.fenceWrite i k w) s i (y.setFence k { value := w, err := 0 }))

/-- CTL_ERROR_RESPONSE, CTL_FORWARD and the errors of an access (R14, R341 to R345): the code of the first check that fails is
the response, in its place after those of earlier accesses, and the first error since the last clear is recorded with
instance, direction and address; a good access of another instance leaves over the east port, is passed on, or ends with
CTL_UNREACHABLE where the link is down; it is held at the link while the next instance is its target and in reset (R411; the
reading is log entry 78). A ninth access is not taken while eight are outstanding. -/
def Obligations.ControlErrors : Prop := ∀ (s : State) (x : Inst) (acc : CtlAcc),
  let addr := acc.addr.toNat
  let off := addr % 2 ^ 21
  let run := if acc.we then exec (.registerWrite acc.addr acc.data) s else exec (.rcRead acc.addr) s
  let err (code : Nat) : CtlResp := { err := true, data := BitVec.ofNat 32 code }
  let noted (t : State) (a : CtlAcc) (code : Nat) : State :=
    if t.ctlErr.getLsbD 31 then t
    else { t with
      ctlErr := BitVec.ofNat 32 (2 ^ 31 + a.addr.toNat / 2 ^ 21 * 2 ^ 21 + (if a.we then 2 ^ 20 else 0) + code)
      ctlErrAddr := BitVec.ofNat 32 a.addr.toNat }
  let fails (t : State) (a : CtlAcc) (code : Nat) : State := replied (noted t a code) (err code)
  let away := (0x5000 ≤ off ∧ off < 0x10000) ∨ 0x110000 ≤ off
  (8 ≤ s.fwd.length → run = .next s)
  ∧ (AtWork s 0 x → PortOpen s →
  (addr % 4 ≠ 0 → run = .next (fails s acc 0x0070))
  ∧ (addr % 4 = 0 → away → run = .next (fails s acc 0x0071))
  ∧ (addr % 4 = 0 → ¬away → addr / 2 ^ 21 ≠ x.id →
    (x.east.up = false → s.hopHeld 0 addr = false → run = .next (fails s acc 0x0072))
    ∧ (x.east.up = false → s.hopHeld 0 addr = true → run = .next { s with
        fwd := s.fwd ++ [{ acc := { acc with data := if acc.we then acc.data else 0 }, at_ := 0, ans := none }] })
    ∧ (x.east.up = true → run = .next { s with
        fwd := s.fwd ++ [{ acc := { acc with data := if acc.we then acc.data else 0 }, at_ := 1, ans := none }] }))
  ∧ (∀ size : BitVec 2, size ≠ 2 → exec (.ctlErrorResponse acc size) s = .next (fails s acc 0x0070))
  ∧ (addr % 4 ≠ 0 → exec (.ctlErrorResponse acc 2) s = .next (fails s acc 0x0070)))
  ∧ (∀ f rest y xl led, s.fwd = f :: rest → (∀ g more, rest = g :: more → g.ans = none) → AtWork s 0 x → AtWork s f.at_ y → f.acc.addr.toNat / 2 ^ 21 ≠ y.id →
    (y.east.up = true → f.at_ + 1 < s.insts.length →
      exec (.ctlForward xl led) s = .next { s with fwd := { f with at_ := f.at_ + 1 } :: rest })
    ∧ (y.east.up = false → s.hopHeld f.at_ f.acc.addr.toNat = false →
      exec (.ctlForward xl led) s = .next { noted { s with fwd := rest } f.acc 0x0072 with resp := [err 0x0072] })
    ∧ (y.east.up = false → s.hopHeld f.at_ f.acc.addr.toNat = true → exec (.ctlForward xl led) s = .next s))

/-! ### Power and resets -/

/-- PWR_TICK, PWR_ENTRY_DONE, PWR_EVENT_EXIT and PWR_EXIT_DONE (R402 to R406, R409, R416): a tick counts, and in RUN and IDLE
begins the way to the deepest enabled state whose condition and times hold; an entry completes, and exits at once when a wake met
it, or a written event that is nearer than the exit takes; the next event begins an exit; an exit ends in RUN, from DORMANT with
the registers that it returns to default. It rests on readings that are the model's (log entries 68 to 70). -/
def Obligations.PowerTransitions : Prop := ∀ (s : State) (i : Nat) (x : Inst),
  let p := x.pwr
  let never := BitVec.allOnes 32
  let nobodyWaits := ∀ z ∈ s.insts, z.mbWait = none ∧ z.keyWait = none ∧ z.win.busy = none
  Alive s i x →
  (let x1 : Inst := { x with
      ticks := (x.ticks + 1) % 2 ^ 64, pwr := { p with next := if p.next = never ∨ p.next = 0 then p.next else p.next - 1 } }
    let next := x1.pwr.next
    let ok (st : Nat) : Bool := p.ctrl.getLsbD (st - 1) && s.quiet i x1 st && (decide (next = never)
      || (decide (x.entryTicks st + x.exitTicks st ≤ next.toNat) && decide (x.evenTicks st ≤ next.toNat)))
    let st := if ok 3 then 3 else if ok 2 then 2 else if ok 1 then 1 else 0
    (x.awake = false ∨ p.busy = true → exec (.pwrTick i) s = .next (s.setInst i x1))
    ∧ (x.awake = true → p.busy = false → st = p.state → exec (.pwrTick i) s = .next (s.setInst i x1))
    ∧ (x.awake = true → p.busy = false → st ≠ p.state → exec (.pwrTick i) s = .next (s.setInst i
        { x1 with pwr := { x1.pwr with busy := true, target := if st = 0 then 1 else st } })))
  ∧ (p.busy = true → p.state ≠ p.target → p.evWrite = none →
    (p.target < 2 → HubRun (.pwrEntryDone i) s i
      { x with pwr := { p with state := p.target, busy := false, target := 0, wake := none } } [])
    ∧ (2 ≤ p.target → p.wake = none → HubRun (.pwrEntryDone i) s i
      { x with pwr := { p with state := p.target, busy := false, target := 0 } } [])
    ∧ (∀ cause, 2 ≤ p.target → p.wake = some cause → HubRun (.pwrEntryDone i) s i
      { x with
        pwr := { p with state := p.target, earlyWake := p.earlyWake || decide (cause ≠ 1) }
        intStat := if cause ≠ 1 then x.intStat ||| 8#4 else x.intStat } []))
  ∧ (∀ w, p.busy = true → p.state ≠ p.target → p.target < 2 → p.evWrite = some w →
    let late := decide (w.toNat < x.exitTicks p.target)
    HubRun (.pwrEntryDone i) s i { x with pwr := { p with
      state := p.target, busy := late, target := if late then p.target else 0, evWrite := none, next := w, wake := none } } [])
  ∧ (∀ w, p.busy = true → p.state ≠ p.target → 2 ≤ p.target → p.evWrite = some w → p.wake = none →
    (w.toNat < x.exitTicks p.target → HubRun (.pwrEntryDone i) s i
      { x with pwr := { p with state := p.target, evWrite := none, next := w, wake := some 1 } } [])
    ∧ (x.exitTicks p.target ≤ w.toNat → HubRun (.pwrEntryDone i) s i
      { x with pwr := { p with state := p.target, busy := false, target := 0, evWrite := none, next := w } } []))
  ∧ (2 ≤ p.state → p.busy = false →
    (p.next ≠ never → p.next.toNat ≤ x.exitTicks p.state → HubRun (.pwrEventExit i) s i
      { x with pwr := { p with busy := true, target := p.state, wake := some 1 } } [])
    ∧ (p.next = never ∨ x.exitTicks p.state < p.next.toNat → HubRun (.pwrEventExit i) s i x []))
  ∧ (∀ cause, p.busy = true → p.state = p.target → p.wake = some cause → nobodyWaits → x.notices = [] →
    let run := { p with state := 0, busy := false, target := 0, cause := cause, wake := none }
    (p.state ≠ 3 → x.linkIn = [] → HubRun (.pwrExitDone i) s i { x with pwr := run } [])
    ∧ (∀ k inc, p.state ≠ 3 → x.linkIn = [.fenceAdd (1024 * i + k) inc] → k < 1024 → HubRun (.pwrExitDone i) s i
        ({ x with pwr := run, linkIn := [] }.setFence k { x.fence k with value := (x.fence k).value + inc }) [])
    ∧ (p.state = 3 → x.linkIn = [] → ∃ y, HubRun (.pwrExitDone i) s i y []
      ∧ y = { x with
          cells := y.cells, tlb := [], keyHandle := 0, mbArg0 := 0, mbArg1 := 0, dbMask := never
          win := { x.win with args := List.replicate 6 0 }, intStat := x.intStat ||| 8#4
          pwr := { p with state := 0, busy := false, target := 0, cause := cause, wake := none, dormantExit := true } }
      ∧ ∀ n, y.cell n = { x.cell n with scaleCheck := 0, stallFeed := 0, stallDrain := 0 }))

/-- PWR_WAKE, PWR_OFF_REQUEST, OFF_READY and CELL_GATE (R401, R405, R409, R410): a wake begins the exit from NAP and DORMANT, with
cause 7, and is held, to be presented again; in RUN and IDLE it writes the fields; OFF is taken on its pattern with every
channel free, no message pending and DORMANT's condition, and refused otherwise; it is ready when no write is outstanding; a
cell without work gates. It rests on readings that are the model's (log entries 19 for the write that is held, 69, and 117
for its cause). -/
def Obligations.PowerCommands : Prop := ∀ (s : State) (i : Nat) (x : Inst),
  let p := x.pwr
  (∀ data : Word, data.getLsbD 8 = true →
    (AtWork s i x → PortOpen s → p.busy = false → CtlRun (.pwrWake i data) s i { x with pwr := { p with ctrl := data &&& 0x207 } })
    ∧ (Alive s i x → 2 ≤ p.state → p.busy = false → exec (.pwrWake i data) s = .next (s.setInst i { x with
        pwr := { p with busy := true, target := p.state, wake := some 7, earlyWake := true }, intStat := x.intStat ||| 8#4 })))
  ∧ (AtWork s i x →
    (∀ data : Word, PortOpen s → data ≠ 0x0FF00FF0#32 → CtlRun (.pwrOffRequest i data) s i x)
    ∧ (PortOpen s → let ready := x.vcs.all (fun q => decide (q.2.st = .free)) && x.mboxes.all (fun q => !q.2.pending) && s.quiet i x 3
      CtlRun (.pwrOffRequest i 0x0FF00FF0#32) s i
        (if ready then { x with pwr := { p with offTaken := true } } else { x with pwr := { p with offRefused := true } }))
    ∧ ∀ n, n < x.cellsBuilt → p.state = 0 →
      HubRun (.cellGate { inst := i, cell := n }) s i
        (if p.ctrl.getLsbD 9 && (x.cell n).noWork then x.setCell n { x.cell n with gated := true } else x) [])
  ∧ (s.insts[i]? = some x → p.offTaken = true → (∀ n, (x.cell n).spWrites = []) →
    HubRun (.offReady i) s i { x with pwr := { p with offReady := true } } [])

/-- INST_RESET, INST_RESET_DONE, POWER_ON_RESET, POWER_ON_RESET_DONE and TEST_STATE_ENTER (R411 to R416, R436, R437): what a
reset takes, what an instance reset keeps, and what each leaves at its reset value; the test access port's instruction register,
and the wrapper instructions and instruments that enter test state (R435). It rests on readings that are the model's
(log entry 72). -/
def Obligations.Resets : Prop := ∀ (s : State) (i : Nat) (x : Inst),
  let nobodyWaits := ∀ z ∈ s.insts, z.mbWait = none ∧ z.keyWait = none ∧ z.win.busy = none
  (AtWork s i x → PortOpen s → s.behind i = true → exec (.instReset i false) s = .next (forwarded s (rowWrite (.instReset i false))))
  ∧ (AtWork s i x → ∀ byPin, (byPin = true ∨ s.fwd.length < 8 ∧ s.behind i = false) →
    (s.ss.st ≠ 4 → ∃ t y, exec (.instReset i byPin) s = .next t ∧ t.insts[i]? = some y ∧ y.rst.phase = 1
      ∧ y.pwr = Power.reset ∧ y.east.up = false ∧ y.west.up = false ∧ (2 ≤ s.insts.length ↔ y.east.training = true)
      ∧ (2 ≤ s.insts.length ↔ y.west.training = true) ∧ t.insts.length = s.insts.length ∧ t.ring.tail = s.ring.tail)
    ∧ (s.ss.st = 4 → ∃ t, exec (.instReset i byPin) s = .next t
      ∧ t.insts = (s.setInst i { x with rst := { x.rst with waiting := true } }).insts ∧ t.ss = s.ss ∧ t.ring = s.ring))
  ∧ (∀ failed, s.insts[i]? = some x → x.rst.phase = 1 → nobodyWaits →
    ∃ y, exec (.instResetDone i failed false) s = .next (if i = 0 then { s.setInst i y with
          ss := { LoadWin.reset with patches := s.ss.patches }, ring := { Ring.reset with out := s.ring.out, tries := s.ring.tries }
          ctlErr := 0, ctlErrAddr := 0 }
        else s.setInst i y) ∧ y.rst = Rst.reset ∧ y.pwr = Power.reset
      ∧ y.id = x.id ∧ y.cellsBuilt = x.cellsBuilt ∧ y.stream = x.stream ∧ y.inService = x.inService ∧ y.vcs = x.vcs
      ∧ y.mboxes = x.mboxes ∧ y.instKey = x.instKey ∧ y.cells = [] ∧ y.keys = [] ∧ y.tlb = [] ∧ y.xfers = [] ∧ y.readyQ = []
      ∧ y.win = ChWin.reset ∧ y.schedCtrl = 0x00640400 ∧ y.dbMask = 0xFFFFFFFF ∧ y.collCtrl = 0x20 ∧ y.intStat = 0
      ∧ y.intEn = 0 ∧ y.flt.sweepPos = 0 ∧ y.flt.log = x.flt.log ∧ y.flt.logValid = x.flt.logValid ∧ y.flt.ctrl = 2 ∧ y.flt.failstop = false
      ∧ (∀ n, y.lstFail.getLsbD n = (failed.getLsbD n && decide (n < 256) && (cellsBelow x.cellsBuilt).getLsbD n))
      ∧ ∀ k, k < 1024 → y.fence k = { value := (x.fence k).value, err := if (x.fence k).err = 0 then 0x00F1 else (x.fence k).err })
  ∧ (∀ pos : BitVec 3, s.insts[i]? = some x → (∀ z ∈ s.insts, z.rst.waiting = false) →
    ∃ t y, exec (.powerOnReset i pos) s = .next t ∧ t.insts[i]? = some y ∧ y.rst.phase = 2 ∧ y.id = pos.toNat
      ∧ y.stream = Stream.none ∧ y.instKey = none ∧ y.keys = [] ∧ y.vcs = [] ∧ y.fences = [] ∧ y.cells = [] ∧ y.lstDone = false
      ∧ y.flt.sweepPos = 0 ∧ y.wir = [])
  ∧ (∀ failed, s.insts[i]? = some x → x.rst.phase = 2 → nobodyWaits → exec (.powerOnResetDone i failed false) s = .next (s.setInst i { x with
      rst := Rst.reset, lstDone := true, lstFail := failed &&& cellsBelow x.cellsBuilt
      east := { x.east with training := false }, west := { x.west with training := false } }))
  ∧ (s.insts[i]? = some x →
    let test (op : TapOp) : Prop := ∃ t y, exec (.testStateEnter i op) s = .next t ∧ t.insts[i]? = some y ∧ y.test = true
      ∧ y.cells = [] ∧ y.keys = [] ∧ y.tlb = [] ∧ y.instKey = none ∧ y.stream.tabs = [] ∧ y.stream.mcode = []
    (∀ code, exec (.testStateEnter i (.ir code)) s = .next (s.setInst i { x with tapIr := code }))
    ∧ (∀ b w, x.tapIr ≠ 0x20 → exec (.testStateEnter i (.wir b w)) s = .next s)
    ∧ (∀ k, x.tapIr ≠ 0x10 ∨ k = .clockMonitor ∨ k = .selfTestResults → exec (.testStateEnter i (.instrument k)) s = .next s)
    ∧ (∀ b, x.tapIr = 0x20 → b ≤ x.cellsBuilt → exec (.testStateEnter i (.wir b .bypass)) s =
        .next (s.setInst i { x with wir := Tbl.set .bypass x.wir b .bypass }))
    ∧ (∀ b w, x.tapIr = 0x20 → b ≤ x.cellsBuilt → w ≠ .bypass → x.test = false → test (.wir b w))
    ∧ (∀ k, x.tapIr = 0x10 → k ≠ .clockMonitor → k ≠ .selfTestResults → x.test = false → test (.instrument k)))

/-- CELL_RESET and CELL_RESET_DONE (R414, R416): a request to a cell with an active slot, a queued launch, an open cask, a
bound drained tile or an unread summary is refused and recorded; otherwise the reset leaves the cell's registers, queues and
counters at their reset values and keeps the words of other kinds that are still unread. It rests on readings that are the
model's (log entry 71). -/
def Obligations.CellResets : Prop := ∀ (s : State) (i : Nat) (x : Inst),
  (AtWork s i x → PortOpen s → ∀ n : BitVec 8, n.toNat < x.cellsBuilt →
    let c := x.cell n.toNat
    let busy := c.slots.any (fun k => decide (k.phase ≠ .idle)) || !c.launchQ.isEmpty || !c.casks.isEmpty
      || c.drain.any (fun t => t.bound.isSome) || c.outQ.any fun w => decide (w.kind = 0)
    CtlRun (.cellReset i n) s i (if busy then { x with rst := { x.rst with refused := true, lastCell := n.toNat } }
      else { x with rst := { x.rst with cellBusy := x.rst.cellBusy ++ [n.toNat] } }))
  ∧ (∀ n rest, s.insts[i]? = some x → x.rst.cellBusy = n :: rest → n < x.cellsBuilt →
    ∃ d, HubRun (.cellResetDone i) s i
        { x.setCell n d with rst := { x.rst with cellBusy := rest, lastCell := n } } []
      ∧ d.slots = [Slot.idle, Slot.idle, Slot.idle, Slot.idle] ∧ d.vits = [] ∧ d.masks = [] ∧ d.launchQ = [] ∧ d.drain = []
      ∧ d.casks = [] ∧ d.caskSlots = [] ∧ d.addQ = [] ∧ d.feedQ = [] ∧ d.scaleCheck = 0 ∧ d.stallFeed = 0 ∧ d.stallDrain = 0
      ∧ d.gated = false ∧ d.recov = [] ∧ d.outQ = (x.cell n).outQ.filter fun w => decide (w.kind ≠ 0))

/-! ### Faults and die links -/

/-- RESIDUE_MISMATCH, LOCKSTEP_MISMATCH and SELF_TEST_DONE (R370, R371, R381 to R383, R388, R392, R393): a mismatch pauses the
cell, whose uncommitted tiles stand at their first instruction; a passed self-test lets it go on with one record of action 2; a
failed one of a cell that no channel uses retires it, with its casks released, and a record of action 3; a second fault in a
cell that retires waits for that record, and one in a retired cell is recorded at once. It rests on readings that are the
model's (log entries 74 and 75). -/
def Obligations.CellFaults : Prop := ∀ (s : State) (a : CellAt) (x : Inst),
  let n := a.cell
  let c := x.cell n
  Alive s a.inst x → n < x.cellsBuilt →
  (c.retire.isSome = true → ∀ k, HubRun (.lockstepMismatch a k) s a.inst (x.setCell n { c with faults := c.faults ++
    [{ code := 0, cls := 4, index := 0, address := 0, handle := x.struck n k, time := x.ticks, second := x.inWindow, prog := none }] }) [])
  ∧ (c.retire = none → x.flt.quiesced.getLsbD n = true → ∀ k, FaultRun (.lockstepMismatch a k) s a.inst x 0x0039 (x.struck n k)
      { cell := some n, port := 0, cls := 4, action := 3, second := x.inWindow, perm := true, index := 0, address := 0, moved := 0 })
  ∧ (c.retire = none → x.flt.quiesced.getLsbD n = false → x.lstFail.getLsbD n = false →
  (c.paused = false → c.recov = [] →
    let paused (i : Instr) (cls index : Nat) (k : Option Nat) : Prop :=
      ∃ y, HubRun i s a.inst y [] ∧ (y.cell n).paused = true ∧ (y.cell n).recov = c.openSlots
        ∧ (y.cell n).fault = some { code := 0, cls := cls, index := index, address := 0, handle := x.struck n k, time := x.ticks
                                    second := x.inWindow, prog := none }
        ∧ (∀ m, m ≠ n → y.cell m = x.cell m) ∧ (y.cell n).vits = c.vits ∧ (y.cell n).masks = c.masks ∧ y.inWindow = true
        ∧ ∀ k, k ∈ c.openSlots → (c.slot k).wait = .ready → (y.slot n k).idx = (c.slot k).tile.start
          ∧ (y.slot n k).tile.writes = [] ∧ (y.slot n k).wait = .ready
    (∀ cask k index, paused (.residueMismatch a cask k index) (if cask then 3 else 2) index.toNat k)
    ∧ ∀ k, paused (.lockstepMismatch a k) 4 0 k)
  ∧ (∀ f, c.paused = true → c.fault = some f →
    let info (action : Nat) (perm : Bool) : FaultInfo :=
      { cell := some n, port := 0, cls := f.cls, action := action, second := f.second, perm := perm, index := f.index
        address := f.address, moved := 0 }
    let posted (code action : Nat) (perm : Bool) : List Eff :=
      [.fault (faultRecord x code f.handle f.time (info action perm)) (!x.flt.logValid)]
    (f.prog = none → ∃ y, HubRun (.selfTestDone a true) s a.inst y (posted f.code 2 false)
      ∧ y.cell n = ({ c with paused := false, fault := none } : Cell).runAdds
      ∧ (y.cell n).paused = false ∧ (y.cell n).fault = none ∧ (y.cell n).recov = c.recov ∧ (y.cell n).slots = c.slots
      ∧ y.flt.reruns = min (x.flt.reruns + 1) 0xFFFF ∧ y.flt.lastCode = f.code ∧ y.intStat = x.intStat ||| 1#4)
    ∧ (x.ownersOn n = [] → c.launchQ = [] → f.code = 0 → c.faults = [] →
      ∃ y, HubRun (.selfTestDone a false) s a.inst y (posted 0x0039 3 true)
        ∧ y.flt.quiesced = x.flt.quiesced ||| BitVec.ofNat 256 (2 ^ n) ∧ (y.cell n).casks = [] ∧ (y.cell n).paused = false
        ∧ (y.cell n).fault = none ∧ (y.cell n).retire = none)))

/-- The faults of the hub (R369, R372, R375, R378 to R380, R385, R389, R390, R394): a vote is masked and counted, a copy that
disagrees again is switched out, and a mismatch of a degraded hub, of the channel table or a loss of clocks fail-stops; a
stream-engine port performs again what was struck, a request or the write of a save area (R387), or retires, and the fault is
recorded when that has ended; one symbol is corrected and counted, by the docent too; a lost word of the staging buffer is read
again, a lost key slot scrubbed; an injection is armed. It rests on readings that are the model's (log entries 73 to 75, 101
for the ports that a repeat leaves over, and 106). -/
def Obligations.HubFaults : Prop := ∀ (s : State) (i : Nat) (x : Inst),
  let bump (k n : Nat) : Nat := min (n + 1) (2 ^ k - 1)
  let stops (c : Instr) : Prop := ∃ y es, HubRun c s i y es ∧ y.flt.failstop = true
  (AtWork s i x → PortOpen s → ∀ w : Word, CtlRun (.fltInject i w) s i
    (if w.getLsbD 31 ∧ w.toNat / 2 ^ 24 % 2 ^ 4 ≠ 5 ∧ w.toNat / 2 ^ 24 % 2 ^ 4 < 9 then
      { x with flt := { x.flt with injected := some w } } else x))
  ∧ (Alive s i x → x.flt.injected = none →
    (∀ copy index, x.flt.degraded = true → stops (.hubVoteMismatch i copy index))
    ∧ (∀ copy index, x.flt.degraded = false → x.flt.ctrl % 2 = 0 → HubRun (.hubVoteMismatch i copy index) s i
      { x with flt := if x.flt.suspects.contains copy then { x.flt with corr := bump 32 x.flt.corr, degraded := true }
                      else { x.flt with corr := bump 32 x.flt.corr, suspects := x.flt.suspects ++ [copy] } } [])
    ∧ (∀ port enc (index : BitVec 16) perm,
      let hit (handle : Word) (xfers vcs : List Nat) : PortFault :=
        { port := port, cls := if enc then 6 else 7, index := index.toNat, handle := handle, time := x.ticks, second := x.inWindow
          perm := perm, xfers := xfers, vcs := vcs }
      let y (ms : List PortFault) : Inst := { x with flt := { x.flt with
        repeats := bump 16 x.flt.repeats, mends := x.flt.mends ++ ms
        ports := if perm then x.flt.ports ||| BitVec.ofNat 8 (2 ^ port) else x.flt.ports } }
      let areas := (x.vcs.map Prod.fst).filter x.atArea
      (x.savesMigration = false → (∀ q ∈ x.seReqs, q.port = port → q.xfer = none) →
        (areas = [] → MendRun (.sePortMismatch i port enc none index perm) s i (y [hit 0 [] []]).serve [])
        ∧ (areas = [] → (∀ t ∈ x.xfers, t.tiles = []) → x.flt.mends = [] →
          FaultRun (.sePortMismatch i port enc none index perm) s i (y []) 0 0
            { cell := none, port := port, cls := if enc then 6 else 7, action := if perm then 3 else 1, second := x.inWindow
              perm := perm, index := index.toNat, address := 0, moved := 0 })
        ∧ (∀ v, areas = [v] → (x.vc v).st = .suspending →
          let z := y [hit 0 [] [v]]
          MendRun (.sePortMismatch i port enc none index perm) s i
            ({ z with hubWrites := x.hubWrites ++ z.saveWrites v } : Inst).serve []))
      ∧ (∀ t q, perm = false → x.xfer t.id = some t →
        (x.seReqs.filter fun r => r.port == port && decide (r.xfer = some t.id)).head? = some q →
        let again : SeReq := { q with port := 0, ident := 0, xfer := none, again := true }
        MendRun (.sePortMismatch i port enc (some t.id) index false) s i
          ({ (y [hit (wordAt t.words 0) [t.id] []]).setXfer { t with tiles := [again] :: t.tiles } with
            seReqs := x.seReqs.map fun r => if r = q then { q with xfer := none } else r } : Inst).serve []))
    ∧ (∀ m y, y.flt.mends = [m] → y.repeating m = false →
      let z : Inst := { y with flt := { y.flt with mends := [] } }
      let ws := faultRecord z 0 m.handle m.time { cell := none, port := m.port, cls := m.cls, action := if m.perm then 3 else 1
                                                  second := m.second, perm := m.perm, index := m.index, address := 0, moved := 0 }
      ({ x := y, effs := [] } : Run).mended = { x := logged z 0 ws, effs := [.fault ws (!y.flt.logValid)] })
    ∧ (∀ t index address, x.flt.ctrl % 2 = 0 → x.xfer t.id = some t → t.phase = .reading →
      let again (l : SeLine) : SeRead := { va := l.va, pa := t.lineOf false (64 * l.va), tier := x.tier (t.lineOf false (64 * l.va) / 64)
                                           again := false, poll := none }
      HubRun (.uncorrectableWord i { bus := false, errs := 2, at_ := .staging t.id } index address) s i
        (x.setXfer { t with got := [], tiles := t.tiles ++ (lineTiles (t.got.map again)).map readTile }).serve [])
    ∧ (∀ bus u index address, uncOk x u = true → x.flt.ctrl % 2 = 0 →
      HubRun (.uncorrectableWord i { bus := bus, errs := 1, at_ := u } index address) s i
        { x with flt := { x.flt with corr := bump 32 x.flt.corr } } [])
    ∧ (∀ k index address, FaultRun (.uncorrectableWord i { bus := false, errs := 2, at_ := .keySlot k } index address) s i
      (x.setKey k { KeySlot.empty with bad := true }) 0x00F0 (match (x.key k).owner with
        | some v => x.handleOf v
        | none => 0)
      { cell := none, port := 0, cls := 0, action := 5, second := x.inWindow, perm := false, index := index.toNat
        address := address, moved := 0 })
    ∧ (∀ e index address, x.flt.ctrl % 2 = 0 → HubRun (.uncorrectableWord i { bus := false, errs := 2, at_ := .tlb e } index address) s i
      { x with tlb := x.tlb.take e ++ x.tlb.drop (e + 1) } [])
    ∧ (∀ index address, stops (.uncorrectableWord i { bus := false, errs := 2, at_ := .vcTable } index address))
    ∧ (stops (.clockLoss i)))
  ∧ (AtWork s i x → x.flt.injected = none → x.flt.ctrl = 2 → ∀ u index address, uncOk x u = true →
    (∀ last, HubRun (.docentAccess i 0 u index address last) s i
      (if last then { x with flt := { x.flt with sweeps := x.flt.sweeps + 1, sweepPos := 0 } }
        else { x with flt := { x.flt with sweepPos := x.flt.sweepPos + 1 } }) [])
    ∧ HubRun (.docentAccess i 1 u index address false) s i
      { x with flt := { x.flt with corr := bump 32 x.flt.corr, sweepPos := x.flt.sweepPos + 1 } } [])

/-- FLIT_RECEIVE, LINK_DOWN and LINK_TRAIN_DONE (R26, R374, R391, R412, R430, R431): the expected flit is acknowledged and its
messages take effect once, or it goes on over the other port, whose replay buffer keeps it until it is acknowledged; one out of
sequence, or without room, is not taken; a resend request is served from the replay buffer; an unreadable flit is asked for again
up to four times, then the fault is recorded; a flit that uses no payload byte carries no message; a port that leaves the active
state is down, and the messages of the flits that it still holds end, an increment with its fence in error; a trained one is up
with its peer, but in a package of one. It rests on readings that are the model's (log entry 20). -/
def Obligations.DieLinks : Prop := ∀ (s : State) (i : Nat) (x : Inst) (east : Bool),
  let p := x.port east
  let o := x.port (!east)
  (AtWork s i x → p.up = true → 2 ≤ s.insts.length → x.flt.injected = none → ∀ f : Flit,
    let note (typ : BitVec 4) (z : Port) (seq : BitVec 12) : Port := { z with sent := z.sent ++
      [{ typ := typ, cls := 0, seq := seq, ack := z.rxSeq - 1, src := BitVec.ofNat 3 x.id, dst := BitVec.ofNat 3 z.peer, used := 0
         msgs := [] }] }
    let to_ (z : Port) : State := s.setInst i (x.setPort east z)
    let gives (bad : Nat) (t : State) : Prop := exec (.flitReceive i east f bad) s = .next t
    let q : Port := { p with replay := p.replay.filter fun g => !acked g.seq f.ack }
    let z : Port := { q with rxSeq := p.rxSeq + 1, resends := 0 }
    (f.typ = 3 → gives 0 (to_ { q with sent := q.sent ++ q.replay.filter fun g => acked f.seq g.seq }))
    ∧ (f.typ ≠ 3 → f.typ ≠ 1 ∨ f.seq ≠ p.rxSeq → gives 0 (to_ q))
    ∧ (f.typ = 1 → f.seq = p.rxSeq →
      (∀ k inc, f.dst.toNat = x.id → f.msgs = [.fenceAdd k inc] → k < 1024 →
        (f.cls = 1 → f.used ≠ 0 → gives 0 (s.setInst i ((x.setPort east (note 2 z z.txSeq)).setFence k
          { x.fence k with value := (x.fence k).value + inc })))
        ∧ (f.cls ≠ 1 ∨ f.used = 0 → gives 0 (to_ (note 2 z z.txSeq))))
      ∧ (f.dst.toNat ≠ x.id → o.up = true → o.replay.length < 128 →
        let g : Flit := { f with seq := o.txSeq, ack := o.rxSeq - 1 }
        gives 0 (s.setInst i ((x.setPort east (note 2 z z.txSeq)).setPort (!east)
          { o with txSeq := o.txSeq + 1, replay := o.replay ++ [g], sent := o.sent ++ [g] })))
      ∧ (f.dst.toNat ≠ x.id → 128 ≤ o.replay.length → gives 0 (to_ q)))
    ∧ (∀ bad, 2 ≤ bad → p.resends < 4 → gives bad (to_ (note 3 { p with resends := p.resends + 1 } p.rxSeq)))
    ∧ (∀ bad, 2 ≤ bad → 4 ≤ p.resends → f.msgs = [] → PortOpen s → ∃ k,
      FaultRun (.flitReceive i east f bad) s i (x.setPort east { p with resends := 0, rxSeq := p.rxSeq + 1 }) 0x00F0 0
        { cell := none, port := 0, cls := 1, action := 5, second := x.inWindow, perm := false, index := k, address := 0
          moved := 0 }))
  ∧ (s.insts[i]? = some x →
    (p.up = false → PortOpen s → exec (.linkDown i east) s = .next s)
    ∧ (p.up = true → (∀ w ∈ s.insts, w.rst.waiting = false) →
      ∃ t y, exec (.linkDown i east) s = .next t ∧ t.insts[i]? = some y ∧ (y.port east).up = false
        ∧ (y.port east).training = p.training ∧ (y.port east).replay = [] ∧ y.port (!east) = o
        ∧ ∀ g k inc, p.replay = [g] → g.cls = 1 → g.used ≠ 0 → g.msgs = [.fenceAdd k inc] → k < 1024 →
          (t.fence (1024 * g.dst.toNat + k)).err ≠ 0)
    ∧ (∀ peer : BitVec 3, p.training = true → 2 ≤ s.insts.length → HubRun (.linkTrainDone i east peer) s i
        (x.setPort east { Port.down with up := true, peer := peer.toNat, sent := p.sent }) [])
    ∧ ∀ peer : BitVec 3, s.insts.length < 2 → exec (.linkTrainDone i east peer) s = .next s)

/-! ### The machine -/

/-- Every step keeps the load window inside its buffer and its states, with a digest exactly in CLOSED and COMMITTING (R353,
R356), whatever the command. -/
def Obligations.LoadWindowKept : Prop := ∀ s t : State, Inv s → step s = .next t → Inv t

/-- State.reset meets the invariant, with the values that the spec gives its registers (R101, R259, R260, R268, R273, R281,
R284, R291, R297, R313, R337, R345, R346, R353, R356, R360, R361, R366, R394, R409, R414): nothing pending, no stream in
force, every channel FREE with generation 1. It rests on readings that are the model's (log entries 1, 2 and 7). -/
def Obligations.ResetState : Prop :=
  let s := State.reset
  Inv s ∧ s.pending = [] ∧ s.resp = [] ∧ s.ss = LoadWin.reset ∧ s.ring = Ring.reset ∧ s.ctlErr = 0 ∧ s.ctlErrAddr = 0 ∧ s.fwd = []
    ∧ ∀ x ∈ s.insts, x.stream.inForce = false ∧ x.instKey = none ∧ x.keyHandle = 0 ∧ x.keyCode = 0
      ∧ x.schedCtrl = 0x00640400 ∧ x.collCtrl = 0x20 ∧ x.dbMask = 0xFFFFFFFF ∧ x.mbArg0 = 0 ∧ x.mbArg1 = 0
      ∧ x.intStat = 0 ∧ x.intEn = 0 ∧ x.tlb = [] ∧ x.xfers = [] ∧ x.pwr = Power.reset ∧ x.flt = Flt.reset ∧ x.rst = Rst.reset
      ∧ x.win = ChWin.reset ∧ x.test = false
      ∧ (∀ v, (x.vc v).st = .free ∧ (x.vc v).gen = 1) ∧ (∀ k, x.key k = KeySlot.empty) ∧ (∀ k, x.fence k = { value := 0, err := 0 })
      ∧ (∀ m, (x.mbox m).alloc = false ∧ (x.mbox m).gen = 1 ∧ (x.mbox m).pending = false)
      ∧ ∀ n, (x.cell n).slots = [Slot.idle, Slot.idle, Slot.idle, Slot.idle] ∧ (x.cell n).launchQ = [] ∧ (x.cell n).casks = []
        ∧ (x.cell n).drain = [] ∧ (x.cell n).scaleCheck = 0 ∧ (x.cell n).stallFeed = 0 ∧ (x.cell n).stallDrain = 0
        ∧ (∀ k, (x.cell n).mask k = 0) ∧ ∀ k j, ((x.cell n).vit k).getD j 0 = 0#32
end

