-- ==== Sys2Proof/Laws/Tables.lean ====
section
/-! SUPPORT. Laws of the sparse tables: what is read after a write, and that every operation keeps the canonical form. -/

namespace Sys2Proof.Machine

variable {α : Type}

theorem Tbl.get_put_same (d : α) (t : Tbl α) (k : Nat) (v : α) : Tbl.get d (Tbl.put k v t) k = v := by
  induction t with
  | nil => simp [Tbl.put, Tbl.get]
  | cons p t ih =>
    obtain ⟨i, w⟩ := p
    simp only [Tbl.put]
    split
    · simp [Tbl.get]
    · split
      · simp [Tbl.get]
      · simp [Tbl.get, show ¬i = k by omega, ih]

theorem Tbl.get_put_other (d : α) (t : Tbl α) (k j : Nat) (v : α) (h : j ≠ k) :
    Tbl.get d (Tbl.put k v t) j = Tbl.get d t j := by
  induction t with
  | nil => simp [Tbl.put, Tbl.get, Ne.symm h]
  | cons p t ih =>
    obtain ⟨i, w⟩ := p
    simp only [Tbl.put]
    split
    · simp [Tbl.get, Ne.symm h]
    · split
      · simp [Tbl.get, Ne.symm h, show ¬i = j by omega]
      · simp [Tbl.get, ih]

theorem Tbl.get_del_same (d : α) (t : Tbl α) (k : Nat) : Tbl.get d (Tbl.del k t) k = d := by
  induction t with
  | nil => rfl
  | cons p t ih =>
    obtain ⟨i, w⟩ := p
    by_cases h : i = k
    · simpa [Tbl.del, List.filter_cons, h] using ih
    · simpa [Tbl.del, List.filter_cons, h, Tbl.get] using ih

theorem Tbl.get_del_other (d : α) (t : Tbl α) (k j : Nat) (h : j ≠ k) : Tbl.get d (Tbl.del k t) j = Tbl.get d t j := by
  induction t with
  | nil => rfl
  | cons p t ih =>
    obtain ⟨i, w⟩ := p
    by_cases hi : i = k
    · have : ¬k = j := fun e => h e.symm
      simpa [Tbl.del, List.filter_cons, hi, Tbl.get, this] using ih
    · by_cases hj : i = j
      · subst hj
        simp [Tbl.del, hi, Tbl.get]
      · simpa [Tbl.del, List.filter_cons, hi, Tbl.get, hj] using ih

theorem Tbl.del_put (t : Tbl α) (k : Nat) (v : α) : Tbl.del k (Tbl.put k v t) = Tbl.del k t := by
  induction t with
  | nil => simp [Tbl.put, Tbl.del]
  | cons p t ih =>
    obtain ⟨i, w⟩ := p
    simp only [Tbl.put]
    split
    · simp [Tbl.del, List.filter_cons]
    · split
      · simp [Tbl.del, *]
      · have hi : i ≠ k := by omega
        simp only [Tbl.del, List.filter_cons] at ih ⊢
        simp [hi, ih]

@[simp] theorem Tbl.del_del (t : Tbl α) (k : Nat) : Tbl.del k (Tbl.del k t) = Tbl.del k t := by
  simp [Tbl.del, List.filter_filter]

theorem Tbl.get_filter (d : α) (t : Tbl α) (p : Nat → Bool) (j : Nat) :
    Tbl.get d (t.filter fun q => p q.1) j = if p j then Tbl.get d t j else d := by
  induction t with
  | nil => simp [Tbl.get]
  | cons q t ih =>
    obtain ⟨i, w⟩ := q
    by_cases hp : p i = true
    · by_cases hj : i = j
      · subst hj; simp [hp, Tbl.get]
      · simp [hp, Tbl.get, hj, ih]
    · by_cases hj : i = j
      · subst hj; simp [hp, ih]
      · simp [hp, Tbl.get, hj, ih]

variable [DecidableEq α]

@[simp] theorem Tbl.get_set_same (d : α) (t : Tbl α) (k : Nat) (v : α) : Tbl.get d (Tbl.set d t k v) k = v := by
  unfold Tbl.set
  split
  · simp_all [Tbl.get_del_same]
  · exact Tbl.get_put_same ..

theorem Tbl.get_set_other (d : α) (t : Tbl α) (k j : Nat) (v : α) (h : j ≠ k) :
    Tbl.get d (Tbl.set d t k v) j = Tbl.get d t j := by
  unfold Tbl.set
  split
  · exact Tbl.get_del_other _ _ _ _ h
  · rw [Tbl.get_put_other _ _ _ _ _ h, Tbl.get_del_other _ _ _ _ h]

theorem Tbl.get_set (d : α) (t : Tbl α) (k j : Nat) (v : α) :
    Tbl.get d (Tbl.set d t k v) j = if j = k then v else Tbl.get d t j := by
  split
  · subst_vars; exact Tbl.get_set_same ..
  · exact Tbl.get_set_other _ _ _ _ _ ‹_›

@[simp] theorem Tbl.set_set (d : α) (t : Tbl α) (k : Nat) (v w : α) :
    Tbl.set d (Tbl.set d t k v) k w = Tbl.set d t k w := by
  unfold Tbl.set
  split <;> split <;> simp [Tbl.del_put]

/-! ### The canonical form -/

omit [DecidableEq α] in
theorem Tbl.above_trans (t : Tbl α) (a b : Nat) (h : a ≤ b) (hb : Tbl.above b t = true) : Tbl.above a t = true := by
  induction t with
  | nil => rfl
  | cons p t ih =>
    obtain ⟨i, w⟩ := p
    simp only [Tbl.above, Bool.and_eq_true, decide_eq_true_eq] at hb ⊢
    exact ⟨by omega, ih hb.2⟩

omit [DecidableEq α] in
theorem Tbl.above_put (t : Tbl α) (a k : Nat) (v : α) (h : a < k) (ht : Tbl.above a t = true) :
    Tbl.above a (Tbl.put k v t) = true := by
  induction t with
  | nil => simp [Tbl.put, Tbl.above, h]
  | cons p t ih =>
    obtain ⟨i, w⟩ := p
    simp only [Tbl.above, Bool.and_eq_true, decide_eq_true_eq] at ht
    simp only [Tbl.put]
    split
    · simp [Tbl.above, h, ht]
    · split
      · simp [Tbl.above, h, ht.2]
      · simp [Tbl.above, ht.1, ih ht.2]

omit [DecidableEq α] in
theorem Tbl.above_del (t : Tbl α) (a k : Nat) (ht : Tbl.above a t = true) : Tbl.above a (Tbl.del k t) = true := by
  induction t with
  | nil => rfl
  | cons p t ih =>
    obtain ⟨i, w⟩ := p
    simp only [Tbl.above, Bool.and_eq_true, decide_eq_true_eq] at ht
    by_cases hi : i = k
    · simpa [Tbl.del, List.filter_cons, hi] using ih ht.2
    · simpa [Tbl.del, List.filter_cons, hi, Tbl.above, ht.1] using ih ht.2

/-- Writing a value other than the default keeps the canonical form. -/
theorem Tbl.wf_put (d : α) (t : Tbl α) (k : Nat) (v : α) (hv : v ≠ d) (ht : Tbl.wf d t = true) :
    Tbl.wf d (Tbl.put k v t) = true := by
  induction t with
  | nil => simp [Tbl.put, Tbl.wf, Tbl.above, hv]
  | cons p t ih =>
    obtain ⟨i, w⟩ := p
    simp only [Tbl.wf, Bool.and_eq_true, decide_eq_true_eq] at ht
    obtain ⟨⟨hw, ha⟩, ht⟩ := ht
    simp only [Tbl.put]
    split
    · rename_i hk
      simp [Tbl.wf, Tbl.above, hv, hw, ha, ht, hk, Tbl.above_trans t k i (by omega) ha]
    · split
      · subst_vars; simp [Tbl.wf, hv, ha, ht]
      · simp [Tbl.wf, hw, ih ht, Tbl.above_put t i k v (by omega) ha]

/-- Removing an entry keeps the canonical form. -/
theorem Tbl.wf_del (d : α) (t : Tbl α) (k : Nat) (ht : Tbl.wf d t = true) : Tbl.wf d (Tbl.del k t) = true := by
  induction t with
  | nil => rfl
  | cons p t ih =>
    obtain ⟨i, w⟩ := p
    simp only [Tbl.wf, Bool.and_eq_true, decide_eq_true_eq] at ht
    obtain ⟨⟨hw, ha⟩, ht⟩ := ht
    by_cases hi : i = k
    · simpa [Tbl.del, List.filter_cons, hi] using ih ht
    · have h1 := ih ht
      have h2 := Tbl.above_del t i k ha
      simp only [Tbl.del] at h1 h2
      simp [Tbl.del, hi, Tbl.wf, hw, h1, h2]

/-- Every write keeps the canonical form. -/
theorem Tbl.wf_set (d : α) (t : Tbl α) (k : Nat) (v : α) (ht : Tbl.wf d t = true) : Tbl.wf d (Tbl.set d t k v) = true := by
  unfold Tbl.set
  split
  · exact Tbl.wf_del d t k ht
  · exact Tbl.wf_put d _ k v ‹_› (Tbl.wf_del d t k ht)

end Sys2Proof.Machine
end

