-- ==== Sys2Proof/Laws/State.lean ====
section
/-! SUPPORT. What each named update of the state changes, field by field, and what is read after it. -/

namespace Sys2Proof.Machine

/-! ### Instances of the package -/

@[simp] theorem State.setInst_pending (s : State) (i : Nat) (x : Inst) : (s.setInst i x).pending = s.pending := rfl
@[simp] theorem State.setInst_ss (s : State) (i : Nat) (x : Inst) : (s.setInst i x).ss = s.ss := rfl
@[simp] theorem State.setInst_ring (s : State) (i : Nat) (x : Inst) : (s.setInst i x).ring = s.ring := rfl
@[simp] theorem State.setInst_ctlErr (s : State) (i : Nat) (x : Inst) : (s.setInst i x).ctlErr = s.ctlErr := rfl
@[simp] theorem State.setInst_ctlErrAddr (s : State) (i : Nat) (x : Inst) : (s.setInst i x).ctlErrAddr = s.ctlErrAddr := rfl
@[simp] theorem State.setInst_fwd (s : State) (i : Nat) (x : Inst) : (s.setInst i x).fwd = s.fwd := rfl
@[simp] theorem State.setInst_resp (s : State) (i : Nat) (x : Inst) : (s.setInst i x).resp = s.resp := rfl
@[simp] theorem State.setInst_freeCtr (s : State) (i : Nat) (x : Inst) : (s.setInst i x).freeCtr = s.freeCtr := rfl
@[simp] theorem State.ctlOk_pending (s : State) (w : Word) : (s.ctlOk w).pending = s.pending := rfl
@[simp] theorem State.ctlOk_insts (s : State) (w : Word) : (s.ctlOk w).insts = s.insts := rfl
@[simp] theorem State.ctlOk_ss (s : State) (w : Word) : (s.ctlOk w).ss = s.ss := rfl
@[simp] theorem State.ctlOk_ring (s : State) (w : Word) : (s.ctlOk w).ring = s.ring := rfl
@[simp] theorem State.ctlOk_ctlErr (s : State) (w : Word) : (s.ctlOk w).ctlErr = s.ctlErr := rfl
@[simp] theorem State.ctlOk_ctlErrAddr (s : State) (w : Word) : (s.ctlOk w).ctlErrAddr = s.ctlErrAddr := rfl
@[simp] theorem State.ctlOk_fwd (s : State) (w : Word) : (s.ctlOk w).fwd = s.fwd := rfl
@[simp] theorem State.ctlOk_freeCtr (s : State) (w : Word) : (s.ctlOk w).freeCtr = s.freeCtr := rfl
@[simp] theorem State.ctlOk_resp (s : State) (w : Word) : (s.ctlOk w).resp = [{ err := false, data := w }] := rfl
@[simp] theorem State.setInst_insts (s : State) (i : Nat) (x : Inst) : (s.setInst i x).insts = s.insts.set i x := rfl

/-! ### Tables of an instance -/

@[simp] theorem Inst.setCell_id (x : Inst) (n : Nat) (c : Cell) : (x.setCell n c).id = x.id := rfl
@[simp] theorem Inst.setCell_cellsBuilt (x : Inst) (n : Nat) (c : Cell) : (x.setCell n c).cellsBuilt = x.cellsBuilt := rfl
@[simp] theorem Inst.setCell_inService (x : Inst) (n : Nat) (c : Cell) : (x.setCell n c).inService = x.inService := rfl
@[simp] theorem Inst.setCell_stream (x : Inst) (n : Nat) (c : Cell) : (x.setCell n c).stream = x.stream := rfl
@[simp] theorem Inst.setCell_vcs (x : Inst) (n : Nat) (c : Cell) : (x.setCell n c).vcs = x.vcs := rfl
@[simp] theorem Inst.setCell_readyQ (x : Inst) (n : Nat) (c : Cell) : (x.setCell n c).readyQ = x.readyQ := rfl
@[simp] theorem Inst.setCell_schedCtrl (x : Inst) (n : Nat) (c : Cell) : (x.setCell n c).schedCtrl = x.schedCtrl := rfl
@[simp] theorem Inst.setCell_win (x : Inst) (n : Nat) (c : Cell) : (x.setCell n c).win = x.win := rfl
@[simp] theorem Inst.setCell_keys (x : Inst) (n : Nat) (c : Cell) : (x.setCell n c).keys = x.keys := rfl
@[simp] theorem Inst.setCell_keyHandle (x : Inst) (n : Nat) (c : Cell) : (x.setCell n c).keyHandle = x.keyHandle := rfl
@[simp] theorem Inst.setCell_keyCode (x : Inst) (n : Nat) (c : Cell) : (x.setCell n c).keyCode = x.keyCode := rfl
@[simp] theorem Inst.setCell_keyWrap (x : Inst) (n : Nat) (c : Cell) : (x.setCell n c).keyWrap = x.keyWrap := rfl
@[simp] theorem Inst.setCell_keyWait (x : Inst) (n : Nat) (c : Cell) : (x.setCell n c).keyWait = x.keyWait := rfl
@[simp] theorem Inst.setCell_instKey (x : Inst) (n : Nat) (c : Cell) : (x.setCell n c).instKey = x.instKey := rfl
@[simp] theorem Inst.setCell_keyResp (x : Inst) (n : Nat) (c : Cell) : (x.setCell n c).keyResp = x.keyResp := rfl
@[simp] theorem Inst.setCell_fences (x : Inst) (n : Nat) (c : Cell) : (x.setCell n c).fences = x.fences := rfl
@[simp] theorem Inst.setCell_mboxes (x : Inst) (n : Nat) (c : Cell) : (x.setCell n c).mboxes = x.mboxes := rfl
@[simp] theorem Inst.setCell_mbArg0 (x : Inst) (n : Nat) (c : Cell) : (x.setCell n c).mbArg0 = x.mbArg0 := rfl
@[simp] theorem Inst.setCell_mbArg1 (x : Inst) (n : Nat) (c : Cell) : (x.setCell n c).mbArg1 = x.mbArg1 := rfl
@[simp] theorem Inst.setCell_mbCode (x : Inst) (n : Nat) (c : Cell) : (x.setCell n c).mbCode = x.mbCode := rfl
@[simp] theorem Inst.setCell_mbHandle (x : Inst) (n : Nat) (c : Cell) : (x.setCell n c).mbHandle = x.mbHandle := rfl
@[simp] theorem Inst.setCell_mbFreeing (x : Inst) (n : Nat) (c : Cell) : (x.setCell n c).mbFreeing = x.mbFreeing := rfl
@[simp] theorem Inst.setCell_mbWait (x : Inst) (n : Nat) (c : Cell) : (x.setCell n c).mbWait = x.mbWait := rfl
@[simp] theorem Inst.setCell_dbMask (x : Inst) (n : Nat) (c : Cell) : (x.setCell n c).dbMask = x.dbMask := rfl
@[simp] theorem Inst.setCell_tlb (x : Inst) (n : Nat) (c : Cell) : (x.setCell n c).tlb = x.tlb := rfl
@[simp] theorem Inst.setCell_xreqs (x : Inst) (n : Nat) (c : Cell) : (x.setCell n c).xreqs = x.xreqs := rfl
@[simp] theorem Inst.setCell_invAcks (x : Inst) (n : Nat) (c : Cell) : (x.setCell n c).invAcks = x.invAcks := rfl
@[simp] theorem Inst.setCell_invOwed (x : Inst) (n : Nat) (c : Cell) : (x.setCell n c).invOwed = x.invOwed := rfl
@[simp] theorem Inst.setCell_xfers (x : Inst) (n : Nat) (c : Cell) : (x.setCell n c).xfers = x.xfers := rfl
@[simp] theorem Inst.setCell_xferSeq (x : Inst) (n : Nat) (c : Cell) : (x.setCell n c).xferSeq = x.xferSeq := rfl
@[simp] theorem Inst.setCell_seWrites (x : Inst) (n : Nat) (c : Cell) : (x.setCell n c).seWrites = x.seWrites := rfl
@[simp] theorem Inst.setCell_held (x : Inst) (n : Nat) (c : Cell) : (x.setCell n c).held = x.held := rfl
@[simp] theorem Inst.setCell_collCtrl (x : Inst) (n : Nat) (c : Cell) : (x.setCell n c).collCtrl = x.collCtrl := rfl
@[simp] theorem Inst.setCell_collOut (x : Inst) (n : Nat) (c : Cell) : (x.setCell n c).collOut = x.collOut := rfl
@[simp] theorem Inst.setCell_linkOut (x : Inst) (n : Nat) (c : Cell) : (x.setCell n c).linkOut = x.linkOut := rfl
@[simp] theorem Inst.setCell_hubWrites (x : Inst) (n : Nat) (c : Cell) : (x.setCell n c).hubWrites = x.hubWrites := rfl
@[simp] theorem Inst.setCell_intStat (x : Inst) (n : Nat) (c : Cell) : (x.setCell n c).intStat = x.intStat := rfl
@[simp] theorem Inst.setCell_intEn (x : Inst) (n : Nat) (c : Cell) : (x.setCell n c).intEn = x.intEn := rfl
@[simp] theorem Inst.setCell_pwr (x : Inst) (n : Nat) (c : Cell) : (x.setCell n c).pwr = x.pwr := rfl
@[simp] theorem Inst.setCell_flt (x : Inst) (n : Nat) (c : Cell) : (x.setCell n c).flt = x.flt := rfl
@[simp] theorem Inst.setCell_rst (x : Inst) (n : Nat) (c : Cell) : (x.setCell n c).rst = x.rst := rfl
@[simp] theorem Inst.setCell_east (x : Inst) (n : Nat) (c : Cell) : (x.setCell n c).east = x.east := rfl
@[simp] theorem Inst.setCell_west (x : Inst) (n : Nat) (c : Cell) : (x.setCell n c).west = x.west := rfl
@[simp] theorem Inst.setCell_lstDone (x : Inst) (n : Nat) (c : Cell) : (x.setCell n c).lstDone = x.lstDone := rfl
@[simp] theorem Inst.setCell_lstFail (x : Inst) (n : Nat) (c : Cell) : (x.setCell n c).lstFail = x.lstFail := rfl
@[simp] theorem Inst.setCell_test (x : Inst) (n : Nat) (c : Cell) : (x.setCell n c).test = x.test := rfl
@[simp] theorem Inst.setCell_ticks (x : Inst) (n : Nat) (c : Cell) : (x.setCell n c).ticks = x.ticks := rfl
@[simp] theorem Inst.setCell_seReqs (x : Inst) (n : Nat) (c : Cell) : (x.setCell n c).seReqs = x.seReqs := rfl
@[simp] theorem Inst.setCell_seRound (x : Inst) (n : Nat) (c : Cell) : (x.setCell n c).seRound = x.seRound := rfl
@[simp] theorem Inst.setCell_linkIn (x : Inst) (n : Nat) (c : Cell) : (x.setCell n c).linkIn = x.linkIn := rfl
@[simp] theorem Inst.setCell_notices (x : Inst) (n : Nat) (c : Cell) : (x.setCell n c).notices = x.notices := rfl
@[simp] theorem Inst.setCell_tapIr (x : Inst) (n : Nat) (c : Cell) : (x.setCell n c).tapIr = x.tapIr := rfl
@[simp] theorem Inst.setCell_wir (x : Inst) (n : Nat) (c : Cell) : (x.setCell n c).wir = x.wir := rfl
@[simp] theorem Inst.setCell_winBase (x : Inst) (n : Nat) (c : Cell) : (x.setCell n c).winBase = x.winBase := rfl
@[simp] theorem Inst.setCell_idcMfr (x : Inst) (n : Nat) (c : Cell) : (x.setCell n c).idcMfr = x.idcMfr := rfl

@[simp] theorem Inst.setVc_id (x : Inst) (n : Nat) (c : Vc) : (x.setVc n c).id = x.id := rfl
@[simp] theorem Inst.setVc_cellsBuilt (x : Inst) (n : Nat) (c : Vc) : (x.setVc n c).cellsBuilt = x.cellsBuilt := rfl
@[simp] theorem Inst.setVc_cells (x : Inst) (n : Nat) (c : Vc) : (x.setVc n c).cells = x.cells := rfl
@[simp] theorem Inst.setVc_inService (x : Inst) (n : Nat) (c : Vc) : (x.setVc n c).inService = x.inService := rfl
@[simp] theorem Inst.setVc_stream (x : Inst) (n : Nat) (c : Vc) : (x.setVc n c).stream = x.stream := rfl
@[simp] theorem Inst.setVc_readyQ (x : Inst) (n : Nat) (c : Vc) : (x.setVc n c).readyQ = x.readyQ := rfl
@[simp] theorem Inst.setVc_schedCtrl (x : Inst) (n : Nat) (c : Vc) : (x.setVc n c).schedCtrl = x.schedCtrl := rfl
@[simp] theorem Inst.setVc_win (x : Inst) (n : Nat) (c : Vc) : (x.setVc n c).win = x.win := rfl
@[simp] theorem Inst.setVc_keys (x : Inst) (n : Nat) (c : Vc) : (x.setVc n c).keys = x.keys := rfl
@[simp] theorem Inst.setVc_keyHandle (x : Inst) (n : Nat) (c : Vc) : (x.setVc n c).keyHandle = x.keyHandle := rfl
@[simp] theorem Inst.setVc_keyCode (x : Inst) (n : Nat) (c : Vc) : (x.setVc n c).keyCode = x.keyCode := rfl
@[simp] theorem Inst.setVc_keyWrap (x : Inst) (n : Nat) (c : Vc) : (x.setVc n c).keyWrap = x.keyWrap := rfl
@[simp] theorem Inst.setVc_keyWait (x : Inst) (n : Nat) (c : Vc) : (x.setVc n c).keyWait = x.keyWait := rfl
@[simp] theorem Inst.setVc_instKey (x : Inst) (n : Nat) (c : Vc) : (x.setVc n c).instKey = x.instKey := rfl
@[simp] theorem Inst.setVc_keyResp (x : Inst) (n : Nat) (c : Vc) : (x.setVc n c).keyResp = x.keyResp := rfl
@[simp] theorem Inst.setVc_fences (x : Inst) (n : Nat) (c : Vc) : (x.setVc n c).fences = x.fences := rfl
@[simp] theorem Inst.setVc_mboxes (x : Inst) (n : Nat) (c : Vc) : (x.setVc n c).mboxes = x.mboxes := rfl
@[simp] theorem Inst.setVc_mbArg0 (x : Inst) (n : Nat) (c : Vc) : (x.setVc n c).mbArg0 = x.mbArg0 := rfl
@[simp] theorem Inst.setVc_mbArg1 (x : Inst) (n : Nat) (c : Vc) : (x.setVc n c).mbArg1 = x.mbArg1 := rfl
@[simp] theorem Inst.setVc_mbCode (x : Inst) (n : Nat) (c : Vc) : (x.setVc n c).mbCode = x.mbCode := rfl
@[simp] theorem Inst.setVc_mbHandle (x : Inst) (n : Nat) (c : Vc) : (x.setVc n c).mbHandle = x.mbHandle := rfl
@[simp] theorem Inst.setVc_mbFreeing (x : Inst) (n : Nat) (c : Vc) : (x.setVc n c).mbFreeing = x.mbFreeing := rfl
@[simp] theorem Inst.setVc_mbWait (x : Inst) (n : Nat) (c : Vc) : (x.setVc n c).mbWait = x.mbWait := rfl
@[simp] theorem Inst.setVc_dbMask (x : Inst) (n : Nat) (c : Vc) : (x.setVc n c).dbMask = x.dbMask := rfl
@[simp] theorem Inst.setVc_tlb (x : Inst) (n : Nat) (c : Vc) : (x.setVc n c).tlb = x.tlb := rfl
@[simp] theorem Inst.setVc_xreqs (x : Inst) (n : Nat) (c : Vc) : (x.setVc n c).xreqs = x.xreqs := rfl
@[simp] theorem Inst.setVc_invAcks (x : Inst) (n : Nat) (c : Vc) : (x.setVc n c).invAcks = x.invAcks := rfl
@[simp] theorem Inst.setVc_invOwed (x : Inst) (n : Nat) (c : Vc) : (x.setVc n c).invOwed = x.invOwed := rfl
@[simp] theorem Inst.setVc_xfers (x : Inst) (n : Nat) (c : Vc) : (x.setVc n c).xfers = x.xfers := rfl
@[simp] theorem Inst.setVc_xferSeq (x : Inst) (n : Nat) (c : Vc) : (x.setVc n c).xferSeq = x.xferSeq := rfl
@[simp] theorem Inst.setVc_seWrites (x : Inst) (n : Nat) (c : Vc) : (x.setVc n c).seWrites = x.seWrites := rfl
@[simp] theorem Inst.setVc_held (x : Inst) (n : Nat) (c : Vc) : (x.setVc n c).held = x.held := rfl
@[simp] theorem Inst.setVc_collCtrl (x : Inst) (n : Nat) (c : Vc) : (x.setVc n c).collCtrl = x.collCtrl := rfl
@[simp] theorem Inst.setVc_collOut (x : Inst) (n : Nat) (c : Vc) : (x.setVc n c).collOut = x.collOut := rfl
@[simp] theorem Inst.setVc_linkOut (x : Inst) (n : Nat) (c : Vc) : (x.setVc n c).linkOut = x.linkOut := rfl
@[simp] theorem Inst.setVc_hubWrites (x : Inst) (n : Nat) (c : Vc) : (x.setVc n c).hubWrites = x.hubWrites := rfl
@[simp] theorem Inst.setVc_intStat (x : Inst) (n : Nat) (c : Vc) : (x.setVc n c).intStat = x.intStat := rfl
@[simp] theorem Inst.setVc_intEn (x : Inst) (n : Nat) (c : Vc) : (x.setVc n c).intEn = x.intEn := rfl
@[simp] theorem Inst.setVc_pwr (x : Inst) (n : Nat) (c : Vc) : (x.setVc n c).pwr = x.pwr := rfl
@[simp] theorem Inst.setVc_flt (x : Inst) (n : Nat) (c : Vc) : (x.setVc n c).flt = x.flt := rfl
@[simp] theorem Inst.setVc_rst (x : Inst) (n : Nat) (c : Vc) : (x.setVc n c).rst = x.rst := rfl
@[simp] theorem Inst.setVc_east (x : Inst) (n : Nat) (c : Vc) : (x.setVc n c).east = x.east := rfl
@[simp] theorem Inst.setVc_west (x : Inst) (n : Nat) (c : Vc) : (x.setVc n c).west = x.west := rfl
@[simp] theorem Inst.setVc_lstDone (x : Inst) (n : Nat) (c : Vc) : (x.setVc n c).lstDone = x.lstDone := rfl
@[simp] theorem Inst.setVc_lstFail (x : Inst) (n : Nat) (c : Vc) : (x.setVc n c).lstFail = x.lstFail := rfl
@[simp] theorem Inst.setVc_test (x : Inst) (n : Nat) (c : Vc) : (x.setVc n c).test = x.test := rfl
@[simp] theorem Inst.setVc_ticks (x : Inst) (n : Nat) (c : Vc) : (x.setVc n c).ticks = x.ticks := rfl
@[simp] theorem Inst.setVc_seReqs (x : Inst) (n : Nat) (c : Vc) : (x.setVc n c).seReqs = x.seReqs := rfl
@[simp] theorem Inst.setVc_seRound (x : Inst) (n : Nat) (c : Vc) : (x.setVc n c).seRound = x.seRound := rfl
@[simp] theorem Inst.setVc_linkIn (x : Inst) (n : Nat) (c : Vc) : (x.setVc n c).linkIn = x.linkIn := rfl
@[simp] theorem Inst.setVc_notices (x : Inst) (n : Nat) (c : Vc) : (x.setVc n c).notices = x.notices := rfl
@[simp] theorem Inst.setVc_tapIr (x : Inst) (n : Nat) (c : Vc) : (x.setVc n c).tapIr = x.tapIr := rfl
@[simp] theorem Inst.setVc_wir (x : Inst) (n : Nat) (c : Vc) : (x.setVc n c).wir = x.wir := rfl
@[simp] theorem Inst.setVc_winBase (x : Inst) (n : Nat) (c : Vc) : (x.setVc n c).winBase = x.winBase := rfl
@[simp] theorem Inst.setVc_idcMfr (x : Inst) (n : Nat) (c : Vc) : (x.setVc n c).idcMfr = x.idcMfr := rfl

@[simp] theorem Inst.setFence_id (x : Inst) (n : Nat) (c : Fence) : (x.setFence n c).id = x.id := rfl
@[simp] theorem Inst.setFence_cellsBuilt (x : Inst) (n : Nat) (c : Fence) : (x.setFence n c).cellsBuilt = x.cellsBuilt := rfl
@[simp] theorem Inst.setFence_cells (x : Inst) (n : Nat) (c : Fence) : (x.setFence n c).cells = x.cells := rfl
@[simp] theorem Inst.setFence_inService (x : Inst) (n : Nat) (c : Fence) : (x.setFence n c).inService = x.inService := rfl
@[simp] theorem Inst.setFence_stream (x : Inst) (n : Nat) (c : Fence) : (x.setFence n c).stream = x.stream := rfl
@[simp] theorem Inst.setFence_vcs (x : Inst) (n : Nat) (c : Fence) : (x.setFence n c).vcs = x.vcs := rfl
@[simp] theorem Inst.setFence_readyQ (x : Inst) (n : Nat) (c : Fence) : (x.setFence n c).readyQ = x.readyQ := rfl
@[simp] theorem Inst.setFence_schedCtrl (x : Inst) (n : Nat) (c : Fence) : (x.setFence n c).schedCtrl = x.schedCtrl := rfl
@[simp] theorem Inst.setFence_win (x : Inst) (n : Nat) (c : Fence) : (x.setFence n c).win = x.win := rfl
@[simp] theorem Inst.setFence_keys (x : Inst) (n : Nat) (c : Fence) : (x.setFence n c).keys = x.keys := rfl
@[simp] theorem Inst.setFence_keyHandle (x : Inst) (n : Nat) (c : Fence) : (x.setFence n c).keyHandle = x.keyHandle := rfl
@[simp] theorem Inst.setFence_keyCode (x : Inst) (n : Nat) (c : Fence) : (x.setFence n c).keyCode = x.keyCode := rfl
@[simp] theorem Inst.setFence_keyWrap (x : Inst) (n : Nat) (c : Fence) : (x.setFence n c).keyWrap = x.keyWrap := rfl
@[simp] theorem Inst.setFence_keyWait (x : Inst) (n : Nat) (c : Fence) : (x.setFence n c).keyWait = x.keyWait := rfl
@[simp] theorem Inst.setFence_instKey (x : Inst) (n : Nat) (c : Fence) : (x.setFence n c).instKey = x.instKey := rfl
@[simp] theorem Inst.setFence_keyResp (x : Inst) (n : Nat) (c : Fence) : (x.setFence n c).keyResp = x.keyResp := rfl
@[simp] theorem Inst.setFence_mboxes (x : Inst) (n : Nat) (c : Fence) : (x.setFence n c).mboxes = x.mboxes := rfl
@[simp] theorem Inst.setFence_mbArg0 (x : Inst) (n : Nat) (c : Fence) : (x.setFence n c).mbArg0 = x.mbArg0 := rfl
@[simp] theorem Inst.setFence_mbArg1 (x : Inst) (n : Nat) (c : Fence) : (x.setFence n c).mbArg1 = x.mbArg1 := rfl
@[simp] theorem Inst.setFence_mbCode (x : Inst) (n : Nat) (c : Fence) : (x.setFence n c).mbCode = x.mbCode := rfl
@[simp] theorem Inst.setFence_mbHandle (x : Inst) (n : Nat) (c : Fence) : (x.setFence n c).mbHandle = x.mbHandle := rfl
@[simp] theorem Inst.setFence_mbFreeing (x : Inst) (n : Nat) (c : Fence) : (x.setFence n c).mbFreeing = x.mbFreeing := rfl
@[simp] theorem Inst.setFence_mbWait (x : Inst) (n : Nat) (c : Fence) : (x.setFence n c).mbWait = x.mbWait := rfl
@[simp] theorem Inst.setFence_dbMask (x : Inst) (n : Nat) (c : Fence) : (x.setFence n c).dbMask = x.dbMask := rfl
@[simp] theorem Inst.setFence_tlb (x : Inst) (n : Nat) (c : Fence) : (x.setFence n c).tlb = x.tlb := rfl
@[simp] theorem Inst.setFence_xreqs (x : Inst) (n : Nat) (c : Fence) : (x.setFence n c).xreqs = x.xreqs := rfl
@[simp] theorem Inst.setFence_invAcks (x : Inst) (n : Nat) (c : Fence) : (x.setFence n c).invAcks = x.invAcks := rfl
@[simp] theorem Inst.setFence_invOwed (x : Inst) (n : Nat) (c : Fence) : (x.setFence n c).invOwed = x.invOwed := rfl
@[simp] theorem Inst.setFence_xfers (x : Inst) (n : Nat) (c : Fence) : (x.setFence n c).xfers = x.xfers := rfl
@[simp] theorem Inst.setFence_xferSeq (x : Inst) (n : Nat) (c : Fence) : (x.setFence n c).xferSeq = x.xferSeq := rfl
@[simp] theorem Inst.setFence_seWrites (x : Inst) (n : Nat) (c : Fence) : (x.setFence n c).seWrites = x.seWrites := rfl
@[simp] theorem Inst.setFence_held (x : Inst) (n : Nat) (c : Fence) : (x.setFence n c).held = x.held := rfl
@[simp] theorem Inst.setFence_collCtrl (x : Inst) (n : Nat) (c : Fence) : (x.setFence n c).collCtrl = x.collCtrl := rfl
@[simp] theorem Inst.setFence_collOut (x : Inst) (n : Nat) (c : Fence) : (x.setFence n c).collOut = x.collOut := rfl
@[simp] theorem Inst.setFence_linkOut (x : Inst) (n : Nat) (c : Fence) : (x.setFence n c).linkOut = x.linkOut := rfl
@[simp] theorem Inst.setFence_hubWrites (x : Inst) (n : Nat) (c : Fence) : (x.setFence n c).hubWrites = x.hubWrites := rfl
@[simp] theorem Inst.setFence_intStat (x : Inst) (n : Nat) (c : Fence) : (x.setFence n c).intStat = x.intStat := rfl
@[simp] theorem Inst.setFence_intEn (x : Inst) (n : Nat) (c : Fence) : (x.setFence n c).intEn = x.intEn := rfl
@[simp] theorem Inst.setFence_pwr (x : Inst) (n : Nat) (c : Fence) : (x.setFence n c).pwr = x.pwr := rfl
@[simp] theorem Inst.setFence_flt (x : Inst) (n : Nat) (c : Fence) : (x.setFence n c).flt = x.flt := rfl
@[simp] theorem Inst.setFence_rst (x : Inst) (n : Nat) (c : Fence) : (x.setFence n c).rst = x.rst := rfl
@[simp] theorem Inst.setFence_east (x : Inst) (n : Nat) (c : Fence) : (x.setFence n c).east = x.east := rfl
@[simp] theorem Inst.setFence_west (x : Inst) (n : Nat) (c : Fence) : (x.setFence n c).west = x.west := rfl
@[simp] theorem Inst.setFence_lstDone (x : Inst) (n : Nat) (c : Fence) : (x.setFence n c).lstDone = x.lstDone := rfl
@[simp] theorem Inst.setFence_lstFail (x : Inst) (n : Nat) (c : Fence) : (x.setFence n c).lstFail = x.lstFail := rfl
@[simp] theorem Inst.setFence_test (x : Inst) (n : Nat) (c : Fence) : (x.setFence n c).test = x.test := rfl
@[simp] theorem Inst.setFence_ticks (x : Inst) (n : Nat) (c : Fence) : (x.setFence n c).ticks = x.ticks := rfl
@[simp] theorem Inst.setFence_seReqs (x : Inst) (n : Nat) (c : Fence) : (x.setFence n c).seReqs = x.seReqs := rfl
@[simp] theorem Inst.setFence_seRound (x : Inst) (n : Nat) (c : Fence) : (x.setFence n c).seRound = x.seRound := rfl
@[simp] theorem Inst.setFence_linkIn (x : Inst) (n : Nat) (c : Fence) : (x.setFence n c).linkIn = x.linkIn := rfl
@[simp] theorem Inst.setFence_notices (x : Inst) (n : Nat) (c : Fence) : (x.setFence n c).notices = x.notices := rfl
@[simp] theorem Inst.setFence_tapIr (x : Inst) (n : Nat) (c : Fence) : (x.setFence n c).tapIr = x.tapIr := rfl
@[simp] theorem Inst.setFence_wir (x : Inst) (n : Nat) (c : Fence) : (x.setFence n c).wir = x.wir := rfl
@[simp] theorem Inst.setFence_winBase (x : Inst) (n : Nat) (c : Fence) : (x.setFence n c).winBase = x.winBase := rfl
@[simp] theorem Inst.setFence_idcMfr (x : Inst) (n : Nat) (c : Fence) : (x.setFence n c).idcMfr = x.idcMfr := rfl

@[simp] theorem Inst.setMbox_id (x : Inst) (n : Nat) (c : Mbox) : (x.setMbox n c).id = x.id := rfl
@[simp] theorem Inst.setMbox_cellsBuilt (x : Inst) (n : Nat) (c : Mbox) : (x.setMbox n c).cellsBuilt = x.cellsBuilt := rfl
@[simp] theorem Inst.setMbox_cells (x : Inst) (n : Nat) (c : Mbox) : (x.setMbox n c).cells = x.cells := rfl
@[simp] theorem Inst.setMbox_inService (x : Inst) (n : Nat) (c : Mbox) : (x.setMbox n c).inService = x.inService := rfl
@[simp] theorem Inst.setMbox_stream (x : Inst) (n : Nat) (c : Mbox) : (x.setMbox n c).stream = x.stream := rfl
@[simp] theorem Inst.setMbox_vcs (x : Inst) (n : Nat) (c : Mbox) : (x.setMbox n c).vcs = x.vcs := rfl
@[simp] theorem Inst.setMbox_readyQ (x : Inst) (n : Nat) (c : Mbox) : (x.setMbox n c).readyQ = x.readyQ := rfl
@[simp] theorem Inst.setMbox_schedCtrl (x : Inst) (n : Nat) (c : Mbox) : (x.setMbox n c).schedCtrl = x.schedCtrl := rfl
@[simp] theorem Inst.setMbox_win (x : Inst) (n : Nat) (c : Mbox) : (x.setMbox n c).win = x.win := rfl
@[simp] theorem Inst.setMbox_keys (x : Inst) (n : Nat) (c : Mbox) : (x.setMbox n c).keys = x.keys := rfl
@[simp] theorem Inst.setMbox_keyHandle (x : Inst) (n : Nat) (c : Mbox) : (x.setMbox n c).keyHandle = x.keyHandle := rfl
@[simp] theorem Inst.setMbox_keyCode (x : Inst) (n : Nat) (c : Mbox) : (x.setMbox n c).keyCode = x.keyCode := rfl
@[simp] theorem Inst.setMbox_keyWrap (x : Inst) (n : Nat) (c : Mbox) : (x.setMbox n c).keyWrap = x.keyWrap := rfl
@[simp] theorem Inst.setMbox_keyWait (x : Inst) (n : Nat) (c : Mbox) : (x.setMbox n c).keyWait = x.keyWait := rfl
@[simp] theorem Inst.setMbox_instKey (x : Inst) (n : Nat) (c : Mbox) : (x.setMbox n c).instKey = x.instKey := rfl
@[simp] theorem Inst.setMbox_keyResp (x : Inst) (n : Nat) (c : Mbox) : (x.setMbox n c).keyResp = x.keyResp := rfl
@[simp] theorem Inst.setMbox_fences (x : Inst) (n : Nat) (c : Mbox) : (x.setMbox n c).fences = x.fences := rfl
@[simp] theorem Inst.setMbox_mbArg0 (x : Inst) (n : Nat) (c : Mbox) : (x.setMbox n c).mbArg0 = x.mbArg0 := rfl
@[simp] theorem Inst.setMbox_mbArg1 (x : Inst) (n : Nat) (c : Mbox) : (x.setMbox n c).mbArg1 = x.mbArg1 := rfl
@[simp] theorem Inst.setMbox_mbCode (x : Inst) (n : Nat) (c : Mbox) : (x.setMbox n c).mbCode = x.mbCode := rfl
@[simp] theorem Inst.setMbox_mbHandle (x : Inst) (n : Nat) (c : Mbox) : (x.setMbox n c).mbHandle = x.mbHandle := rfl
@[simp] theorem Inst.setMbox_mbFreeing (x : Inst) (n : Nat) (c : Mbox) : (x.setMbox n c).mbFreeing = x.mbFreeing := rfl
@[simp] theorem Inst.setMbox_mbWait (x : Inst) (n : Nat) (c : Mbox) : (x.setMbox n c).mbWait = x.mbWait := rfl
@[simp] theorem Inst.setMbox_dbMask (x : Inst) (n : Nat) (c : Mbox) : (x.setMbox n c).dbMask = x.dbMask := rfl
@[simp] theorem Inst.setMbox_tlb (x : Inst) (n : Nat) (c : Mbox) : (x.setMbox n c).tlb = x.tlb := rfl
@[simp] theorem Inst.setMbox_xreqs (x : Inst) (n : Nat) (c : Mbox) : (x.setMbox n c).xreqs = x.xreqs := rfl
@[simp] theorem Inst.setMbox_invAcks (x : Inst) (n : Nat) (c : Mbox) : (x.setMbox n c).invAcks = x.invAcks := rfl
@[simp] theorem Inst.setMbox_invOwed (x : Inst) (n : Nat) (c : Mbox) : (x.setMbox n c).invOwed = x.invOwed := rfl
@[simp] theorem Inst.setMbox_xfers (x : Inst) (n : Nat) (c : Mbox) : (x.setMbox n c).xfers = x.xfers := rfl
@[simp] theorem Inst.setMbox_xferSeq (x : Inst) (n : Nat) (c : Mbox) : (x.setMbox n c).xferSeq = x.xferSeq := rfl
@[simp] theorem Inst.setMbox_seWrites (x : Inst) (n : Nat) (c : Mbox) : (x.setMbox n c).seWrites = x.seWrites := rfl
@[simp] theorem Inst.setMbox_held (x : Inst) (n : Nat) (c : Mbox) : (x.setMbox n c).held = x.held := rfl
@[simp] theorem Inst.setMbox_collCtrl (x : Inst) (n : Nat) (c : Mbox) : (x.setMbox n c).collCtrl = x.collCtrl := rfl
@[simp] theorem Inst.setMbox_collOut (x : Inst) (n : Nat) (c : Mbox) : (x.setMbox n c).collOut = x.collOut := rfl
@[simp] theorem Inst.setMbox_linkOut (x : Inst) (n : Nat) (c : Mbox) : (x.setMbox n c).linkOut = x.linkOut := rfl
@[simp] theorem Inst.setMbox_hubWrites (x : Inst) (n : Nat) (c : Mbox) : (x.setMbox n c).hubWrites = x.hubWrites := rfl
@[simp] theorem Inst.setMbox_intStat (x : Inst) (n : Nat) (c : Mbox) : (x.setMbox n c).intStat = x.intStat := rfl
@[simp] theorem Inst.setMbox_intEn (x : Inst) (n : Nat) (c : Mbox) : (x.setMbox n c).intEn = x.intEn := rfl
@[simp] theorem Inst.setMbox_pwr (x : Inst) (n : Nat) (c : Mbox) : (x.setMbox n c).pwr = x.pwr := rfl
@[simp] theorem Inst.setMbox_flt (x : Inst) (n : Nat) (c : Mbox) : (x.setMbox n c).flt = x.flt := rfl
@[simp] theorem Inst.setMbox_rst (x : Inst) (n : Nat) (c : Mbox) : (x.setMbox n c).rst = x.rst := rfl
@[simp] theorem Inst.setMbox_east (x : Inst) (n : Nat) (c : Mbox) : (x.setMbox n c).east = x.east := rfl
@[simp] theorem Inst.setMbox_west (x : Inst) (n : Nat) (c : Mbox) : (x.setMbox n c).west = x.west := rfl
@[simp] theorem Inst.setMbox_lstDone (x : Inst) (n : Nat) (c : Mbox) : (x.setMbox n c).lstDone = x.lstDone := rfl
@[simp] theorem Inst.setMbox_lstFail (x : Inst) (n : Nat) (c : Mbox) : (x.setMbox n c).lstFail = x.lstFail := rfl
@[simp] theorem Inst.setMbox_test (x : Inst) (n : Nat) (c : Mbox) : (x.setMbox n c).test = x.test := rfl
@[simp] theorem Inst.setMbox_ticks (x : Inst) (n : Nat) (c : Mbox) : (x.setMbox n c).ticks = x.ticks := rfl
@[simp] theorem Inst.setMbox_seReqs (x : Inst) (n : Nat) (c : Mbox) : (x.setMbox n c).seReqs = x.seReqs := rfl
@[simp] theorem Inst.setMbox_seRound (x : Inst) (n : Nat) (c : Mbox) : (x.setMbox n c).seRound = x.seRound := rfl
@[simp] theorem Inst.setMbox_linkIn (x : Inst) (n : Nat) (c : Mbox) : (x.setMbox n c).linkIn = x.linkIn := rfl
@[simp] theorem Inst.setMbox_notices (x : Inst) (n : Nat) (c : Mbox) : (x.setMbox n c).notices = x.notices := rfl
@[simp] theorem Inst.setMbox_tapIr (x : Inst) (n : Nat) (c : Mbox) : (x.setMbox n c).tapIr = x.tapIr := rfl
@[simp] theorem Inst.setMbox_wir (x : Inst) (n : Nat) (c : Mbox) : (x.setMbox n c).wir = x.wir := rfl
@[simp] theorem Inst.setMbox_winBase (x : Inst) (n : Nat) (c : Mbox) : (x.setMbox n c).winBase = x.winBase := rfl
@[simp] theorem Inst.setMbox_idcMfr (x : Inst) (n : Nat) (c : Mbox) : (x.setMbox n c).idcMfr = x.idcMfr := rfl

@[simp] theorem Inst.setKey_id (x : Inst) (n : Nat) (c : KeySlot) : (x.setKey n c).id = x.id := rfl
@[simp] theorem Inst.setKey_cellsBuilt (x : Inst) (n : Nat) (c : KeySlot) : (x.setKey n c).cellsBuilt = x.cellsBuilt := rfl
@[simp] theorem Inst.setKey_cells (x : Inst) (n : Nat) (c : KeySlot) : (x.setKey n c).cells = x.cells := rfl
@[simp] theorem Inst.setKey_inService (x : Inst) (n : Nat) (c : KeySlot) : (x.setKey n c).inService = x.inService := rfl
@[simp] theorem Inst.setKey_stream (x : Inst) (n : Nat) (c : KeySlot) : (x.setKey n c).stream = x.stream := rfl
@[simp] theorem Inst.setKey_vcs (x : Inst) (n : Nat) (c : KeySlot) : (x.setKey n c).vcs = x.vcs := rfl
@[simp] theorem Inst.setKey_readyQ (x : Inst) (n : Nat) (c : KeySlot) : (x.setKey n c).readyQ = x.readyQ := rfl
@[simp] theorem Inst.setKey_schedCtrl (x : Inst) (n : Nat) (c : KeySlot) : (x.setKey n c).schedCtrl = x.schedCtrl := rfl
@[simp] theorem Inst.setKey_win (x : Inst) (n : Nat) (c : KeySlot) : (x.setKey n c).win = x.win := rfl
@[simp] theorem Inst.setKey_keyHandle (x : Inst) (n : Nat) (c : KeySlot) : (x.setKey n c).keyHandle = x.keyHandle := rfl
@[simp] theorem Inst.setKey_keyCode (x : Inst) (n : Nat) (c : KeySlot) : (x.setKey n c).keyCode = x.keyCode := rfl
@[simp] theorem Inst.setKey_keyWrap (x : Inst) (n : Nat) (c : KeySlot) : (x.setKey n c).keyWrap = x.keyWrap := rfl
@[simp] theorem Inst.setKey_keyWait (x : Inst) (n : Nat) (c : KeySlot) : (x.setKey n c).keyWait = x.keyWait := rfl
@[simp] theorem Inst.setKey_instKey (x : Inst) (n : Nat) (c : KeySlot) : (x.setKey n c).instKey = x.instKey := rfl
@[simp] theorem Inst.setKey_keyResp (x : Inst) (n : Nat) (c : KeySlot) : (x.setKey n c).keyResp = x.keyResp := rfl
@[simp] theorem Inst.setKey_fences (x : Inst) (n : Nat) (c : KeySlot) : (x.setKey n c).fences = x.fences := rfl
@[simp] theorem Inst.setKey_mboxes (x : Inst) (n : Nat) (c : KeySlot) : (x.setKey n c).mboxes = x.mboxes := rfl
@[simp] theorem Inst.setKey_mbArg0 (x : Inst) (n : Nat) (c : KeySlot) : (x.setKey n c).mbArg0 = x.mbArg0 := rfl
@[simp] theorem Inst.setKey_mbArg1 (x : Inst) (n : Nat) (c : KeySlot) : (x.setKey n c).mbArg1 = x.mbArg1 := rfl
@[simp] theorem Inst.setKey_mbCode (x : Inst) (n : Nat) (c : KeySlot) : (x.setKey n c).mbCode = x.mbCode := rfl
@[simp] theorem Inst.setKey_mbHandle (x : Inst) (n : Nat) (c : KeySlot) : (x.setKey n c).mbHandle = x.mbHandle := rfl
@[simp] theorem Inst.setKey_mbFreeing (x : Inst) (n : Nat) (c : KeySlot) : (x.setKey n c).mbFreeing = x.mbFreeing := rfl
@[simp] theorem Inst.setKey_mbWait (x : Inst) (n : Nat) (c : KeySlot) : (x.setKey n c).mbWait = x.mbWait := rfl
@[simp] theorem Inst.setKey_dbMask (x : Inst) (n : Nat) (c : KeySlot) : (x.setKey n c).dbMask = x.dbMask := rfl
@[simp] theorem Inst.setKey_tlb (x : Inst) (n : Nat) (c : KeySlot) : (x.setKey n c).tlb = x.tlb := rfl
@[simp] theorem Inst.setKey_xreqs (x : Inst) (n : Nat) (c : KeySlot) : (x.setKey n c).xreqs = x.xreqs := rfl
@[simp] theorem Inst.setKey_invAcks (x : Inst) (n : Nat) (c : KeySlot) : (x.setKey n c).invAcks = x.invAcks := rfl
@[simp] theorem Inst.setKey_invOwed (x : Inst) (n : Nat) (c : KeySlot) : (x.setKey n c).invOwed = x.invOwed := rfl
@[simp] theorem Inst.setKey_xfers (x : Inst) (n : Nat) (c : KeySlot) : (x.setKey n c).xfers = x.xfers := rfl
@[simp] theorem Inst.setKey_xferSeq (x : Inst) (n : Nat) (c : KeySlot) : (x.setKey n c).xferSeq = x.xferSeq := rfl
@[simp] theorem Inst.setKey_seWrites (x : Inst) (n : Nat) (c : KeySlot) : (x.setKey n c).seWrites = x.seWrites := rfl
@[simp] theorem Inst.setKey_held (x : Inst) (n : Nat) (c : KeySlot) : (x.setKey n c).held = x.held := rfl
@[simp] theorem Inst.setKey_collCtrl (x : Inst) (n : Nat) (c : KeySlot) : (x.setKey n c).collCtrl = x.collCtrl := rfl
@[simp] theorem Inst.setKey_collOut (x : Inst) (n : Nat) (c : KeySlot) : (x.setKey n c).collOut = x.collOut := rfl
@[simp] theorem Inst.setKey_linkOut (x : Inst) (n : Nat) (c : KeySlot) : (x.setKey n c).linkOut = x.linkOut := rfl
@[simp] theorem Inst.setKey_hubWrites (x : Inst) (n : Nat) (c : KeySlot) : (x.setKey n c).hubWrites = x.hubWrites := rfl
@[simp] theorem Inst.setKey_intStat (x : Inst) (n : Nat) (c : KeySlot) : (x.setKey n c).intStat = x.intStat := rfl
@[simp] theorem Inst.setKey_intEn (x : Inst) (n : Nat) (c : KeySlot) : (x.setKey n c).intEn = x.intEn := rfl
@[simp] theorem Inst.setKey_pwr (x : Inst) (n : Nat) (c : KeySlot) : (x.setKey n c).pwr = x.pwr := rfl
@[simp] theorem Inst.setKey_flt (x : Inst) (n : Nat) (c : KeySlot) : (x.setKey n c).flt = x.flt := rfl
@[simp] theorem Inst.setKey_rst (x : Inst) (n : Nat) (c : KeySlot) : (x.setKey n c).rst = x.rst := rfl
@[simp] theorem Inst.setKey_east (x : Inst) (n : Nat) (c : KeySlot) : (x.setKey n c).east = x.east := rfl
@[simp] theorem Inst.setKey_west (x : Inst) (n : Nat) (c : KeySlot) : (x.setKey n c).west = x.west := rfl
@[simp] theorem Inst.setKey_lstDone (x : Inst) (n : Nat) (c : KeySlot) : (x.setKey n c).lstDone = x.lstDone := rfl
@[simp] theorem Inst.setKey_lstFail (x : Inst) (n : Nat) (c : KeySlot) : (x.setKey n c).lstFail = x.lstFail := rfl
@[simp] theorem Inst.setKey_test (x : Inst) (n : Nat) (c : KeySlot) : (x.setKey n c).test = x.test := rfl
@[simp] theorem Inst.setKey_ticks (x : Inst) (n : Nat) (c : KeySlot) : (x.setKey n c).ticks = x.ticks := rfl
@[simp] theorem Inst.setKey_seReqs (x : Inst) (n : Nat) (c : KeySlot) : (x.setKey n c).seReqs = x.seReqs := rfl
@[simp] theorem Inst.setKey_seRound (x : Inst) (n : Nat) (c : KeySlot) : (x.setKey n c).seRound = x.seRound := rfl
@[simp] theorem Inst.setKey_linkIn (x : Inst) (n : Nat) (c : KeySlot) : (x.setKey n c).linkIn = x.linkIn := rfl
@[simp] theorem Inst.setKey_notices (x : Inst) (n : Nat) (c : KeySlot) : (x.setKey n c).notices = x.notices := rfl
@[simp] theorem Inst.setKey_tapIr (x : Inst) (n : Nat) (c : KeySlot) : (x.setKey n c).tapIr = x.tapIr := rfl
@[simp] theorem Inst.setKey_wir (x : Inst) (n : Nat) (c : KeySlot) : (x.setKey n c).wir = x.wir := rfl
@[simp] theorem Inst.setKey_winBase (x : Inst) (n : Nat) (c : KeySlot) : (x.setKey n c).winBase = x.winBase := rfl
@[simp] theorem Inst.setKey_idcMfr (x : Inst) (n : Nat) (c : KeySlot) : (x.setKey n c).idcMfr = x.idcMfr := rfl

/-! ### A cell -/

@[simp] theorem Cell.setSlot_vits (c : Cell) (k : Nat) (s : Slot) : (c.setSlot k s).vits = c.vits := rfl
@[simp] theorem Cell.setSlot_masks (c : Cell) (k : Nat) (s : Slot) : (c.setSlot k s).masks = c.masks := rfl
@[simp] theorem Cell.setSlot_launchQ (c : Cell) (k : Nat) (s : Slot) : (c.setSlot k s).launchQ = c.launchQ := rfl
@[simp] theorem Cell.setSlot_drain (c : Cell) (k : Nat) (s : Slot) : (c.setSlot k s).drain = c.drain := rfl
@[simp] theorem Cell.setSlot_owed (c : Cell) (k : Nat) (s : Slot) : (c.setSlot k s).owed = c.owed := rfl
@[simp] theorem Cell.setSlot_casks (c : Cell) (k : Nat) (s : Slot) : (c.setSlot k s).casks = c.casks := rfl
@[simp] theorem Cell.setSlot_caskSlots (c : Cell) (k : Nat) (s : Slot) : (c.setSlot k s).caskSlots = c.caskSlots := rfl
@[simp] theorem Cell.setSlot_addQ (c : Cell) (k : Nat) (s : Slot) : (c.setSlot k s).addQ = c.addQ := rfl
@[simp] theorem Cell.setSlot_feedQ (c : Cell) (k : Nat) (s : Slot) : (c.setSlot k s).feedQ = c.feedQ := rfl
@[simp] theorem Cell.setSlot_spReads (c : Cell) (k : Nat) (s : Slot) : (c.setSlot k s).spReads = c.spReads := rfl
@[simp] theorem Cell.setSlot_spWrites (c : Cell) (k : Nat) (s : Slot) : (c.setSlot k s).spWrites = c.spWrites := rfl
@[simp] theorem Cell.setSlot_outQ (c : Cell) (k : Nat) (s : Slot) : (c.setSlot k s).outQ = c.outQ := rfl
@[simp] theorem Cell.setSlot_respQ (c : Cell) (k : Nat) (s : Slot) : (c.setSlot k s).respQ = c.respQ := rfl
@[simp] theorem Cell.setSlot_heldPost (c : Cell) (k : Nat) (s : Slot) : (c.setSlot k s).heldPost = c.heldPost := rfl
@[simp] theorem Cell.setSlot_scaleCheck (c : Cell) (k : Nat) (s : Slot) : (c.setSlot k s).scaleCheck = c.scaleCheck := rfl
@[simp] theorem Cell.setSlot_stallFeed (c : Cell) (k : Nat) (s : Slot) : (c.setSlot k s).stallFeed = c.stallFeed := rfl
@[simp] theorem Cell.setSlot_stallDrain (c : Cell) (k : Nat) (s : Slot) : (c.setSlot k s).stallDrain = c.stallDrain := rfl
@[simp] theorem Cell.setSlot_gated (c : Cell) (k : Nat) (s : Slot) : (c.setSlot k s).gated = c.gated := rfl
@[simp] theorem Cell.setSlot_paused (c : Cell) (k : Nat) (s : Slot) : (c.setSlot k s).paused = c.paused := rfl
@[simp] theorem Cell.setSlot_fault (c : Cell) (k : Nat) (s : Slot) : (c.setSlot k s).fault = c.fault := rfl
@[simp] theorem Cell.setSlot_recov (c : Cell) (k : Nat) (s : Slot) : (c.setSlot k s).recov = c.recov := rfl
@[simp] theorem Cell.setSlot_tileSlot (c : Cell) (k : Nat) (s : Slot) : (c.setSlot k s).tileSlot = c.tileSlot := rfl
@[simp] theorem Cell.setSlot_opens (c : Cell) (k : Nat) (s : Slot) : (c.setSlot k s).opens = c.opens := rfl
@[simp] theorem Cell.setSlot_faults (c : Cell) (k : Nat) (s : Slot) : (c.setSlot k s).faults = c.faults := rfl
@[simp] theorem Cell.setSlot_retire (c : Cell) (k : Nat) (s : Slot) : (c.setSlot k s).retire = c.retire := rfl
@[simp] theorem Cell.setVit_slots (c : Cell) (i : Nat) (l : List Word) : (c.setVit i l).slots = c.slots := rfl
@[simp] theorem Cell.setVit_masks (c : Cell) (i : Nat) (l : List Word) : (c.setVit i l).masks = c.masks := rfl
@[simp] theorem Cell.setVit_launchQ (c : Cell) (i : Nat) (l : List Word) : (c.setVit i l).launchQ = c.launchQ := rfl
@[simp] theorem Cell.setVit_drain (c : Cell) (i : Nat) (l : List Word) : (c.setVit i l).drain = c.drain := rfl
@[simp] theorem Cell.setVit_owed (c : Cell) (i : Nat) (l : List Word) : (c.setVit i l).owed = c.owed := rfl
@[simp] theorem Cell.setVit_casks (c : Cell) (i : Nat) (l : List Word) : (c.setVit i l).casks = c.casks := rfl
@[simp] theorem Cell.setVit_caskSlots (c : Cell) (i : Nat) (l : List Word) : (c.setVit i l).caskSlots = c.caskSlots := rfl
@[simp] theorem Cell.setVit_addQ (c : Cell) (i : Nat) (l : List Word) : (c.setVit i l).addQ = c.addQ := rfl
@[simp] theorem Cell.setVit_feedQ (c : Cell) (i : Nat) (l : List Word) : (c.setVit i l).feedQ = c.feedQ := rfl
@[simp] theorem Cell.setVit_spReads (c : Cell) (i : Nat) (l : List Word) : (c.setVit i l).spReads = c.spReads := rfl
@[simp] theorem Cell.setVit_spWrites (c : Cell) (i : Nat) (l : List Word) : (c.setVit i l).spWrites = c.spWrites := rfl
@[simp] theorem Cell.setVit_outQ (c : Cell) (i : Nat) (l : List Word) : (c.setVit i l).outQ = c.outQ := rfl
@[simp] theorem Cell.setVit_respQ (c : Cell) (i : Nat) (l : List Word) : (c.setVit i l).respQ = c.respQ := rfl
@[simp] theorem Cell.setVit_heldPost (c : Cell) (i : Nat) (l : List Word) : (c.setVit i l).heldPost = c.heldPost := rfl
@[simp] theorem Cell.setVit_scaleCheck (c : Cell) (i : Nat) (l : List Word) : (c.setVit i l).scaleCheck = c.scaleCheck := rfl
@[simp] theorem Cell.setVit_stallFeed (c : Cell) (i : Nat) (l : List Word) : (c.setVit i l).stallFeed = c.stallFeed := rfl
@[simp] theorem Cell.setVit_stallDrain (c : Cell) (i : Nat) (l : List Word) : (c.setVit i l).stallDrain = c.stallDrain := rfl
@[simp] theorem Cell.setVit_gated (c : Cell) (i : Nat) (l : List Word) : (c.setVit i l).gated = c.gated := rfl
@[simp] theorem Cell.setVit_paused (c : Cell) (i : Nat) (l : List Word) : (c.setVit i l).paused = c.paused := rfl
@[simp] theorem Cell.setVit_fault (c : Cell) (i : Nat) (l : List Word) : (c.setVit i l).fault = c.fault := rfl
@[simp] theorem Cell.setVit_recov (c : Cell) (i : Nat) (l : List Word) : (c.setVit i l).recov = c.recov := rfl
@[simp] theorem Cell.setVit_tileSlot (c : Cell) (i : Nat) (l : List Word) : (c.setVit i l).tileSlot = c.tileSlot := rfl
@[simp] theorem Cell.setVit_opens (c : Cell) (i : Nat) (l : List Word) : (c.setVit i l).opens = c.opens := rfl
@[simp] theorem Cell.setVit_faults (c : Cell) (i : Nat) (l : List Word) : (c.setVit i l).faults = c.faults := rfl
@[simp] theorem Cell.setVit_retire (c : Cell) (i : Nat) (l : List Word) : (c.setVit i l).retire = c.retire := rfl
@[simp] theorem Cell.setMask_slots (c : Cell) (k : Nat) (m : Mask) : (c.setMask k m).slots = c.slots := rfl
@[simp] theorem Cell.setMask_vits (c : Cell) (k : Nat) (m : Mask) : (c.setMask k m).vits = c.vits := rfl
@[simp] theorem Cell.setMask_launchQ (c : Cell) (k : Nat) (m : Mask) : (c.setMask k m).launchQ = c.launchQ := rfl
@[simp] theorem Cell.setMask_drain (c : Cell) (k : Nat) (m : Mask) : (c.setMask k m).drain = c.drain := rfl
@[simp] theorem Cell.setMask_owed (c : Cell) (k : Nat) (m : Mask) : (c.setMask k m).owed = c.owed := rfl
@[simp] theorem Cell.setMask_casks (c : Cell) (k : Nat) (m : Mask) : (c.setMask k m).casks = c.casks := rfl
@[simp] theorem Cell.setMask_caskSlots (c : Cell) (k : Nat) (m : Mask) : (c.setMask k m).caskSlots = c.caskSlots := rfl
@[simp] theorem Cell.setMask_addQ (c : Cell) (k : Nat) (m : Mask) : (c.setMask k m).addQ = c.addQ := rfl
@[simp] theorem Cell.setMask_feedQ (c : Cell) (k : Nat) (m : Mask) : (c.setMask k m).feedQ = c.feedQ := rfl
@[simp] theorem Cell.setMask_spReads (c : Cell) (k : Nat) (m : Mask) : (c.setMask k m).spReads = c.spReads := rfl
@[simp] theorem Cell.setMask_spWrites (c : Cell) (k : Nat) (m : Mask) : (c.setMask k m).spWrites = c.spWrites := rfl
@[simp] theorem Cell.setMask_outQ (c : Cell) (k : Nat) (m : Mask) : (c.setMask k m).outQ = c.outQ := rfl
@[simp] theorem Cell.setMask_respQ (c : Cell) (k : Nat) (m : Mask) : (c.setMask k m).respQ = c.respQ := rfl
@[simp] theorem Cell.setMask_heldPost (c : Cell) (k : Nat) (m : Mask) : (c.setMask k m).heldPost = c.heldPost := rfl
@[simp] theorem Cell.setMask_scaleCheck (c : Cell) (k : Nat) (m : Mask) : (c.setMask k m).scaleCheck = c.scaleCheck := rfl
@[simp] theorem Cell.setMask_stallFeed (c : Cell) (k : Nat) (m : Mask) : (c.setMask k m).stallFeed = c.stallFeed := rfl
@[simp] theorem Cell.setMask_stallDrain (c : Cell) (k : Nat) (m : Mask) : (c.setMask k m).stallDrain = c.stallDrain := rfl
@[simp] theorem Cell.setMask_gated (c : Cell) (k : Nat) (m : Mask) : (c.setMask k m).gated = c.gated := rfl
@[simp] theorem Cell.setMask_paused (c : Cell) (k : Nat) (m : Mask) : (c.setMask k m).paused = c.paused := rfl
@[simp] theorem Cell.setMask_fault (c : Cell) (k : Nat) (m : Mask) : (c.setMask k m).fault = c.fault := rfl
@[simp] theorem Cell.setMask_recov (c : Cell) (k : Nat) (m : Mask) : (c.setMask k m).recov = c.recov := rfl
@[simp] theorem Cell.setMask_tileSlot (c : Cell) (k : Nat) (m : Mask) : (c.setMask k m).tileSlot = c.tileSlot := rfl
@[simp] theorem Cell.setMask_opens (c : Cell) (k : Nat) (m : Mask) : (c.setMask k m).opens = c.opens := rfl
@[simp] theorem Cell.setMask_faults (c : Cell) (k : Nat) (m : Mask) : (c.setMask k m).faults = c.faults := rfl
@[simp] theorem Cell.setMask_retire (c : Cell) (k : Nat) (m : Mask) : (c.setMask k m).retire = c.retire := rfl
@[simp] theorem Cell.setCask_slots (c : Cell) (e : Nat) (k : Cask) : (c.setCask e k).slots = c.slots := rfl
@[simp] theorem Cell.setCask_vits (c : Cell) (e : Nat) (k : Cask) : (c.setCask e k).vits = c.vits := rfl
@[simp] theorem Cell.setCask_masks (c : Cell) (e : Nat) (k : Cask) : (c.setCask e k).masks = c.masks := rfl
@[simp] theorem Cell.setCask_launchQ (c : Cell) (e : Nat) (k : Cask) : (c.setCask e k).launchQ = c.launchQ := rfl
@[simp] theorem Cell.setCask_drain (c : Cell) (e : Nat) (k : Cask) : (c.setCask e k).drain = c.drain := rfl
@[simp] theorem Cell.setCask_owed (c : Cell) (e : Nat) (k : Cask) : (c.setCask e k).owed = c.owed := rfl
@[simp] theorem Cell.setCask_caskSlots (c : Cell) (e : Nat) (k : Cask) : (c.setCask e k).caskSlots = c.caskSlots := rfl
@[simp] theorem Cell.setCask_addQ (c : Cell) (e : Nat) (k : Cask) : (c.setCask e k).addQ = c.addQ := rfl
@[simp] theorem Cell.setCask_feedQ (c : Cell) (e : Nat) (k : Cask) : (c.setCask e k).feedQ = c.feedQ := rfl
@[simp] theorem Cell.setCask_spReads (c : Cell) (e : Nat) (k : Cask) : (c.setCask e k).spReads = c.spReads := rfl
@[simp] theorem Cell.setCask_spWrites (c : Cell) (e : Nat) (k : Cask) : (c.setCask e k).spWrites = c.spWrites := rfl
@[simp] theorem Cell.setCask_outQ (c : Cell) (e : Nat) (k : Cask) : (c.setCask e k).outQ = c.outQ := rfl
@[simp] theorem Cell.setCask_respQ (c : Cell) (e : Nat) (k : Cask) : (c.setCask e k).respQ = c.respQ := rfl
@[simp] theorem Cell.setCask_heldPost (c : Cell) (e : Nat) (k : Cask) : (c.setCask e k).heldPost = c.heldPost := rfl
@[simp] theorem Cell.setCask_scaleCheck (c : Cell) (e : Nat) (k : Cask) : (c.setCask e k).scaleCheck = c.scaleCheck := rfl
@[simp] theorem Cell.setCask_stallFeed (c : Cell) (e : Nat) (k : Cask) : (c.setCask e k).stallFeed = c.stallFeed := rfl
@[simp] theorem Cell.setCask_stallDrain (c : Cell) (e : Nat) (k : Cask) : (c.setCask e k).stallDrain = c.stallDrain := rfl
@[simp] theorem Cell.setCask_gated (c : Cell) (e : Nat) (k : Cask) : (c.setCask e k).gated = c.gated := rfl
@[simp] theorem Cell.setCask_paused (c : Cell) (e : Nat) (k : Cask) : (c.setCask e k).paused = c.paused := rfl
@[simp] theorem Cell.setCask_fault (c : Cell) (e : Nat) (k : Cask) : (c.setCask e k).fault = c.fault := rfl
@[simp] theorem Cell.setCask_recov (c : Cell) (e : Nat) (k : Cask) : (c.setCask e k).recov = c.recov := rfl
@[simp] theorem Cell.setCask_tileSlot (c : Cell) (e : Nat) (k : Cask) : (c.setCask e k).tileSlot = c.tileSlot := rfl
@[simp] theorem Cell.setCask_opens (c : Cell) (e : Nat) (k : Cask) : (c.setCask e k).opens = c.opens := rfl
@[simp] theorem Cell.setCask_faults (c : Cell) (e : Nat) (k : Cask) : (c.setCask e k).faults = c.faults := rfl
@[simp] theorem Cell.setCask_retire (c : Cell) (e : Nat) (k : Cask) : (c.setCask e k).retire = c.retire := rfl

/-! ### What is read after a write -/

@[simp] theorem Inst.cell_setCell (x : Inst) (n : Nat) (c : Cell) : (x.setCell n c).cell n = c := Tbl.get_set_same ..
theorem Inst.cell_setCell_other (x : Inst) (n m : Nat) (c : Cell) (h : m ≠ n) : (x.setCell n c).cell m = x.cell m :=
  Tbl.get_set_other _ _ _ _ _ h
@[simp] theorem Inst.setCell_setCell (x : Inst) (n : Nat) (c d : Cell) : (x.setCell n c).setCell n d = x.setCell n d := by
  simp [Inst.setCell]
@[simp] theorem Inst.cell_setVc (x : Inst) (n m : Nat) (c : Vc) : (x.setVc n c).cell m = x.cell m := rfl
@[simp] theorem Inst.cell_setFence (x : Inst) (n m : Nat) (c : Fence) : (x.setFence n c).cell m = x.cell m := rfl
@[simp] theorem Inst.cell_setMbox (x : Inst) (n m : Nat) (c : Mbox) : (x.setMbox n c).cell m = x.cell m := rfl
@[simp] theorem Inst.cell_setKey (x : Inst) (n m : Nat) (c : KeySlot) : (x.setKey n c).cell m = x.cell m := rfl
@[simp] theorem Inst.vc_setVc (x : Inst) (n : Nat) (c : Vc) : (x.setVc n c).vc n = c := Tbl.get_set_same ..
theorem Inst.vc_setVc_other (x : Inst) (n m : Nat) (c : Vc) (h : m ≠ n) : (x.setVc n c).vc m = x.vc m :=
  Tbl.get_set_other _ _ _ _ _ h
@[simp] theorem Inst.setVc_setVc (x : Inst) (n : Nat) (c d : Vc) : (x.setVc n c).setVc n d = x.setVc n d := by
  simp [Inst.setVc]
@[simp] theorem Inst.vc_setCell (x : Inst) (n m : Nat) (c : Cell) : (x.setCell n c).vc m = x.vc m := rfl
@[simp] theorem Inst.vc_setFence (x : Inst) (n m : Nat) (c : Fence) : (x.setFence n c).vc m = x.vc m := rfl
@[simp] theorem Inst.vc_setMbox (x : Inst) (n m : Nat) (c : Mbox) : (x.setMbox n c).vc m = x.vc m := rfl
@[simp] theorem Inst.vc_setKey (x : Inst) (n m : Nat) (c : KeySlot) : (x.setKey n c).vc m = x.vc m := rfl
@[simp] theorem Inst.fence_setFence (x : Inst) (n : Nat) (c : Fence) : (x.setFence n c).fence n = c := Tbl.get_set_same ..
theorem Inst.fence_setFence_other (x : Inst) (n m : Nat) (c : Fence) (h : m ≠ n) : (x.setFence n c).fence m = x.fence m :=
  Tbl.get_set_other _ _ _ _ _ h
@[simp] theorem Inst.setFence_setFence (x : Inst) (n : Nat) (c d : Fence) : (x.setFence n c).setFence n d = x.setFence n d := by
  simp [Inst.setFence]
@[simp] theorem Inst.fence_setCell (x : Inst) (n m : Nat) (c : Cell) : (x.setCell n c).fence m = x.fence m := rfl
@[simp] theorem Inst.fence_setVc (x : Inst) (n m : Nat) (c : Vc) : (x.setVc n c).fence m = x.fence m := rfl
@[simp] theorem Inst.fence_setMbox (x : Inst) (n m : Nat) (c : Mbox) : (x.setMbox n c).fence m = x.fence m := rfl
@[simp] theorem Inst.fence_setKey (x : Inst) (n m : Nat) (c : KeySlot) : (x.setKey n c).fence m = x.fence m := rfl
@[simp] theorem Inst.mbox_setMbox (x : Inst) (n : Nat) (c : Mbox) : (x.setMbox n c).mbox n = c := Tbl.get_set_same ..
theorem Inst.mbox_setMbox_other (x : Inst) (n m : Nat) (c : Mbox) (h : m ≠ n) : (x.setMbox n c).mbox m = x.mbox m :=
  Tbl.get_set_other _ _ _ _ _ h
@[simp] theorem Inst.setMbox_setMbox (x : Inst) (n : Nat) (c d : Mbox) : (x.setMbox n c).setMbox n d = x.setMbox n d := by
  simp [Inst.setMbox]
@[simp] theorem Inst.mbox_setCell (x : Inst) (n m : Nat) (c : Cell) : (x.setCell n c).mbox m = x.mbox m := rfl
@[simp] theorem Inst.mbox_setVc (x : Inst) (n m : Nat) (c : Vc) : (x.setVc n c).mbox m = x.mbox m := rfl
@[simp] theorem Inst.mbox_setFence (x : Inst) (n m : Nat) (c : Fence) : (x.setFence n c).mbox m = x.mbox m := rfl
@[simp] theorem Inst.mbox_setKey (x : Inst) (n m : Nat) (c : KeySlot) : (x.setKey n c).mbox m = x.mbox m := rfl
@[simp] theorem Inst.key_setKey (x : Inst) (n : Nat) (c : KeySlot) : (x.setKey n c).key n = c := Tbl.get_set_same ..
theorem Inst.key_setKey_other (x : Inst) (n m : Nat) (c : KeySlot) (h : m ≠ n) : (x.setKey n c).key m = x.key m :=
  Tbl.get_set_other _ _ _ _ _ h
@[simp] theorem Inst.setKey_setKey (x : Inst) (n : Nat) (c d : KeySlot) : (x.setKey n c).setKey n d = x.setKey n d := by
  simp [Inst.setKey]
@[simp] theorem Inst.key_setCell (x : Inst) (n m : Nat) (c : Cell) : (x.setCell n c).key m = x.key m := rfl
@[simp] theorem Inst.key_setVc (x : Inst) (n m : Nat) (c : Vc) : (x.setVc n c).key m = x.key m := rfl
@[simp] theorem Inst.key_setFence (x : Inst) (n m : Nat) (c : Fence) : (x.setFence n c).key m = x.key m := rfl
@[simp] theorem Inst.key_setMbox (x : Inst) (n m : Nat) (c : Mbox) : (x.setMbox n c).key m = x.key m := rfl

theorem Cell.slot_setSlot (c : Cell) (k : Nat) (s : Slot) (h : k < c.slots.length) : (c.setSlot k s).slot k = s := by
  simp [Cell.slot, Cell.setSlot, h]

@[simp] theorem Cell.slot_setSlot_other (c : Cell) (k j : Nat) (s : Slot) (h : j ≠ k) : (c.setSlot k s).slot j = c.slot j := by
  simp [Cell.slot, Cell.setSlot, List.getD_eq_getElem?_getD, List.getElem?_set_ne (Ne.symm h)]

@[simp] theorem Cell.setSlot_setSlot (c : Cell) (k : Nat) (s t : Slot) : (c.setSlot k s).setSlot k t = c.setSlot k t := by
  simp [Cell.setSlot]

/-- A slot that is not at its reset value is one of the cell's. -/
theorem Cell.slot_lt (c : Cell) (k : Nat) (h : c.slot k ≠ Slot.idle) : k < c.slots.length := by
  by_contra hk
  exact h (by simp [Cell.slot, List.getD_eq_getElem?_getD, List.getElem?_eq_none (by omega : c.slots.length ≤ k)])

/-- Writing back what a cell's slot holds changes nothing. -/
@[simp] theorem Cell.setSlot_slot (c : Cell) (k : Nat) : c.setSlot k (c.slot k) = c := by
  by_cases h : k < c.slots.length
  · simp [Cell.setSlot, Cell.slot, h]
  · simp [Cell.setSlot, List.set_eq_of_length_le (by omega : c.slots.length ≤ k)]

@[simp] theorem State.setInst_setInst (s : State) (i : Nat) (x y : Inst) : (s.setInst i x).setInst i y = s.setInst i y := by
  simp [State.setInst]

/-- Writing back an instance changes nothing. -/
theorem State.setInst_self (s : State) (i : Nat) (x : Inst) (h : s.insts[i]? = some x) : s.setInst i x = s := by
  obtain ⟨hi, rfl⟩ := List.getElem?_eq_some_iff.mp h
  simp [State.setInst]

theorem State.getElem_setInst (s : State) (i : Nat) (x y : Inst) (h : s.insts[i]? = some x) : (s.setInst i y).insts[i]? = some y := by
  obtain ⟨hi, _⟩ := List.getElem?_eq_some_iff.mp h
  simp [State.setInst, hi]

theorem State.getElem_setInst_other (s : State) (i j : Nat) (y : Inst) (h : j ≠ i) : (s.setInst i y).insts[j]? = s.insts[j]? := by
  simp [State.setInst, List.getElem?_set_ne (Ne.symm h)]

@[simp] theorem State.effs_nil (s : State) (i : Nat) : s.effs i [] = s := rfl

@[simp] theorem State.effs_cons (s : State) (i : Nat) (e : Eff) (es : List Eff) : s.effs i (e :: es) = (State.eff i s e).effs i es := rfl

theorem State.effs_append (s : State) (i : Nat) (es fs : List Eff) : s.effs i (es ++ fs) = (s.effs i es).effs i fs := by
  simp [State.effs, List.foldl_append]

end Sys2Proof.Machine
end

