-- ==== Sys2Proof/Laws/Ops.lean ====
section
/-! SUPPORT. What the shared operations of a command can do: a step of an instance, of a cell, of a slot, of the control port.
-/

namespace Sys2Proof.Machine

/-! ### A step of an instance or of a cell -/

theorem onInst_some {s : State} {i : Nat} {x : Inst} (f : Env → Inst → Run) (h : s.insts[i]? = some x) :
    onInst s i f = .next (s.runAt i x f) := by simp [onInst, State.run, h]

theorem onCell_some {s : State} {a : CellAt} {x : Inst} (f : Env → Inst → Run) (h : s.insts[a.inst]? = some x)
    (hc : a.cell < x.cellsBuilt) : onCell s a f = .next (s.runAt a.inst x f) := by
  simp [onCell, State.atCell, State.atDie, h, hc]

/-- Without an armed injection a cell command is its own step (R394). -/
theorem withInjection_none {classes : List Nat} {n : Nat} {slot : Option Nat} {f : Env → Inst → Run} {e : Env} {x : Inst}
    (hj : x.flt.injected = none) : withInjection classes n slot f e x = f e x := by
  have h : (classes.findSome? fun k => x.injection k n) = none := by simp [List.findSome?_eq_none_iff, Inst.injection, hj]
  simp [withInjection, h]

theorem runAt_withInjection {s : State} {i : Nat} {x : Inst} {classes : List Nat} {n : Nat} {slot : Option Nat}
    {f : Env → Inst → Run} (hj : x.flt.injected = none) :
    s.runAt i x (withInjection classes n slot f) = s.runAt i x f := by simp [State.runAt, withInjection_none hj]

theorem onSlot_some {s : State} {a : Site} {x : Inst} (f : Nat → Nat → Env → Inst → Run) (h : s.insts[a.inst]? = some x)
    (hc : a.cell < x.cellsBuilt) (hj : x.flt.injected = none) : onSlot s a f = .next (s.runAt a.inst x (f a.cell a.slot)) := by
  simp [onSlot, onCell_some _ (a := { inst := a.inst, cell := a.cell }) h hc, runAt_withInjection hj]

theorem onPort_some {s : State} {a : CellAt} {x : Inst} (f : Inst → State) (h : s.insts[a.inst]? = some x)
    (hc : a.cell < x.cellsBuilt) : onPort s a f = .next (f x) := by simp [onPort, State.atCell, State.atDie, h, hc]

/-- A step of die i whose run is known. -/
theorem State.runAt_eq {s : State} {i : Nat} {x : Inst} {f : Env → Inst → Run} {r : Run} (h : f (s.env i) x = r) :
    s.runAt i x f = (s.setInst i r.x).effs i r.effs := by simp [State.runAt, h]

/-- A step of die i without effects beyond it. -/
theorem State.runAt_pure {s : State} {i : Nat} {x y : Inst} {f : Env → Inst → Run} (h : f (s.env i) x = pureRun y) :
    s.runAt i x f = s.setInst i y := by simp [State.runAt, h, pureRun]

/-! ### At work -/

theorem Inst.alive_of_awake {x : Inst} (h : x.awake = true) : x.alive = true := by simp_all [Inst.awake]

/-- An instance at work is in no reset, not fail-stopped, with clocks, not in OFF, not in test state. -/
theorem Inst.awake_parts {x : Inst} (h : x.awake = true) :
    x.rst.phase = 0 ∧ x.flt.failstop = false ∧ x.flt.clockLost = false ∧ x.pwr.offTaken = false ∧ x.test = false := by
  simp_all [Inst.awake, Inst.alive]

/-- A write of its own row at an instance at work is performed and answered. -/
theorem State.ctlGate_awake {s : State} {i : Nat} {x : Inst} (off : Nat) (we : Bool) (f : Inst → State) (h : AtWork s i x) :
    s.ctlGate i off we f = f x := by
  obtain ⟨hi, hw⟩ := h
  obtain ⟨h0, h1, h2, h3, -⟩ := Inst.awake_parts hw
  simp [State.ctlGate, hi, h0, h1, h2, h3, hw]

/-- Nothing leaves before the first outstanding access has its answer. -/
theorem flushResp_stuck {s : State} {f : Fwd} {rest : List Fwd} (hf : s.fwd = f :: rest) (ha : f.ans = none)
    (hr : s.resp = []) : s.flushResp = s := by
  cases s
  simp_all [State.flushResp]

/-- An open port answers an access that `f` serves with `w`: the answer leaves or waits (R342). -/
theorem State.access_granted {s t : State} {f : State → State} {w : Word} (hp : PortOpen s)
    (hf : ∀ r, f { s with resp := r } = { t with resp := [{ err := false, data := w }] }) (hfwd : t.fwd = s.fwd)
    (hr : t.resp = s.resp) : s.access f = granted t w := by
  obtain ⟨hlen, hhd⟩ := hp
  unfold State.access
  rw [if_neg (by omega), hf []]
  cases hs : s.fwd with
  | nil => simp [granted, replied, State.flushResp, hfwd, hs]
  | cons a rest =>
    have ha := hhd a rest hs
    simp [granted, replied, State.flushResp, hfwd, hs, ha, hr]

/-- An access that `f` only forwards leaves the answers to those before it (R342). -/
theorem State.access_forwarded {s : State} {f : State → State} {p : Nat × Nat × Word} (hp : PortOpen s) (hne : s.fwd ≠ [])
    (hf : ∀ r, f { s with resp := r } = forwarded { s with resp := r } p) : s.access f = forwarded s p := by
  obtain ⟨hlen, hhd⟩ := hp
  unfold State.access
  rw [if_neg (by omega), hf []]
  cases hs : s.fwd with
  | nil => exact absurd hs hne
  | cons a rest =>
    have ha := hhd a rest hs
    simp [forwarded, State.flushResp, hs, ha]

/-- A write of its own row at an instance at work is performed and answered, or forwarded behind an older access. -/
theorem State.ctlRow_awake {s : State} {i : Nat} {x : Inst} (off : Nat) (w : Word) (f : Inst → State) (h : AtWork s i x)
    (hp : PortOpen s) (hfwd : (f x).fwd = s.fwd) (hr : (f x).resp = s.resp) :
    s.ctlRow i off w f = .next (if s.behind i then forwarded s (i, off, w) else granted (f x) 0) := by
  have hi : s.insts[i]? = some x := h.1
  unfold State.ctlRow
  congr 1
  split
  · next hb =>
    have hne : s.fwd ≠ [] := by rintro h0; simp [State.behind, h0] at hb
    apply State.access_forwarded hp hne
    intro r
    have hb' : State.behind { s with resp := r } i = true := hb
    simp only [hi, hb', if_true]
    rfl
  · next hb =>
    apply State.access_granted hp _ hfwd hr
    intro r
    have hw : AtWork { s with resp := r } i x := h
    have hb' : State.behind { s with resp := r } i = false := Bool.eq_false_iff.mpr hb
    simp only [hi, hb', Bool.false_eq_true, if_false]
    rw [State.ctlGate_awake off true _ hw]
    rfl

/-- At an instance at work the port takes a request. -/
theorem atPort_awake {x : Inst} (cause : Nat) (f : Inst → Run) (h : x.awake = true) : atPort cause x f = f x := by
  simp [atPort, h]

theorem whenAlive_alive {e : Env} {x : Inst} (f : Env → Inst → Run) (h : x.alive = true) : whenAlive f e x = f e x := by
  simp [whenAlive, h]

theorem CellUp.cellRuns {x : Inst} {n : Nat} (hw : x.awake = true) (h : CellUp x n) : x.cellRuns n = true := by
  obtain ⟨h1, h2, h3⟩ := h
  simp only [Inst.cellRuns, hw, h1, h2, h3, Bool.not_false, Bool.and_self]

/-! ### From a run to the statements about commands -/

theorem HubRun.of_inst {i : Instr} {s : State} {j : Nat} {x y : Inst} {es : List Eff} {f : Env → Inst → Run}
    (he : exec i s = onInst s j f) (hx : s.insts[j]? = some x) (hf : f (s.env j) x = { x := y, effs := es }) :
    HubRun i s j y es := by
  simp [HubRun, he, onInst_some f hx, State.runAt_eq hf]

theorem HubRun.of_cell {i : Instr} {s : State} {a : CellAt} {x y : Inst} {es : List Eff} {f : Env → Inst → Run}
    (he : exec i s = onCell s a f) (hx : s.insts[a.inst]? = some x) (hc : a.cell < x.cellsBuilt)
    (hf : f (s.env a.inst) x = { x := y, effs := es }) : HubRun i s a.inst y es := by
  simp [HubRun, he, onCell_some f hx hc, State.runAt_eq hf]

theorem CellRun.of_cell {i : Instr} {s : State} {a : CellAt} {x : Inst} {d : Cell} {f : Env → Inst → Run}
    (he : exec i s = onCell s a f) (hx : s.insts[a.inst]? = some x) (hc : a.cell < x.cellsBuilt)
    (hf : f (s.env a.inst) x = pureRun (x.setCell a.cell d)) : CellRun i s a x d := by
  simp [CellRun, he, onCell_some f hx hc, State.runAt_pure hf]

/-- Without a repeat in progress nothing is recorded (R393). -/
theorem Run.mended_nil {r : Run} (h : r.x.flt.mends = []) : r.mended = r := by
  have hf : ({ r.x.flt with mends := [] } : Flt) = r.x.flt := by rw [← h]
  simp only [Run.mended, h, List.filter_nil, List.foldl_nil, hf]

theorem MendRun.of_inst {i : Instr} {s : State} {j : Nat} {x y : Inst} {es : List Eff} {f : Env → Inst → Run}
    (he : exec i s = onInst s j (mending f)) (hx : s.insts[j]? = some x) (hf : f (s.env j) x = { x := y, effs := es }) :
    MendRun i s j y es :=
  HubRun.of_inst he hx (by simp [mending, hf])

/-- A command of a row of its own, at an instance at work. -/
theorem served_of_row {i : Instr} {s t : State} {j off : Nat} {w : Word} {x : Inst} {f : Inst → State}
    (he : exec i s = s.ctlRow j off w f) (hi : rowWrite i = (j, off, w)) (hx : AtWork s j x) (hp : PortOpen s) (hf : f x = t)
    (hfwd : t.fwd = s.fwd) (hr : t.resp = s.resp) : exec i s = .next (served i s t) := by
  rw [he, State.ctlRow_awake off w f hx hp (by rw [hf, hfwd]) (by rw [hf, hr]), hf, served, hi]

theorem CtlRun.of_row {i : Instr} {s : State} {j off : Nat} {w : Word} {x y : Inst} {f : Inst → State}
    (he : exec i s = s.ctlRow j off w f) (hi : rowWrite i = (j, off, w)) (hx : AtWork s j x) (hp : PortOpen s)
    (hf : f x = s.setInst j y) : CtlRun i s j y :=
  served_of_row he hi hx hp hf (by simp) (by simp)

end Sys2Proof.Machine
end

