-- ==== Sys2Proof/Laws/Adds.lean ====
section
/-! SUPPORT. What the adds of a cell in progress can change, and what the end of a program or a wake leaves alone. -/

namespace Sys2Proof.Machine

/-! ### Adds (R122, R129, R130) -/

/-- The start of an add's load: the cask table, the tile slots and reads. -/
theorem Cell.startLoad_frame (c : Cell) (e : Nat) : c.startLoad e = { c with
    casks := (c.startLoad e).casks, caskSlots := (c.startLoad e).caskSlots, tileSlot := (c.startLoad e).tileSlot
    spReads := (c.startLoad e).spReads } := by
  unfold Cell.startLoad
  repeat' split
  all_goals rfl

theorem Cell.startLoads_frame (c : Cell) : c.startLoads = { c with
    casks := c.startLoads.casks, caskSlots := c.startLoads.caskSlots, tileSlot := c.startLoads.tileSlot
    spReads := c.startLoads.spReads } := by
  unfold Cell.startLoads
  repeat' split
  all_goals first | rfl | exact Cell.startLoad_frame _ _ | skip
  rename_i a b _ _ _
  have h1 := Cell.startLoad_frame c a.2
  have h2 := Cell.startLoad_frame (c.startLoad a.2) b.2
  rw [h2, h1]

/-- The start of an add's store: the cask table and writes. -/
theorem Cell.startStore_frame (c : Cell) (e : Nat) : c.startStore e = { c with
    casks := (c.startStore e).casks, spWrites := (c.startStore e).spWrites } := by
  unfold Cell.startStore
  repeat' split
  all_goals rfl

theorem Cell.startStores_frame (c : Cell) : c.startStores = { c with
    casks := c.startStores.casks, spWrites := c.startStores.spWrites } := by
  unfold Cell.startStores
  split
  · rfl
  · rename_i a rest _
    have h1 := Cell.startStore_frame c a.2
    dsimp only
    split
    · exact h1
    · rename_i b _ _
      split
      · have h2 := Cell.startStore_frame (c.startStore a.2) b.2
        rw [h2, h1]
      · exact h1

/-- What the adds of a cell do as they go on touches the cask table, its tile slots and the scratchpad's requests. -/
theorem Cell.runAdds_frame (c : Cell) : c.runAdds = { c with
    casks := c.runAdds.casks, caskSlots := c.runAdds.caskSlots, tileSlot := c.runAdds.tileSlot
    spReads := c.runAdds.spReads, spWrites := c.runAdds.spWrites } := by
  have h1 := Cell.startLoads_frame c
  have h2 := Cell.startStores_frame c.startLoads
  unfold Cell.runAdds
  rw [h2, h1]

@[simp] theorem Cell.runAdds_slots (c : Cell) : c.runAdds.slots = c.slots := by rw [Cell.runAdds_frame]
@[simp] theorem Cell.runAdds_drain (c : Cell) : c.runAdds.drain = c.drain := by rw [Cell.runAdds_frame]
@[simp] theorem Cell.runAdds_owed (c : Cell) : c.runAdds.owed = c.owed := by rw [Cell.runAdds_frame]
@[simp] theorem Cell.runAdds_addQ (c : Cell) : c.runAdds.addQ = c.addQ := by rw [Cell.runAdds_frame]
@[simp] theorem Cell.runAdds_outQ (c : Cell) : c.runAdds.outQ = c.outQ := by rw [Cell.runAdds_frame]

/-! ### The end of a program (R20, R419) -/

/-- A tile that loses its consumer stays, unbound; one without a beat leaves. Nothing else changes, and nothing is owed. -/
theorem Cell.unbindTiles_frame (c : Cell) (ids : List Nat) : c.unbindTiles ids = { c with drain := (c.unbindTiles ids).drain } := rfl

/-- The beats of the drain queue stay as they are. -/
theorem Cell.unbindTiles_beats (c : Cell) (ids : List Nat) :
    ((c.unbindTiles ids).drain.map DrainTile.beats).flatten = (c.drain.map DrainTile.beats).flatten := by
  show (((c.drain.filter _).map _).map _).flatten = _
  induction c.drain with
  | nil => rfl
  | cons t ts ih =>
    have hb (u : DrainTile) : (if ids.contains u.id then { u with bound := none } else u).beats = u.beats := by split <;> rfl
    by_cases h : (ids.contains t.id && t.beats.isEmpty) = true
    · have he : t.beats = [] := by simpa using (Bool.and_eq_true_iff.mp h).2
      rw [List.filter_cons_of_neg (by rw [h]; decide), ih, List.map_cons, List.flatten_cons, he, List.nil_append]
    · rw [List.filter_cons_of_pos (by rw [Bool.not_eq_true] at h; rw [h]; rfl), List.map_cons, List.map_cons, List.flatten_cons, hb, ih,
        List.map_cons, List.flatten_cons]

theorem Cell.dropFeeds_frame (c : Cell) (k heir : Nat) : c.dropFeeds k heir = { c with feedQ := (c.dropFeeds k heir).feedQ } := rfl

/-- The vector at the multiplier's port keeps its payload. -/
theorem Cell.dropFeeds_head (c : Cell) (k heir : Nat) :
    (c.dropFeeds k heir).feedQ.head?.map (fun f => { f with slot := 0 }) = c.feedQ.head?.map fun f => { f with slot := 0 } := by
  show (match c.feedQ with
      | [] => []
      | f :: rest => (if f.slot = k then { f with slot := heir } else f) :: rest.filter fun g => g.slot != k).head?.map _ = _
  cases c.feedQ with
  | nil => rfl
  | cons f rest => simp only [List.head?_cons, Option.map_some]; split <;> rfl

/-! ### Wakes and effects (R405) -/

@[simp] theorem Run.after_x (r q : Run) : (r.after q).x = q.x := rfl
@[simp] theorem Run.after_effs (r q : Run) : (r.after q).effs = r.effs ++ q.effs := rfl

/-- A wake changes the power controller of one die. -/
theorem State.wakeNext_frame (s : State) (i j : Nat) : s.wakeNext i j = { s with insts := (s.wakeNext i j).insts } := by
  unfold State.wakeNext
  repeat' split
  all_goals rfl

/-- With every die on the way awake nothing wakes. -/
theorem State.wakeNext_awake (s : State) (i j : Nat) (h : s.sleepers i j = []) : s.wakeNext i j = s := by
  unfold State.wakeNext
  rw [h]

end Sys2Proof.Machine
end

