-- ==== Sys2Proof/Laws/Areas.lean ====
section
/-! SUPPORT. Little-endian bytes (R38), and the save area of a channel: the area that the hub builds passes the check of R277.
-/

namespace Sys2Proof.Machine

@[simp] theorem leBytes_length (k v : Nat) : (leBytes k v).length = k := by simp [leBytes]

theorem leBytes_succ (k v : Nat) : leBytes (k + 1) v = BitVec.ofNat 8 v :: leBytes k (v / 256) := by
  simp only [leBytes, List.range_succ_eq_map, List.map_cons, List.map_map, Nat.mul_zero, Nat.shiftRight_zero]
  congr 1
  apply List.map_congr_left
  intro i _
  simp only [Function.comp, Nat.shiftRight_eq_div_pow, Nat.mul_add, Nat.succ_eq_add_one, Nat.pow_add, Nat.mul_one]
  rw [Nat.mul_comm, ← Nat.div_div_eq_div_mul]

/-- Bytes of a number read back, up to their number. -/
@[simp] theorem ofLeBytes_leBytes (k v : Nat) : ofLeBytes (leBytes k v) = v % 256 ^ k := by
  induction k generalizing v with
  | zero => simp [leBytes, ofLeBytes, Nat.mod_one]
  | succ k ih =>
    rw [leBytes_succ]
    show (BitVec.ofNat 8 v).toNat + 256 * ofLeBytes (leBytes k (v / 256)) = _
    rw [ih, BitVec.toNat_ofNat, show (2 : Nat) ^ 8 = 256 from rfl, show 256 ^ (k + 1) = 256 * 256 ^ k from by rw [Nat.pow_succ, Nat.mul_comm],
      Nat.mod_mul]

theorem crcByte_lt (c : Nat) (b : Byte) : crcByte c b < 2 ^ 64 := by
  rw [crcByte, show List.range 8 = List.range 7 ++ [7] from rfl, List.foldl_append]
  simp only [List.foldl_cons, List.foldl_nil]
  split
  · exact Nat.xor_lt_two_pow (Nat.mod_lt _ (by decide)) (by decide)
  · exact Nat.mod_lt _ (by decide)

theorem crc64_lt (bs : List Byte) : crc64 bs < 2 ^ 64 := by
  suffices h : ∀ c, c < 2 ^ 64 → bs.foldl crcByte c < 2 ^ 64 from h 0 (by decide)
  induction bs with
  | nil => exact fun _ h => h
  | cons b bs ih => exact fun c _ => ih _ (crcByte_lt c b)

/-- The area that the hub builds for a channel passes the check of R277. -/
theorem Inst.areaOk_saveArea (x : Inst) (v : Nat) : x.areaOk v { fault := false, bytes := x.saveArea v } = true := by
  obtain ⟨head, body, hb, hl, h0, h4, h8⟩ : ∃ head body, x.saveArea v = head ++ leBytes 8 (crc64 (head ++ body)) ++ body
      ∧ head.length = 0x38 ∧ ofLeBytes (head.take 4) = (x.handleOf v).toNat ∧ ofLeBytes ((head.drop 4).take 1) = 1
      ∧ bitOf (ofLeBytes ((head.drop 8).take 4)) 0 = true := by
    refine ⟨_, _, rfl, ?_, ?_, ?_, ?_⟩
    · simp
    · simp only [List.append_assoc]
      rw [List.take_left' (by simp), ofLeBytes_leBytes]
      exact Nat.mod_eq_of_lt (x.handleOf v).isLt
    · simp
      rfl
    · simp only [List.append_assoc]
      have skip (a b c l : List Byte) (ha : a.length = 4) (hb : b.length = 2) (hc : c.length = 2) :
          (a ++ (b ++ (c ++ l))).drop 8 = l := by
        rw [← List.append_assoc, ← List.append_assoc, List.drop_left' (by simp [ha, hb, hc])]
      rw [skip _ _ _ _ (leBytes_length ..) rfl (leBytes_length ..), List.take_left' (leBytes_length ..), ofLeBytes_leBytes, bitOf,
        Nat.testBit_zero]
      have : flagAt (x.vc v).sched 1 % 2 = 0 := by unfold flagAt; split <;> rfl
      simp only [decide_eq_true_eq]
      omega
  have hk : (leBytes 8 (crc64 (head ++ body))).length = 8 := leBytes_length ..
  have hb : x.saveArea v = head ++ (leBytes 8 (crc64 (head ++ body)) ++ body) := by rw [hb, List.append_assoc]
  have t1 : (x.saveArea v).take 0x38 = head := by rw [hb, List.take_left' hl]
  have t2 : (x.saveArea v).drop 0x38 = leBytes 8 (crc64 (head ++ body)) ++ body := by rw [hb, List.drop_left' hl]
  have t3 : (x.saveArea v).drop 0x40 = body := by
    rw [show 0x40 = 0x38 + 8 from rfl, ← List.drop_drop, t2, List.drop_left' hk]
  have early (o k : Nat) (h : o + k ≤ 0x38) : ((x.saveArea v).drop o).take k = (head.drop o).take k := by
    rw [hb, List.drop_append_of_le_length (by omega), List.take_append_of_le_length (by simp; omega)]
  simp only [Inst.areaOk, t1, t3, Bool.not_false, Bool.true_and, Bool.and_eq_true, decide_eq_true_eq]
  refine ⟨⟨⟨?_, ?_⟩, ?_⟩, ?_⟩
  · rw [early 8 4 (by omega)]; exact h8
  · rw [early 0 4 (by omega)]; exact h0
  · rw [early 4 1 (by omega)]; exact h4
  · rw [t2, List.take_left' hk, ofLeBytes_leBytes]
    exact Nat.mod_eq_of_lt (crc64_lt _)

end Sys2Proof.Machine
end

