-- ==== Sys2Proof/Laws/Issue.lean ====
section
/-! SUPPORT. The issue of an instruction of a tile program: which step it is, and what one that works on registers alone can do
(R207 to R212, R217). -/

namespace Sys2Proof.Machine

/-! ### Vitrines and masks (R208, R209) -/

theorem Cell.vit_length (c : Cell) (i : Nat) : (c.vit i).length = 1024 := by
  rw [Cell.vit, List.length_take, List.length_append, List.length_replicate]
  omega

/-- A vitrine reads as it was written, whatever is listed for it. -/
@[simp] theorem Cell.vit_setVit (c : Cell) (i : Nat) (l : List Word) (h : l.length = 1024) : (c.setVit i l).vit i = l := by
  simp only [Cell.vit, Cell.setVit, Tbl.get_set_same]
  split
  · rename_i hz
    have : l = List.replicate 1024 0#32 := List.eq_replicate_iff.mpr ⟨h, by simpa using hz⟩
    rw [List.nil_append, List.take_of_length_le (by rw [List.length_replicate]), this]
  · rw [List.take_append_of_le_length (by omega), List.take_of_length_le (by omega)]

theorem Cell.vit_setVit_other (c : Cell) (i j : Nat) (l : List Word) (h : j ≠ i) : (c.setVit i l).vit j = c.vit j := by
  simp only [Cell.vit, Cell.setVit, Tbl.get_set_other _ _ _ _ _ h]

@[simp] theorem Cell.vit_setMask (c : Cell) (i j : Nat) (m : Mask) : (c.setMask i m).vit j = c.vit j := rfl
@[simp] theorem Cell.vit_setSlot (c : Cell) (k j : Nat) (s : Slot) : (c.setSlot k s).vit j = c.vit j := rfl
@[simp] theorem Cell.mask_setMask (c : Cell) (i : Nat) (m : Mask) : (c.setMask i m).mask i = m := Tbl.get_set_same ..

theorem Cell.mask_setMask_other (c : Cell) (i j : Nat) (m : Mask) (h : j ≠ i) : (c.setMask i m).mask j = c.mask j :=
  Tbl.get_set_other _ _ _ _ _ h

@[simp] theorem Cell.mask_setVit (c : Cell) (i j : Nat) (l : List Word) : (c.setVit i l).mask j = c.mask j := rfl
@[simp] theorem Cell.mask_setSlot (c : Cell) (k j : Nat) (s : Slot) : (c.setSlot k s).mask j = c.mask j := rfl
@[simp] theorem Cell.slot_setVit (c : Cell) (i k : Nat) (l : List Word) : (c.setVit i l).slot k = c.slot k := rfl
@[simp] theorem Cell.slot_setMask (c : Cell) (i k : Nat) (m : Mask) : (c.setMask i m).slot k = c.slot k := rfl

/-- Writing registers changes vitrines and masks only. -/
theorem Cell.writeRegs_frame (c : Cell) (vs : List (Nat × List Word)) (ms : List (Nat × Mask)) :
    c.writeRegs vs ms = { c with vits := (c.writeRegs vs ms).vits, masks := (c.writeRegs vs ms).masks } := by
  have hv : ∀ (vs : List (Nat × List Word)) (c : Cell), vs.foldl (fun c p => c.setVit p.1 p.2) c =
      { c with vits := (vs.foldl (fun c p => c.setVit p.1 p.2) c).vits } := by
    intro vs
    induction vs with
    | nil => intro c; rfl
    | cons v vs ih => intro c; rw [List.foldl_cons, ih (c.setVit v.1 v.2)]; rfl
  have hm : ∀ (ms : List (Nat × Mask)) (c : Cell), ms.foldl (fun c p => c.setMask p.1 p.2) c =
      { c with masks := (ms.foldl (fun c p => c.setMask p.1 p.2) c).masks } := by
    intro ms
    induction ms with
    | nil => intro c; rfl
    | cons v vs ih => intro c; rw [List.foldl_cons, ih (c.setMask v.1 v.2)]; rfl
  unfold Cell.writeRegs
  rw [hm, hv]

/-- A cell that differs in its registers still does so with a slot changed. -/
theorem Cell.setSlot_frame {c d : Cell} (h : d = { c with vits := d.vits, masks := d.masks }) (k : Nat) (t : Slot) :
    d.setSlot k t = { c with vits := (d.setSlot k t).vits, masks := (d.setSlot k t).masks, slots := (d.setSlot k t).slots } := by
  cases d
  simp only [Cell.mk.injEq] at h
  simp [Cell.setSlot, h]

@[simp] theorem Cell.writeRegs_slots (c : Cell) (vs : List (Nat × List Word)) (ms : List (Nat × Mask)) :
    (c.writeRegs vs ms).slots = c.slots := by rw [Cell.writeRegs_frame]

@[simp] theorem Cell.slot_writeRegs (c : Cell) (vs : List (Nat × List Word)) (ms : List (Nat × Mask)) (k : Nat) :
    (c.writeRegs vs ms).slot k = c.slot k := by simp [Cell.slot]

/-- A vitrine that no write names stays. -/
theorem Cell.vit_writeRegs (c : Cell) (vs : List (Nat × List Word)) (ms : List (Nat × Mask)) (i : Nat)
    (h : i ∉ vs.map Prod.fst) : (c.writeRegs vs ms).vit i = c.vit i := by
  have hm : ∀ (ms : List (Nat × Mask)) (c : Cell), (ms.foldl (fun c p => c.setMask p.1 p.2) c).vit i = c.vit i := by
    intro ms
    induction ms with
    | nil => intro c; rfl
    | cons v vs ih => intro c; rw [List.foldl_cons, ih]; rfl
  have hv : ∀ (vs : List (Nat × List Word)) (c : Cell), i ∉ vs.map Prod.fst →
      (vs.foldl (fun c p => c.setVit p.1 p.2) c).vit i = c.vit i := by
    intro vs
    induction vs with
    | nil => intro c _; rfl
    | cons v vs ih =>
      intro c h
      simp only [List.map_cons, List.mem_cons, not_or] at h
      rw [List.foldl_cons, ih _ h.2, Cell.vit_setVit_other _ _ _ _ h.1]
  unfold Cell.writeRegs
  rw [hm, hv vs c h]

/-- A mask that no write names stays. -/
theorem Cell.mask_writeRegs (c : Cell) (vs : List (Nat × List Word)) (ms : List (Nat × Mask)) (i : Nat)
    (h : i ∉ ms.map Prod.fst) : (c.writeRegs vs ms).mask i = c.mask i := by
  have hv : ∀ (vs : List (Nat × List Word)) (c : Cell), (vs.foldl (fun c p => c.setVit p.1 p.2) c).mask i = c.mask i := by
    intro vs
    induction vs with
    | nil => intro c; rfl
    | cons v vs ih => intro c; rw [List.foldl_cons, ih]; rfl
  have hm : ∀ (ms : List (Nat × Mask)) (c : Cell), i ∉ ms.map Prod.fst →
      (ms.foldl (fun c p => c.setMask p.1 p.2) c).mask i = c.mask i := by
    intro ms
    induction ms with
    | nil => intro c _; rfl
    | cons v vs ih =>
      intro c h
      simp only [List.map_cons, List.mem_cons, not_or] at h
      rw [List.foldl_cons, ih _ h.2, Cell.mask_setMask_other _ _ _ _ h.1]
  unfold Cell.writeRegs
  rw [hm ms _ h, hv]

end Sys2Proof.Machine

namespace Sys2Proof

open Sys2Proof.Machine

/-! ### Issue -/

/-- The command of an instruction is its row's issue. -/
theorem exec_cmdOf (o : TileOp) (a : Site) (pro : Prologue) (s : State) (ho : o.isFeed = false) :
    exec (cmdOf o a pro) s = onSlot s a (issueRow o.row) := by
  cases o <;> first | exact Bool.noConfusion ho | rfl

/-- That of a feed request first brings its prologue. -/
theorem exec_cmdOf_feed (o : TileOp) (a : Site) (pro : Prologue) (s : State) (ho : o.isFeed = true) :
    exec (cmdOf o a pro) s = onSlot s a (issueFeed pro) := by
  cases o <;> first | exact Bool.noConfusion ho | rfl

theorem TileOp.row_feed {o : TileOp} (ho : o.isFeed = true) : o.row = .vldFeed := by
  cases o <;> first | exact Bool.noConfusion ho | rfl

/-- A close of the channel is in progress on some cell (R134). -/
theorem Inst.closing_iff (x : Inst) (v : Nat) :
    x.closing v = true ↔ ∃ n, ∃ p ∈ (x.cell n).casks, p.2.closing = true ∧ p.2.owner = v := by
  have hl : ∀ n, ∀ p ∈ (x.cell n).casks, n ∈ x.liveCells := by
    intro n p hp
    by_contra hn
    have : ∀ t : Tbl Cell, n ∉ t.map Prod.fst → Tbl.get Cell.reset t n = Cell.reset := by
      intro t
      induction t with
      | nil => intro _; rfl
      | cons q t ih =>
        intro h
        simp only [List.map_cons, List.mem_cons, not_or] at h
        simp only [Tbl.get]
        rw [if_neg (Ne.symm h.1), ih h.2]
    rw [Inst.cell, this x.cells hn] at hp
    simp [Cell.reset] at hp
  simp only [Inst.closing, List.any_eq_true, Bool.and_eq_true, decide_eq_true_eq]
  constructor
  · rintro ⟨n, -, p, h1, h2⟩; exact ⟨n, p, h1, h2⟩
  · rintro ⟨n, p, h1, h2⟩; exact ⟨n, hl n p h1, p, h1, h2⟩

/-- Writing a cell back with the same casks closes nothing. -/
theorem Inst.closing_setCell (x : Inst) (n v : Nat) (c : Cell) (h : c.casks = (x.cell n).casks) :
    (x.setCell n c).closing v = x.closing v := by
  have hc : ∀ m, ((x.setCell n c).cell m).casks = (x.cell m).casks := by
    intro m
    by_cases hm : m = n
    · subst hm; rw [Inst.cell_setCell, h]
    · rw [Inst.cell_setCell_other _ _ _ _ hm]
  rw [Bool.eq_iff_iff, Inst.closing_iff, Inst.closing_iff]
  simp only [hc]

/-- What `Ready` says lets the instruction issue. -/
theorem Ready.mayIssue {s : State} {a : Site} {x : Inst} {o : TileOp} (h : Ready s a x o) :
    (pureRun x).mayIssue a.cell a.slot o = true := by
  obtain ⟨⟨-, hw⟩, -, hu, hp, hr, -, hv, he, hd, hc, -⟩ := h
  have hrun := CellUp.cellRuns hw hu
  simp only [Run.mayIssue, pureRun, hrun, Bool.true_and, Bool.and_eq_true, Bool.not_eq_true', Bool.and_eq_false_iff]
  refine ⟨⟨⟨⟨⟨decide_eq_true hp, decide_eq_true hr⟩, ?_⟩, ?_⟩, hd⟩, hc⟩
  · show x.lets (x.slot a.cell a.slot) = true
    simp [Inst.lets, hv]
  · show (x.slot a.cell a.slot).inTile = false ∨ (x.slot a.cell a.slot).atEdge = false
    rcases he with he | he
    · exact .inl (by simp [Slot.inTile, he])
    · exact .inr he

theorem Ready.injected {s : State} {a : Site} {x : Inst} {o : TileOp} (h : Ready s a x o) : x.flt.injected = none :=
  h.2.2.2.2.2.2.2.2.2.2

/-- A ready instruction that is no feed request issues. -/
theorem Ready.exec {s : State} {a : Site} {x : Inst} {o : TileOp} {pro : Prologue} (h : Ready s a x o) (ho : o.isFeed = false) :
    exec (cmdOf o a pro) s = .next (s.runAt a.inst x fun e x => (pureRun x).issue e a.cell a.slot o) := by
  rw [exec_cmdOf _ _ _ _ ho, onSlot_some _ h.1.1 h.2.1 h.injected]
  have hn : ((pureRun x).slot a.cell a.slot).nextOp = some o := h.2.2.2.2.2.1
  simp [State.runAt, issueRow, hn, h.mayIssue]

/-- A feed request with the prologue that its slot holds issues. -/
theorem Ready.exec_feed {s : State} {a : Site} {x : Inst} {o : TileOp} (h : Ready s a x o) (ho : o.isFeed = true) :
    Machine.exec (cmdOf o a (x.slot a.cell a.slot).prologue) s = .next (s.runAt a.inst x fun e x =>
      (pureRun (x.setSlot a.cell a.slot (x.slot a.cell a.slot))).issue e a.cell a.slot o) := by
  rw [exec_cmdOf_feed _ _ _ _ ho, onSlot_some _ h.1.1 h.2.1 h.injected]
  have hc : (x.cell a.cell).setSlot a.slot (x.slot a.cell a.slot) = x.cell a.cell := by
    simp only [Cell.setSlot, Inst.slot, Cell.slot, List.getD_eq_getElem?_getD]
    by_cases hk : a.slot < (x.cell a.cell).slots.length
    · simp [hk]
    · rw [List.set_eq_of_length_le (by omega)]
  have hx : x.setSlot a.cell a.slot (x.slot a.cell a.slot) = x.setCell a.cell (x.cell a.cell) := congrArg _ hc
  have hm : (pureRun (x.setCell a.cell (x.cell a.cell))).mayIssue a.cell a.slot o = true := by
    have hm0 := h.mayIssue
    have hcl := Inst.closing_setCell x a.cell (ownerOf (x.slot a.cell a.slot).launch) _ rfl
    simp only [Run.mayIssue, pureRun, Run.slot, Inst.slot, Inst.cell_setCell] at hm0 hcl ⊢
    have hr : (x.setCell a.cell (x.cell a.cell)).cellRuns a.cell = x.cellRuns a.cell := by
      simp only [Inst.cellRuns, Inst.cell_setCell]; rfl
    rw [hcl, hr]
    exact hm0
  have hn : ((pureRun (x.setCell a.cell (x.cell a.cell))).slot a.cell a.slot).nextOp = some o := by
    simpa [pureRun, Run.slot, Inst.slot] using h.2.2.2.2.2.1
  have hmod : (pureRun x).modSlot a.cell a.slot (fun s => { s with prologue := (x.slot a.cell a.slot).prologue })
      = pureRun (x.setCell a.cell (x.cell a.cell)) := by
    rw [← hx]; rfl
  simp only [State.runAt, issueFeed, hmod, hn, TileOp.row_feed ho, hm, hx]
  simp

/-- A slot that runs a program is one of the cell's slots. -/
theorem Ready.slot_lt {s : State} {a : Site} {x : Inst} {o : TileOp} (h : Ready s a x o) :
    a.slot < (x.cell a.cell).slots.length := by
  apply Cell.slot_lt
  intro e
  have := h.2.2.2.1
  simp [Inst.slot, e, Slot.idle] at this

/-- An instruction that asks nothing of memory is no feed request. -/
theorem not_feed_of_lane {m : MemEnv} {o : TileOp} (hm : memAsk m o = none) : o.isFeed = false := by
  cases o <;> first | rfl | simp [memAsk] at hm

/-- An instruction that works on registers alone and has no error writes them and moves its slot on. -/
theorem Ready.lane {s : State} {a : Site} {x : Inst} {o : TileOp} {out : LaneOut} (h : Ready s a x o)
    (hm : memAsk ((pureRun x).memEnv a.cell a.slot) o = none)
    (ho : laneOp x.stream.tabs (ownerOf (x.slot a.cell a.slot).launch) (x.cell a.cell) (x.slot a.cell a.slot) o = some (.ok out)) :
    Machine.exec (cmdOf o a) s = .next (s.setInst a.inst (x.setCell a.cell (((x.cell a.cell).writeRegs out.vits out.masks).setSlot
      a.slot ((x.slot a.cell a.slot).addLed out.led).next))) := by
  rw [h.exec (not_feed_of_lane hm)]
  congr 1
  apply State.runAt_pure
  have ho' : laneOp (pureRun x).x.stream.tabs (ownerOf (((pureRun x).cell a.cell).slot a.slot).launch) ((pureRun x).cell a.cell)
      (((pureRun x).cell a.cell).slot a.slot) o = some (.ok out) := ho
  simp only [Run.issue, hm, ho']
  simp only [Run.laneIssue, Cell.slot_writeRegs]
  rfl

/-- The statement about such an instruction follows from its output. -/
theorem LaneRun.of_out {s : State} {a : Site} {x : Inst} {o : TileOp} {out : LaneOut} {vs ms : List Nat} {led : Led}
    {p : Cell → Prop} (h : Ready s a x o) (hm : memAsk ((pureRun x).memEnv a.cell a.slot) o = none)
    (ho : laneOp x.stream.tabs (ownerOf (x.slot a.cell a.slot).launch) (x.cell a.cell) (x.slot a.cell a.slot) o = some (.ok out))
    (hv : ∀ i ∈ out.vits.map Prod.fst, i ∈ vs) (hk : ∀ i ∈ out.masks.map Prod.fst, i ∈ ms) (hl : out.led = led)
    (hp : p (((x.cell a.cell).writeRegs out.vits out.masks).setSlot a.slot ((x.slot a.cell a.slot).addLed led).next)) :
    LaneRun o s a x vs ms led p := by
  subst hl
  refine ⟨_, h.lane hm ho, ⟨rfl, fun m hne => Inst.cell_setCell_other _ _ _ _ hne⟩, ?_, ?_, ?_⟩
  · simp only [Inst.cell_setCell]
    refine ⟨?_, fun i hi => ?_, fun i hi => ?_, fun j hj => ?_⟩
    · exact Cell.setSlot_frame (Cell.writeRegs_frame ..) _ _
    · rw [Cell.vit_setSlot, Cell.vit_writeRegs _ _ _ _ fun hh => hi (hv i hh)]
    · rw [Cell.mask_setSlot, Cell.mask_writeRegs _ _ _ _ fun hh => hi (hk i hh)]
    · rw [Cell.slot_setSlot_other _ _ _ _ hj, Cell.slot_writeRegs]
  · simp only [Inst.slot, Inst.cell_setCell]
    rw [Cell.slot_setSlot _ _ _ (by simpa using h.slot_lt)]
  · simpa only [Inst.cell_setCell] using hp

/-- An instruction that changes its cell alone. -/
theorem Ready.cell_run {s : State} {a : Site} {x : Inst} {o : TileOp} {d : Cell} {pro : Prologue} (h : Ready s a x o) (ho : o.isFeed = false)
    (hi : (pureRun x).issue (s.env a.inst) a.cell a.slot o = pureRun (x.setCell a.cell d)) : CellRun (cmdOf o a pro) s a.at_ x d :=
  (h.exec ho).trans (congrArg _ (State.runAt_pure hi))

/-- An instruction that changes its slot alone. -/
theorem Ready.slot_run {s : State} {a : Site} {x : Inst} {o : TileOp} {k : Slot} {pro : Prologue} (h : Ready s a x o) (ho : o.isFeed = false)
    (hi : (pureRun x).issue (s.env a.inst) a.cell a.slot o = (pureRun x).setSlot a.cell a.slot k) : SlotRun (cmdOf o a pro) s a x k :=
  h.cell_run ho hi

/-- Writing a cell back before a program ends changes nothing. -/
theorem Run.fail_setCell (r : Run) (n k code i : Nat) (cs : List Nat) :
    (r.setCell n (r.cell n)).fail n k code i cs = r.fail n k code i cs := by
  simp only [Run.fail, Run.endProgram, Run.setCell, Run.cell, Inst.cell_setCell, Inst.setCell_setCell]
  rfl

/-- An instruction that ends with an error of its own. -/
theorem Ready.fails {s : State} {a : Site} {x : Inst} {o : TileOp} {code : Nat} {pro : Prologue} (h : Ready s a x o) (ho : o.isFeed = false)
    (hi : (pureRun x).issue (s.env a.inst) a.cell a.slot o = (pureRun x).failHere a.cell a.slot code) :
    Machine.exec (cmdOf o a pro) s = .next (s.runAt a.inst x fun _ y =>
      (pureRun y).fail a.cell a.slot code (x.slot a.cell a.slot).idx (x.slot a.cell a.slot).counters4) := by
  rw [h.exec ho]
  congr 1
  have hn : (((pureRun x).cell a.cell).slot a.slot).nextOp = some o := h.2.2.2.2.2.1
  have hf : (pureRun x).failHere a.cell a.slot code
      = (pureRun x).fail a.cell a.slot code (x.slot a.cell a.slot).idx (x.slot a.cell a.slot).counters4 := by
    simp only [Run.failHere, hn, ho]
    exact Run.fail_setCell ..
  simp only [State.runAt, hi, hf]

/-- An instruction of the control unit, of the casks or of the drained tiles. -/
theorem issue_control {x : Inst} {e : Env} {n k : Nat} {o : TileOp} (hm : memAsk ((pureRun x).memEnv n k) o = none)
    (hl : laneOp x.stream.tabs (ownerOf (x.slot n k).launch) (x.cell n) (x.slot n k) o = none) :
    (pureRun x).issue e n k o = (pureRun x).control e n k o := by
  have hl' : laneOp (pureRun x).x.stream.tabs (ownerOf (((pureRun x).cell n).slot k).launch) ((pureRun x).cell n)
      (((pureRun x).cell n).slot k) o = none := hl
  simp only [Run.issue, hm, hl']

end Sys2Proof
end

