-- ==== Sys2Proof/Laws/Lanes.lean ====
section
/-! SUPPORT. Operand lists, masks and destination shapes, position by position (R209 to R211, R215), and the lists that lane
computations build. -/

namespace Sys2Proof.Machine

/-! ### Positions -/

theorem flatMap_const_length {α β : Type} (l : List α) (f : α → List β) (n : Nat) (h : ∀ a ∈ l, (f a).length = n) :
    (l.flatMap f).length = n * l.length := by
  induction l with
  | nil => simp
  | cons a l ih =>
    rw [List.flatMap_cons, List.length_append, ih fun b hb => h b (List.mem_cons_of_mem _ hb), h a List.mem_cons_self,
      List.length_cons, Nat.mul_succ, Nat.add_comm]

/-- Element 32 r + c of 32 rows of 32 elements is element c of row r. -/
theorem getElem?_rows {α β : Type} (l : List α) (f : α → List β) (n r c : Nat) (h : ∀ a ∈ l, (f a).length = n) (hc : c < n)
    (hr : r < l.length) : (l.flatMap f)[n * r + c]? = (f l[r])[c]? := by
  induction l generalizing r with
  | nil => simp at hr
  | cons a l ih =>
    rw [List.flatMap_cons]
    cases r with
    | zero => simp only [Nat.mul_zero, Nat.zero_add, List.getElem_cons_zero]; rw [List.getElem?_append_left]; rw [h a List.mem_cons_self]; exact hc
    | succ r =>
      rw [List.getElem?_append_right (by rw [h a List.mem_cons_self, Nat.mul_succ]; omega)]
      have : n * (r + 1) + c - (f a).length = n * r + c := by rw [h a List.mem_cons_self, Nat.mul_succ]; omega
      rw [this, ih r (fun b hb => h b (List.mem_cons_of_mem _ hb)) (by simpa using hr)]
      simp

theorem getD_of_getElem? {l m : List Word} {i j : Nat} (h : l[i]? = m[j]?) : l.getD i 0#32 = m.getD j 0#32 := by
  simp [List.getD_eq_getElem?_getD, h]

end Sys2Proof.Machine

namespace Sys2Proof

open Sys2Proof.Machine

/-! ### Operands and destinations (R209, R211) -/

theorem opMode_lt (o : Nat) : opMode o < 4 := by simp only [opMode, fld]; omega
theorem opK_lt (o : Nat) : opK o < 32 := by simp only [opK, fld]; omega

theorem opMode_cases (o : Nat) : opMode o = 0 ∨ opMode o = 1 ∨ opMode o = 2 ∨ opMode o = 3 := by
  have := opMode_lt o
  omega

theorem srcList_length (d : Cell) (launch : List Word) (o : Nat) : (d.srcList launch o).length = 1024 := by
  simp only [Cell.srcList]
  split
  · exact d.vit_length _
  · rw [flatMap_const_length (n := 32)]
    · rw [List.length_range]
    · intro a _
      rw [List.length_take, List.length_drop, d.vit_length]
      have := opK_lt o
      omega
  · rw [flatMap_const_length (n := 32)]
    · rw [List.length_range]
    · intro a _
      rw [List.length_replicate]
  · rw [List.length_replicate]

/-- A source operand supplies its element at every position. -/
theorem srcList_elem (d : Cell) (launch : List Word) (o r c : Nat) (hr : r < 32) (hc : c < 32) :
    elemAt (d.srcList launch o) r c = srcElem d launch o r c := by
  have hk := opK_lt o
  rcases opMode_cases o with h | h | h | h <;> simp only [Cell.srcList, srcElem, h]
  · rw [elemAt, elemAt]
    apply getD_of_getElem?
    rw [getElem?_rows (n := 32) _ _ _ _ _ hc (by simpa using hr)]
    · rw [List.getElem?_take_of_lt hc, List.getElem?_drop]
    · intro a _
      rw [List.length_take, List.length_drop, d.vit_length]
      omega
  · rw [elemAt, elemAt]
    rw [List.getD_eq_getElem?_getD, getElem?_rows (n := 32) _ _ _ _ _ hc (by simpa using hr)]
    · rw [List.getElem?_replicate_of_lt hc, List.getElem_range]
      rfl
    · intro a _
      rw [List.length_replicate]
  · rw [elemAt, List.getD_eq_getElem?_getD, List.getElem?_replicate_of_lt (by omega)]
    rfl

theorem fullMask_bit (i : Nat) (h : i < 1024) : fullMask.getLsbD i = true := by
  rw [fullMask, BitVec.getLsbD_allOnes]
  exact decide_eq_true h

theorem mkMask_bit (d : Cell) (mk r c : Nat) (hr : r < 32) (hc : c < 32) :
    (d.mkMask mk).getLsbD (32 * r + c) = maskOn d mk r c := by
  simp only [Cell.mkMask, maskOn]
  split
  · simp_all
  · rename_i h
    rw [fullMask_bit _ (by omega)]
    simp [h]

/-- Bit i of a mask built by joining a bit for each listed position. -/
theorem foldl_or_bit {α : Type} (l : List α) (f : α → Mask) (m : Mask) (i : Nat) :
    (l.foldl (fun m a => m ||| f a) m).getLsbD i = (m.getLsbD i || l.any fun a => (f a).getLsbD i) := by
  induction l generalizing m with
  | nil => simp
  | cons a l ih => rw [List.foldl_cons, ih, BitVec.getLsbD_or, List.any_cons, Bool.or_assoc]

theorem ofNat_pow_bit (i j : Nat) (h : i < 1024) : (BitVec.ofNat 1024 (2 ^ j)).getLsbD i = decide (i = j) := by
  rw [BitVec.getLsbD_ofNat, Nat.testBit_two_pow]
  by_cases e : j = i <;> simp_all [eq_comm]

/-- Bit i of a mask built by joining the bits of the listed positions that satisfy P. -/
theorem foldl_if_bit {α : Type} (P : α → Bool) (f : α → Nat) (l : List α) (m : Mask) (i : Nat) (hi : i < 1024) :
    (l.foldl (fun (m : Mask) a => if P a then m ||| BitVec.ofNat 1024 (2 ^ f a) else m) m).getLsbD i =
      (m.getLsbD i || l.any fun a => P a && decide (i = f a)) := by
  induction l generalizing m with
  | nil => simp
  | cons a l ih =>
    rw [List.foldl_cons, ih, List.any_cons]
    split
    · rw [BitVec.getLsbD_or, ofNat_pow_bit _ _ hi]
      simp_all [Bool.or_assoc]
    · simp_all

/-- The positions of a destination shape. -/
theorem shapeMask_bit (o r c : Nat) (hr : r < 32) (hc : c < 32) : (shapeMask o).getLsbD (32 * r + c) = inShape o r c := by
  have hk := opK_lt o
  rcases opMode_cases o with h | h | h | h <;> simp only [shapeMask, inShape, h]
  · exact fullMask_bit _ (by omega)
  · rw [BitVec.getLsbD_ofNat, Nat.testBit_shiftLeft, Nat.testBit_two_pow_sub_one]
    by_cases e : r = opK o
    · subst e
      have : 32 * opK o ≤ 32 * opK o + c := by omega
      simp [hc]
      omega
    · rw [beq_eq_false_iff_ne.mpr e]
      rcases Nat.lt_or_gt_of_ne e with h' | h'
      · have : ¬(32 * opK o ≤ 32 * r + c) := by omega
        simp [this]
      · have : ¬(32 * r + c - 32 * opK o < 32) := by omega
        simp [this]
  · rw [foldl_or_bit (f := fun r => BitVec.ofNat 1024 (2 ^ (32 * r + opK o))), show (0 : Mask).getLsbD (32 * r + c) = false from BitVec.getLsbD_zero, Bool.false_or,
      Bool.eq_iff_iff, List.any_eq_true, beq_iff_eq]
    constructor
    · rintro ⟨r', hr', hb⟩
      rw [ofNat_pow_bit _ _ (by omega)] at hb
      have := of_decide_eq_true hb
      have := List.mem_range.mp hr'
      omega
    · intro e
      exact ⟨r, List.mem_range.mpr hr, by rw [ofNat_pow_bit _ _ (by omega)]; exact decide_eq_true (by omega)⟩
  · exact fullMask_bit _ (by omega)

/-- The lanes of an instruction that names no descriptor. -/
theorem mkTail_bit (d : Cell) (k : Slot) (mk r c : Nat) (hr : r < 32) (hc : c < 32) :
    (d.mkMask mk &&& k.loopTail).getLsbD (32 * r + c) = laneOpen d k mk r c := by
  rw [BitVec.getLsbD_and, mkMask_bit _ _ _ _ hr hc, laneOpen]

theorem enable_bit (d : Cell) (k : Slot) (mk dst r c : Nat) (hr : r < 32) (hc : c < 32) :
    (d.mkMask mk &&& k.loopTail &&& shapeMask dst).getLsbD (32 * r + c) = (laneOpen d k mk r c && inShape dst r c) := by
  rw [BitVec.getLsbD_and, mkTail_bit _ _ _ _ _ hr hc, shapeMask_bit _ _ _ hr hc]

/-! ### Lane lists -/

theorem elemAt_eq {l : List Word} {r c : Nat} (h : 32 * r + c < l.length) : elemAt l r c = l[32 * r + c] := by
  simp [elemAt, List.getD_eq_getElem?_getD, List.getElem?_eq_getElem h]

/-- A lane computation, element by element. -/
theorem mapLanes_elem (en : Mask) (old a b c : List Word) (f : Word → Word → Word → Word × Led) (r j : Nat) (hr : r < 32)
    (hj : j < 32) (ho : old.length = 1024) (ha : a.length = 1024) (hb : b.length = 1024) (hc : c.length = 1024) :
    elemAt (mapLanes en old a b c f).1 r j =
      if en.getLsbD (32 * r + j) then (f (elemAt a r j) (elemAt b r j) (elemAt c r j)).1 else elemAt old r j := by
  have hi : 32 * r + j < 1024 := by omega
  have e (l : List Word) (hl : l.length = 1024) : elemAt l r j = l[32 * r + j] := elemAt_eq (by omega)
  rw [e a ha, e b hb, e c hc, e old ho, elemAt_eq (by simp [mapLanes]; omega)]
  simp only [mapLanes, List.getElem_map, List.getElem_zipIdx, List.getElem_zip, Nat.zero_add]
  split <;> rfl

theorem mapLanes_length (en : Mask) (old a b c : List Word) (f : Word → Word → Word → Word × Led) (ho : old.length = 1024)
    (ha : a.length = 1024) (hb : b.length = 1024) (hc : c.length = 1024) : (mapLanes en old a b c f).1.length = 1024 := by
  simp [mapLanes, ho, ha, hb, hc]

/-- The ledger update of a lane computation. -/
theorem mapLanes_led (en : Mask) (old a b c : List Word) (f : Word → Word → Word → Word × Led)
    (ho : old.length = 1024) (ha : a.length = 1024) (hb : b.length = 1024) (hc : c.length = 1024) :
    (mapLanes en old a b c f).2 = laneSum fun r j =>
      if en.getLsbD (32 * r + j) then (f (elemAt a r j) (elemAt b r j) (elemAt c r j)).2 else Led.zero := by
  simp only [mapLanes, laneSum]
  refine congrArg Led.sum ?_
  apply List.ext_getElem
  · simp [ho, ha, hb, hc]
  · intro p h1 h2
    have hp : p < 1024 := by simpa using h2
    have hd : 32 * (p / 32) + p % 32 = p := Nat.div_add_mod p 32
    have e (l : List Word) (hl : l.length = 1024) : elemAt l (p / 32) (p % 32) = l[p]'(hl ▸ hp) := by
      rw [elemAt_eq (by omega)]
      simp only [hd]
    rw [List.getElem_map, List.getElem_map, List.getElem_map, List.getElem_zipIdx, List.getElem_range, hd, e a ha, e b hb, e c hc]
    simp only [List.getElem_zip, Nat.zero_add]
    split <;> rfl

theorem pickLanes_elem (en : Mask) (old new : List Word) (r j : Nat) (hr : r < 32) (hj : j < 32) (ho : old.length = 1024)
    (hn : new.length = 1024) :
    elemAt (pickLanes en old new) r j = if en.getLsbD (32 * r + j) then elemAt new r j else elemAt old r j := by
  have e (l : List Word) (hl : l.length = 1024) : elemAt l r j = l[32 * r + j] := elemAt_eq (by omega)
  rw [e new hn, e old ho, elemAt_eq (by simp [pickLanes]; omega)]
  simp only [pickLanes, List.getElem_map, List.getElem_zipIdx, List.getElem_zip, Nat.zero_add]

theorem pickLanes_length (en : Mask) (old new : List Word) (ho : old.length = 1024) (hn : new.length = 1024) :
    (pickLanes en old new).length = 1024 := by simp [pickLanes, ho, hn]

theorem lanes_length : lanes.length = 1024 := by
  rw [lanes, flatMap_const_length (n := 32)]
  · rw [List.length_range]
  · intro a _
    rw [List.length_map, List.length_range]

/-- Lane 32 r + c of the lane list. -/
theorem lanes_get (r c : Nat) (hr : r < 32) (hc : c < 32) : lanes[32 * r + c]? = some (r, c) := by
  rw [lanes, getElem?_rows (n := 32) _ _ _ _ _ hc (by simpa using hr)]
  · simp [hc]
  · intro a _
    rw [List.length_map, List.length_range]

/-- A list computed over all lanes. -/
theorem lanes_map_elem (f : Nat × Nat → Word) (r c : Nat) (hr : r < 32) (hc : c < 32) : elemAt (lanes.map f) r c = f (r, c) := by
  rw [elemAt, List.getD_eq_getElem?_getD, List.getElem?_map, lanes_get _ _ hr hc]
  rfl

/-! ### One vitrine written -/

/-- An instruction whose output is one vitrine computed lane by lane. -/
theorem VitRun.of_lanes {s : State} {a : Site} {x : Inst} {o : TileOp} {dst mk : Nat} {f : Nat → Nat → Word × Led}
    {v : List Word} {led : Led} (h : Ready s a x o) (hm : memAsk ((pureRun x).memEnv a.cell a.slot) o = none)
    (ho : laneOp x.stream.tabs (ownerOf (x.slot a.cell a.slot).launch) (x.cell a.cell) (x.slot a.cell a.slot) o =
      some (.ok (LaneOut.vit (opVit dst) v led)))
    (hv : v.length = 1024)
    (he : ∀ r c, r < 32 → c < 32 → elemAt v r c =
      if laneOpen (x.cell a.cell) (x.slot a.cell a.slot) mk r c && inShape dst r c then (f r c).1
      else elemAt ((x.cell a.cell).vit (opVit dst)) r c)
    (hl : led = laneSum fun r c =>
      if laneOpen (x.cell a.cell) (x.slot a.cell a.slot) mk r c && inShape dst r c then (f r c).2 else Led.zero) :
    VitRun o s a x dst mk f := by
  unfold VitRun
  refine LaneRun.of_out (vs := [opVit dst]) (ms := []) h hm ho (by simp [LaneOut.vit]) (by simp [LaneOut.vit]) hl fun r c hr hc => ?_
  rw [← he r c hr hc]
  simp only [LaneOut.vit, Cell.writeRegs, List.foldl_cons, List.foldl_nil, Cell.vit_setSlot]
  rw [Cell.vit_setVit _ _ _ hv]

/-- Two lane sums agree when their updates agree at every position. -/
theorem laneSum_congr {f g : Nat → Nat → Led} (h : ∀ r c, r < 32 → c < 32 → f r c = g r c) : laneSum f = laneSum g := by
  refine congrArg Led.sum (List.map_congr_left fun p hp => ?_)
  have hp := List.mem_range.mp hp
  exact h _ _ (by omega) (by omega)

/-- An instruction that computes its lanes from three operand fields. -/
theorem VitRun.of_map {s : State} {a : Site} {x : Inst} {o : TileOp} {dst mk p q u : Nat}
    {f : Word → Word → Word → Word × Led} {g : Nat → Nat → Word × Led}
    (h : Ready s a x o) (hm : memAsk ((pureRun x).memEnv a.cell a.slot) o = none)
    (ho : laneOp x.stream.tabs (ownerOf (x.slot a.cell a.slot).launch) (x.cell a.cell) (x.slot a.cell a.slot) o =
      (let d := x.cell a.cell
       let r := mapLanes (d.mkMask mk &&& (x.slot a.cell a.slot).loopTail &&& shapeMask dst) (d.vit (opVit dst))
         (d.srcList (x.slot a.cell a.slot).launch p) (d.srcList (x.slot a.cell a.slot).launch q)
         (d.srcList (x.slot a.cell a.slot).launch u) f
       some (.ok (LaneOut.vit (opVit dst) r.1 r.2))))
    (hg : ∀ r c, g r c = f (srcElem (x.cell a.cell) (x.slot a.cell a.slot).launch p r c)
      (srcElem (x.cell a.cell) (x.slot a.cell a.slot).launch q r c)
      (srcElem (x.cell a.cell) (x.slot a.cell a.slot).launch u r c)) :
    VitRun o s a x dst mk g := by
  refine VitRun.of_lanes h hm ho (mapLanes_length _ _ _ _ _ _ (Cell.vit_length ..) (srcList_length ..) (srcList_length ..)
    (srcList_length ..)) (fun r c hr hc => ?_) ?_
  · rw [mapLanes_elem _ _ _ _ _ _ _ _ hr hc (Cell.vit_length ..) (srcList_length ..) (srcList_length ..) (srcList_length ..),
      enable_bit _ _ _ _ _ _ hr hc, hg, srcList_elem _ _ _ _ _ hr hc, srcList_elem _ _ _ _ _ hr hc, srcList_elem _ _ _ _ _ hr hc]
  · rw [mapLanes_led _ _ _ _ _ _ (Cell.vit_length ..) (srcList_length ..) (srcList_length ..) (srcList_length ..)]
    refine laneSum_congr fun r c hr hc => ?_
    rw [enable_bit _ _ _ _ _ _ hr hc, hg, srcList_elem _ _ _ _ _ hr hc, srcList_elem _ _ _ _ _ hr hc, srcList_elem _ _ _ _ _ hr hc]

/-- An instruction that writes, without a ledger update, the enabled lanes of a list. -/
theorem VitRun.of_pick {s : State} {a : Site} {x : Inst} {o : TileOp} {dst mk : Nat} {new : List Word} {g : Nat → Nat → Word}
    (h : Ready s a x o) (hm : memAsk ((pureRun x).memEnv a.cell a.slot) o = none) (hn : new.length = 1024)
    (ho : laneOp x.stream.tabs (ownerOf (x.slot a.cell a.slot).launch) (x.cell a.cell) (x.slot a.cell a.slot) o =
      some (.ok (LaneOut.vit (opVit dst) (pickLanes ((x.cell a.cell).mkMask mk &&& (x.slot a.cell a.slot).loopTail &&&
        shapeMask dst) ((x.cell a.cell).vit (opVit dst)) new) Led.zero)))
    (hg : ∀ r c, r < 32 → c < 32 → elemAt new r c = g r c) :
    VitRun o s a x dst mk fun r c => (g r c, Led.zero) := by
  refine VitRun.of_lanes h hm ho (pickLanes_length _ _ _ (Cell.vit_length ..) hn) (fun r c hr hc => ?_) ?_
  · rw [pickLanes_elem _ _ _ _ _ hr hc (Cell.vit_length ..) hn, enable_bit _ _ _ _ _ _ hr hc, hg r c hr hc]
  · symm
    have : ∀ l : List Nat, Led.sum (l.map fun _ => Led.zero) = Led.zero := by
      intro l
      induction l with
      | nil => rfl
      | cons n l ih => rw [List.map_cons]; exact ih
    exact (laneSum_congr (g := fun _ _ => Led.zero) fun r c _ _ => ite_self _).trans (this _)

end Sys2Proof
end

