-- ==== Sys2Proof/Laws/Memory.lean ====
section
/-! SUPPORT. Translation, reads and placements of an instruction that works on memory, where none of them waits or fails
(R135, R296 to R301). -/

namespace Sys2Proof.Machine

/-- Translation depends on the translation cache and the window placement alone. -/
theorem Inst.transPages_congr (x y : Inst) (h : y.tlb = x.tlb) (hw : y.winBase = x.winBase) (n : Nat) (asid : BitVec 16) (w : Bool) (l : List Nat) :
    y.transPages n asid w l = x.transPages n asid w l := by
  induction l with
  | nil => rw [Inst.transPages, Inst.transPages]
  | cons v vs ih => rw [Inst.transPages, Inst.transPages, ih, Inst.tlbFind, Inst.tlbFind, h]; simp only [Inst.aperture, hw]

theorem Inst.trans_congr (x y : Inst) (h : y.tlb = x.tlb) (hw : y.winBase = x.winBase) (n : Nat) (asid : BitVec 16) (w : Bool) (l : List Adr) :
    y.trans n asid w l = x.trans n asid w l := by
  rw [Inst.trans, Inst.trans, Inst.transPages_congr _ _ h hw]

theorem Cell.caskHit_congr (c d : Cell) (h : d.casks = c.casks) (r : Option Nat) (o : List Nat) :
    d.caskHit r o = c.caskHit r o := by simp [Cell.caskHit, h]

theorem Cell.addsWrite_congr (c d : Cell) (h : d.casks = c.casks) (k : Nat) (o : List Nat) :
    d.addsWrite k o = c.addsWrite k o := by simp [Cell.addsWrite, h]

/-- Who the slot's present instruction reads casks as (R135). -/
def Slot.reader (s : Slot) : Option Nat :=
  if (match s.nextOp with
    | some o => o.isVld
    | none => false) = true then some (ownerOf s.launch) else none

theorem Slot.reader_eq {s : Slot} {o : TileOp} (h : s.nextOp = some o) : s.reader = readerOf o s := by
  simp [Slot.reader, readerOf, h]

/-- Slot k of cell n once it has used the translations u. -/
def Inst.usedSlot (x : Inst) (n k : Nat) (u : List (Nat × Nat)) : Slot :=
  { (x.cell n).slot k with tile := { ((x.cell n).slot k).tile with used := u } }

/-- Instance x once slot k of cell n has used the translations u. -/
def Inst.usedAt (x : Inst) (n k : Nat) (u : List (Nat × Nat)) : Inst :=
  x.setCell n ((x.cell n).setSlot k (x.usedSlot n k u))

/-- Instance z is x, but that slot k of cell n has used the translations u. -/
structure UsedLike (x z : Inst) (n k : Nat) (u : List (Nat × Nat)) : Prop where
  set_cell : ∀ c, z.setCell n c = x.setCell n c
  cell : z.cell n = (x.cell n).setSlot k (x.usedSlot n k u)
  tlb : z.tlb = x.tlb
  win : z.winBase = x.winBase
  vc : ∀ v, z.vc v = x.vc v

theorem UsedLike.usedAt (x : Inst) (n k : Nat) (u : List (Nat × Nat)) : UsedLike x (x.usedAt n k u) n k u :=
  ⟨fun c => by simp [Inst.usedAt], by simp [Inst.usedAt], rfl, rfl, fun _ => rfl⟩

theorem UsedLike.self (x : Inst) (n k : Nat) :
    UsedLike x x n k ((x.cell n).slot k).tile.used := by
  refine ⟨fun _ => rfl, ?_, rfl, rfl, fun _ => rfl⟩
  have : x.usedSlot n k ((x.cell n).slot k).tile.used = (x.cell n).slot k := rfl
  rw [this, Cell.setSlot_slot]

theorem UsedLike.slot {x z : Inst} {n k : Nat} {u : List (Nat × Nat)} (l : UsedLike x z n k u)
    (hk : k < (x.cell n).slots.length) : z.slot n k = x.usedSlot n k u := by
  rw [Inst.slot, l.cell, Cell.slot_setSlot _ _ _ hk]

theorem UsedLike.casks {x z : Inst} {n k : Nat} {u : List (Nat × Nat)} (l : UsedLike x z n k u) :
    (z.cell n).casks = (x.cell n).casks := by simp [l.cell, Cell.setSlot]

/-- A translation that succeeds adds the entries it used to the tile. -/
theorem Run.resolve_ok {e : Env} {x z : Inst} {n k : Nat} {u us ps : List (Nat × Nat)} {as : List Adr} {w : Bool}
    (l : UsedLike x z n k u) (hk : k < (x.cell n).slots.length)
    (ht : x.trans n (x.vc (ownerOf ((x.cell n).slot k).launch)).asid w as = .ok ps us) :
    (pureRun z).resolve e n k w as = .ok (pureRun (x.usedAt n k (u ++ us).eraseDups), ps) := by
  have hs : (pureRun z).slot n k = x.usedSlot n k u := l.slot hk
  have hl : (x.usedSlot n k u).launch = ((x.cell n).slot k).launch := rfl
  simp only [Run.resolve, hs, hl]
  simp only [show (pureRun z).x = z from rfl, l.vc, Inst.trans_congr _ _ l.tlb l.win, ht]
  congr 2
  simp only [Run.modSlot, hs]
  simp only [Run.setSlot, Inst.setSlot, pureRun]
  congr 1
  rw [l.set_cell, l.cell]
  simp [Inst.usedAt, Inst.usedSlot]

/-- A read whose bytes are translated and held. -/
theorem Run.fetch_ok {e : Env} {x z : Inst} {n k : Nat} {u us ps : List (Nat × Nat)} {as : List Adr}
    (l : UsedLike x z n k u) (hk : k < (x.cell n).slots.length)
    (ht : x.trans n (x.vc (ownerOf ((x.cell n).slot k).launch)).asid false as = .ok ps us)
    (hc : (x.cell n).caskHit ((x.cell n).slot k).reader (as.map (offOf ps)) = false)
    (ha : (x.cell n).addsWrite k (as.map (offOf ps)) = false)
    (hl : ∀ b ∈ as, ∃ q ∈ ((x.cell n).slot k).readBuf, q.line = offOf ps b / 64)
    (hr : as = [] ∨ ∀ q ∈ ((x.cell n).slot k).readBuf, q.resp = 0) :
    (pureRun z).fetch e n k as = .ok (pureRun (x.usedAt n k (u ++ us).eraseDups),
      fun a => bufByte ((x.cell n).slot k).readBuf (offOf ps a)) := by
  have h2 : ((pureRun (x.usedAt n k (u ++ us).eraseDups)).cell n).slot k = x.usedSlot n k (u ++ us).eraseDups :=
    (UsedLike.usedAt ..).slot hk
  have h3 : ((pureRun (x.usedAt n k (u ++ us).eraseDups)).cell n).caskHit ((x.cell n).slot k).reader
      (as.map (offOf ps)) = false := by
    rw [← hc]
    exact Cell.caskHit_congr _ _ (UsedLike.usedAt ..).casks _ _
  have h6 : ((pureRun (x.usedAt n k (u ++ us).eraseDups)).cell n).addsWrite k (as.map (offOf ps)) = false := by
    rw [← ha]
    exact Cell.addsWrite_congr _ _ (UsedLike.usedAt ..).casks _ _
  have hb : (x.usedSlot n k (u ++ us).eraseDups).readBuf = ((x.cell n).slot k).readBuf := rfl
  have h4 : missing ((x.cell n).slot k).readBuf (((as.map (offOf ps)).map (· / 64)).eraseDups) = [] := by
    rw [missing, List.filter_eq_nil_iff]
    intro j hm
    simp only [List.mem_eraseDups, List.mem_map] at hm
    obtain ⟨o, ⟨b, hb, rfl⟩, rfl⟩ := hm
    obtain ⟨q, hq1, hq2⟩ := hl b hb
    simp only [Bool.not_eq_true, List.all_eq_false, bne_iff_ne, ne_eq, Decidable.not_not]
    exact ⟨q, hq1, hq2⟩
  have h5 : ((x.cell n).slot k).readBuf.find? (fun b =>
      (((as.map (offOf ps)).map (· / 64)).eraseDups).contains b.line && decide (b.resp ≠ 0)) = none := by
    rw [List.find?_eq_none]
    intro q hm
    rcases hr with rfl | hr
    · simp
    · simp [hr q hm]
  simp only [Run.fetch, Run.resolve_ok l hk ht, h2, h6, hb, h4, h5]
  exact if_neg (Bool.eq_false_iff.mp h3)

/-- A read of no bytes. -/
theorem Run.fetch_nil {e : Env} {x z : Inst} {n k : Nat} {u : List (Nat × Nat)} (l : UsedLike x z n k u)
    (hk : k < (x.cell n).slots.length) :
    (pureRun z).fetch e n k [] = .ok (pureRun (x.usedAt n k u.eraseDups),
      fun a => bufByte ((x.cell n).slot k).readBuf (offOf [] a)) := by
  have := Run.fetch_ok (e := e) (as := []) (us := []) (ps := []) l hk rfl (by simp [Cell.caskHit]) (by simp [Cell.addsWrite]) (by simp) (.inl rfl)
  simpa using this

/-- Output bytes whose addresses are translated and in no cask's range. -/
theorem Run.place_ok {e : Env} {x z : Inst} {n k : Nat} {u us ps : List (Nat × Nat)} {ws : List (Adr × Byte)}
    (l : UsedLike x z n k u) (hk : k < (x.cell n).slots.length)
    (ht : x.trans n (x.vc (ownerOf ((x.cell n).slot k).launch)).asid true (ws.map Prod.fst) = .ok ps us)
    (hc : (x.cell n).caskHit none ((ws.map Prod.fst).map (offOf ps)) = false) :
    (pureRun z).place e n k ws = .ok (pureRun (x.usedAt n k (u ++ us).eraseDups),
      ws.map fun w => { addr := offOf ps w.1, byte := w.2, index := ((x.cell n).slot k).idx }) := by
  have h2 : (pureRun (x.usedAt n k (u ++ us).eraseDups)).slot n k = x.usedSlot n k (u ++ us).eraseDups :=
    (UsedLike.usedAt ..).slot hk
  have h3 : ((pureRun (x.usedAt n k (u ++ us).eraseDups)).cell n).caskHit none (ws.map fun w => offOf ps w.1) = false := by
    rw [List.map_map] at hc
    rw [← hc]
    exact Cell.caskHit_congr _ _ (UsedLike.usedAt ..).casks _ _
  have h4 : ∀ (i : Nat) (l : List (Adr × Byte)),
      (l.zip (l.map fun w => offOf ps w.1)).map (fun p => ({ addr := p.2, byte := p.1.2, index := i } : TileWrite))
        = l.map fun w => { addr := offOf ps w.1, byte := w.2, index := i } := by
    intro i l
    induction l with
    | nil => rfl
    | cons a l ih => simp only [List.map_cons, List.zip_cons_cons, ih]
  simp only [Run.place, Run.resolve_ok l hk ht, h2, h3, h4]
  rfl

theorem Cell.writeRegs_setSlot (c : Cell) (k : Nat) (s : Slot) (vs : List (Nat × List Word)) (ms : List (Nat × Mask)) :
    (c.setSlot k s).writeRegs vs ms = (c.writeRegs vs ms).setSlot k s := by
  have hv : ∀ (vs : List (Nat × List Word)) (c : Cell), vs.foldl (fun c p => c.setVit p.1 p.2) (c.setSlot k s) =
      (vs.foldl (fun (c : Cell) (p : Nat × List Word) => c.setVit p.1 p.2) c).setSlot k s := by
    intro vs
    induction vs with
    | nil => intro c; rfl
    | cons v vs ih => intro c; simp only [List.foldl_cons]; rw [← ih]; rfl
  have hm : ∀ (ms : List (Nat × Mask)) (c : Cell), ms.foldl (fun c p => c.setMask p.1 p.2) (c.setSlot k s) =
      (ms.foldl (fun (c : Cell) (p : Nat × Mask) => c.setMask p.1 p.2) c).setSlot k s := by
    intro vs
    induction vs with
    | nil => intro c; rfl
    | cons v vs ih => intro c; simp only [List.foldl_cons]; rw [← ih]; rfl
  unfold Cell.writeRegs
  rw [hv, hm]

/-- Output applied by a slot that has used the translations u. -/
theorem Run.applyOut_used {x : Inst} {n k : Nat} {u : List (Nat × Nat)} (hk : k < (x.cell n).slots.length)
    (m : MemOut) (ws : List TileWrite) :
    let s := (x.cell n).slot k
    (pureRun (x.usedAt n k u)).applyOut n k m ws = pureRun (x.setCell n (((x.cell n).writeRegs m.vits m.masks).setSlot k
        { s.next with
          tile := { s.tile with led := s.tile.led.add m.led, used := u, writes := s.tile.writes ++ ws } })) := by
  have e : (pureRun (x.usedAt n k u)).cell n = (x.cell n).setSlot k (x.usedSlot n k u) := (UsedLike.usedAt ..).cell
  simp only [Run.applyOut, e, Cell.writeRegs_setSlot]
  rw [Cell.slot_setSlot _ _ _ (by simpa using hk)]
  simp only [Run.setCell, pureRun, Inst.usedAt, Inst.setCell_setCell]
  congr 2
  simp only [Cell.setSlot, Slot.addLed, Slot.next, List.set_set]
  rfl

/-- A feed request applied by a slot that has used the translations u. -/
theorem Run.applyFeed_used {x : Inst} {n k : Nat} {u : List (Nat × Nat)} (hk : k < (x.cell n).slots.length) (m : MemOut) :
    let s := (x.cell n).slot k
    let old := min s.tile.fedOld m.feed.length
    (pureRun (x.usedAt n k u)).applyFeed n k m = pureRun (x.setCell n { ((x.cell n).closeWins k).setSlot k
        { s.next with
          feedNew := if s.tile.given.contains s.tile.feeds then s.feedNew else s.feedNew ++ [(s.tile.feeds, m.led)]
          tile := { s.tile with used := u, feeds := s.tile.feeds + 1, fedOld := s.tile.fedOld - old } } with
      feedQ := (x.cell n).feedQ ++ (m.feed.drop old).map fun v => { v with slot := k } }) := by
  have e : (pureRun (x.usedAt n k u)).cell n = (x.cell n).setSlot k (x.usedSlot n k u) := (UsedLike.usedAt ..).cell
  have ec : ((x.cell n).setSlot k (x.usedSlot n k u)).closeWins k = ((x.cell n).closeWins k).setSlot k (x.usedSlot n k u) := rfl
  have hk2 : k < ((x.cell n).closeWins k).slots.length := hk
  simp only [Run.applyFeed, e, ec]
  rw [Cell.slot_setSlot _ _ _ hk2]
  simp only [Run.setCell, pureRun, Inst.usedAt, Inst.setCell_setCell]
  congr 2
  simp only [Cell.setSlot, Slot.next, List.set_set]
  rfl

/-- A gather held by a slot that has used the translations u. -/
theorem Run.applyGather_used {x : Inst} {n k : Nat} {u : List (Nat × Nat)} (hk : k < (x.cell n).slots.length) (g : Gather) :
    let s := (x.cell n).slot k
    (pureRun (x.usedAt n k u)).applyGather n k g = pureRun (x.setCell n ((x.cell n).setSlot k
      { s.next with tile := { s.tile with used := u, gathers := s.tile.gathers ++ [g] } })) := by
  have hs : (pureRun (x.usedAt n k u)).slot n k = x.usedSlot n k u := (UsedLike.usedAt ..).slot hk
  simp only [Run.applyGather, Run.modSlot, hs]
  simp only [Run.setSlot, Inst.setSlot, pureRun, Inst.usedAt, Inst.setCell_setCell, Inst.cell_setCell, Cell.setSlot_setSlot]
  rfl

end Sys2Proof.Machine
end

