-- ==== Sys2Proof/Laws/PerInstr.lean ====
section
/-! SUPPORT. A statement about every command as syntax, one lemma for each constructor. -/

namespace Sys2Proof.Laws.Ports

open Sys2Proof

/-- A well-formed command names one of at most eight instances (R15). -/
def Statement (c : Instr) : Prop := c.wf = true → ∀ d, c.die = some d → d < 8

theorem inst_lt {i : Nat} (h : instOk i = true) : i < 8 := of_decide_eq_true h

theorem left_of {p q : Bool} (h : (p && q) = true) : p = true := (Bool.and_eq_true_iff.mp h).1

theorem cell_lt {a : CellAt} (h : cellOk a = true) : a.inst < 8 := inst_lt (left_of h)

theorem site_lt {a : Site} (h : siteOk a = true) : a.inst < 8 := inst_lt (left_of (left_of h))

/-- A command of instance i, when its well-formedness bounds i. -/
theorem of_some {c : Instr} {i : Nat} (hd : c.die = some i) (h : c.wf = true → i < 8) : Statement c := by
  intro hw d he
  rw [hd] at he
  exact Option.some.inj he ▸ h hw

/-- A command of the package's control port. -/
theorem of_none {c : Instr} (hd : c.die = none) : Statement c := by
  intro _ d he
  rw [hd] at he
  cases he

theorem vldLoad v0 : Statement (.vldLoad v0) := of_some rfl fun h => site_lt h

theorem vldDrain v0 : Statement (.vldDrain v0) := of_some rfl fun h => site_lt h

theorem vldFeed v0 : Statement (.vldFeed v0) := of_some rfl fun h => site_lt h

theorem vst v0 : Statement (.vst v0) := of_some rfl fun h => site_lt h

theorem cvtMemory v0 : Statement (.cvtMemory v0) := of_some rfl fun h => site_lt h

theorem cvtVitrine v0 : Statement (.cvtVitrine v0) := of_some rfl fun h => site_lt h

theorem scl v0 : Statement (.scl v0) := of_some rfl fun h => site_lt h

theorem sclFold v0 : Statement (.sclFold v0) := of_some rfl fun h => site_lt h

theorem rnd v0 : Statement (.rnd v0) := of_some rfl fun h => site_lt h

theorem clp v0 : Statement (.clp v0) := of_some rfl fun h => site_lt h

theorem cmp v0 : Statement (.cmp v0) := of_some rfl fun h => site_lt h

theorem sel v0 : Statement (.sel v0) := of_some rfl fun h => site_lt h

theorem perm v0 : Statement (.perm v0) := of_some rfl fun h => site_lt h

theorem shuf v0 : Statement (.shuf v0) := of_some rfl fun h => site_lt h

theorem pack v0 : Statement (.pack v0) := of_some rfl fun h => site_lt h

theorem unpk v0 : Statement (.unpk v0) := of_some rfl fun h => site_lt h

theorem fma v0 : Statement (.fma v0) := of_some rfl fun h => site_lt h

theorem fn v0 : Statement (.fn v0) := of_some rfl fun h => site_lt h

theorem fnSoftmax v0 : Statement (.fnSoftmax v0) := of_some rfl fun h => site_lt h

theorem fnMerge v0 : Statement (.fnMerge v0) := of_some rfl fun h => site_lt h

theorem redPlain v0 : Statement (.redPlain v0) := of_some rfl fun h => site_lt h

theorem redRowRecord v0 : Statement (.redRowRecord v0) := of_some rfl fun h => site_lt h

theorem redSoftmaxRecord v0 : Statement (.redSoftmaxRecord v0) := of_some rfl fun h => site_lt h

theorem redOffset v0 : Statement (.redOffset v0) := of_some rfl fun h => site_lt h

theorem redSum v0 : Statement (.redSum v0) := of_some rfl fun h => site_lt h

theorem redMerge v0 : Statement (.redMerge v0) := of_some rfl fun h => site_lt h

theorem steepGather v0 : Statement (.steepGather v0) := of_some rfl fun h => site_lt h

theorem steepSettle v0 : Statement (.steepSettle v0) := of_some rfl fun h => site_lt h

theorem steepSmoothingSettle v0 : Statement (.steepSmoothingSettle v0) := of_some rfl fun h => site_lt h

theorem mash v0 : Statement (.mash v0) := of_some rfl fun h => site_lt h

theorem kiln v0 : Statement (.kiln v0) := of_some rfl fun h => site_lt h

theorem caskOpen v0 : Statement (.caskOpen v0) := of_some rfl fun h => site_lt h

theorem caskAdd v0 : Statement (.caskAdd v0) := of_some rfl fun h => site_lt h

theorem caskDrain v0 : Statement (.caskDrain v0) := of_some rfl fun h => site_lt h

theorem caskClose v0 : Statement (.caskClose v0) := of_some rfl fun h => site_lt h

theorem loop v0 : Statement (.loop v0) := of_some rfl fun h => site_lt h

theorem waitf v0 : Statement (.waitf v0) := of_some rfl fun h => site_lt h

theorem sigf v0 : Statement (.sigf v0) := of_some rfl fun h => site_lt h

theorem summ v0 : Statement (.summ v0) := of_some rfl fun h => site_lt h

theorem msk v0 : Statement (.msk v0) := of_some rfl fun h => site_lt h

theorem tileCommit v0 : Statement (.tileCommit v0) := of_some rfl fun h => site_lt h

theorem caskAddCommit v0 v1 : Statement (.caskAddCommit v0 v1) := of_some rfl fun h => cell_lt (left_of h)

theorem caskDrainComplete v0 : Statement (.caskDrainComplete v0) := of_some rfl fun h => site_lt h

theorem caskCloseDone v0 : Statement (.caskCloseDone v0) := of_some rfl fun h => site_lt h

theorem waitfPass v0 : Statement (.waitfPass v0) := of_some rfl fun h => site_lt h

theorem drainBeat v0 v1 v2 : Statement (.drainBeat v0 v1 v2) := of_some rfl fun h => cell_lt (left_of h)

theorem feedVectorAccept v0 : Statement (.feedVectorAccept v0) := of_some rfl fun h => cell_lt h

theorem spReadData v0 v1 v2 : Statement (.spReadData v0 v1 v2) := of_some rfl fun h => cell_lt (left_of (left_of h))

theorem spWriteAck v0 v1 : Statement (.spWriteAck v0 v1) := of_some rfl fun h => cell_lt h

theorem launchRecord v0 v1 : Statement (.launchRecord v0 v1) := of_some rfl fun h => cell_lt (left_of h)

theorem launchAdmit v0 : Statement (.launchAdmit v0) := of_some rfl fun h => cell_lt h

theorem launchFetchDone v0 : Statement (.launchFetchDone v0) := of_some rfl fun h => site_lt h

theorem transferRequest v0 v1 v2 : Statement (.transferRequest v0 v1 v2) := of_some rfl fun h => cell_lt (left_of h)

theorem mailboxRecord v0 v1 : Statement (.mailboxRecord v0 v1) := of_some rfl fun h => cell_lt (left_of h)

theorem mbHeldPostRelease v0 : Statement (.mbHeldPostRelease v0) := of_some rfl fun h => cell_lt h

theorem outboundWordAccept v0 : Statement (.outboundWordAccept v0) := of_some rfl fun h => cell_lt h

theorem mbDelivery v0 v1 : Statement (.mbDelivery v0 v1) := of_some rfl fun h => inst_lt (left_of h)

theorem xlateAnswer v0 v1 v2 : Statement (.xlateAnswer v0 v1 v2) := of_some rfl fun h => inst_lt h

theorem resolveNotice v0 v1 v2 v3 : Statement (.resolveNotice v0 v1 v2 v3) := of_some rfl fun h => inst_lt h

theorem invalidation v0 v1 v2 v3 v4 : Statement (.invalidation v0 v1 v2 v3 v4) := of_some rfl fun h => inst_lt h

theorem xferFencePass v0 v1 : Statement (.xferFencePass v0 v1) := of_some rfl fun h => inst_lt h

theorem xferStagingReserve v0 : Statement (.xferStagingReserve v0) := of_some rfl fun h => inst_lt h

theorem seReadReturn v0 v1 v2 v3 : Statement (.seReadReturn v0 v1 v2 v3) := of_some rfl fun h => inst_lt (left_of (left_of h))

theorem xferCommitPoint v0 v1 : Statement (.xferCommitPoint v0 v1) := of_some rfl fun h => inst_lt h

theorem seWriteDone v0 v1 v2 : Statement (.seWriteDone v0 v1 v2) := of_some rfl fun h => inst_lt (left_of (left_of h))

theorem collPoll v0 v1 v2 v3 : Statement (.collPoll v0 v1 v2 v3) := of_some rfl fun h => inst_lt h

theorem collLocalPacket v0 v1 : Statement (.collLocalPacket v0 v1) := of_some rfl fun h => inst_lt (left_of h)

theorem collTimeout v0 v1 : Statement (.collTimeout v0 v1) := of_some rfl fun h => inst_lt h

theorem chCreate v0 v1 : Statement (.chCreate v0 v1) := of_some rfl fun h => inst_lt h

theorem chCreateDone v0 v1 v2 : Statement (.chCreateDone v0 v1 v2) := of_some rfl fun h => inst_lt (left_of h)

theorem chStart v0 : Statement (.chStart v0) := of_some rfl fun h => inst_lt h

theorem chPreempt v0 : Statement (.chPreempt v0) := of_some rfl fun h => inst_lt h

theorem preemptStopDone v0 v1 : Statement (.preemptStopDone v0 v1) := of_some rfl fun h => inst_lt (left_of h)

theorem contextSaveDone v0 v1 v2 : Statement (.contextSaveDone v0 v1 v2) := of_some rfl fun h => inst_lt (left_of h)

theorem chResume v0 : Statement (.chResume v0) := of_some rfl fun h => inst_lt h

theorem saveCheckDone v0 v1 v2 : Statement (.saveCheckDone v0 v1 v2) := of_some rfl fun h => inst_lt (left_of (left_of h))

theorem chDestroy v0 : Statement (.chDestroy v0) := of_some rfl fun h => inst_lt h

theorem destroyScrubDone v0 v1 v2 : Statement (.destroyScrubDone v0 v1 v2) := of_some rfl fun h => inst_lt (left_of h)

theorem chQuery v0 v1 : Statement (.chQuery v0 v1) := of_some rfl fun h => inst_lt h

theorem schedAdmit v0 : Statement (.schedAdmit v0) := of_some rfl fun h => inst_lt h

theorem restoreDone v0 v1 v2 : Statement (.restoreDone v0 v1 v2) := of_some rfl fun h => inst_lt (left_of (left_of h))

theorem schedEvict v0 : Statement (.schedEvict v0) := of_some rfl fun h => inst_lt h

theorem keyLoad v0 v1 : Statement (.keyLoad v0 v1) := of_some rfl fun h => inst_lt h

theorem keyClear v0 v1 : Statement (.keyClear v0 v1) := of_some rfl fun h => inst_lt h

theorem instanceKeyProvision v0 v1 v2 : Statement (.instanceKeyProvision v0 v1 v2) := of_some rfl fun h => inst_lt h

theorem mbAlloc v0 : Statement (.mbAlloc v0) := of_some rfl fun h => inst_lt h

theorem mbFree v0 : Statement (.mbFree v0) := of_some rfl fun h => inst_lt h

theorem mbSend v0 : Statement (.mbSend v0) := of_some rfl fun h => inst_lt h

theorem mbTake v0 : Statement (.mbTake v0) := of_some rfl fun h => inst_lt h

theorem ssOpen : Statement (.ssOpen) := of_none rfl

theorem ssDataWrite v0 : Statement (.ssDataWrite v0) := of_none rfl

theorem ssClose : Statement (.ssClose) := of_none rfl

theorem ssCloseDone : Statement (.ssCloseDone) := of_none rfl

theorem ssCommit : Statement (.ssCommit) := of_none rfl

theorem ssCommitDone : Statement (.ssCommitDone) := of_none rfl

theorem registerWrite v0 v1 : Statement (.registerWrite v0 v1) := of_none rfl

theorem rcRead v0 : Statement (.rcRead v0) := of_none rfl

theorem ctlForward v0 v1 : Statement (.ctlForward v0 v1) := of_none rfl

theorem fenceWrite v0 v1 v2 : Statement (.fenceWrite v0 v1 v2) := of_some rfl fun h => inst_lt (left_of h)

theorem flushUnbound v0 : Statement (.flushUnbound v0) := of_some rfl fun h => cell_lt h

theorem pwrWake v0 v1 : Statement (.pwrWake v0 v1) := of_some rfl fun h => inst_lt h

theorem pwrOffRequest v0 v1 : Statement (.pwrOffRequest v0 v1) := of_some rfl fun h => inst_lt h

theorem offReady v0 : Statement (.offReady v0) := of_some rfl fun h => inst_lt h

theorem instReset v0 v1 : Statement (.instReset v0 v1) := of_some rfl fun h => inst_lt h

theorem instResetDone v0 v1 v2 : Statement (.instResetDone v0 v1 v2) := of_some rfl fun h => inst_lt h

theorem cellReset v0 v1 : Statement (.cellReset v0 v1) := of_some rfl fun h => inst_lt h

theorem cellResetDone v0 : Statement (.cellResetDone v0) := of_some rfl fun h => inst_lt h

theorem powerOnReset v0 v1 : Statement (.powerOnReset v0 v1) := of_some rfl fun h => inst_lt h

theorem powerOnResetDone v0 v1 v2 : Statement (.powerOnResetDone v0 v1 v2) := of_some rfl fun h => inst_lt h

theorem fltInject v0 v1 : Statement (.fltInject v0 v1) := of_some rfl fun h => inst_lt h

theorem residueMismatch v0 v1 v2 v3 : Statement (.residueMismatch v0 v1 v2 v3) := of_some rfl fun h => cell_lt (left_of h)

theorem lockstepMismatch v0 v1 : Statement (.lockstepMismatch v0 v1) := of_some rfl fun h => cell_lt (left_of h)

theorem selfTestDone v0 v1 : Statement (.selfTestDone v0 v1) := of_some rfl fun h => cell_lt h

theorem hubVoteMismatch v0 v1 v2 : Statement (.hubVoteMismatch v0 v1 v2) := of_some rfl fun h => inst_lt (left_of h)

theorem sePortMismatch v0 v1 v2 v3 v4 v5 : Statement (.sePortMismatch v0 v1 v2 v3 v4 v5) := of_some rfl fun h => inst_lt (left_of h)

theorem uncorrectableWord v0 v1 v2 v3 : Statement (.uncorrectableWord v0 v1 v2 v3) := of_some rfl fun h => inst_lt (left_of h)

theorem docentAccess v0 v1 v2 v3 v4 v5 : Statement (.docentAccess v0 v1 v2 v3 v4 v5) := of_some rfl fun h => inst_lt (left_of h)

theorem clockLoss v0 : Statement (.clockLoss v0) := of_some rfl fun h => inst_lt h

theorem flitReceive v0 v1 v2 v3 : Statement (.flitReceive v0 v1 v2 v3) := of_some rfl fun h => inst_lt h

theorem linkDown v0 v1 : Statement (.linkDown v0 v1) := of_some rfl fun h => inst_lt h

theorem linkTrainDone v0 v1 v2 : Statement (.linkTrainDone v0 v1 v2) := of_some rfl fun h => inst_lt h

theorem pwrTick v0 : Statement (.pwrTick v0) := of_some rfl fun h => inst_lt h

theorem pwrEntryDone v0 : Statement (.pwrEntryDone v0) := of_some rfl fun h => inst_lt h

theorem pwrEventExit v0 : Statement (.pwrEventExit v0) := of_some rfl fun h => inst_lt h

theorem pwrExitDone v0 : Statement (.pwrExitDone v0) := of_some rfl fun h => inst_lt h

theorem cellGate v0 : Statement (.cellGate v0) := of_some rfl fun h => cell_lt h

theorem testStateEnter v0 v1 : Statement (.testStateEnter v0 v1) := of_some rfl fun h => inst_lt h

theorem ctlErrorResponse v0 v1 : Statement (.ctlErrorResponse v0 v1) := of_none rfl

theorem reservedKindRecord v0 v1 : Statement (.reservedKindRecord v0 v1) := of_some rfl fun h => cell_lt (left_of h)

end Sys2Proof.Laws.Ports
end

