-- ==== Sys2Proof/Laws/Ports.lean ====
section
/-! SUPPORT. What the operations of a cell's ports can do: responses in record order, drained tiles, claims. -/

namespace Sys2Proof.Machine

/-! ### Responses (R422) -/

/-- With no known response at hand nothing leaves. -/
theorem Cell.flushResp_none (c : Cell) (h : ∀ w ∈ c.respQ, w.known = false) : c.flushResp = c := by
  have : c.respQ.takeWhile RespWait.known = [] := by
    cases hq : c.respQ with
    | nil => rfl
    | cons w l => simp [h w (by simp [hq])]
  simp [Cell.flushResp, this]

/-- One known response before others that are not: it leaves. -/
theorem Cell.flushResp_one (c : Cell) (code : Nat) (rest : List RespWait) (hq : c.respQ = .done code :: rest)
    (h : ∀ w ∈ rest, w.known = false) :
    c.flushResp = { c with
      outQ := c.outQ ++ [{ data := respWord code, kind := 1, last := true, box := none }], respQ := rest } := by
  have : rest.takeWhile RespWait.known = [] := by
    cases hr : rest with
    | nil => rfl
    | cons w l => simp [h w (by simp [hr])]
  have he : (RespWait.done code :: rest).takeWhile RespWait.known = [.done code] := by
    rw [List.takeWhile_cons_of_pos rfl, this]
  simp [Cell.flushResp, hq, he, RespWait.word?]

/-- A response that is known at once, with none waiting, leaves at once. -/
theorem Cell.respond_done (c : Cell) (code : Nat) (hq : c.respQ = []) :
    c.respond (.done code) = { c with
      outQ := c.outQ ++ [{ data := respWord code, kind := 1, last := true, box := none }] } := by
  unfold Cell.respond
  rw [Cell.flushResp_one (rest := []) (code := code)]
  · simp [hq]
  · simp [hq]
  · simp

/-- A response that is not known yet waits behind the others. -/
theorem Cell.respond_wait (c : Cell) (w : RespWait) (h : ∀ w ∈ c.respQ, w.known = false) (hw : w.known = false) :
    c.respond w = { c with respQ := c.respQ ++ [w] } := by
  unfold Cell.respond
  refine Cell.flushResp_none _ fun v hv => ?_
  simp only [List.mem_append, List.mem_singleton] at hv
  rcases hv with hv | rfl
  · exact h v hv
  · exact hw

/-- The record at the front gets its response, which leaves. -/
theorem Cell.answer_front (c : Cell) (w : RespWait) (code : Nat) (rest : List RespWait) (hq : c.respQ = w :: rest)
    (h : ∀ w ∈ rest, w.known = false) :
    c.answer w (.done code) = { c with
      outQ := c.outQ ++ [{ data := respWord code, kind := 1, last := true, box := none }], respQ := rest } := by
  unfold Cell.answer
  simp only [hq, List.findIdx?_cons, decide_true, if_true]
  rw [Cell.flushResp_one (rest := rest) (code := code)]
  · rfl
  · exact h

/-- An answer changes the queues of responses alone. -/
theorem Cell.answer_frame (c : Cell) (w w' : RespWait) :
    c.answer w w' = { c with respQ := (c.answer w w').respQ, outQ := (c.answer w w').outQ } := by
  unfold Cell.answer Cell.flushResp
  split <;> rfl

/-! ### Drained tiles (R151, R153, R155) -/

/-- No slot waits for the tile, and no add does: nothing happens when it is complete. -/
theorem Run.tileComplete_none (r : Run) (n id : Nat) (h : ∀ k, ((r.slot n k).fills.find? fun f => f.id == id) = none)
    (hb : ∀ e, (((r.cell n).drain.find? fun t => t.id == id).bind DrainTile.bound) ≠ some (.add e)) :
    r.tileComplete n id = r := by
  have : ∀ l : List Nat, l.foldl (fun r k =>
    match (r.slot n k).fills.find? (fun f => f.id == id) with
    | some f => r.fill n k f
    | none => r) r = r := by
    intro l
    induction l with
    | nil => rfl
    | cons k l ih => simp only [List.foldl_cons, h k]; exact ih
  unfold Run.tileComplete
  dsimp only
  split
  · rename_i e he; exact absurd he (hb e)
  · exact this _

/-- A tile that no slot of the cell waits for is in no slot's list. -/
theorem Cell.fills_none (c : Cell) (id k : Nat) (h : c.slots.all (fun k => k.fills.all fun f => f.id != id) = true) :
    ((c.slot k).fills.find? fun f => f.id == id) = none := by
  by_cases hk : k < c.slots.length
  · have := List.all_eq_true.mp h c.slots[k] (by simp)
    simp [Cell.slot, hk]
    simpa using this
  · simp [Cell.slot, List.getD_eq_getElem?_getD, List.getElem?_eq_none (by omega : c.slots.length ≤ k), Slot.idle]

/-- The discard of several drained tiles (R155): they leave, and each partial one leaves a record of the beats still owed. -/
theorem Cell.discardTiles_spec (ids : List Nat) : ∀ c : Cell, ids.Nodup →
    (∃ d : Cell, c.discardTiles ids = d ∧ d = { c with drain := d.drain, owed := d.owed } ∧
      d.drain = c.drain.filter (fun t => !ids.contains t.id) ∧ (∀ p ∈ c.owed, p ∈ d.owed) ∧
      ((c.drain.map DrainTile.id).Nodup → ∀ t ∈ c.drain, t.id ∈ ids → 1 ≤ t.beats.length → t.beats.length < 4 → (t.tag, 4 - t.beats.length) ∈ d.owed)) := by
  induction ids with
  | nil => intro c _; exact ⟨c, rfl, rfl, by simp, by simp, by simp⟩
  | cons i ids ih =>
    intro c hn
    simp only [List.nodup_cons] at hn
    obtain ⟨d, h1, h2, h3, h4, h5⟩ := ih (c.discardTile i) hn.2
    have hd : (c.discardTile i).drain = c.drain.filter fun u => u.id != i := by
      unfold Cell.discardTile
      split
      · rename_i h
        rw [List.find?_eq_none] at h
        symm; rw [List.filter_eq_self]; intro t ht; have := h t ht; simpa using this
      · rfl
    have ho : ∀ p ∈ c.owed, p ∈ (c.discardTile i).owed := by
      intro p hp
      unfold Cell.discardTile
      split
      · exact hp
      · dsimp only; split
        · exact List.mem_append_left _ hp
        · exact hp
    have he : c.discardTile i = { c with drain := (c.discardTile i).drain, owed := (c.discardTile i).owed } := by
      unfold Cell.discardTile; split <;> rfl
    refine ⟨d, by rw [← h1]; rfl, ?_, ?_, fun p hp => h4 p (ho p hp), ?_⟩
    · rw [h2, he]
    · rw [h3, hd, List.filter_filter]
      congr 1; funext t
      by_cases h : t.id = i
      · simp [h]
      · simp [h]
    · intro hnd t ht hm h6 h7
      by_cases hti : t.id = i
      · apply h4
        unfold Cell.discardTile
        have hf : c.drain.find? (fun t => t.id == i) = some t := by
          have := List.Nodup.of_map _ hnd
          rw [List.find?_eq_some_iff_append]
          obtain ⟨as, bs, hab⟩ := List.append_of_mem ht
          refine ⟨by simp [hti], as, bs, hab, ?_⟩
          intro u hu
          rw [hab] at hnd
          simp [List.nodup_append] at hnd
          have := hnd.2.2 u hu
          simp; intro e; exact this.1 (e.trans hti.symm)
        simp [hf, h6, h7]
      · refine h5 ?_ t ?_ ?_ h6 h7
        · rw [hd]; exact hnd.sublist (List.Sublist.map _ List.filter_sublist)
        · rw [hd]; simp [ht, hti]
        · simpa [hti] using hm

/-! ### Claims (R206) -/

theorem Cell.zeroClaims_vit (c : Cell) (ws : List Word) (i : Nat) :
    (c.zeroClaims ws).vit i = if bitOf (vitClaim ws) i then List.replicate 1024 0#32 else c.vit i := by
  have h := Tbl.get_filter [] c.vits (fun j => !bitOf (vitClaim ws) j) i
  unfold Cell.vit
  refine (congrArg (fun t => (t ++ List.replicate 1024 0#32).take 1024) h).trans ?_
  cases bitOf (vitClaim ws) i
  · rfl
  · show ([] ++ List.replicate 1024 0#32).take 1024 = List.replicate 1024 0#32
    rw [List.nil_append, List.take_of_length_le (by rw [List.length_replicate])]

theorem Cell.zeroClaims_mask (c : Cell) (ws : List Word) (i : Nat) :
    (c.zeroClaims ws).mask i = if bitOf (maskClaim ws) i then 0 else c.mask i := by
  have h := Tbl.get_filter (0 : Mask) c.masks (fun j => !bitOf (maskClaim ws) j) i
  cases hb : bitOf (maskClaim ws) i
  · rw [hb] at h; exact h
  · rw [hb] at h; exact h

end Sys2Proof.Machine
end

