-- ==== Sys2Proof/Laws/Tile.lean ====
section
/-! SUPPORT. Runs of an instance, read after write, and the end of a tile (R213, R217). -/

namespace Sys2Proof.Machine

/-! ### Runs -/

@[simp] theorem Run.cell_setCell (r : Run) (n : Nat) (c : Cell) : (r.setCell n c).cell n = c := Inst.cell_setCell ..
@[simp] theorem Run.setCell_setCell (r : Run) (n : Nat) (c d : Cell) : (r.setCell n c).setCell n d = r.setCell n d := by
  simp [Run.setCell]
@[simp] theorem Run.setCell_effs (r : Run) (n : Nat) (c : Cell) : (r.setCell n c).effs = r.effs := rfl
@[simp] theorem Run.setCell_x (r : Run) (n : Nat) (c : Cell) : (r.setCell n c).x = r.x.setCell n c := rfl
@[simp] theorem Run.setSlot_effs (r : Run) (n k : Nat) (s : Slot) : (r.setSlot n k s).effs = r.effs := rfl
@[simp] theorem Run.setSlot_x (r : Run) (n k : Nat) (s : Slot) : (r.setSlot n k s).x = r.x.setSlot n k s := rfl

theorem Run.setSlot_eq (r : Run) (n k : Nat) (s : Slot) : r.setSlot n k s = r.setCell n ((r.cell n).setSlot k s) := rfl

@[simp] theorem Run.setSlot_setSlot (r : Run) (n k : Nat) (s t : Slot) : (r.setSlot n k s).setSlot n k t = r.setSlot n k t := by
  simp [Run.setSlot_eq]

@[simp] theorem Run.setSlot_setCell (r : Run) (n k : Nat) (s : Slot) (c : Cell) :
    (r.setCell n c).setSlot n k s = r.setCell n (c.setSlot k s) := by simp [Run.setSlot_eq]

theorem Run.slot_setSlot (r : Run) (n k : Nat) (s : Slot) (h : k < (r.cell n).slots.length) : (r.setSlot n k s).slot n k = s := by
  rw [Run.setSlot_eq, Run.slot, Run.setCell_x, Inst.slot, Inst.cell_setCell, Cell.slot_setSlot _ _ _ h]

@[simp] theorem Run.slot_setCell (r : Run) (n k : Nat) (c : Cell) : (r.setCell n c).slot n k = c.slot k := by
  rw [Run.slot, Run.setCell_x, Inst.slot, Inst.cell_setCell]

@[simp] theorem Run.emit_x (r : Run) (e : Eff) : (r.emit e).x = r.x := rfl
@[simp] theorem Run.emit_cell (r : Run) (e : Eff) (n : Nat) : (r.emit e).cell n = r.cell n := rfl
@[simp] theorem Run.emit_slot (r : Run) (e : Eff) (n k : Nat) : (r.emit e).slot n k = r.slot n k := rfl
@[simp] theorem Run.emit_effs (r : Run) (e : Eff) : (r.emit e).effs = r.effs ++ [e] := rfl

/-! ### The end of a tile -/

/-- A program that has a tile left does not end. -/
theorem Run.endIfDone_goes (r : Run) (n k : Nat) (hw : (r.slot n k).wait = .ready)
    (h : (r.slot n k).idx < (r.slot n k).prog.length) : r.endIfDone n k = r := by
  have hw' : ((r.cell n).slot k).wait = .ready := hw
  have h' : ((r.cell n).slot k).idx < ((r.cell n).slot k).prog.length := h
  simp only [Run.endIfDone]
  split
  · rw [hw']
    dsimp only
    rw [if_neg fun e => by omega]
  · rfl

/-- A tile has ended and the program goes on: the slot stands at its next tile. -/
theorem Run.advance_goes (r : Run) (n k : Nat) (hk : k < (r.cell n).slots.length) (h : GoesOn (r.slot n k)) :
    r.advance n k = r.setSlot n k (nextTile (r.slot n k) (afterTile (r.slot n k)).1 (afterTile (r.slot n k)).2) := by
  have hend : ∀ s : Slot, s.wait = .ready → s.idx < s.prog.length → (r.setSlot n k s).endIfDone n k = r.setSlot n k s := by
    intro s hw hi
    exact Run.endIfDone_goes _ _ _ (by rw [Run.slot_setSlot _ _ _ _ hk]; exact hw) (by rw [Run.slot_setSlot _ _ _ _ hk]; exact hi)
  simp only [GoesOn, afterTile] at h
  simp only [Run.advance, afterTile, nextTile]
  cases hl : (r.slot n k).loop with
  | none =>
    rw [hl] at h
    dsimp only at h ⊢
    refine (hend _ (by exact rfl) (by exact h)).trans ?_
    simp only [Slot.newTile, hl]
  | some l =>
    rw [hl] at h
    dsimp only at h ⊢
    split at h
    · rename_i e1
      rw [if_pos e1, if_pos e1]
      split at h
      · rename_i e2
        rw [if_pos e2, if_pos e2]
        exact hend _ (by exact rfl) (by exact h)
      · rename_i e2
        rw [if_neg e2, if_neg e2]
        exact hend _ (by exact rfl) (by exact h)
    · rename_i e1
      rw [if_neg e1, if_neg e1]
      refine (hend _ (by exact rfl) (by exact h)).trans ?_
      simp only [Slot.newTile, hl]

end Sys2Proof.Machine
end

