-- ==== Sys2Proof/Tests/Slice0.lean ====
section
/-! SUPPORT. The tests of the model: the operand checks refuse what they should, the words of tile programs written out by the
layout of R227 decode to their instructions, the worked examples of the spec, and for every statement with hypotheses a state
that meets them. -/

namespace Sys2Proof.Tests

-- one thread: every thread of the elaborator reserves a large stack
set_option Elab.async false

open Sys2Proof Sys2Proof.Machine

/-! ### Small states -/

def at0 : Site := { inst := 0, cell := 0, slot := 0 }
def cell0 : CellAt := { inst := 0, cell := 0 }

/-- A running channel. -/
def vc0 : Vc := { Vc.free with st := .running, ctx := some 0, weight := 1 }

/-- A slot of channel 0 that runs a program of one word, twice. -/
def slotW (w : BitVec 64) : Slot :=
  { Slot.idle with phase := .running, launch := [0x00010000#32, 0#32, 0#32, 0x00BE0303#32], prog := [w, w] }

/-- A cell whose slot 0 is k. -/
def cellK (k : Slot) : Cell := { Cell.reset with slots := [k, Slot.idle, Slot.idle, Slot.idle] }

/-- A die whose cell 0 is c, with a structure stream in force. -/
def die (c : Cell) : Inst :=
  { Inst.reset 1 0 200 with cells := [(0, c)], vcs := [(0, vc0)], stream := { Stream.none with inForce := true } }

/-- A package of one die. -/
def pkg (x : Inst) : State := { State.reset with insts := [x] }

theorem launch_owner : ownerOf [0x00010000#32, 0#32, 0#32, 0x00BE0303#32] = 0 := by decide +kernel

theorem work (x : Inst) (h : x.awake = true) : AtWork (pkg x) 0 x := ⟨rfl, h⟩

theorem alive (x : Inst) (h : x.alive = true) : Alive (pkg x) 0 x := ⟨rfl, h⟩

theorem open_pkg (x : Inst) : PortOpen (pkg x) := ⟨(by decide : 0 < 8), fun _ _ h => nomatch h⟩

theorem work_die (c : Cell) : AtWork (pkg (die c)) 0 (die c) := ⟨rfl, rfl⟩

theorem up_die (c : Cell) (h : c.paused = false) : CellUp (die c) 0 :=
  ⟨h, (by decide : (0#256).getLsbD 0 = false), (by decide : (0#256).getLsbD 0 = false)⟩

theorem built_die (c : Cell) : 0 < (die c).cellsBuilt := (by decide : 0 < 200)

/-- A slot 0 at the start of a tile issues its next instruction. -/
theorem ready_slot (c : Cell) (k : Slot) (o : TileOp) (hs : c.slots = [k, Slot.idle, Slot.idle, Slot.idle])
    (hp : c.paused = false) (hr : k.phase = .running) (hw : k.wait = .ready) (ho : k.nextOp = some o)
    (hl : k.launch = [0x00010000#32, 0#32, 0#32, 0x00BE0303#32]) (hi : k.idx = k.tile.start) (hf : k.fills = [])
    (hc : (die c).closing 0 = false) : Ready (pkg (die c)) at0 (die c) o := by
  have hk : (die c).slot 0 0 = k := by
    show c.slots.getD 0 Slot.idle = k
    rw [hs]; rfl
  have hv : ownerOf ((die c).slot 0 0).launch = 0 := by rw [hk, hl]; exact launch_owner
  refine ⟨⟨rfl, rfl⟩, built_die c, up_die c hp, hk ▸ hr, hk ▸ hw, hk ▸ ho, ?_, Or.inl (hk ▸ hi), ?_, hv ▸ hc, rfl⟩
  · show ((die c).vc (ownerOf ((die c).slot 0 0).launch)).st = .running
    rw [hv]; rfl
  · have : ((die c).slot 0 0).fills = [] := by rw [hk]; exact hf
    show ((die c).slot 0 0).held o = false
    simp [Slot.held, Slot.fillRegs, this]
    split <;> rfl

/-- A slot 0 behind the first instruction of a tile issues its next instruction. -/
theorem ready_late (k : Slot) (o : TileOp) (hr : k.phase = .running) (hw : k.wait = .ready) (hf : k.fills = []) (ho : k.nextOp = some o)
    (hl : k.launch = [0x00010000#32, 0#32, 0#32, 0x00BE0303#32]) (hd : k.loop = none) (he : k.atEdge = false) :
    Ready (pkg (die (cellK k))) at0 (die (cellK k)) o := by
  have hv : ownerOf ((die (cellK k)).slot 0 0).launch = 0 := by show ownerOf k.launch = 0; rw [hl]; exact launch_owner
  refine ⟨⟨rfl, rfl⟩, built_die _, up_die _ rfl, hr, hw, ho, ?_, Or.inr he, ?_, hv ▸ rfl, rfl⟩
  · show ((die (cellK k)).vc (ownerOf ((die (cellK k)).slot 0 0).launch)).st = .running
    rw [hv]; rfl
  · show k.held o = false
    simp [Slot.held, Slot.fillRegs, hf]
    split <;> rfl

/-- A cell that runs the word w. -/
abbrev dieW (w : BitVec 64) : Inst := die (cellK (slotW w))

theorem ready_word {w : BitVec 64} {o : TileOp} (h : decodeTile w = some o) : Ready (pkg (dieW w)) at0 (dieW w) o :=
  ready_slot _ _ _ rfl rfl rfl rfl (by show (some w).bind decodeTile = _; exact h) rfl rfl rfl rfl

/-! ### Ill-formed operands are refused -/

theorem wf_instance : (Instr.clockLoss 7).wf = true ∧ (Instr.clockLoss 8).wf = false := by decide
theorem wf_cell : (Instr.launchAdmit ⟨7, 255⟩).wf = true ∧ (Instr.launchAdmit ⟨0, 256⟩).wf = false := by decide
theorem wf_site : (Instr.vst ⟨0, 255, 3⟩).wf = true ∧ (Instr.vst ⟨0, 0, 4⟩).wf = false ∧ (Instr.vst ⟨8, 0, 0⟩).wf = false := by
  decide
theorem wf_slot : (Instr.lockstepMismatch cell0 (some 3)).wf = true ∧ (Instr.lockstepMismatch cell0 (some 4)).wf = false := by decide
theorem wf_channel : (Instr.preemptStopDone 0 65535).wf = true ∧ (Instr.preemptStopDone 0 65536).wf = false := by decide
theorem wf_cask : (Instr.caskAddCommit cell0 15).wf = true ∧ (Instr.caskAddCommit cell0 16).wf = false := by decide
theorem wf_beat : (Instr.drainBeat cell0 0 (List.replicate 256 0)).wf = true ∧ (Instr.drainBeat cell0 0 []).wf = false := by
  decide +kernel
theorem wf_record : (Instr.launchRecord cell0 [0]).wf = true ∧ (Instr.mailboxRecord cell0 []).wf = false := by decide
theorem wf_request : (Instr.transferRequest cell0 [0] []).wf = true ∧ (Instr.transferRequest cell0 [] []).wf = false := by decide
theorem wf_mailbox : (Instr.mbDelivery 0 31).wf = true ∧ (Instr.mbDelivery 0 32).wf = false := by decide
theorem wf_area : (Instr.restoreDone 0 0 ⟨true, []⟩).wf = true ∧ (Instr.restoreDone 0 0 ⟨false, []⟩).wf = false := by decide
theorem wf_fence : (Instr.fenceWrite 0 1023 0).wf = true ∧ (Instr.fenceWrite 0 1024 0).wf = false := by decide
theorem wf_vote : (Instr.hubVoteMismatch 0 2 0).wf = true ∧ (Instr.hubVoteMismatch 0 3 0).wf = false := by decide
theorem wf_port : (Instr.sePortMismatch 0 7 false none 0 true).wf = true ∧ (Instr.sePortMismatch 0 8 false none 0 true).wf = false := by
  decide
theorem wf_feed : (Instr.vldFeed ⟨⟨7, 255, 3⟩, .none⟩).wf = true ∧ (Instr.vldFeed ⟨⟨0, 0, 4⟩, .softmax⟩).wf = false := by decide
theorem wf_spBeat : (Instr.spReadData cell0 [0, 0] [0, 0]).wf = true ∧ (Instr.spReadData cell0 [] []).wf = false
    ∧ (Instr.spReadData cell0 [0] [0, 0]).wf = false
    ∧ (Instr.spReadData cell0 (List.replicate 5 0) (List.replicate 5 0)).wf = false := by decide +kernel
theorem wf_seTag : (Instr.seWriteDone 0 ⟨7, 255⟩ false).wf = true ∧ (Instr.seWriteDone 0 ⟨8, 0⟩ false).wf = false
    ∧ (Instr.seWriteDone 0 ⟨0, 256⟩ false).wf = false := by decide
theorem wf_badWord : (Instr.uncorrectableWord 0 ⟨false, 2, .vcTable⟩ 0 0).wf = true
    ∧ (Instr.uncorrectableWord 0 ⟨false, 3, .vcTable⟩ 0 0).wf = false := by decide
theorem wf_docent : (Instr.docentAccess 0 2 .vcTable 0 0 false).wf = true ∧ (Instr.docentAccess 0 3 .vcTable 0 0 false).wf = false := by
  decide

/-! ### The words of tile programs (R226, R227), each written from the fields of its row -/

theorem word_vldLoad : decodeTile 0x0192908180000000#64 = some (.vldLoad 9 2 2312 3 false) := by decide
theorem word_vldDrain : decodeTile 0x010000068000BEEF#64 = some (.vldDrain 0 5 0xBEEF#16) := by decide
theorem word_vldFeed : decodeTile 0x0101924984FB2478#64 = some (.vldFeed 0 1 2340 false 6 4 (-3) true false 9 8 true) := by decide
theorem word_vst : decodeTile 0x02A3924900000000#64 = some (.vst 10 3 2340 4 true) := by decide
theorem word_cvtMemory : decodeTile 0x0301924292000000#64 = some (.cvtMemory 0 1 2340 2 2336) := by decide
theorem word_cvtVitrine : decodeTile 0x0301808000000D40#64 = some (.cvtVitrine 0 96 128 true 2 true) := by decide
theorem word_scl : decodeTile 0x10008040C1C00600#64 = some (.scl 0 32 64 775 1 true) := by decide
theorem word_sclFold : decodeTile 0x1001924292400FF8#64 = some (.sclFold 0 1 2340 2 2340 (-2)) := by decide
theorem word_rnd : decodeTile 0x1100804020060850#64 = some (.rnd 0 32 64 0x2006 true 5) := by decide
theorem word_clp : decodeTile 0x12008040C0702000#64 = some (.clp 0 32 64 769 770) := by decide
theorem word_cmp : decodeTile 0x1300184018000880#64 = some (.cmp 0 6 64 96 4 1) := by decide
theorem word_sel : decodeTile 0x14C0804018000000#64 = some (.sel 12 32 64 96) := by decide
theorem word_perm : decodeTile 0x1500804018000800#64 = some (.perm 0 32 64 96 2) := by decide
theorem word_shuf : decodeTile 0x1600804018000B10#64 = some (.shuf 0 32 64 96 5 17) := by decide
theorem word_pack : decodeTile 0x1700804020060000#64 = some (.pack 0 32 64 0x2006) := by decide
theorem word_unpk : decodeTile 0x1800804020060000#64 = some (.unpk 0 32 64 0x2006) := by decide
theorem word_fma : decodeTile 0x200080405FE9EB00#64 = some (.fma 0 32 64 383 670 5 true) := by decide
theorem word_fn : decodeTile 0x2100804030000000#64 = some (.fn 0 32 64 3) := by decide
theorem word_fnSoftmax : decodeTile 0x210080404B000000#64 = some (.fnSoftmax 0 32 64 5 true) := by decide
theorem word_fnMerge : decodeTile 0x210000405C000000#64 = some (.fnMerge 0 64 6) := by decide
theorem word_redPlain : decodeTile 0x3090824800000400#64 = some (.redPlain 9 0x020 0x248 2 false) := by decide
theorem word_redRowRecord : decodeTile 0x3000800049241000#64 = some (.redRowRecord 0 0x020 4 2340) := by decide
theorem word_redSoftmaxRecord : decodeTile 0x3000800049242060#64 = some (.redSoftmaxRecord 0 0x020 4 2340 3) := by decide
theorem word_redOffset : decodeTile 0x30008000C8003160#64 = some (.redOffset 0 0x020 200 true 3) := by decide
theorem word_redSum : decodeTile 0x3000800000004060#64 = some (.redSum 0 0x020 3) := by decide
theorem word_redMerge : decodeTile 0x3000800009005060#64 = some (.redMerge 0 0x020 9 3) := by decide
theorem word_steepGather : decodeTile 0x31019244CB000000#64 = some (.steepGather 0 1 2340 2 true 2 11) := by decide
theorem word_steepSettle : decodeTile 0x310192410B600000#64 = some (.steepSettle 0 1 2340 11 12) := by decide
theorem word_steepSmoothing : decodeTile 0x310192418B634000#64 = some (.steepSmoothing 0 1 2340 11 12 13) := by decide
theorem word_mash : decodeTile 0x3200828C20000000#64 = some (.mash 0 32 2 4 3 5 false true 0#16) := by decide
theorem word_kiln : decodeTile 0x33019245E95B5C00#64 = some (.kiln 0 1 2340 2 true true true 20 21 22 23) := by decide
theorem word_caskOpen : decodeTile 0x4000000070401200#64 = some (.caskOpen 7 0x4000 2 false true false 0) := by decide
theorem word_caskAdd : decodeTile 0x4100000076000000#64 = some (.caskAdd 7 1 4 false 0 0#16) := by decide
theorem word_caskDrain : decodeTile 0x4200000076420000#64 = some (.caskDrain 0 0 0 7 1 4 true false 0 true) := by decide
theorem word_caskClose : decodeTile 0x4300000070000000#64 = some (.caskClose 7) := by decide
theorem word_loop : decodeTile 0x5001312600000000#64 = some (.loop 1 3 5 true 6) := by decide
theorem word_waitf : decodeTile 0x5102008080000001#64 = some (.waitf 1025 false 0 0x80000001) := by decide
theorem word_sigf : decodeTile 0x520FFF800000FFFF#64 = some (.sigf 8191 0xFFFF) := by decide
theorem word_summ : decodeTile 0x5300FFE000001234#64 = some (.summ 0 0 3 31 30 0x1234) := by decide
theorem word_msk : decodeTile 0x54029C0118000000#64 = some (.msk 1 2 3 8 0 4 1 2) := by decide

/-- Reserved bits refuse a word (R226). -/
theorem word_reserved : decodeTile 0x4300000070000001#64 = none ∧ decodeTile 0x0000000000000000#64 = none := by decide

/-! ### States that meet the hypotheses of the statements: instructions on registers -/

theorem witness_StepRunsFront : State.reset.pending = [] := rfl

theorem witness_LaneArithmetic :
    Ready (pkg (dieW 0x10008040C1C00600#64)) at0 (dieW 0x10008040C1C00600#64) (.scl 0 32 64 775 1 true)
    ∧ Ready (pkg (dieW 0x12008040C0702000#64)) at0 (dieW 0x12008040C0702000#64) (.clp 0 32 64 769 770)
    ∧ 5 ∈ [0, 1, 2, 4, 5]
    ∧ Ready (pkg (dieW 0x200080405FE9EB00#64)) at0 (dieW 0x200080405FE9EB00#64) (.fma 0 32 64 383 670 5 true)
    ∧ Ready (pkg (dieW 0x2100804030000000#64)) at0 (dieW 0x2100804030000000#64) (.fn 0 32 64 3) :=
  ⟨ready_word (by decide), ready_word (by decide), by decide, ready_word (by decide), ready_word (by decide)⟩

/-- RoundLanes, opf = 1 with bfloat16 and opf = 0 with E2M3. -/
theorem witness_RoundLanes :
    ((NumWord.of 0x2001).fmt = some .bf16 ∧ (NumWord.of 0x2001).mode = 0 ∧ (opFmt (NumWord.of 0x2001).fmtCode).isSome = true
      ∧ Ready (pkg (dieW 0x1100804020010850#64)) at0 (dieW 0x1100804020010850#64) (.rnd 0 32 64 0x2001 true 5))
    ∧ (NumWord.of 0x2006).fmt = some .e2m3 ∧ (NumWord.of 0x2006).mode = 0 ∧ rndBad (NumWord.of 0x2006).rnd = false
      ∧ Ready (pkg (dieW 0x1100804020060000#64)) at0 (dieW 0x1100804020060000#64) (.rnd 0 32 64 0x2006 false 0) :=
  ⟨⟨by decide, by decide, by decide, ready_word (by decide)⟩, by decide, by decide, by decide, ready_word (by decide)⟩

theorem witness_ConvertVitrine : rndBad 2 = false ∧ rndBad 0 = false
    ∧ Ready (pkg (dieW 0x0301808000000D40#64)) at0 (dieW 0x0301808000000D40#64) (.cvtVitrine 0 96 128 true 2 true)
    ∧ Ready (pkg (dieW 0x0301808000000800#64)) at0 (dieW 0x0301808000000800#64) (.cvtVitrine 0 96 128 false 0 false) :=
  ⟨by decide, by decide, ready_word (by decide), ready_word (by decide)⟩

theorem witness_ClampCompareSelect :
    Ready (pkg (dieW 0x12008040C0702000#64)) at0 (dieW 0x12008040C0702000#64) (.clp 0 32 64 769 770)
    ∧ Ready (pkg (dieW 0x1300184018000880#64)) at0 (dieW 0x1300184018000880#64) (.cmp 0 6 64 96 4 1)
    ∧ Ready (pkg (dieW 0x14C0804018000000#64)) at0 (dieW 0x14C0804018000000#64) (.sel 12 32 64 96) :=
  ⟨ready_word (by decide), ready_word (by decide), ready_word (by decide)⟩

theorem witness_PermuteShuffle :
    Ready (pkg (dieW 0x1500804018000800#64)) at0 (dieW 0x1500804018000800#64) (.perm 0 32 64 96 2)
    ∧ Ready (pkg (dieW 0x1600804018000B10#64)) at0 (dieW 0x1600804018000B10#64) (.shuf 0 32 64 96 5 17) :=
  ⟨ready_word (by decide), ready_word (by decide)⟩

theorem witness_PackUnpack : packFmt 0x2006 = some .e2m3 ∧ rndBad (NumWord.of 0x2006).rnd = false
    ∧ Ready (pkg (dieW 0x1700804020060000#64)) at0 (dieW 0x1700804020060000#64) (.pack 0 32 64 0x2006)
    ∧ Ready (pkg (dieW 0x1800804020060000#64)) at0 (dieW 0x1800804020060000#64) (.unpk 0 32 64 0x2006) :=
  ⟨by decide, by decide, ready_word (by decide), ready_word (by decide)⟩

theorem witness_SoftmaxLanes :
    Ready (pkg (dieW 0x210080404A000000#64)) at0 (dieW 0x210080404A000000#64) (.fnSoftmax 0 32 64 5 false)
    ∧ Ready (pkg (dieW 0x210080404B000000#64)) at0 (dieW 0x210080404B000000#64) (.fnSoftmax 0 32 64 5 true)
    ∧ opVit 32 ≠ 5 ∧ Ready (pkg (dieW 0x210000405C000000#64)) at0 (dieW 0x210000405C000000#64) (.fnMerge 0 64 6) :=
  ⟨ready_word (by decide), ready_word (by decide), by decide, ready_word (by decide)⟩

theorem witness_ReducePlain : opK 0x248 + 1 < 32
    ∧ Ready (pkg (dieW 0x3090824800000400#64)) at0 (dieW 0x3090824800000400#64) (.redPlain 9 0x020 0x248 2 false) :=
  ⟨by decide, ready_word (by decide)⟩

/-- A cask of group 7 in entry 3 with two adds to come. -/
def cask0 : Cask :=
  { no := 0, owner := 0, group := 7, base := 0x4000, A := 2, I := 0, D := 0, init := false, bound := true, chain := false, rows := [],
    adds := [], wins := [], closing := false }

/-- Its chain form. -/
def chain0 : Cask :=
  { cask0 with chain := true, rows := List.replicate 32 { mC := 0xFF800000#32, mI := 0xFF800000#32, posC := 0, posI := 0, l := .zero } }

/-- A cell that runs the word w with a cask. -/
def cellQ (w : BitVec 64) (q : Cask) : Cell := { cellK (slotW w) with casks := [(3, q)] }

theorem ready_cask {w : BitVec 64} {o : TileOp} {q : Cask} (h : decodeTile w = some o) (hq : q.closing = false) :
    Ready (pkg (die (cellQ w q))) at0 (die (cellQ w q)) o :=
  ready_slot _ _ _ rfl rfl rfl rfl (by show (some w).bind decodeTile = _; exact h) rfl rfl rfl
    (by show ((q.closing && decide (q.owner = 0) || false) || false) = false; rw [hq]; rfl)

theorem witness_ReduceSteps :
    Ready (pkg (dieW 0x30008000C8003160#64)) at0 (dieW 0x30008000C8003160#64) (.redOffset 0 0x020 200 true 3)
    ∧ ((cellQ 0x3000800007003060#64 chain0).findCask 0 7 = some (3, chain0) ∧ chain0.chain = true
      ∧ Ready (pkg (die (cellQ 0x3000800007003060#64 chain0))) at0 (die (cellQ 0x3000800007003060#64 chain0))
        (.redOffset 0 0x020 7 false 3))
    ∧ Ready (pkg (dieW 0x3000800000004060#64)) at0 (dieW 0x3000800000004060#64) (.redSum 0 0x020 3)
    ∧ (cellQ 0x3000800007005060#64 chain0).findCask 0 7 = some (3, chain0)
    ∧ Ready (pkg (die (cellQ 0x3000800007005060#64 chain0))) at0 (die (cellQ 0x3000800007005060#64 chain0))
        (.redMerge 0 0x020 7 3) :=
  ⟨ready_word (by decide), ⟨by decide, rfl, ready_cask (by decide) rfl⟩, ready_word (by decide), by decide,
    ready_cask (by decide) rfl⟩

theorem witness_MaskOperations :
    Ready (pkg (dieW 0x54029C0118000000#64)) at0 (dieW 0x54029C0118000000#64) (.msk 1 2 3 8 0 4 1 2) :=
  ready_word (by decide)

/-- The committed half of the cask. -/
def lines0 : List SpLine := (List.range 128).map fun j => { line := 0x100 + j, resp := 0, data := 0 }

/-- An add whose committed half is loaded. -/
def add0 : CaskAdd :=
  { slot := 0, index := 0, iter := 0, src := .words (List.replicate 1024 .zero), step := []
    load := some lines0, tslot := 0, storing := false, led := Led.zero }

/-! ### Instructions that read or write tensors -/

/-- A window descriptor at offset 0x100 of one element, with the numeric word and extent0 given. -/
def dsc (num e0 : Nat) : Line := BitVec.ofNat 512 (0x100 + num * 2 ^ 64 + e0 * 2 ^ 128 + 2 ^ 160 + 2 ^ 192 + 2 ^ 224)

/-- A die that runs the word w with a descriptor and read lines. -/
abbrev dieM (w : BitVec 64) (num e0 : Nat) (buf : List SpLine) : Inst :=
  die (cellK { slotW w with descs := [dsc num e0], readBuf := buf })

theorem ready_mem {w : BitVec 64} {o : TileOp} {num e0 : Nat} {buf : List SpLine} (h : decodeTile w = some o) :
    Ready (pkg (dieM w num e0 buf)) at0 (dieM w num e0 buf) o :=
  ready_slot _ _ _ rfl rfl rfl rfl (by show (some w).bind decodeTile = _; exact h) rfl rfl rfl rfl

/-- Line 4 of the window, whose first word is 1.0. -/
def one4 : SpLine := { line := 4, resp := 0, data := 0x3F800000#512 }

theorem planLoad_now {e : MemEnv} {dk map i f : Nat} {g : Fmt} (h1 : (e.slot.desc dk).nw.fmt = some g)
    (h2 : (e.slot.desc dk).isEmpty = false) (h3 : (e.slot.desc dk).illegal false false = false) :
    let d := e.slot.desc dk
    let p := d.readPlan (e.slot.tileIdx map) (e.cell.mkMask f &&& tailMask d (e.slot.tileIdx map))
    ∃ q, planLoad e f dk map i false = .ok (.now q) ∧ q.reads = p.1.map d.adr ∧ q.checks = [{ d := d, ps := p.2 }]
      ∧ ∀ rd, ∃ m, q.fin rd = .ok m ∧ m.writes = [] := by
  refine ⟨?q, ?a, ?b, ?c, ?d⟩
  case a =>
    rw [planLoad, withDesc, h1]
    simp only [h2, h3, Bool.false_eq_true, if_false]
    rfl
  case b => rfl
  case c => rfl
  case d => exact fun rd => ⟨_, rfl, rfl⟩

theorem witness_MemoryRuns :
    let x := dieM 0x0100924180000000#64 0 1 [one4]
    let as : List Adr := [.win 0x100, .win 0x101, .win 0x102, .win 0x103]
    ∃ q m, memAsk ((pureRun x).memEnv 0 0) (.vldLoad 0 0 2340 3 false) = some (.ok (MemAsk.now q)) ∧ q.reads = as
      ∧ Held (.vldLoad 0 0 2340 3 false) at0 x q.reads [] [] ∧ firstFail q.checks (fun b => bufByte (x.slot 0 0).readBuf (offOf [] b)) = none
      ∧ q.fin (fun b => bufByte (x.slot 0 0).readBuf (offOf [] b)) = .ok m ∧ Placed at0 x (m.writes.map Prod.fst) [] []
      ∧ Ready (pkg x) at0 x (.vldLoad 0 0 2340 3 false) := by
  obtain ⟨q, hq, hr, hc, hf⟩ := planLoad_now (e := (pureRun (dieM 0x0100924180000000#64 0 1 [one4])).memEnv 0 0) (dk := 0)
    (map := 2340) (i := 3) (f := 0) (g := .binary32) (by decide +kernel) (by decide +kernel) (by decide +kernel)
  obtain ⟨m, hm, hw⟩ := hf fun b => bufByte ((dieM 0x0100924180000000#64 0 1 [one4]).slot 0 0).readBuf (offOf [] b)
  have hr1 := hr.trans (by decide +kernel : _ = [Adr.win 0x100, .win 0x101, .win 0x102, .win 0x103])
  refine ⟨q, m, congrArg some hq, hr1, ?_, by rw [hc]; decide +kernel, hm, by rw [hw]; exact ⟨rfl, rfl⟩, ready_mem (by decide)⟩
  rw [hr1]
  exact ⟨by decide +kernel, by decide +kernel, by decide +kernel, fun b hb => ⟨one4, by decide +kernel, by revert b; decide +kernel⟩, by decide +kernel⟩

theorem planGather_now {e : MemEnv} {mk dk map i grouping sa off : Nat} {accum : Bool} {g : Fmt}
    (h1 : (e.slot.desc dk).nw.fmt = some g) (h2 : (e.slot.desc dk).isEmpty = false)
    (h3 : (e.slot.desc dk).illegal false false = false) (h4 : offsetOf e.slot.launch sa = .ok off)
    (hon : lanes.filter (fun p => laneOn (e.cell.mkMask mk &&& tailMask (e.slot.desc dk) (e.slot.tileIdx map)) p.1 p.2) = []) :
    ∃ q, planGather e mk dk map i accum grouping sa = .ok (.now q) ∧ q.reads = [] ∧ q.checks = []
      ∧ ∀ rd, ∃ m g, q.fin rd = .ok m ∧ m.gather = some g ∧ m.writes = [] := by
  refine ⟨?q, ?a, ?b, ?c, ?d⟩
  case a =>
    rw [planGather, withDesc, h1]
    simp only [h2, h3, h4, Bool.false_eq_true, if_false]
    rfl
  case b => rfl
  case c => rfl
  case d => exact fun rd => ⟨_, _, rfl, rfl, by simp [hon]⟩

/-- MemoryRuns, a gather none of whose lanes is enabled, and a feed request from a vitrine, with its prologue. -/
theorem witness_MemoryRunsGather :
    let x := dieM 0x31809244CB000000#64 0 1 []
    ∃ q m g, memAsk ((pureRun x).memEnv 0 0) (.steepGather 8 0 2340 2 true 2 11) = some (.ok (MemAsk.now q)) ∧ m.gather = some g
      ∧ Held (.steepGather 8 0 2340 2 true 2 11) at0 x q.reads [] []
      ∧ firstFail q.checks (fun b => bufByte (x.slot 0 0).readBuf (offOf [] b)) = none
      ∧ q.fin (fun b => bufByte (x.slot 0 0).readBuf (offOf [] b)) = .ok m ∧ Placed at0 x (m.writes.map Prod.fst) [] []
      ∧ Ready (pkg x) at0 x (.steepGather 8 0 2340 2 true 2 11) := by
  obtain ⟨q, hq, hr, hc, hf⟩ := planGather_now (e := (pureRun (dieM 0x31809244CB000000#64 0 1 [])).memEnv 0 0) (mk := 8) (dk := 0)
    (map := 2340) (i := 2) (accum := true) (grouping := 2) (sa := 11) (off := 0) (g := .binary32) (by decide +kernel) (by decide +kernel)
    (by decide +kernel) (by decide +kernel) (by decide +kernel)
  obtain ⟨m, g, hm, hg, hw⟩ := hf fun b => bufByte ((dieM 0x31809244CB000000#64 0 1 []).slot 0 0).readBuf (offOf [] b)
  refine ⟨q, m, g, congrArg some hq, hg, ?_, by rw [hc]; rfl, hm, by rw [hw]; exact ⟨rfl, rfl⟩, ready_mem (by decide)⟩
  rw [hr]
  exact ⟨rfl, rfl, rfl, fun b hb => absurd hb (List.not_mem_nil), by decide +kernel⟩

theorem witness_MemoryRunsFeed :
    let x := dieM 0x0100000A04000000#64 0 1 []
    ∃ q m, memAsk ((pureRun x).memEnv 0 0) (.vldFeed 0 0 0 true 0 4 0 false false 0 1 false) = some (.ok (MemAsk.now q))
      ∧ m.gather = none ∧ (TileOp.vldFeed 0 0 0 true 0 4 0 false false 0 1 false).isFeed = true
      ∧ Held (.vldFeed 0 0 0 true 0 4 0 false false 0 1 false) at0 x q.reads [] []
      ∧ firstFail q.checks (fun b => bufByte (x.slot 0 0).readBuf (offOf [] b)) = none
      ∧ q.fin (fun b => bufByte (x.slot 0 0).readBuf (offOf [] b)) = .ok m ∧ Placed at0 x (m.writes.map Prod.fst) [] []
      ∧ Ready (pkg x) at0 x (.vldFeed 0 0 0 true 0 4 0 false false 0 1 false)
      ∧ x.setSlot 0 0 { x.slot 0 0 with prologue := .none } = x ∧ (pkg x).setInst 0 x = pkg x := by
  refine ⟨_, _, rfl, rfl, rfl, ⟨rfl, rfl, rfl, fun b (hb : b ∈ []) => absurd hb List.not_mem_nil, (by decide : ∀ l ∈ ([] : List SpLine), l.resp = 0)⟩, rfl, rfl, ⟨rfl, rfl⟩,
    ready_mem (by decide), rfl, rfl⟩

/-- MemoryWaits: a line that is missing, and a line that an earlier add of the slot still writes. -/
theorem witness_MemoryWaits :
    let x := dieM 0x0100924180000000#64 0 1 []
    (let q : Cask := { cask0 with base := 0, I := 1, adds := [add0] };
      let c : Cell := { cellK { slotW 0x0100924180000000#64 with descs := [dsc 0 1] } with casks := [(3, q)] };
      Ready (pkg (die c)) at0 (die c) (.vldLoad 0 0 2340 3 false) ∧ c.caskHit (some 0) [0x100] = false ∧ c.addsWrite 0 [0x100] = true)
    ∧ (x.cell 0).addsWrite 0 [0x100] = false ∧ ∃ q, memAsk ((pureRun x).memEnv 0 0) (.vldLoad 0 0 2340 3 false) = some (.ok (MemAsk.now q))
      ∧ (TileOp.vldLoad 0 0 2340 3 false).isFeed = false
      ∧ x.trans 0 (x.vc (ownerOf (x.slot 0 0).launch)).asid false q.reads = .ok [] []
      ∧ (x.cell 0).caskHit (some 0) (q.reads.map (offOf [])) = false
      ∧ missing (x.slot 0 0).readBuf ((q.reads.map (offOf [])).map (· / 64)).eraseDups = [4]
      ∧ Ready (pkg x) at0 x (.vldLoad 0 0 2340 3 false) :=
  by
  refine ⟨⟨ready_slot _ _ _ rfl rfl rfl rfl (by decide) rfl rfl rfl rfl, by decide +kernel, by decide +kernel⟩, rfl, ?_⟩
  obtain ⟨q, hq, hr, -⟩ := planLoad_now (e := (pureRun (dieM 0x0100924180000000#64 0 1 [])).memEnv 0 0) (dk := 0)
    (map := 2340) (i := 3) (f := 0) (g := .binary32) (by decide +kernel) (by decide +kernel) (by decide +kernel)
  refine ⟨q, congrArg some hq, rfl, ?_, ?_, ?_, ready_mem (by decide)⟩ <;> rw [hr] <;> decide +kernel

theorem witness_LoadForm :
    let x := dieM 0x0100924180000000#64 0 1 [one4]
    let c := x.cell 0
    let k := c.slot 0
    let d := k.desc 0
    let en := c.mkMask 0 &&& tailMask d (k.tileIdx 2340)
    d.virt = false ∧ d.nw.fmt = some .binary32 ∧ d.isEmpty = false ∧ d.illegal false false = false ∧ d.nw.checked = false
      ∧ (d.readPlan (k.tileIdx 2340) en).1.all (fun b => decide (b < 2 ^ 20) && k.readBuf.any fun l => l.line == b / 64) = true
      ∧ k.readBuf.all (fun l => l.resp == 0#2) = true
      ∧ c.caskHit (some (ownerOf k.launch)) (d.readPlan (k.tileIdx 2340) en).1 = false
      ∧ c.addsWrite 0 (d.readPlan (k.tileIdx 2340) en).1 = false
      ∧ Ready (pkg x) at0 x (.vldLoad 0 0 2340 3 false) :=
  ⟨by decide +kernel, by decide +kernel, by decide +kernel, by decide +kernel, by decide +kernel, by decide +kernel,
    by decide +kernel, by decide +kernel, by decide +kernel, ready_mem (by decide)⟩

/-- StoreForm: a single vitrine, and a numeric word that VST refuses. -/
theorem witness_StoreForm :
    let x := dieM 0x0200924800000000#64 0 1 []
    let d := (x.slot 0 0).desc 0
    (Ready (pkg x) at0 x (.vst 0 0 2340 4 false) ∧ d.num = 0 ∧ d.isEmpty = false ∧ d.illegal true false = false
      ∧ d.adr 0x100 = .win 0x100
      ∧ Placed at0 x [.win 0x100, .win 0x101, .win 0x102, .win 0x103] [] [])
    ∧ (let y := dieM 0x0200924900000000#64 0x10 1 [];
      Ready (pkg y) at0 y (.vst 0 0 2340 4 true) ∧ ((y.slot 0 0).desc 0).num = 0x10)
    ∧ Ready (pkg (dieM 0x0200924800000000#64 1 1 [])) at0 (dieM 0x0200924800000000#64 1 1 []) (.vst 0 0 2340 4 false)
      ∧ (((dieM 0x0200924800000000#64 1 1 []).slot 0 0).desc 0).num ≠ 0 :=
  ⟨⟨ready_mem (by decide), by decide +kernel, by decide +kernel, by decide +kernel, by decide +kernel, by decide +kernel,
    by decide +kernel⟩, ⟨ready_mem (by decide), by decide +kernel⟩, ready_mem (by decide), by decide +kernel⟩

/-- One instruction of each kind that reads or writes a tensor, with its word. -/
def tensorWords : List (BitVec 64 × TileOp) :=
  [(0x0100924180000000#64, .vldLoad 0 0 2340 3 false), (0x0200924800000000#64, .vst 0 0 2340 4 false),
   (0x0100924984FB2478#64, .vldFeed 0 0 2340 false 6 4 (-3) true false 9 8 true), (0x0300924092000000#64, .cvtMemory 0 0 2340 0 2336),
   (0x1000924092400FF8#64, .sclFold 0 0 2340 0 2340 (-2)), (0x3000800009241000#64, .redRowRecord 0 32 0 2340),
   (0x3000800009242060#64, .redSoftmaxRecord 0 32 0 2340 3), (0x31009244CB000000#64, .steepGather 0 0 2340 2 true 2 11),
   (0x310092410B600000#64, .steepSettle 0 0 2340 11 12), (0x310092418B634000#64, .steepSmoothing 0 0 2340 11 12 13),
   (0x3300924400000000#64, .kiln 0 0 2340 2 false false false 0 0 0 0), (0x5402038000000000#64, .msk 1 0 0 7 0 0 0 0),
   (0x5402048000000000#64, .msk 1 0 0 9 0 0 0 0)]

/-- TensorOutputs: every instruction issues on any descriptor; one that is empty, in binary32 and with a scale; the element that KILN
and CVT write, a fold that stays in its range and one that leaves it, the rows of records, a group, the reads of settle, smoothing and LOAD. -/
theorem witness_TensorOutputs :
    (∀ p ∈ tensorWords, ∀ num e0 buf, Ready (pkg (dieM p.1 num e0 buf)) at0 (dieM p.1 num e0 buf) p.2)
    ∧ (∀ w num e0 buf, ((dieM w num e0 buf).slot 0 0).desc 0 = Desc.of (dsc num e0))
    ∧ ((Desc.of (dsc 0 0)).nw.fmt ≠ none ∧ (Desc.of (dsc 0 0)).isEmpty = true ∧ (Desc.of (dsc 0 0)).num = 0)
    ∧ ((Desc.of (dsc 0x48 0)).nw.fmt ≠ none ∧ (Desc.of (dsc 0x48 0)).isEmpty = true ∧ (Desc.of (dsc 0x48 0)).nw.mode = 1)
    ∧ (opFmt 4 ≠ none ∧ proClaimed [] .none = true ∧ (Desc.of (dsc 0 0)).nw.fmt ≠ some .uint8zp)
    ∧ (∀ num, num = 0 ∨ num = 0x48 → let d := Desc.of (dsc num 1);
      d.nw.fmt = some (if num = 0 then .binary32 else .int8) ∧ d.isEmpty = false ∧ ∀ w u, d.illegal w u = false)
    ∧ (let x := dieM 0x0300924092000000#64 0 1 [one4];
      let d := Desc.of (dsc 0 1);
      let t := (x.slot 0 0).tileIdx 2340;
      let reads : List Adr := [.win 0x100, .win 0x101, .win 0x102, .win 0x103];
      d.encodePlan t (tailMask d t) = ([], []) ∧ d.readPlan t (tailMask d t) = ([0x100, 0x101, 0x102, 0x103], [])
        ∧ (encoded d (KEnv.ofDesc [] 0 d) .binary32 (fun _ => 0) t (fun _ => none) (tailMask d t) fun _ _ => KIn.plain (f32 0x3FC00000#32)) =
          [(0x100, 0#8), (0x101, 0#8), (0x102, 0xC0#8), (0x103, 0x3F#8)]
        ∧ Held (.cvtMemory 0 0 2340 0 2336) at0 x reads [] [] ∧ Placed at0 x reads [] [])
    ∧ (let x := dieM 0x1000924092400FF8#64 0x48 1 [{ line := 0, resp := 0, data := 0x0A#512 }, one4];
      (Desc.of (dsc 0x48 1)).foldPositions ((x.slot 0 0).tileIdx 2340) = [0] ∧ foldByte 1 (-2) 10 = some 8 ∧ foldByte 1 (-2) 1 = none
        ∧ Held (.sclFold 0 0 2340 0 2340 (-2)) at0 x [.win 0, .win 1] [] [] ∧ Placed at0 x [.win 0, .win 1] [] [])
    ∧ (let x := dieM 0x31009244CB000000#64 0 1 [];
      let d := Desc.of (dsc 0 1);
      (List.range 32).filter (rowOn (tailMask d ((x.slot 0 0).tileIdx 2340))) = [0]
        ∧ lanes.filter (fun p => laneOn (tailMask d ((x.slot 0 0).tileIdx 2340)) p.1 p.2) = [(0, 0)]
        ∧ scalarOf (x.slot 0 0).launch 11 = 0 ∧ scalarOf (x.slot 0 0).launch 12 = 0
        ∧ ∀ n, n ≤ 32 → Placed at0 x ((List.range n).map fun j => .win j) [] [])
    ∧ (let x := dieM 0x5402048000000000#64 0 1 [{ line := 0, resp := 0, data := 0 }, { line := 1, resp := 0, data := 0 }];
      Held (.msk 1 0 0 9 0 0 0 0) at0 x ((List.range 128).map fun j => .win j) [] []) := by
  refine ⟨?_, fun _ _ _ _ => rfl, by decide +kernel, by decide +kernel, by decide +kernel, ?_, ?_, ?_, ?_, ?_⟩
  · intro p hp num e0 buf
    simp only [tensorWords, List.mem_cons, List.not_mem_nil, or_false] at hp
    rcases hp with rfl | rfl | rfl | rfl | rfl | rfl | rfl | rfl | rfl | rfl | rfl | rfl | rfl <;> exact ready_mem (by decide)
  · rintro num (rfl | rfl) <;> exact ⟨by decide +kernel, by decide +kernel, by decide +kernel⟩
  · exact ⟨by decide +kernel, by decide +kernel, by decide +kernel,
      ⟨by decide +kernel, by decide +kernel, by decide +kernel, fun b hb => ⟨one4, by decide +kernel, by revert b; decide +kernel⟩,
        by decide +kernel⟩, by decide +kernel, by decide +kernel⟩
  · exact ⟨by decide +kernel, by decide +kernel, by decide +kernel,
      ⟨by decide +kernel, by decide +kernel, by decide +kernel,
        fun b hb => ⟨{ line := 0, resp := 0, data := 0x0A#512 }, by decide +kernel, by revert b; decide +kernel⟩, by decide +kernel⟩,
      by decide +kernel, by decide +kernel⟩
  · refine ⟨by decide +kernel, by decide +kernel, by decide +kernel, by decide +kernel, fun n h => ⟨?_, ?_⟩⟩
    · interval_cases n <;> decide +kernel
    · rfl
  · refine ⟨by decide +kernel, by decide +kernel, by decide +kernel, fun b hb => ?_, by decide +kernel⟩
    have h : ∀ b ∈ (List.range 128).map fun j => Adr.win j, offOf [] b / 64 = 0 ∨ offOf [] b / 64 = 1 := by decide +kernel
    rcases h b hb with h | h
    · exact ⟨{ line := 0, resp := 0, data := 0 }, by decide +kernel, h.symm⟩
    · exact ⟨{ line := 1, resp := 0, data := 0 }, by decide +kernel, h.symm⟩

/-! ### Loops, fences, mash -/

/-- LoopEnters: a body that is entered, one skipped because its extent is 0, both behind another instruction of their tile, and a
misaligned descriptor. -/
theorem witness_LoopEnters :
    (let x := die (cellK { slotW 0x5000300000000000#64 with descs := [dsc 0 1 + 1] });
      Ready (pkg x) at0 x (.loop 0 3 1 false 0) ∧ ((x.slot 0 0).desc 0).nw.fmt ≠ none
        ∧ ¬(((x.slot 0 0).desc 0).isEmpty = true ∨ ((x.slot 0 0).desc 0).illegal false false = false))
    ∧ (let x := dieM 0x5000300000000000#64 0 1 [];
      ((x.slot 0 0).desc 0).nw.fmt ≠ none ∧ Ready (pkg x) at0 x (.loop 0 3 1 false 0) ∧ 0 < ceilDiv ((x.slot 0 0).desc 0).e0 32
        ∧ ((x.slot 0 0).desc 0).illegal false false = false)
    ∧ (let y := die (cellK { slotW 0x5000300000000000#64 with
        prog := [0x5000300000000000#64, 0x4300000070000000#64, 0x4300000070000000#64], descs := [dsc 0 0] });
      Ready (pkg y) at0 y (.loop 0 3 1 false 0) ∧ ceilDiv ((y.slot 0 0).desc 0).e0 32 = 0 ∧ (y.slot 0 0).loop = none
        ∧ (y.slot 0 0).idx + 1 + 1 < (y.slot 0 0).prog.length)
    ∧ (∀ e0, e0 = 0 ∨ e0 = 1 → let x := die (cellK { slotW 0 with
        prog := [0x520FFF800000FFFF#64, 0x5000300000000000#64, 0x520FFF800000FFFF#64], idx := 1, descs := [dsc 0 e0] });
      Ready (pkg x) at0 x (.loop 0 3 1 false 0) ∧ (x.slot 0 0).idx ≠ (x.slot 0 0).tile.start) :=
  ⟨⟨ready_slot _ _ _ rfl rfl rfl rfl (by decide +kernel) rfl rfl rfl rfl, by decide +kernel, by decide +kernel⟩,
    ⟨by decide +kernel, ready_mem (by decide), by decide +kernel, by decide +kernel⟩,
    ⟨ready_slot _ _ _ rfl rfl rfl rfl (by decide +kernel) rfl rfl rfl rfl, by decide +kernel, rfl, by decide +kernel⟩,
    fun _ h => by rcases h with rfl | rfl <;> exact ⟨ready_late _ _ rfl rfl rfl (by decide) rfl rfl (by decide), (by decide : 1 ≠ 0)⟩⟩

/-- FenceWaits: a fence that has reached its target, one that has not, one in error; a held wait; a fence of a die that sleeps. -/
theorem witness_FenceWaits :
    (Ready (pkg (dieW 0x5102008080000001#64)) at0 (dieW 0x5102008080000001#64) (.waitf 1025 false 0 0x80000001)
      ∧ (0#32 - 0x80000001#32).toInt = 0x7FFFFFFF ∧ (0#32 - 0x80000000#32).toInt < 0)
    ∧ (let f : Fence := { value := 0, err := 0x00F1 };
      let x : Inst := { dieW 0x5102008080000001#64 with fences := [(1, f)] };
      ((pkg x).fence 1 = f ∧ f.err ≠ 0))
    ∧ (let x := die (cellK { slotW 0x5102008080000001#64 with wait := .fence 0 0 0 });
      AtWork (pkg x) 0 x ∧ 0 < x.cellsBuilt ∧ CellUp x 0 ∧ (x.slot 0 0).phase = .running ∧ (x.slot 0 0).wait = .fence 0 0 0
        ∧ ((pkg x).fence 0).err = 0 ∧ 0 ≤ (((pkg x).fence 0).value - 0).toInt ∧ ((pkg x).env 0).away (0 / 1024) = false)
    ∧ (let x : Inst := Inst.reset 2 0 200;
      let y : Inst := { Inst.reset 2 1 200 with pwr := { Power.reset with state := 2 } };
      (State.env { State.reset with insts := [x, y] } 0).away (1025 / 1024) = true)
    ∧ ((pkg (dieW 0x5102008080000001#64)).env 0).away (1 / 1024) = false :=
  ⟨⟨ready_word (by decide), by decide, by decide⟩, ⟨by decide +kernel, by decide⟩,
    ⟨work_die _, built_die _, up_die _ rfl, rfl, rfl, by decide +kernel, by decide +kernel, by decide +kernel⟩, by decide +kernel,
    by decide +kernel⟩

theorem witness_SignalsAndSummaries :
    Ready (pkg (dieW 0x520FFF800000FFFF#64)) at0 (dieW 0x520FFF800000FFFF#64) (.sigf 8191 0xFFFF)
    ∧ Ready (pkg (dieW 0x5300FFE000001234#64)) at0 (dieW 0x5300FFE000001234#64) (.summ 0 0 3 31 30 0x1234) :=
  ⟨ready_word (by decide), ready_word (by decide)⟩

/-- The run that a MASH with first = 1 begins, for m = 5 (one tile a segment) and m = 6. -/
def run0 (m : Nat) : MashRun := { MashRun.none with m := m, inv := false, sign := 3 }

/-- MashRuns: a MASH that writes (m = 5), one that only takes its input (m = 6), one that takes a drained tile. -/
theorem witness_MashRuns :
    (let o : MashOp := { dst := 32, input := 2, ivit := 4, sign := 3, m := 5, inv := false, first := true, tag := 0 };
      mashRunOf MashRun.none o = some (run0 5) ∧ mashBad (run0 5) o none = false ∧ (∀ w ∈ (run0 5).tiles, w.length = 1024)
        ∧ Ready (pkg (dieW 0x3200828C20000000#64)) at0 (dieW 0x3200828C20000000#64) (.mash 0 32 2 4 3 5 false true 0)
        ∧ (run0 5).g ≤ (run0 5).count + 1 ∧ (run0 5).g ≤ 1)
    ∧ (let o : MashOp := { dst := 0, input := 2, ivit := 4, sign := 3, m := 6, inv := false, first := true, tag := 0 };
      mashRunOf MashRun.none o = some (run0 6) ∧ mashBad (run0 6) o none = false
        ∧ Ready (pkg (dieW 0x3200028CA0000000#64)) at0 (dieW 0x3200028CA0000000#64) (.mash 0 0 2 4 3 6 false true 0)
        ∧ (run0 6).count + 1 < (run0 6).g)
    ∧ (let o : MashOp := { dst := 32, input := 1, ivit := 4, sign := 3, m := 5, inv := false, first := true, tag := 0 };
      mashRunOf MashRun.none o = some (run0 5) ∧ mashBad (run0 5) o none = false
        ∧ Ready (pkg (dieW 0x3200818C20000000#64)) at0 (dieW 0x3200818C20000000#64) (.mash 0 32 1 4 3 5 false true 0)
        ∧ (cellK (slotW 0x3200818C20000000#64)).drain = []) :=
  ⟨⟨by decide, by decide, by decide, ready_word (by decide), by decide, by decide⟩,
    ⟨by decide, by decide, ready_word (by decide), by decide⟩, by decide, by decide, ready_word (by decide), rfl⟩

/-- A cell whose drain queue is q. -/
def cellD (w : BitVec 64) (q : List DrainTile) : Cell := { cellK (slotW w) with drain := q }

theorem ready_drain {w : BitVec 64} {o : TileOp} {q : List DrainTile} (h : decodeTile w = some o) :
    Ready (pkg (die (cellD w q))) at0 (die (cellD w q)) o :=
  ready_slot _ _ _ rfl rfl rfl rfl (by show (some w).bind decodeTile = _; exact h) rfl rfl rfl rfl

/-- A drained tile with n beats of 256 elements. -/
def tileN (id n : Nat) (tag : BitVec 16) : DrainTile :=
  { id := id, tag := tag, beats := List.replicate n (List.replicate 256 0x3F800000#32), bound := none }

/-- DrainForm: a complete tile, a tile with one beat, no tile. -/
theorem witness_DrainForm :
    (∀ n, Ready (pkg (die (cellD 0x010000068000BEEF#64 [tileN 0 n 0xBEEF]))) at0 (die (cellD 0x010000068000BEEF#64 [tileN 0 n 0xBEEF]))
      (.vldDrain 0 5 0xBEEF))
    ∧ (∀ t ∈ [tileN 0 4 0xBEEF], t.tag = 0xBEEF → t.id ∉ (slotW 0x010000068000BEEF#64).tile.kept)
    ∧ (tileN 0 4 0xBEEF).beats.length = 4 ∧ (tileN 0 4 0xBEEF).beats.flatten.length = 1024 ∧ (tileN 0 1 0xBEEF).beats.length < 4
    ∧ [tileN 0 4 0xBEEF].find? (fun t => t.tag == 0xBEEF && t.bound.isNone) = some (tileN 0 4 0xBEEF)
    ∧ (slotW 0x010000068000BEEF#64).fills = []
    ∧ (let c := cellD 0x010000068000BEEF#64 [];
      c.drain.find? (fun t => t.tag == 0xBEEF && t.bound.isNone) = none ∧ c.drain.find? (fun u => u.id == c.freshTile) = none) :=
  ⟨fun _ => ready_drain (by decide), by decide +kernel, by decide +kernel, by decide +kernel, by decide +kernel, by decide +kernel, rfl,
    rfl, rfl⟩

/-! ### Casks and tiles -/

/-- A program that goes on after its first instruction. -/
theorem goesOn_word (w : BitVec 64) : GoesOn (slotW w).next := by
  show 1 < 2
  decide

theorem no_casks {c : Cell} (h : c.casks = []) : CasksOk c := by simp [CasksOk, h]

/-- CaskOpens: a free range, and one for each check that fails. -/
theorem witness_CaskOpens :
    (let x := dieW 0x4000000070401200#64;
      Ready (pkg x) at0 x (.caskOpen 7 0x4000 2 false true false 0) ∧ 0x4000 + 0x4000 ≤ 2 ^ 20 ∧ (x.cell 0).findCask 0 7 = none
        ∧ CasksOk (x.cell 0) ∧ (x.cell 0).casks.all (fun p => decide (0x4000 + 0x4000 ≤ p.2.base ∨ p.2.base + 0x4000 ≤ 0x4000)) = true
        ∧ (scalarOf (x.slot 0 0).launch 2).toNat = 0 ∧ (x.cell 0).freeEntry = some 0 ∧ x.caskCount 0 < 32
        ∧ GoesOn (x.slot 0 0).next)
    ∧ (let x := dieW 0x400000007FF01200#64;
      Ready (pkg x) at0 x (.caskOpen 7 0xFF000 2 false true false 0) ∧ 2 ^ 20 < 0xFF000 + 0x4000)
    ∧ (∀ q : Cask, q.closing = false → Ready (pkg (die (cellQ 0x4000000070401200#64 q))) at0 (die (cellQ 0x4000000070401200#64 q))
      (.caskOpen 7 0x4000 2 false true false 0))
    ∧ (cellQ 0x4000000070401200#64 cask0).findCask 0 7 ≠ none
    ∧ (let c := cellQ 0x4000000070401200#64 { cask0 with group := 8, base := 0x6000 };
      c.findCask 0 7 = none ∧ ¬∀ p ∈ c.casks, 0x4000 + 0x4000 ≤ p.2.base ∨ p.2.base + 0x4000 ≤ 0x4000)
    ∧ (let w := 0x4000000070401200#64;
      let k : Slot := { slotW w with launch := [0x00010000#32, 0#32, 0#32, 0x00BE0303#32, 3#32, 0#32, 0#32, 0xFFFFFFFF#32] };
      (scalarOf k.launch 2).toNat = 0xFFFFFFFF ∧ ¬(0xFFFFFFFF + 0 + 0 ≤ 2 ^ 22))
    ∧ (let c : Cell := { cellK (slotW 0x4000000070401200#64) with
        casks := (List.range 16).map fun e => (e, { cask0 with group := e + 8, base := 0x8000 + 0x4000 * e }) };
      c.findCask 0 7 = none ∧ (∀ p ∈ c.casks, 0x4000 + 0x4000 ≤ p.2.base ∨ p.2.base + 0x4000 ≤ 0x4000) ∧ c.freeEntry = none)
    ∧ (let v : List Word := List.replicate 1024 0x7FFFFFFF#32;
      ¬∀ r ∈ openRows true true v, r.posC ≤ 2 ^ 22) :=
  ⟨⟨ready_word (by decide), by decide, rfl, no_casks rfl, rfl, by decide +kernel, by decide +kernel, by decide +kernel, goesOn_word _⟩,
    ⟨ready_word (by decide), by decide⟩, fun _ h => ready_cask (by decide) h, by decide +kernel, by decide +kernel, by decide +kernel,
    by decide +kernel, by decide +kernel⟩

theorem one_cask {c : Cell} {q : Cask} (h : c.casks = [(3, q)])
    (hq : q.base + 0x4000 ≤ 2 ^ 20 ∧ q.I = q.D + q.adds.length ∧ q.I ≤ q.A) : CasksOk c := by simpa [CasksOk, h] using hq

/-- CaskAddIssues: a first add, an add too many, no cask. -/
theorem witness_CaskAddIssues :
    (let c := cellQ 0x4100000076000000#64 cask0;
      Ready (pkg (die c)) at0 (die c) (.caskAdd 7 1 4 false 0 0) ∧ c.findCask 0 7 = some (3, cask0) ∧ cask0.I ≠ cask0.A
        ∧ cask0.chain = false ∧ cask0.adds = [] ∧ c.addQ = [] ∧ CasksOk c ∧ c.addReady 3 = none)
    ∧ (let q : Cask := { cask0 with I := 2, D := 2 };
      let c := cellQ 0x4100000076000000#64 q;
      Ready (pkg (die c)) at0 (die c) (.caskAdd 7 1 4 false 0 0) ∧ c.findCask 0 7 = some (3, q) ∧ q.I = q.A)
    ∧ (let c := cellQ 0x4100000076000000#64 chain0;
      Ready (pkg (die c)) at0 (die c) (.caskAdd 7 1 4 false 0 0) ∧ c.findCask 0 7 = some (3, chain0) ∧ chain0.chain ≠ false)
    ∧ (let x := dieW 0x4100000076000000#64;
      Ready (pkg x) at0 x (.caskAdd 7 1 4 false 0 0) ∧ (x.cell 0).findCask 0 7 = none) :=
  ⟨⟨ready_cask (by decide) rfl, by decide +kernel, by decide, rfl, rfl, rfl, one_cask rfl (by decide), rfl⟩,
    ⟨ready_cask (by decide) rfl, by decide +kernel, rfl⟩, ⟨ready_cask (by decide) rfl, by decide +kernel, by decide⟩, ready_word (by decide), rfl⟩

/-- CaskAddCommits: the last line of the load, of the first add, of a second one in its turn and out of it, and of a first one before
another; a commit, also of a chain, after which the slot goes on, and one that ends the program. -/
theorem witness_CaskAddCommits :
    (let z : CaskAdd := { add0 with load := some (lines0.take 124) };
      let q : Cask := { cask0 with I := 1, adds := [z] };
      let w : SpRead := { line := 0x17C, n := 4, who := .add 3, rank := 1 };
      let y : Cask := { cask0 with group := 8, base := 0x8000, I := 1, adds := [{ add0 with slot := 1, load := none }] };
      let c : Cell := { cellQ 0x4100000076000000#64 q with addQ := [(0, 3)], spReads := [w] };
      let two (o : List (Nat × Nat)) : Cell := { c with casks := [(3, q), (5, y)], addQ := o };
      let beat := [(0 : BitVec 2), 0, 0, 0].zip [(0 : Line), 0, 0, 0];
      AtWork (pkg (die c)) 0 (die c) ∧ 0 < (die c).cellsBuilt ∧ CellUp (die c) 0 ∧ q.chain = false ∧ q.rows = []
        ∧ (List.replicate 1024 Tw.zero).length = 1024 ∧ c.nextRead = some w ∧ w.who = .add 3 ∧ Cell.caskAt c 3 = some q
        ∧ beat.length = w.n ∧ (lines0.take 124 ++ w.answer beat).length = 128 ∧ (∀ l ∈ w.answer beat, l.resp = 0) ∧ z.storing = false
        ∧ c.addSource z = some (List.replicate 1024 .zero)
        ∧ (∀ o, (two o).nextRead = some w ∧ Cell.caskAt (two o) 3 = some q ∧ (two o).addReady 5 = none ∧ (two o).storing 5 = false))
    ∧ (let z : CaskAdd := { add0 with storing := true };
      let q : Cask := { cask0 with I := 1, adds := [z] };
      (∀ h : Cask, h = { chain0 with I := 1, adds := [z] } →
        let c : Cell := { cellK (slotW 0x4100000076000000#64) with casks := [(3, h)], addQ := [(0, 3)] };
        AtWork (pkg (die c)) 0 (die c) ∧ CellUp (die c) 0 ∧ c.addReady 3 = some (h, z, lines0, List.replicate 1024 .zero) ∧ CasksOk c
          ∧ (∃ w, h.rows[0]? = some w))
      ∧ ∀ k, k ∈ [slotW 0x4100000076000000#64,
          { slotW 0x4100000076000000#64 with prog := [], idx := 0, tile := TileBuf.at 0 none MashRun.none Led.zero }] →
        let c : Cell := { cellK k with casks := [(3, q)], addQ := [(0, 3)] };
        AtWork (pkg (die c)) 0 (die c) ∧ CellUp (die c) 0 ∧ c.addReady 3 = some (q, z, lines0, List.replicate 1024 .zero)
          ∧ c.spWrites.all (fun w => decide (w.who ≠ .add 3)) = true ∧ c.addQ.head? = some (z.slot, 3)
          ∧ (die c).flt.injected = none ∧ (∀ j, (c.slot j).wait ≠ .adds)
          ∧ (k.idx < k.prog.length ∧ (∀ code index cs, k.wait ≠ .fail code index cs)
            ∨ k.phase = .running ∧ k.wait = .ready ∧ k.idx = k.prog.length ∧ k.tile.start = k.idx ∧ c.pendingAdds z.slot = [z]
              ∧ c.summaries + c.reserved < 16 ∧ (c.casks.map Prod.fst).Pairwise (· < ·))) := by
  refine ⟨⟨work_die _, built_die _, up_die _ rfl, rfl, rfl, List.length_replicate, rfl, rfl, rfl, rfl, by decide +kernel, by decide +kernel,
    rfl, rfl, fun _ => ⟨rfl, rfl, rfl, rfl⟩⟩, ?_, ?_⟩
  · rintro h rfl
    exact ⟨work_die _, up_die _ rfl, by decide +kernel, one_cask rfl (by decide), ⟨_, rfl⟩⟩
  intro k hk
  have slots (k : Slot) (h : k.wait = .ready) (c : Cell) (hc : c.slots = [k, Slot.idle, Slot.idle, Slot.idle]) (j : Nat) :
      (c.slot j).wait ≠ .adds := by
    show (c.slots.getD j Slot.idle).wait ≠ .adds
    rw [hc]
    rcases j with _ | _ | _ | _ | j
    · show k.wait ≠ .adds
      rw [h]; decide
    all_goals exact (by decide : Wait.ready ≠ .adds)
  simp only [List.mem_cons, List.not_mem_nil, or_false] at hk
  rcases hk with rfl | rfl
  · exact ⟨work_die _, up_die _ rfl, by decide +kernel, rfl, rfl, rfl, slots _ rfl _ rfl, .inl ⟨by decide, fun _ _ _ h => nomatch h⟩⟩
  · exact ⟨work_die _, up_die _ rfl, by decide +kernel, rfl, rfl, rfl, slots _ rfl _ rfl,
      .inr ⟨rfl, rfl, rfl, rfl, by decide +kernel, by decide, by decide⟩⟩

/-- CaskDrains: the refusals, a drain whose adds have not committed, one of an empty descriptor, and the completions, S_A held
in a cask tile slot: to Vi, to the pair, to the window. -/
theorem witness_CaskDrains :
    (let q : Cask := { cask0 with I := 2 };
      let c := cellQ 0x4200000076420000#64 q;
      Ready (pkg (die c)) at0 (die c) (.caskDrain 0 0 0 7 1 4 true false 0 true) ∧ c.findCask 0 7 = some (3, q) ∧ q.I = q.A ∧ q.D < q.A)
    ∧ (let x := dieW 0x4200000076420000#64;
      Ready (pkg x) at0 x (.caskDrain 0 0 0 7 1 4 true false 0 true) ∧ (x.cell 0).findCask 0 7 = none)
    ∧ (let c := cellQ 0x4200000076420000#64 cask0;
      Ready (pkg (die c)) at0 (die c) (.caskDrain 0 0 0 7 1 4 true false 0 true) ∧ c.findCask 0 7 = some (3, cask0) ∧ cask0.I < cask0.A)
    ∧ (let c := cellQ 0x4200000076200000#64 cask0;
      Ready (pkg (die c)) at0 (die c) (.caskDrain 0 0 0 7 1 4 false true 0 false) ∧ c.findCask 0 7 = some (3, cask0) ∧ cask0.chain = false)
    ∧ (let x := dieM 0x4200924070000000#64 0 0 [];
      Ready (pkg x) at0 x (.caskDrain 0 0 2340 7 0 0 false false 0 false) ∧ ((x.slot 0 0).desc 0).nw.fmt ≠ none
        ∧ ((x.slot 0 0).desc 0).isEmpty = true ∧ GoesOn (x.slot 0 0).next)
    ∧ (∀ w o, (w, o) ∈ [(0x4200000076420000#64, TileOp.caskDrain 0 0 0 7 1 4 true false 0 true),
        (0x420000007A000000#64, TileOp.caskDrain 0 0 0 7 2 4 false false 0 false),
        (0x4200924070000000#64, TileOp.caskDrain 0 0 2340 7 0 0 false false 0 false)] →
      let q : Cask := { cask0 with I := 2, D := 2 };
      let k : Slot := { slotW w with wait := .drain, descs := [dsc 0 1] };
      let c : Cell := { cellK k with casks := [(3, q)], caskSlots := [{ at_ := 0, entry := 3, d := 2, sums := List.replicate 1024 .zero }] };
      AtWork (pkg (die c)) 0 (die c) ∧ 0 < (die c).cellsBuilt ∧ CellUp (die c) 0 ∧ k.phase = .running ∧ k.wait = .drain
        ∧ k.nextOp = some o ∧ c.findCask 0 7 = some (3, q) ∧ q.D = q.A ∧ q.I = q.A ∧ q.wins = [] ∧ (die c).flt.injected = none
        ∧ c.addsOpen 0 = false ∧ (c.drainReads 3 q).all (fun b => k.readBuf.any fun l => l.line == b.addr / 64) = true
        ∧ k.readBuf.all (fun l => l.resp == 0#2) = true ∧ (c.drainSums 3 q k.readBuf).length = 1024 ∧ k.tile.writes = []
        ∧ GoesOn k.next ∧ (k.desc 0).nw.fmt = some .binary32 ∧ (k.desc 0).isEmpty = false ∧ (k.desc 0).illegal true false = false) := by
  refine ⟨⟨ready_cask (by decide) rfl, by decide +kernel, rfl, by decide⟩, ⟨ready_word (by decide), rfl⟩,
    ⟨ready_cask (by decide) rfl, by decide +kernel, by decide⟩, ⟨ready_cask (by decide) rfl, by decide +kernel, rfl⟩,
    ⟨ready_mem (by decide), by decide +kernel, by decide +kernel, (by decide : 1 < 2)⟩, fun w o h => ?_⟩
  refine ⟨work_die _, built_die _, up_die _ rfl, rfl, rfl, ?_, rfl, rfl, rfl, rfl, rfl, rfl, rfl, rfl, List.length_replicate, rfl,
    (by decide : 1 < 2), (by decide +kernel : (Desc.of (dsc 0 1)).nw.fmt = _), (by decide +kernel : (Desc.of (dsc 0 1)).isEmpty = _),
    (by decide +kernel : (Desc.of (dsc 0 1)).illegal true false = _)⟩
  show (some w).bind decodeTile = _
  simp only [List.mem_cons, Prod.mk.injEq, List.not_mem_nil, or_false] at h
  obtain ⟨rfl, rfl⟩ | ⟨rfl, rfl⟩ | ⟨rfl, rfl⟩ := h <;> decide

/-- CaskCloses: the close, a close of no cask, its completion, one that still waits, one whose entry is gone. -/
theorem witness_CaskCloses :
    (let c := cellQ 0x4300000070000000#64 cask0;
      c.findCask 0 7 = some (3, cask0) ∧ Ready (pkg (die c)) at0 (die c) (.caskClose 7))
    ∧ (let x := dieW 0x4300000070000000#64;
      (x.cell 0).findCask 0 7 = none ∧ Ready (pkg x) at0 x (.caskClose 7))
    ∧ (let k : Slot := { slotW 0x4300000070000000#64 with wait := .close 3 0 };
      let q : Cask := { cask0 with closing := true };
      (∀ cs, let c : Cell := { cellK k with casks := cs };
        AtWork (pkg (die c)) 0 (die c) ∧ CellUp (die c) 0 ∧ (die c).flt.injected = none ∧ k.phase = .running ∧ k.wait = .close 3 0
          ∧ GoesOn k.next)
      ∧ [(3, q)].find? (fun p => p.1 == 3 && p.2.no == 0) = some (3, q) ∧ q.adds = []
      ∧ Cell.addsOpen { cellK k with casks := [(3, q)] } 0 = false
      ∧ (let a : CaskAdd := { add0 with slot := 1 };
        Cell.addsOpen { cellK k with casks := [(3, { q with adds := [a] })], addQ := [(1, 3)] } 0 = false ∧ [a] ≠ [])
      ∧ ([] : List (Nat × Cask)).find? (fun p => p.1 == 3 && p.2.no == 0) = none) :=
  ⟨⟨by decide +kernel, ready_cask (by decide) rfl⟩, ⟨rfl, ready_word (by decide)⟩,
    fun _ => ⟨work_die _, up_die _ rfl, rfl, rfl, rfl, (by decide : 1 < 2)⟩, by decide +kernel, rfl, rfl,
    ⟨by decide +kernel, by decide⟩, rfl⟩

/-- A slot whose first instruction has run, before a cask instruction. -/
def slotT (ws : List TileWrite) : Slot :=
  { slotW 0x520FFF800000FFFF#64 with
    prog := [0x520FFF800000FFFF#64, 0x4300000070000000#64], idx := 1, tile := { TileBuf.at 0 none MashRun.none Led.zero with writes := ws } }

/-- A slot whose gather has no base, and one whose gather accumulates onto the record at 0. -/
def slotG (accum : Bool) : Slot :=
  let k := slotT []
  { k with tile := { k.tile with gathers := [{ index := 0, accum := accum, obj := 0, lane := 0, recs := [(0, Steep.init)] }] } }

theorem tile_ready (k : Slot) (hr : k.phase = .running) (hw : k.wait = .ready) (hi : k.idx ≠ k.tile.start) (he : k.atEdge = true)
    (hf : k.fills = []) (hs : k.tile.sums = []) (c : Cell) (hc : c.slots = [k, Slot.idle, Slot.idle, Slot.idle])
    (ha : c.addsOpen 0 = false) (hq : c.feedQ = []) (hp : c.paused = false) : TileReady (pkg (die c)) at0 (die c) := by
  have hk : ((die c).cell at0.cell).slot at0.slot = k := by
    show c.slots.getD 0 Slot.idle = k
    rw [hc]; rfl
  refine ⟨work_die _, built_die _, up_die _ hp, hk ▸ hr, hk ▸ hw, hk ▸ hi, hk ▸ he, hk ▸ hf, ha, ?_, Or.inl (hk ▸ hs), rfl⟩
  show c.feedQ.all _ = true
  rw [hq]; rfl

/-- TileCommits: a tile without and with output, and gathers. -/
theorem witness_TileCommits :
    (∀ k, k ∈ [slotT [], slotT [⟨0x100, 1, 0⟩], slotG true, slotG false] → TileReady (pkg (die (cellK k))) at0 (die (cellK k)))
    ∧ (slotT []).tile.writes = [] ∧ (slotT []).tile.gathers = [] ∧ GoesOn (slotT []) ∧ (slotT [⟨0x100, 1, 0⟩]).tile.writes ≠ []
    ∧ (cellK (slotG true)).gatherBusy 0 = false ∧ (cellK (slotG false)).gatherBusy 0 = false
    ∧ recordLines (gatherBase (slotG true).tile.gathers) ≠ [] ∧ recordLines (gatherBase (slotG false).tile.gathers) = []
    ∧ (formGathers (bufByte []) (slotG false).tile.gathers).1 ≠ []
    ∧ (let c : Cell := { cellK (slotG true) with slots := [slotG true, { slotG true with wait := .gather }, Slot.idle, Slot.idle] };
      c.gatherBusy 0 = true) := by
  refine ⟨fun k hk => ?_, rfl, rfl, (by decide : 1 < 2), by decide, by decide +kernel, by decide +kernel, by decide +kernel,
    by decide +kernel, by decide +kernel, by decide +kernel⟩
  simp only [List.mem_cons, List.not_mem_nil, or_false] at hk
  rcases hk with rfl | rfl | rfl | rfl <;>
    exact tile_ready _ rfl rfl (by decide) (by decide +kernel) rfl rfl _ rfl rfl rfl rfl

/-- A slot at the end of its program. -/
def slotE : Slot := { slotW 0x520FFF800000FFFF#64 with prog := [0x520FFF800000FFFF#64], idx := 1 }

theorem witness_ProgramEnds :
    let x := die (cellK slotE)
    TileReady (pkg x) at0 x ∧ slotE.tile.gathers = [] ∧ slotE.tile.writes = [] ∧ slotE.tile.sums = [] ∧ slotE.tile.closes = none
      ∧ slotE.loop = none ∧ slotE.idx = slotE.prog.length ∧ (x.cell 0).summaries + (x.cell 0).reserved < 16 :=
  ⟨tile_ready _ rfl rfl (by decide) (by decide +kernel) rfl rfl _ rfl rfl rfl rfl, rfl, rfl, rfl, rfl, rfl, rfl, by decide +kernel⟩

/-! ### The ports of a cell -/

/-- DrainPort: a beat that is owed, one that begins a tile, one that joins, the last one of a tile that a cask add and that a
VLD has bound, one that finds the queue full; unbound tiles. -/
theorem witness_DrainPort :
    (∀ c : Cell, c.paused = false → AtWork (pkg (die c)) 0 (die c) ∧ PortOpen (pkg (die c)) ∧ 0 < (die c).cellsBuilt ∧ CellUp (die c) 0)
    ∧ [((7 : BitVec 16), 3)].find? (fun p => p.1 == 7) = some (7, 3) ∧ 1 < 3
    ∧ (Cell.reset.owed.all (fun p => p.1 != 7) = true ∧ Cell.reset.heldBeats < 64 ∧ Cell.reset.beatTile 7 = none ∧ Cell.reset.counted < 16)
    ∧ (let c := cellD 0 [tileN 0 3 7];
      c.owed.all (fun p => p.1 != 7) = true ∧ c.heldBeats < 64 ∧ c.beatTile 7 = some (tileN 0 3 7) ∧ (tileN 0 3 7).beats ≠ []
        ∧ c.slots.all (fun k => k.fills.all fun f => f.id != 0) = true ∧ c.drain.all (fun u => u.bound == none) = true
        ∧ (c.drain.map DrainTile.id).Nodup ∧ c.counted ≤ 16)
    ∧ (let t : DrainTile := { tileN 0 3 7 with bound := some (.add 3) };
      let c := cellD 0 [t];
      c.beatTile 7 = some t ∧ t.beats.length = 3 ∧ c.drain.find? (fun u => u.id == t.id) = some t
        ∧ c.slots.all (fun k => k.fills.isEmpty) = true)
    ∧ (let t : DrainTile := { tileN 0 3 7 with bound := some (.slot 0) };
      let f : Fill := { id := 0, kind := .vit 4 fullMask };
      let c : Cell := { cellK { slotW 0 with fills := [f] } with drain := [t] };
      c.beatTile 7 = some t ∧ c.drain.find? (fun u => u.id == t.id) = some t ∧ (c.slot 0).fills.find? (fun f => f.id == t.id) = some f
        ∧ ∀ m, m < 4 → m ≠ 0 → (c.slot m).fills = [])
    ∧ (let c := cellD 0 ((List.range 16).map fun i => tileN i 4 (BitVec.ofNat 16 i));
      c.owed.all (fun p => p.1 != 99) = true ∧ 64 ≤ c.heldBeats) :=
  ⟨fun c h => ⟨work_die c, ⟨(by decide : 0 < 8), fun _ _ h => nomatch h⟩, built_die c, up_die c h⟩, by decide, by decide,
    by decide +kernel, by decide +kernel, by decide +kernel, by decide +kernel, by decide +kernel⟩

/-- FeedAccepts: a vector that is ready; a feed request that waits for its lines; a paused cell; none. -/
theorem witness_FeedAccepts :
    let f : FeedVec := { fmt := 1, side := false, slot := 0, first := true, last := true, lanes := List.replicate 1024 0 }
    (let c : Cell := { cellK (slotW 0x0101924984FB2478#64) with feedQ := [f] };
      AtWork (pkg (die c)) 0 (die c) ∧ 0 < (die c).cellsBuilt ∧ CellUp (die c) 0 ∧ c.feedQ = f :: [])
    ∧ (let c := cellK { slotW 0x0101924984FB2478#64 with wait := .lines };
      AtWork (pkg (die c)) 0 (die c) ∧ c.feedQ = [] ∧ c.feedWaits = true)
    ∧ (let c : Cell := { Cell.reset with feedQ := [f], paused := true };
      AtWork (pkg (die c)) 0 (die c) ∧ c.feedQ ≠ [] ∧ c.paused = true)
    ∧ Cell.reset.feedQ = [] ∧ Cell.reset.feedWaits = false :=
  ⟨⟨work_die _, built_die _, up_die _ rfl, rfl⟩, ⟨work_die _, rfl, by decide +kernel⟩, ⟨work_die _, by decide, rfl⟩, rfl,
    by decide +kernel⟩

/-- ReadData: a program being fetched, an add, nobody, and the last lines of an instruction. -/
theorem witness_ReadData :
    (let q : SpRead := { line := 4, n := 4, who := .slot 0, rank := 3 };
      let c : Cell := { cellK { Slot.idle with phase := .fetching } with spReads := [q] };
      Built (pkg (die c)) cell0 (die c) ∧ c.nextRead = some q ∧ (c.slot 0).phase = .fetching
        ∧ ((List.replicate 4 (0 : BitVec 2)).zip (List.replicate 4 (0 : Line))).length = q.n)
    ∧ (let q : SpRead := { line := 4, n := 1, who := .slot 0, rank := 3 };
      let c : Cell := { cellK { slotW 0 with wait := .lines } with spReads := [q, { q with line := 9 }] };
      c.nextRead = some q ∧ (c.slot 0).wait = .lines ∧ Cell.owesSlot { c with spReads := c.spReads.erase q } 0 = true)
    ∧ (let z : Cask := { cask0 with I := 1, adds := [{ add0 with load := some [] }] };
      let q : SpRead := { line := 0x100, n := 4, who := .add 3, rank := 1 };
      let c : Cell := { cellQ 0x4100000076000000#64 z with spReads := [{ q with who := .nobody, rank := 3 }, q] };
      Built (pkg (die c)) cell0 (die c) ∧ c.nextRead = some q ∧ Cell.caskAt c 3 = some z ∧ z.D = 0 ∧ z.init = false
        ∧ z.adds = [{ add0 with load := some [] }] ∧ ([] : List SpLine).length + q.n < 128)
    ∧ (let q : SpRead := { line := 4, n := 1, who := .nobody, rank := 3 };
      Cell.nextRead { Cell.reset with spReads := [q] } = some q)
    ∧ (let k : Slot := { slotW 0x0100924180000000#64 with descs := [dsc 0 1], wait := .lines };
      let q : SpRead := { line := 4, n := 1, who := .slot 0, rank := 3 };
      let c : Cell := { cellK k with spReads := [q] };
      let d : Cell := { c with spReads := c.spReads.erase q };
      let x1 := (die c).setCell 0 (d.setSlot 0 { k with readBuf := k.readBuf ++ q.answer [(0, 0x3F800000#512)], wait := .ready });
      Built (pkg (die c)) cell0 (die c) ∧ c.nextRead = some q ∧ k.phase = .running ∧ k.wait = .lines ∧ d.owesSlot 0 = false
        ∧ Ready ((pkg (die c)).setInst 0 x1) at0 x1 (.vldLoad 0 0 2340 3 false)) := by
  refine ⟨⟨⟨rfl, built_die _⟩, rfl, rfl, by decide⟩, by decide +kernel, ⟨⟨rfl, built_die _⟩, rfl, rfl, rfl, rfl, rfl, by decide⟩, rfl,
    ⟨rfl, built_die _⟩, rfl, rfl, rfl, by decide +kernel, ?_⟩
  exact ready_slot (cellK { slotW 0x0100924180000000#64 with descs := [dsc 0 1], readBuf := [one4], wait := .ready }) _ _ rfl rfl rfl rfl
    (by decide +kernel) rfl rfl rfl rfl

/-- WriteAcknowledged: no request, one of nobody, one of an add, one of two, the last one, the last one with an error. -/
theorem witness_WriteAcknowledged :
    let w (who : SpWho) (n : Nat) : SpWrite :=
      { line := n, outs := [{ data := 0, be := BitVec.allOnes 64, poison := false }], who := who, rank := 3, index := 0, iter := 0 }
    let k (n : Nat) : Slot := { slotT [⟨0x100, 1, 0⟩] with wait := .commit n none }
    let c (who : SpWho) (n : Nat) : Cell := { cellK (k n) with spWrites := [w who 4] }
    (∀ who n, Built (pkg (die (c who n))) cell0 (die (c who n)) ∧ (k n).wait = .commit n none) ∧ Cell.reset.spWrites = []
      ∧ (c .nobody 1).nextWrite = some (w .nobody 4) ∧ (c (.add 3) 1).nextWrite = some (w (.add 3) 4)
      ∧ (c (.slot 0) 1).nextWrite = some (w (.slot 0) 4)
      ∧ (let q : Cask := { cask0 with I := 1, adds := [add0] }; Cell.caskAt { c (.add 3) 1 with casks := [(3, q)] } 3 = some q)
      ∧ GoesOn (k 1) ∧ (die (c (.slot 0) 1)).flt.failstop = false ∧ (c (.slot 0) 1).summaries + ((c (.slot 0) 1).setSlot 0 Slot.idle).reserved < 16 :=
  ⟨fun _ _ => ⟨⟨rfl, built_die _⟩, rfl⟩, rfl, rfl, rfl, rfl, rfl, (by decide : 1 < 2), rfl, by decide +kernel⟩

/-- A launch record of a program of one word at 0 without descriptors. -/
def launch1 : List Word := [0x00010000#32, 0#32, 0#32, 0x00BE0303#32, 0#32]

/-- Launches: acceptance, a full queue, a held post, refusals, admission, the end of the fetch of a program that waits on
fence 0. -/
theorem witness_Launches :
    (let x := die Cell.reset;
      AtWork (pkg x) 0 x ∧ 0 < x.cellsBuilt ∧ (x.cell 0).heldPost = none ∧ x.cellOut 0 = false ∧ launchArg x launch1 = true
        ∧ launchArg x [0] = false ∧ (x.cell 0).launchQ.length < 4 ∧ (x.cell 0).respQ = [] ∧ x.lstFail.getLsbD 0 = false)
    ∧ (let x := die { Cell.reset with launchQ := List.replicate 4 launch1 }; AtWork (pkg x) 0 x ∧ 4 ≤ (x.cell 0).launchQ.length)
    ∧ (let x := die { Cell.reset with heldPost := some [] }; AtWork (pkg x) 0 x ∧ (x.cell 0).heldPost ≠ none)
    ∧ (let x : Inst := { die Cell.reset with inService := 0 }; AtWork (pkg x) 0 x ∧ x.cellOut 0 = true)
    ∧ (let c : Cell := { Cell.reset with launchQ := [launch1], respQ := [.queued] };
      AtWork (pkg (die c)) 0 (die c) ∧ CellUp (die c) 0 ∧ c.freeSlot = some 0 ∧ c.claimed launch1 = false
        ∧ (die c).admitCheck ((pkg (die c)).env 0) launch1 = 0)
    ∧ (let buf : List SpLine := [{ line := 0, resp := 0, data := 0x5100000000000000#512 }];
      let c : Cell := { cellK { Slot.idle with phase := .fetching, launch := launch1, readBuf := buf } with respQ := [.fetching 0] };
      AtWork (pkg (die c)) 0 (die c) ∧ CellUp (die c) 0 ∧ (die c).flt.injected = none ∧ (c.slot 0).phase = .fetching
        ∧ c.owesSlot 0 = false ∧ buf.all (fun l => l.resp == 0#2) = true
        ∧ staticOk (fetchedProg buf launch1) (descCount launch1) (vitClaim launch1) (maskClaim launch1) = true) :=
  ⟨⟨work_die _, built_die _, rfl, by decide +kernel, by decide +kernel, by decide +kernel, by decide +kernel, rfl, by decide +kernel⟩,
    ⟨work_die _, by decide⟩, ⟨work_die _, by decide⟩, ⟨⟨rfl, rfl⟩, by decide +kernel⟩,
    ⟨work_die _, up_die _ rfl, by decide +kernel, by decide +kernel, by decide +kernel⟩,
    work_die _, up_die _ rfl, rfl, rfl, by decide +kernel, by decide +kernel, by decide +kernel⟩

/-! ### Transfer requests and mailboxes -/

/-- A virtual descriptor of one binary32 element at an address. -/
def vdsc (a : Nat) : Line := BitVec.ofNat 512 (a + 2 ^ 52 + 2 ^ 128 + 2 ^ 160 + 2 ^ 192 + 2 ^ 224)

/-- A request to move the tensor of line 1 to that of line 2, and the lines it reads. -/
def move1 : List Word := [0x00010000#32, 0x40#32, 0x80#32, 0#32, 0#32, 0#32, 0#32, 0x1234#32]
def moveLines : List SpLine := [{ line := 1, resp := 0, data := vdsc 0x10000 }, { line := 2, resp := 0, data := vdsc 0x20000 }]

/-- TransferRequests: an accepted request, and one for each check that fails. -/
theorem witness_TransferRequests :
    let x := die Cell.reset
    (AtWork (pkg x) 0 x ∧ 0 < x.cellsBuilt ∧ (x.cell 0).heldPost = none ∧ x.cellOut 0 = false ∧ move1.length = 8 ∧ xWordsOk move1 = true
      ∧ handleInst (wordAt move1 0) = 0 ∧ 0 < x.instCount ∧ x.stream.inForce = true ∧ (x.vc 0).gen = handleGen (wordAt move1 0)
      ∧ (x.vc 0).st = .running ∧ x.xfers = [] ∧ requestRange move1 = true
      ∧ (∀ l ∈ requestLines move1, ∃ q, lineIn moveLines l = some q ∧ q.resp = 0)
      ∧ shapeCheck move1 (Desc.of (dataIn moveLines 1)) (Desc.of (dataIn moveLines 2)) (dataIn moveLines 2) = 0)
    ∧ xWordsOk [0, 0x80000000#32, 0, 0, 0, 0, 0, 0] = false
    ∧ (x.vc 0).gen ≠ handleGen 0 ∧ Vc.free.st ≠ .running
    ∧ requestRange (move1.set 1 0x41#32) = false
    ∧ shapeCheck move1 (Desc.of 0) (Desc.of 0) 0 = 0
    ∧ shapeCheck move1 (Desc.of (dsc 0 1)) (Desc.of (dsc 0 1)) 0 ≠ 0 := by
  refine ⟨⟨work_die _, built_die _, rfl, by decide +kernel, rfl, by decide +kernel, by decide +kernel, by decide +kernel, rfl, by decide +kernel,
    rfl, rfl, by decide +kernel, ?_, by decide +kernel⟩, by decide +kernel, by decide +kernel, by decide, by decide +kernel, by decide +kernel,
    by decide +kernel⟩
  have h : requestLines move1 = [1, 2] := by decide +kernel
  rw [h]
  intro l hl
  simp only [List.mem_cons, List.not_mem_nil, or_false] at hl
  obtain rfl | rfl := hl
  · exact ⟨{ line := 1, resp := 0, data := vdsc 0x10000 }, rfl, rfl⟩
  · exact ⟨{ line := 2, resp := 0, data := vdsc 0x20000 }, rfl, rfl⟩

/-- A die without cells at work, its mailbox 0 as given. -/
def boxDie (b : Mbox) : Inst := { die Cell.reset with cells := [], mboxes := [(0, b)] }

/-- An allocated mailbox from the management processor to the core of cell 0. -/
def box0 : Mbox := { Mbox.free with alloc := true, receiver := 0x8000 }

/-- MailboxCommands: an allocation, one without a free mailbox, one between reserved agents; a busy window; a mailbox of a
sleeping instance; a stale handle; a mailbox of the management processor with and without a message; a record that is not yet
sent, in part and not at all. -/
theorem witness_MailboxCommands :
    (let x : Inst := { die Cell.reset with mbArg1 := 0x8000#32 };
      AtWork (pkg x) 0 x ∧ PortOpen (pkg x) ∧ (x.mbFreeing.isSome || x.mbWait.isSome) = false
        ∧ (agentOk 0 && agentOk 0x8000 && decide (0 ≠ 0x8000) && decide (agentInst 0 < x.instCount)
          && decide (agentInst 0x8000 < x.instCount) && (pkg x).agentServed 0 && (pkg x).agentServed 0x8000) = true
        ∧ (x.mbox 0).alloc = false)
    ∧ (let x : Inst := { die Cell.reset with mbFreeing := some 0 }; AtWork (pkg x) 0 x ∧ (x.mbFreeing.isSome || x.mbWait.isSome) = true)
    ∧ agentOk 0x7FFF = false
    ∧ (let x : Inst := { die Cell.reset with mboxes := (List.range 32).map fun k => (k, box0) };
      ∀ k, k < 32 → (x.mbox k).alloc = true)
    ∧ (handleInst 0x00010000#32 = 0 ∧ handleVc 0x00010000#32 = 0 ∧ handleGen 0x00010000#32 = 1 ∧ handleGen 0x00020000#32 ≠ 1)
    ∧ (let x := Inst.reset 2 0 200;
      let y : Inst := { Inst.reset 2 1 200 with pwr := { Power.reset with state := 2 } };
      let s : State := { State.reset with insts := [x, y] };
      AtWork s 0 x ∧ handleInst 0x20010000#32 = 1 ∧ s.insts[1]? = some y ∧ s.linked 0 1 = true ∧ y.asleep = true)
    ∧ (∀ b, (boxDie b).awake = true)
    ∧ ((boxDie box0).mbox 0 = box0 ∧ box0.alloc = true ∧ box0.gen = 1 ∧ box0.sender = 0 ∧ box0.pending = false ∧ box0.receiver ≠ 0)
    ∧ (let b : Mbox := { box0 with sender := 0x8000, receiver := 0, pending := true };
      (boxDie b).mbox 0 = b ∧ b.sender ≠ 0 ∧ b.receiver = 0 ∧ b.pending = true ∧ agentCell b.receiver = none)
    ∧ (∀ n, n ∈ [0, 3, 6] →
      let b : Mbox := { box0 with pending := true, sending := true };
      let ws := (deliveryWords 0x00010000#32 b).drop (6 - n);
      let x : Inst := { boxDie b with cells := [(0, { Cell.reset with outQ := ws })] };
      AtWork (pkg x) 0 x ∧ x.mbox 0 = b ∧ (pkg x).wordsLeft b.receiver 0x00010000#32 = n) := by
  refine ⟨⟨⟨rfl, rfl⟩, ⟨by decide, fun _ _ h => nomatch h⟩, rfl, by decide +kernel, by decide +kernel⟩, ⟨⟨rfl, rfl⟩, rfl⟩, by decide, ?_,
    by decide +kernel, ⟨⟨rfl, rfl⟩, by decide +kernel, rfl, by decide +kernel, by decide +kernel⟩, fun _ => rfl, by decide +kernel,
    by decide +kernel, ?_⟩
  · decide +kernel
  · intro n hn
    simp only [List.mem_cons, List.not_mem_nil, or_false] at hn
    rcases hn with rfl | rfl | rfl <;> exact ⟨⟨rfl, rfl⟩, by decide +kernel, by decide +kernel⟩

/-- MailboxPort: a post into an empty mailbox, one that is held, one that is refused; the release; the outbound words; a
delivery. -/
theorem witness_MailboxPort :
    (let b : Mbox := { box0 with sender := 0x8000, receiver := 0 };
      let x := boxDie b;
      AtWork (pkg x) 0 x ∧ 0 < x.cellsBuilt ∧ handleInst 0x00010000#32 = 0 ∧ x.mbox 0 = b ∧ b.alloc = true
        ∧ b.gen = handleGen 0x00010000#32 ∧ (x.cell 0).heldPost = none ∧ (x.cell 0).respQ = [] ∧ x.cellOut 0 = false
        ∧ [0x00010000#32, 1, 2, 3, 4].length = 5 ∧ b.sender = coreAgent x.id 0 ∧ b.pending = false ∧ b.sender ≠ coreAgent x.id 1)
    ∧ (let ws : List Word := [0x00010000#32, 1, 2, 3, 4];
      let c : Cell := { Cell.reset with heldPost := some ws, respQ := [.held] };
      let x : Inst := { die c with mboxes := [(0, { box0 with sender := 0x8000, receiver := 0 })] };
      AtWork (pkg x) 0 x ∧ (x.cell 0).heldPost = some ws ∧ (x.cell 0).respQ = .held :: [] ∧ (x.mbox 0).sender = coreAgent x.id 0
        ∧ (x.mbox 0).pending = false)
    ∧ (let w : OutWord := { data := 1, kind := 0, last := true, box := none };
      let c : Cell := { Cell.reset with outQ := [w] };
      AtWork (pkg (die c)) 0 (die c) ∧ c.outQ = w :: [] ∧ (c.slot 0).phase = .idle ∧ w.box = none)
    ∧ (let w : OutWord := { data := 1, kind := 2, last := true, box := some 0x00010000#32 };
      let x : Inst := { die { Cell.reset with outQ := [w] } with mboxes := [(0, { box0 with pending := true, sending := true })] };
      AtWork (pkg x) 0 x ∧ w.box = some 0x00010000#32 ∧ w.last = true ∧ handleVc 0x00010000#32 < 32 ∧ (x.mbox 0).sending = true
        ∧ ∀ y ∈ (pkg x).insts, y.mbFreeing ≠ some 0)
    ∧ (let w : OutWord := { data := 1, kind := 0, last := true, box := none };
      let c : Cell := { cellK { slotE with phase := .ending 0 false 0 [] } with outQ := [w] };
      AtWork (pkg (die c)) 0 (die c) ∧ (c.slot 0).phase = .ending 0 false 0 [] ∧ (c.slot 1).phase = .idle ∧ (c.slot 2).phase = .idle
        ∧ (c.slot 3).phase = .idle ∧ w.box = none ∧ Cell.summaries { c with outQ := [] } + Cell.reserved { c with outQ := [] } < 16)
    ∧ (let b : Mbox := { box0 with pending := true };
      let x : Inst := { boxDie b with dbMask := 0 };
      AtWork (pkg x) 0 x ∧ agentCell b.receiver = some (0, 0) ∧ b.pending = true ∧ b.sending = false ∧ x.dbMask.getLsbD 0 = false
        ∧ 0 < x.cellsBuilt ∧ x.cellOut 0 = false) := by
  refine ⟨⟨⟨rfl, rfl⟩, by decide +kernel⟩, ⟨⟨rfl, rfl⟩, by decide +kernel⟩, ⟨work_die _, by decide +kernel⟩, ⟨⟨rfl, rfl⟩, by decide +kernel⟩,
    ⟨work_die _, by decide +kernel⟩, ⟨rfl, rfl⟩, by decide +kernel⟩

/-! ### Translation, transfers, collectives -/

/-- What holds of an idle slot and of k holds of every slot of a die whose only listed slot is k. -/
theorem all_slots {P : Slot → Prop} (c : Cell) (k : Slot) (hs : c.slots = [k, Slot.idle, Slot.idle, Slot.idle])
    (h0 : P Slot.idle) (hk : P k) (n j : Nat) : P ((die c).slot n j) := by
  have four (a : Slot) (ha : P a) : P ([a, Slot.idle, Slot.idle, Slot.idle].getD j Slot.idle) := by
    rcases j with _ | _ | _ | _ | j <;> first | exact ha | exact h0
  rcases n with _ | n
  · show P (c.slots.getD j Slot.idle)
    rw [hs]; exact four k hk
  · exact four Slot.idle h0

/-- A request for page 5 of address space 0. -/
def req5 (pending : Bool) (who : XlWho) : XlReq := { tag := 0, asid := 0, vpn := 5, write := false, pending := pending, who := who }

/-- A transfer that moves the tensor of line 1 to that of line 2. -/
def xfer0 : Xfer :=
  { id := 0, vc := 0, cell := 0, words := move1, src := vdsc 0x10000, dst := vdsc 0x20000, sign := [], plan := 0, phase := .waiting
    waited := false, since := 0, ticks := 0, space := 0, pages := [], tiles := [], got := [], stages := []
    failed := false, bytes := 0, poisoned := 0, firstBad := 0, led := Led.zero, accepted := [], results := [], sentAt := none
    ctr := 0, inbox := [], polls := [] }

/-- TransferRequests, MailboxCommands and MailboxPort where a request waits: 2,048 queued transfers and none; a mailbox behind a die
that sleeps; a delivery that a masked doorbell holds back, and one that ends. -/
theorem witness_PortWaits :
    (let x : Inst := { die Cell.reset with xfers := List.replicate 2048 xfer0 };
      AtWork (pkg x) 0 x ∧ 0 < x.cellsBuilt ∧ (x.cell 0).heldPost = none
        ∧ ∃ y, ((pkg x).setInst 0 (x.ungate 0)).insts[handleInst (wordAt move1 0)]? = some y ∧ y.awake = true ∧ 2048 ≤ y.queuedXfers)
    ∧ (let x := die Cell.reset;
      ∀ y, ((pkg x).setInst 0 (x.ungate 0)).insts[handleInst (wordAt move1 0)]? = some y → y.queuedXfers < 2048)
    ∧ (let x := Inst.reset 2 0 200;
      let y : Inst := { Inst.reset 2 1 200 with pwr := { Power.reset with state := 2 } };
      let s : State := { State.reset with insts := [x, y] };
      AtWork s 0 x ∧ PortOpen s ∧ s.sleepers 0 1 = [1] ∧ s.insts[1]? = some y)
    ∧ (let w : OutWord := { data := 1, kind := 2, last := true, box := some 0x00010000#32 };
      let x : Inst := { die { Cell.reset with outQ := [w] } with mboxes := [(0, { box0 with pending := true, sending := true })] };
      (pkg x).maskedOut [w] = [] ∧ (x.mbox 0).alloc = true ∧ (x.mbox 0).gen = handleGen 0x00010000#32)
    ∧ (let w : OutWord := { data := 1, kind := 0, last := true, box := none };
      (pkg (die { Cell.reset with outQ := [w] })).maskedOut [w] = [])
    ∧ (let b : Mbox := { box0 with pending := true, sending := true };
      let x : Inst := { boxDie b with dbMask := 1, cells := [(0, { Cell.reset with outQ := deliveryWords 0x00010000#32 b })] };
      AtWork (pkg x) 0 x ∧ 0 < x.cellsBuilt ∧ (pkg x).maskedOut (x.cell 0).outQ = [0x00010000#32]) := by
  refine ⟨⟨⟨rfl, rfl⟩, by decide, rfl, _, rfl, rfl, ?_⟩, fun y h => Option.some.inj h ▸ by decide, ⟨⟨rfl, rfl⟩, ⟨by decide, fun _ _ h => nomatch h⟩, by decide +kernel, rfl⟩,
    by decide +kernel, by decide +kernel, ⟨rfl, rfl⟩, by decide, by decide +kernel⟩
  show 2048 ≤ ((List.replicate 2048 xfer0).filter fun t => decide (t.phase = .waiting ∨ t.phase = .ready)).length
  rw [List.filter_replicate]
  exact Nat.le_of_eq List.length_replicate.symm

/-- TranslationPort: an answer that nobody waits for, a die that sleeps, a PENDING one, a refused one; a notice; an invalidation of a used page. -/
theorem witness_TranslationPort :
    (let x : Inst := { die Cell.reset with xreqs := [req5 false .nobody] };
      AtWork (pkg x) 0 x ∧ x.xreqs.find? (fun p => p.tag == 0 && !p.pending) = some (req5 false .nobody) ∧ x.xfers = []
        ∧ ∀ n k, (x.slot n k).wait ≠ .xlate)
    ∧ (let x : Inst := { die Cell.reset with pwr := { Power.reset with state := 2 } }; Alive (pkg x) 0 x ∧ x.awake = false)
    ∧ (let x : Inst := { die (cellK { slotT [] with wait := .xlate }) with xreqs := [req5 false (.slot 0 0)] };
      AtWork (pkg x) 0 x ∧ x.xreqs.find? (fun p => p.tag == 0 && !p.pending) = some (req5 false (.slot 0 0)) ∧ (x.slot 0 0).wait = .xlate)
    ∧ (let t : Xfer := { xfer0 with phase := .translating };
      let x : Inst := { die Cell.reset with xreqs := [req5 false (.xfer 0)], xfers := [t] };
      AtWork (pkg x) 0 x ∧ x.xfers = [t] ∧ (req5 false (.xfer 0)).who = .xfer t.id ∧ ∀ n k, (x.slot n k).wait ≠ .xlate)
    ∧ (let x : Inst := { die (cellK { slotT [] with wait := .resolve }) with xreqs := [req5 true (.slot 0 0)] };
      AtWork (pkg x) 0 x ∧ x.xreqs.filter (fun q => q.pending && decide (q.asid = 0) && (false || q.vpn == 5)) = [req5 true (.slot 0 0)]
        ∧ (x.slot 0 0).wait = .resolve ∧ x.xfers = [] ∧ ∀ n k, (x.slot n k).wait ≠ .xlate)
    ∧ (let e : TlbEntry := { asid := 0, vpn := 5, pages := 1, ppn := 9, r := true, w := true };
      let k : Slot := { slotT [] with tile := { TileBuf.at 0 none MashRun.none Led.zero with used := [(5, 1)] } };
      let x : Inst := { die (cellK k) with tlb := [e] };
      AtWork (pkg x) 0 x ∧ x.xfers = [] ∧ (∀ n k left err, (x.slot n k).wait ≠ .commit left err) ∧ (x.slot 0 0).phase = .running
        ∧ (x.slot 0 0).wait = .ready ∧ invHits 0 0 5 1 e.asid e.vpn e.pages = true ∧ e.asid = (x.vc (ownerOf (x.slot 0 0).launch)).asid) :=
  ⟨⟨⟨rfl, rfl⟩, rfl, rfl, all_slots (P := fun s => s.wait ≠ .xlate) _ Slot.idle rfl (by decide) (by decide)⟩, ⟨⟨rfl, rfl⟩, rfl⟩,
    ⟨⟨rfl, rfl⟩, rfl, rfl⟩, ⟨⟨rfl, rfl⟩, rfl, rfl, all_slots (P := fun s => s.wait ≠ .xlate) _ Slot.idle rfl (by decide) (by decide)⟩,
    ⟨⟨rfl, rfl⟩, by decide, rfl, rfl, all_slots (P := fun s => s.wait ≠ .xlate) _ { slotT [] with wait := .resolve } rfl (by decide) (by decide)⟩,
    ⟨rfl, rfl⟩, rfl,
    all_slots (P := fun s => ∀ left err, s.wait ≠ .commit left err) _
      { slotT [] with tile := { TileBuf.at 0 none MashRun.none Led.zero with used := [(5, 1)] } } rfl (fun _ _ h => nomatch h) (fun _ _ h => nomatch h),
    rfl, rfl, by decide, by decide +kernel⟩

/-- A die with one transfer. -/
def xferDie (t : Xfer) : Inst := { die Cell.reset with xfers := [t] }

theorem xfer_die (t : Xfer) (_ : t.id = 0) : AtWork (pkg (xferDie t)) 0 (xferDie t) ∧ (xferDie t).xfer t.id = some t := by
  refine ⟨⟨rfl, rfl⟩, ?_⟩
  show [t].find? (fun u => u.id == t.id) = some t
  simp

/-- A T1 read, and its second issue. -/
def read0 (again : Bool) : SeRead := { va := 0x400, pa := 0x400, tier := 1, again := again, poll := none }

/-- TransferSteps: the fence wait with every outcome, an empty transfer, the reservation that passes and that waits, the
reads. -/
theorem witness_TransferSteps :
    (∀ t : Xfer, t.id = 0 → AtWork (pkg (xferDie t)) 0 (xferDie t) ∧ (xferDie t).xfer t.id = some t)
    ∧ (xWaitEn move1 = false ∧ xfer0.phase = .waiting ∧ xfer0.isEmpty = false ∧ Xfer.isEmpty { xfer0 with src := 0 } = true)
    ∧ (let ws := move1.set 4 0x2001#32; xWaitEn ws = true ∧ xWaitFence ws = 1 ∧ (0 : Int) ≤ ((0 : Word) - xTarget ws).toInt
        ∧ ((0x80000000 : Word) - xTarget ws).toInt < 0)
    ∧ (let t : Xfer := { xfer0 with phase := .ready };
      (xferDie t).xfers = [t] ∧ t.space + t.need ≤ 2 ^ 23 ∧ (xferDie t).tlb = [] ∧ t.firstPages ≠ []
        ∧ (xferDie t).xfers.find? (xferDie t).eligible = some t)
    ∧ (let t : Xfer := { xfer0 with phase := .ready };
      let u : Xfer := { xfer0 with id := 1, vc := 1, phase := .reading, space := 2 ^ 23 };
      let x : Inst := { die Cell.reset with xfers := [t, u] };
      AtWork (pkg x) 0 x ∧ x.xfer t.id = some t ∧ x.xfers.find? x.eligible = some t ∧ 2 ^ 23 < (x.xfers.map Xfer.space).sum + t.need)
    ∧ (let t : Xfer := { xfer0 with phase := .reading };
      let q (r : SeRead) : SeReq := { port := 0, ident := 0, xfer := some 0, reads := [r], writes := [], again := false };
      (∀ r, let x : Inst := { xferDie t with seReqs := [q r] };
        AtWork (pkg x) 0 x ∧ x.xfer t.id = some t ∧ x.seReqs.find? (fun q => q.port == 0 && q.ident == 0 && !q.reads.isEmpty) = some (q r)
          ∧ (q r).xfer = some t.id ∧ (∀ u ∈ x.xfers, u.tiles = []) ∧ (q r).reads = [r] ∧ x.flt.injected = none ∧ x.xfers = [t]
          ∧ (x.vc t.vc).resident = true)
        ∧ ({ xferDie t with seReqs := [] } : Inst).nextPort = some (0, 0) ∧ xKind t.words = 0 ∧ ((read0 false).tier = 1 ∨ (read0 false).tier = 2) ∧ ¬({ read0 false with tier := 0 } : SeRead).tier = 1
        ∧ (read0 true).again = true ∧ t.poisons { xferDie t with seReqs := [q (read0 true)] } = true)
    ∧ (let t : Xfer := { xfer0 with
          phase := .reading, pages := [{ vpn := 0x20, write := true, side := .dst, ppn := some 0x800, used := (0, 0) }] };
      let x : Inst := { xferDie t with
        stream := { Stream.none with inForce := true, ranges := [{ base := 0x800, pages := 1, tier := 2, encReq := false }] } };
      AtWork (pkg x) 0 x ∧ x.xfer t.id = some t ∧ t.poisons x = false)
    ∧ (let t : Xfer := { xfer0 with words := move1.set 4 0x2401#32 };
      let y : Inst := { Inst.reset 2 1 200 with pwr := { Power.reset with state := 2 } };
      xWaitEn t.words = true ∧ (State.env { State.reset with insts := [xferDie t, y] } 0).away (xWaitFence t.words / 1024) = true
        ∧ ((pkg (xferDie t)).env 0).away (xWaitFence (move1.set 4 0x2001#32) / 1024) = false) := by
  refine ⟨xfer_die, by decide +kernel, by decide +kernel, by decide +kernel, ⟨⟨rfl, rfl⟩, by decide +kernel⟩,
    ⟨fun r => ⟨⟨rfl, rfl⟩, rfl, rfl, rfl, by rintro u hu; simp only [xferDie, List.mem_singleton] at hu; subst hu; rfl, rfl, rfl, rfl, rfl⟩,
      by decide +kernel⟩, ⟨⟨rfl, rfl⟩, by decide +kernel⟩, by decide +kernel⟩

/-- TransferCommits: a copy; a source sealed with a key that the channel does not have; the acknowledgements. -/
theorem witness_TransferCommits :
    (∀ t : Xfer, t.id = 0 → AtWork (pkg (xferDie t)) 0 (xferDie t) ∧ (xferDie t).xfer t.id = some t)
    ∧ (let t : Xfer := { xfer0 with
          phase := .reading, got := [{ va := 0x400, data := 0x3F800000#512, bad := false }]
          pages := [{ vpn := 0x20, write := true, side := .dst, ppn := some 0x800, used := (0, 0) }] };
      (xferDie t).readDone t = true ∧ xKind t.words = 0 ∧ converts t.words t.sd t.dd (t.dec (xferDie t)) (t.enc (xferDie t)) = false
        ∧ t.lineWrites ((t.sd.elemAddrs.zip t.dd.elemAddrs).map fun p =>
          { addr := p.2, byte := BitVec.ofNat 8 (t.raw p.1).1, bad := (t.raw p.1).2 }) ≠ [])
    ∧ (let t : Xfer := { xfer0 with
          phase := .reading, src := vdsc 0x10000 + BitVec.ofNat 512 (2 ^ 100)
          pages := [{ vpn := 0x10, write := false, side := .src, ppn := some 0x800, used := (0, 0) }] };
      let x : Inst := { xferDie t with
        stream := { Stream.none with inForce := true, ranges := [{ base := 0x800, pages := 1, tier := 2, encReq := false }] } };
      AtWork (pkg x) 0 x ∧ x.xfer t.id = some t ∧ x.readDone t = true ∧ (t.image x).isOk = false)
    ∧ (let w : SeWrite := { addr := 0, data := 0, be := 0, poison := false };
      let t : Xfer := { xfer0 with phase := .writing, stages := [{ tiles := [[w]], send := false }] };
      let q : SeReq := { port := 0, ident := 0, xfer := some 0, reads := [], writes := [w], again := false };
      ∀ more, let x : Inst := { xferDie t with seReqs := q :: more };
        AtWork (pkg x) 0 x ∧ x.xfer t.id = some t
          ∧ x.seReqs.find? (fun q => q.port == 0 && q.ident == 0 && !q.writes.isEmpty) = some q ∧ q.xfer = some t.id
          ∧ (∀ u ∈ x.xfers, u.tiles = []) ∧ t.phase = .writing ∧ t.failed = false ∧ x.useWrites ((pkg x).env 0) t = []
          ∧ x.flt.injected = none
          ∧ (more = [] → Inst.writesLeft { x with seReqs := x.seReqs.erase q } t = false)
          ∧ (more = [{ q with ident := 1 }] → Inst.writesLeft { x with seReqs := x.seReqs.erase q } t = true)) := by
  refine ⟨xfer_die, by decide +kernel, ⟨⟨rfl, rfl⟩, by decide +kernel⟩, fun more => ⟨⟨rfl, rfl⟩, rfl, rfl, rfl, ?_, rfl, rfl, rfl, rfl, ?_, ?_⟩⟩
  · rintro u hu
    simp only [xferDie, List.mem_singleton] at hu
    subst hu; rfl
  · rintro rfl; decide +kernel
  · rintro rfl; decide +kernel

/-- A gather among three ranks of a tensor of three segments, the last of one element: this is rank 0. -/
def plan0 : Line :=
  BitVec.ofNat 512 (2 * 2 ^ 16 + 2 * 2 ^ 28 + 2 ^ 44 + 2 ^ 64 + 2 * 2 ^ 96 + 0x30000 * 2 ^ 192 + 0x40000 * 2 ^ 256 + 0x50000 * 2 ^ 320)

def coll0 : Xfer :=
  { xfer0 with
    words := move1.set 6 1#32, dst := BitVec.ofNat 512 (0x20000 + 2 ^ 52 + 8193 * 2 ^ 128 + 2 ^ 160 + 2 ^ 192 + 2 ^ 224), plan := plan0
    phase := .exchanging, sentAt := some 0 }

/-- The packet of rank 2 for segment 2. -/
def packet2 : List Byte := packet 1 2 0 1 2 2 0 1 [false] [0#8, 0#8, 0x80#8, 0x3F#8]

def await2 : Await := { slot := 5, phase := 1, sender := 2, seg := 2 }

/-- CollectivePort: an awaited packet, another header, a wrong one; a local packet with and without a home, and without a
link; the timeout. -/
theorem witness_CollectivePort :
    (let x : Inst := { xferDie coll0 with collCtrl := 0x10020#32, ticks := 1024 };
    AtWork (pkg x) 0 x ∧ x.xfer 0 = some coll0 ∧ coll0.phase = .exchanging ∧ coll0.open_.find? (fun b => b.slot == 5) = some await2
      ∧ coll0.plan_.headerIs await2 [] = false ∧ coll0.plan_.headerIs await2 packet2 = true
      ∧ coll0.plan_.packetCode coll0.dd await2 packet2 = 0 ∧ coll0.plan_.op = 2 ∧ (∃ b ∈ coll0.open_, b.slot ≠ 5)
      ∧ coll0.plan_.headerIs await2 (packet2.set 64 1#8) = true ∧ coll0.plan_.packetCode coll0.dd await2 (packet2.set 64 1#8) ≠ 0
      ∧ x.packetHome [] = none ∧ x.packetHome packet2 = some coll0 ∧ coll0.stages = []
      ∧ (coll0.plan_.awaits coll0.dd).find? (fun a => coll0.plan_.headerIs a packet2) = some await2
      ∧ coll0.lineWrites (bytesAt 0 (packet2.drop 64)) ≠ []
      ∧ coll0.sentAt = some 0 ∧ x.collCtrl.toNat / 2 ^ 16 = 1 ∧ 0 + 1 * 1024 ≤ x.ticks ∧ coll0.open_ ≠ [])
    ∧ (let x := xferDie coll0;
      let z (n : Nat) : Inst := { Inst.reset n 1 200 with linkOut := [(0, packet2)] };
      let s (n : Nat) : State := { State.reset with insts := [x, z n] };
      (∀ n, AtWork (s n) 0 x ∧ (s n).insts[1]? = some (z n) ∧ (z n).linkOut.find? (fun q => q.1 == 0) = some (0, packet2))
        ∧ (s 2).linked 1 0 = true ∧ (s 1).linked 1 0 = false ∧ x.held.length < 64) := by
  refine ⟨⟨⟨rfl, rfl⟩, ?_⟩, fun n => ⟨⟨rfl, rfl⟩, rfl, rfl⟩, by decide +kernel, by decide +kernel, by decide +kernel⟩
  decide +kernel

/-- The packet of rank 2 that says which groups of segment 2 an all-reduce poisons: none, and no payload. -/
def packet2r : List Byte := packet 1 2 0 1 2 2 0 0 [] []

/-- A line of a packet. -/
def packetLine (bs : List Byte) (j : Nat) : Line := BitVec.ofNat 512 (ofLeBytes ((bs.drop (64 * j)).take 64))

/-- CollectivePort, the reads of the receive window: a slot that is awaited, one that is not, one that is being read; a header
that arrives, one that does not, and one without payload; payload lines before the last, the last of a good packet, of a wrong
one; a packet before its window is open, one behind a die that sleeps; the timeout with every missing packet being read. -/
theorem witness_WindowReads :
    (let a1 : Await := { slot := 4, phase := 1, sender := 1, seg := 1 };
      let read (slot : Nat) : SeRead := { va := 0x400, pa := 0x400, tier := 1, again := false, poll := some slot };
      let q (slot : Nat) : SeReq := { port := 0, ident := 0, xfer := some 0, reads := [read slot], writes := [], again := false };
      let head : SeLine := { va := 0x400, data := packetLine packet2 0, bad := false };
      let poll (slot : Nat) (head_ : Bool) (got : List SeLine) : Poll := { slot := slot, head := head_, got := got };
      let with_ (c : Xfer) (slot : Nat) (k : Poll) : Inst := { xferDie { c with polls := [k] } with seReqs := [q slot] };
      let bytes (ls : List SeLine) : List Byte := Poll.bytes (poll 5 true ls);
      let body (bs : List Byte) : SeLine := { va := 0x401, data := packetLine bs 1, bad := false };
      (∀ c slot k, c = coll0 ∨ c = { coll0 with plan := plan0 - BitVec.ofNat 512 (2 ^ 28) } → k.slot = slot →
        let x := with_ c slot k;
        AtWork (pkg x) 0 x ∧ x.xfer 0 = some { c with polls := [k] }
          ∧ x.seReqs.find? (fun q => q.port == 0 && q.ident == 0 && !q.reads.isEmpty) = some (q slot) ∧ (q slot).xfer = some 0
          ∧ (q slot).reads = [read slot] ∧ (read slot).poll = some slot ∧ (∀ u ∈ x.xfers, u.tiles = []) ∧ x.flt.injected = none)
      ∧ (∃ a ∈ coll0.open_, a.slot = 5 ∧ a.phase = 1) ∧ (¬∃ a ∈ coll0.open_, a.slot = 0 ∧ a.phase = 0)
      ∧ coll0.slotNo true 2 = 5 ∧ coll0.slotNo false 0 = 0 ∧ coll0.polls = []
      ∧ coll0.open_.find? (fun b => b.slot == 4) = some a1
      ∧ (∀ k : Poll, k.slot = 5 → [k].find? (fun j => j.slot == 5) = some k)
      ∧ ceilDiv (coll0.plan_.expect coll0.dd await2).2.2 64 = 1 ∧ ceilDiv (coll0.plan_.expect coll0.dd a1).2.2 64 = 256
      ∧ coll0.plan_.headerIs await2 (lineBytes head.data) = true ∧ coll0.plan_.headerIs await2 (lineBytes 0) = false
      ∧ (poll 4 true ([head] ++ [body packet2])).got.length ≠ 256 + 1
      ∧ coll0.plan_.packetCode coll0.dd await2 (bytes [head, body packet2]) = 0
      ∧ coll0.plan_.packetCode coll0.dd await2 (bytes [head, body (packet2.set 64 1#8)]) ≠ 0
      ∧ (let c : Xfer := { coll0 with plan := plan0 - BitVec.ofNat 512 (2 ^ 28) };
        c.plan_.op = 1 ∧ c.open_.find? (fun b => b.slot == 5) = some await2 ∧ ceilDiv (c.plan_.expect c.dd await2).2.2 64 = 0
          ∧ c.plan_.headerIs await2 (lineBytes (packetLine packet2r 0)) = true
          ∧ c.plan_.packetCode c.dd await2 (bytes [{ head with data := packetLine packet2r 0 }]) = 0))
    ∧ (let t : Xfer := { coll0 with phase := .waiting };
      let x := xferDie t;
      let z : Inst := { Inst.reset 2 1 200 with linkOut := [(0, packet2)] };
      let s : State := { State.reset with insts := [x, z] };
      AtWork s 0 x ∧ s.linked 1 0 = true ∧ s.sleepers 1 0 = [] ∧ x.packetHome packet2 = some t ∧ t.windowOpen = false)
    ∧ (let x := xferDie coll0;
      let z : Inst := { Inst.reset 3 1 200 with linkOut := [(0, packet2)] };
      let y : Inst := { Inst.reset 3 2 200 with pwr := { Power.reset with state := 2 } };
      let s : State := { State.reset with insts := [x, z, y] };
      AtWork s 0 x ∧ s.linked 1 0 = true ∧ s.sleepers 1 0 = [2])
    ∧ (∃ a ∈ coll0.open_, ∀ k ∈ coll0.polls, k.head = true → k.slot ≠ a.slot)
    ∧ ¬∃ a ∈ coll0.open_, ∀ k ∈ [({ slot := 4, head := true, got := [] } : Poll), { slot := 5, head := true, got := [] }],
        k.head = true → k.slot ≠ a.slot := by
  refine ⟨⟨?_, by decide +kernel, by decide +kernel, by decide +kernel, by decide +kernel, by decide +kernel, by decide +kernel, ?_,
    by decide +kernel, by decide +kernel, by decide +kernel, by decide +kernel, by decide +kernel, by decide +kernel, by decide +kernel,
    by decide +kernel⟩, ⟨⟨rfl, rfl⟩, by decide +kernel⟩, ⟨⟨rfl, rfl⟩, by decide +kernel⟩, by decide +kernel, by decide +kernel⟩
  · rintro c slot k (rfl | rfl) _ <;> exact ⟨⟨rfl, rfl⟩, rfl, rfl, rfl, rfl, rfl,
      by rintro u hu; simp only [xferDie, List.mem_singleton] at hu; subst hu; rfl, rfl⟩
  · intro k h
    simp [h]

/-! ### Channels and keys -/

/-- A die without work whose channel 0 is c, with the channel's handle in the window of commands. -/
def chDie (c : Vc) : Inst :=
  { Inst.reset 1 0 200 with
    vcs := [(0, c)], stream := { Stream.none with inForce := true }
    win := { ChWin.reset with args := [0x00010000#32, 0, 0, 0, 0, 0] } }

def cmd0 : VcCmd := { op := 4, cmdId := 7, win := 0 }
def chCmd : ChCmd := { win := 0, cmdId := 7, rsv := 0, clear := false }

theorem work_ch (c : Vc) : AtWork (pkg (chDie c)) 0 (chDie c) := ⟨rfl, rfl⟩

theorem ch_vc (c : Vc) : (chDie c).vc 0 = c := rfl

/-- ChannelCommands: a busy window, and every case of the states and commands in progress that its clauses name. -/
theorem witness_ChannelCommands :
    (∀ c, AtWork (pkg (chDie c)) chCmd.win (chDie c) ∧ PortOpen (pkg (chDie c)) ∧ (chDie c).win.busy = none ∧ (chDie c).vc 0 = c
      ∧ (chDie c).xfers = [])
    ∧ (let x : Inst := { chDie vc0 with win := { ChWin.reset with busy := some (2, { chCmd with cmdId := 8 }) } };
      AtWork (pkg x) 0 x ∧ x.win.busy = some (2, { chCmd with cmdId := 8 }) ∧ ({ chCmd with cmdId := 8 } : ChCmd) ≠ chCmd)
    ∧ ({ chCmd with rsv := 1 } : ChCmd).rsv ≠ 0 ∧ chCmd.rsv = 0 ∧ chCmd.clear = false
    ∧ handleInst (wordAt (chDie vc0).win.args 0) = 0 ∧ handleVc (wordAt (chDie vc0).win.args 0) = 0
    ∧ handleGen (wordAt (chDie vc0).win.args 0) = 1 ∧ 0 < (chDie vc0).instCount
    ∧ Vc.free.st = .free ∧ ({ vc0 with gen := 2 } : Vc).gen ≠ 1
    ∧ (∀ st cmd stopped ctx, let c : Vc := { vc0 with st := st, cmd := cmd, stopped := stopped, ctx := ctx };
      c.gen = 1 ∧ c.st = st ∧ c.cmd = cmd ∧ c.stopped = stopped ∧ c.ctx = ctx)
    ∧ ({ chCmd with clear := true } : ChCmd).clear = true :=
  ⟨fun _ => ⟨⟨rfl, rfl⟩, open_pkg _, rfl, rfl, rfl⟩, ⟨⟨rfl, rfl⟩, rfl, by decide⟩, by decide, by decide, by decide, by decide +kernel,
    by decide +kernel, by decide +kernel, by decide +kernel, rfl, by decide, fun _ _ _ _ => ⟨rfl, rfl, rfl, rfl, rfl⟩, rfl⟩

/-- ChannelCreation: a good creation with its save area at page 16, one of weight 0, one without a stream, its end. -/
theorem witness_ChannelCreation :
    (let e : TlbEntry := { asid := 0, vpn := 16, pages := 1, ppn := 99, r := true, w := true };
      let x : Inst := { chDie Vc.free with
        vcs := [], tlb := [e], win := { ChWin.reset with args := [0x100#32, 0x10000#32, 0, 5, 0, 0] } };
      AtWork (pkg x) 0 x ∧ PortOpen (pkg x) ∧ x.win.busy = none ∧ chArgsBad 1 chCmd x.win.args x.instCount = false
        ∧ (wordAt x.win.args 0).toNat % 8 = 0 ∧ x.stream.inForce = true ∧ (pkg x).ss.st ≠ 4
        ∧ (wordAt x.win.args 0).toNat / 2 ^ 8 % 2 ^ 8 ≠ 0 ∧ (wordAt x.win.args 5).toNat / 2 ^ 12 % 2 = 0
        ∧ x.tlbFind 0 16 = some e ∧ x.tier 99 = 0 ∧ x.freeVc = some 0)
    ∧ (let x : Inst := { chDie Vc.free with win := ChWin.reset };
      AtWork (pkg x) 0 x ∧ PortOpen (pkg x) ∧ x.win.busy = none ∧ chArgsBad 1 chCmd x.win.args x.instCount = false
        ∧ (wordAt x.win.args 0).toNat % 8 = 0 ∧ (wordAt x.win.args 0).toNat / 2 ^ 8 % 2 ^ 8 = 0
        ∧ Inst.instCount { x with stream := Stream.none } = 1)
    ∧ Stream.none.inForce = false
    ∧ (let c : Vc := { vc0 with st := .created, cmd := some { cmd0 with op := 1 } };
      AtWork (pkg (chDie c)) 0 (chDie c) ∧ (chDie c).vc 0 = c ∧ c.destroy = []) :=
  ⟨⟨⟨rfl, rfl⟩, open_pkg _, by decide +kernel⟩, ⟨⟨rfl, rfl⟩, open_pkg _, by decide +kernel⟩, rfl, work_ch _, rfl, rfl⟩

theorem of_idle (k : Slot) (h : k ∈ Cell.reset.slots) : k.phase = .idle := by
  simp [Cell.reset] at h; subst h; rfl

/-- ChannelDestruction: a running channel without work whose key slot is its own, and is another's, and one whose scrub is
written. -/
theorem witness_ChannelDestruction :
    (∀ o, let x : Inst := { chDie { vc0 with keyEn := true } with keys := [(0, { KeySlot.empty with owner := o })] };
      AtWork (pkg x) 0 x ∧ PortOpen (pkg x) ∧ x.win.busy = none ∧ (x.vc 0).cmd = none ∧ (x.vc 0).keyEn = true ∧ (x.vc 0).st = .running
        ∧ (x.vc 0).gen = 1 ∧ x.running 0 = [] ∧ (x.key (x.vc 0).key).owner = o
        ∧ x.xfers.all (fun t => t.vc != 0 || decide (t.phase ≠ .writing ∧ t.phase ≠ .finishing)) = true)
    ∧ (let c : Vc := { vc0 with st := .destroying, cmd := some cmd0, stopped := true };
      AtWork (pkg (chDie c)) 0 (chDie c) ∧ (chDie c).vc 0 = c ∧ c.destroy = []
        ∧ (∀ n, ∀ q ∈ ((chDie c).cell n).spWrites, q.who ≠ .scrub 0) ∧ ∀ n, ∀ k ∈ ((chDie c).cell n).slots, k.phase = .idle) :=
  ⟨fun _ => ⟨⟨rfl, rfl⟩, open_pkg _, rfl, rfl, rfl, rfl, rfl, rfl, rfl, rfl⟩, work_ch _, rfl, rfl,
    (fun _ _ h => nomatch (show _ ∈ ([] : List SpWrite) from h)), fun _ => of_idle⟩

/-- A save area that passes its check. -/
def goodArea (c : Vc) : AreaRead := { fault := false, bytes := (chDie c).saveArea 0 }

/-- ChannelSaves: a stop that ends, the end of a save, a resume whose save area is good, and one whose is not. -/
theorem witness_ChannelSaves :
    (let c : Vc := { vc0 with st := .suspending };
      AtWork (pkg (chDie c)) 0 (chDie c) ∧ (chDie c).vc 0 = c ∧ c.stopped = false ∧ (chDie c).running 0 = []
        ∧ (chDie c).xfers.all (fun t => t.vc != 0) = true)
    ∧ (let c : Vc := { vc0 with st := .suspending, stopped := true, cmd := some cmd0 };
      AtWork (pkg (chDie c)) 0 (chDie c) ∧ (∀ n, ((chDie c).cell n).retire = none) ∧ c.migrate = false ∧ c.destroy = []
        ∧ c.sched = false)
    ∧ (let c : Vc := { vc0 with st := .suspending, stopped := true, sched := true };
      AtWork (pkg (chDie c)) 0 (chDie c) ∧ c.cmd = none ∧ c.sched = true)
    ∧ (let c : Vc := { vc0 with st := .preempted, cmd := some cmd0 };
      AtWork (pkg (chDie c)) 0 (chDie c) ∧ cmd0.op = 4 ∧ c.destroy = [] ∧ (chDie c).areaOk 0 (goodArea c) = true
        ∧ (chDie c).areaOk 0 { fault := true, bytes := [] } = false) :=
  ⟨⟨work_ch _, rfl, rfl, rfl, rfl⟩, ⟨work_ch _, fun _ => rfl, rfl, rfl, rfl⟩, ⟨work_ch _, rfl, rfl⟩,
    work_ch _, rfl, rfl, Inst.areaOk_saveArea _ _, rfl⟩

/-- Scheduler: an admission while another channel holds context 0, a restore, an eviction that is not needed, one that is. -/
theorem witness_Scheduler :
    (let x : Inst := { chDie { vc0 with st := .ready, ctx := none } with
        vcs := [(0, { vc0 with st := .ready, ctx := none }), (1, vc0)], readyQ := [0] };
      AtWork (pkg x) 0 x ∧ x.readyQ = 0 :: [] ∧ (x.vcs.filter fun p => p.2.ctx.isSome).length < 4096
        ∧ (∀ p ∈ x.vcs, p.2.ctx ≠ some 1) ∧ (∀ j, j < 1 → ∃ p ∈ x.vcs, p.2.ctx = some j))
    ∧ (let c : Vc := { vc0 with st := .ready };
      AtWork (pkg (chDie c)) 0 (chDie c) ∧ c.ctx.isSome = true ∧ (chDie c).areaOk 0 (goodArea c) = true
        ∧ (chDie c).areaOk 0 { fault := true, bytes := [] } = false)
    ∧ (chDie vc0).readyQ.length ≤ 4096 - (chDie vc0).residents + (chDie vc0).leaving
    ∧ (let x : Inst := { chDie vc0 with readyQ := List.replicate 4096 7 };
      AtWork (pkg x) 0 x ∧ 4096 - x.residents + x.leaving < x.readyQ.length ∧ x.victim = some 0
        ∧ x.xfers.all (fun t => t.vc != 0) = true) :=
  ⟨⟨⟨rfl, rfl⟩, rfl, by decide +kernel, by decide, by decide⟩, ⟨work_ch _, rfl, Inst.areaOk_saveArea _ _, rfl⟩, by decide +kernel,
    ⟨rfl, rfl⟩, by rw [show ({ chDie vc0 with readyQ := List.replicate 4096 7 } : Inst).readyQ.length = 4096 from List.length_replicate]; decide +kernel,
    by decide +kernel, rfl⟩

/-- The bytes 0 to 31 as an instance key, and the wrapped form of the bytes 0 to 39 under it (RFC 3394). -/
def key0 : BitVec 256 := 0x1F1E1D1C1B1A191817161514131211100F0E0D0C0B0A09080706050403020100#256
def wrapped0 : List Word :=
  [0xAF300AB8, 0xC05309A5, 0x340D2208, 0xA4CE9001, 0x9EB42674, 0xEC9A994E, 0x93FE267E, 0x8D897FDC, 0x0805B52C, 0x0941C828, 0xEFAF9B3F,
    0x18C57F58]

theorem test_unwrapKey : unwrapKey key0 wrapped0 =
    some { key := key0, keyId := 0x23222120#32, nonce := 0x27262524#32 } := by decide +kernel

/-- A die whose key slot 3 is k and whose key window names channel 0. -/
def keyDie (k : KeySlot) : Inst :=
  { chDie vc0 with keys := [(3, k)], keyHandle := 0x00010000#32, keyWrap := wrapped0, instKey := some key0 }

/-- KeyCommands: a load and a clear of slot 3 with every outcome, one of an instance that is none, one while another waits. -/
theorem witness_KeyCommands :
    (∀ k, AtWork (pkg (keyDie k)) 0 (keyDie k) ∧ PortOpen (pkg (keyDie k)) ∧ (keyDie k).keyWait = none ∧ (keyDie k).key 3 = k)
    ∧ (let x : Inst := { keyDie KeySlot.empty with keyWait := some (1, 0x31#32) };
      AtWork (pkg x) 0 x ∧ PortOpen (pkg x) ∧ x.keyWait.isSome = true)
    ∧ (let rsv (w : Word) : Bool := decide (w.toNat / 2 ^ 16 ≠ 0 ∨ w.toNat / 2 ^ 2 % 2 ^ 2 ≠ 0);
      (0x31#32).toNat % 4 = 1 ∧ (0x32#32).toNat % 4 = 2 ∧ rsv 0x31 = false ∧ rsv 0x32 = false
      ∧ rsv 0x35 = true ∧ (0x35#32).toNat % 4 = 1 ∧ rsv 0x80000032 = true ∧ (0x80000032#32).toNat % 4 = 2
      ∧ (0x31#32).toNat / 2 ^ 4 % 2 ^ 12 = 3 ∧ handleInst 0x00010000#32 = 0 ∧ 0 < (keyDie KeySlot.empty).instCount
      ∧ (keyDie KeySlot.empty).instCount ≤ handleInst 0x20010000#32
      ∧ vc0.st ≠ .free ∧ vc0.gen = handleGen 0x00010000#32 ∧ vc0.gen ≠ handleGen 0#32)
    ∧ ({ KeySlot.empty with bad := true } : KeySlot).bad = true ∧ KeySlot.empty.owner ≠ some 0
    ∧ (let k : KeySlot := { KeySlot.empty with owner := some 0 };
      k.bad = false ∧ k.owner = some (handleVc 0x00010000#32) ∧ (keyDie k).instKey = some key0
        ∧ (∃ d, unwrapKey key0 (keyDie k).keyWrap = some d ∧ (pkg (keyDie k)).keyReused d = false
          ∧ (pkg (keyDie { k with hasKey := true, keyId := d.keyId, nonce := d.nonce })).keyReused d = true)
        ∧ unwrapKey key0 [] = none) :=
  ⟨fun _ => ⟨⟨rfl, rfl⟩, open_pkg _, rfl, rfl⟩, ⟨⟨rfl, rfl⟩, open_pkg _, rfl⟩, by decide +kernel, rfl, by decide,
    rfl, by decide +kernel, rfl, ⟨_, test_unwrapKey, by decide +kernel, by decide +kernel⟩, by decide +kernel⟩

/-! ### The structure stream -/

/-- A section of a stream. -/
def sect (typ : Nat) (body : List Word) : List Word := [BitVec.ofNat 32 typ, BitVec.ofNat 32 (4 * body.length), 0, 0] ++ body

/-- The header of a stream of one instance. -/
def ssHead (kind sections len : Nat) : List Word :=
  [BitVec.ofNat 32 (1 + kind * 2 ^ 8), 0x00020100#32, BitVec.ofNat 32 len, BitVec.ofNat 32 (sections * 2 ^ 8)] ++ List.replicate 20 0

/-- A cell map with 200 cells in service. -/
def map200 : List Word := List.replicate 50 0x80808080#32 ++ List.replicate 14 0

/-- A full stream of one instance with 200 cells. -/
def fullStream : List Word :=
  let body := sect 1 map200 ++ sect 2 (List.replicate 64 0) ++ sect 3 [0] ++ sect 4 (List.replicate 4 0)
    ++ sect 5 (List.replicate 44 0) ++ sect 6 (0x00C80080#32 :: List.replicate 7 0)
  ssHead 0 6 (96 + 4 * body.length) ++ body

/-- A patch that takes cell 0 out of service. -/
def patchStream : List Word :=
  let body := sect 1 (map200.set 0 0x80808000#32)
  ssHead 1 1 (96 + 4 * body.length) ++ body

/-- A package of one die without channels, its load window as given. -/
def ssPkg (st : Nat) (ws : List Word) : State :=
  { pkg { Inst.reset 1 0 200 with stream := { Stream.none with inForce := true, digest := List.replicate 48 0 } } with
    ss := { LoadWin.reset with st := st, words := ws } }

/-- LoadWindow: every state, a stream that passes the checks of a close and of a commit, one that fails, a patch, a full
buffer. -/
theorem witness_LoadWindow :
    (∀ st ws, ∃ x, AtWork (ssPkg st ws) 0 x ∧ PortOpen (ssPkg st ws) ∧ (ssPkg st ws).ss.st = st ∧ (ssPkg st ws).ss.words = ws
      ∧ ∀ y ∈ (ssPkg st ws).insts, y.rst.waiting = false)
    ∧ 65536 ≤ (List.replicate 65536 0#32).length
    ∧ ssCheck fullStream false = none ∧ ssCheck [] false = some 8 ∧ ssKind fullStream = 0
    ∧ (ssPkg 3 fullStream).fullCheck fullStream = 0 ∧ (ssPkg 4 fullStream).copyFails fullStream = false
    ∧ (pkg (chDie vc0)).fullCheck fullStream ≠ 0 ∧ ssKind patchStream = 1 ∧ ssCheck patchStream false = none :=
  ⟨fun _ _ => ⟨_, ⟨rfl, rfl⟩, ⟨(by decide : 0 < 8), fun _ _ h => nomatch h⟩, rfl, rfl, fun y h => by rw [List.mem_singleton.mp h]; rfl⟩,
    Nat.le_of_eq List.length_replicate.symm, by decide +kernel, by decide +kernel, by decide +kernel,
    by decide +kernel, by decide +kernel, by decide +kernel, by decide +kernel, by decide +kernel⟩

/-- StreamCommits: the full stream of LoadWindow's witness, and a patch of instance 0. -/
theorem witness_StreamCommits :
    (ssPkg 4 fullStream).copyFails fullStream = false ∧ (ssPkg 3 patchStream).patchCheck patchStream = 0
    ∧ ∃ q, sections patchStream = [q] ∧ q.typ = 1 ∧ q.inst = 0 :=
  ⟨by decide +kernel, by decide +kernel, { at_ := 96, typ := 1, inst := 0, body := 112, len := 256 }, by decide +kernel, rfl, rfl⟩

/-- A section of instance 1. -/
def sect1 (typ : Nat) (body : List Word) : List Word := (sect typ body).set 0 (BitVec.ofNat 32 (typ + 2 ^ 8))

/-- A full stream of two instances with 200 cells each. -/
def fullStream2 : List Word :=
  let body := sect 1 map200 ++ sect1 1 map200 ++ sect 2 (List.replicate 64 0) ++ sect 3 [0] ++ sect 4 (List.replicate 4 0)
    ++ sect1 4 (List.replicate 4 0) ++ sect 5 (List.replicate 44 0) ++ sect1 5 (List.replicate 44 0)
    ++ sect 6 (0x00C80080#32 :: 0x00C80081#32 :: List.replicate 6 0)
  (ssHead 0 9 (96 + 4 * body.length)).set 3 (BitVec.ofNat 32 (9 * 2 ^ 8 + 1)) ++ body

/-- A patch of instance 1. -/
def patchStream1 : List Word :=
  let body := sect1 1 (map200.set 0 0x80808000#32)
  (ssHead 1 1 (96 + 4 * body.length)).set 3 (BitVec.ofNat 32 (1 * 2 ^ 8 + 1)) ++ body

/-- A package of two dies, its load window as given, its power state and east link. -/
def ssPkg2 (st : Nat) (ws : List Word) (power : Nat) (up : Bool) : State :=
  let force : Stream := { Stream.none with inForce := true, countM1 := 1, digest := List.replicate 48 0 }
  let x := Inst.reset 2 0 200
  { State.reset with
    insts := [{ x with stream := force, east := { x.east with up := up } },
              { Inst.reset 2 1 200 with
                pwr := { Power.reset with state := power }, stream := { force with cellMap := (List.range 256).map fun k => if k < 200 then 0x80 else 0 }
                inService := cellsBelow 200 }]
    ss := { LoadWin.reset with st := st, words := ws } }

/-- LoadWindow and StreamCommits where a die sleeps on the way of a copy or of a patch, where none does, and where no link leads to
it. -/
theorem witness_StreamSleepers :
    (∀ st ws n up, ∃ x, AtWork (ssPkg2 st ws n up) 0 x ∧ PortOpen (ssPkg2 st ws n up) ∧ (ssPkg2 st ws n up).ss.st = st
      ∧ (ssPkg2 st ws n up).ss.words = ws ∧ ∀ y ∈ (ssPkg2 st ws n up).insts, y.rst.waiting = false)
    ∧ ssKind fullStream2 = 0
    ∧ ((ssPkg2 3 fullStream2 0 true).fullCheck fullStream2 = 0 ∧ (ssPkg2 3 fullStream2 2 true).fullCheck fullStream2 = 0)
    ∧ ((ssPkg2 3 fullStream2 0 true).copySleeper fullStream2 = none ∧ (ssPkg2 4 fullStream2 0 true).copyFails fullStream2 = false)
    ∧ (ssPkg2 3 fullStream2 2 true).copySleeper fullStream2 = some 1
    ∧ (ssPkg 3 fullStream).copySleeper fullStream = none
    ∧ ssKind patchStream1 = 1
    ∧ (∃ q, (sections patchStream1).filter (fun q => q.typ == 1) = [q] ∧ q.inst = 1)
    ∧ (∀ n ∈ [0, 2], ∀ up, (ssPkg2 3 patchStream1 n up).patchCheck patchStream1 = 0)
    ∧ (∀ up, (ssPkg2 3 patchStream1 2 up).reaches 1 = up)
    ∧ (ssPkg2 3 patchStream1 0 true).reaches 1 = true
    ∧ (ssPkg2 3 patchStream1 0 true).sleepers 0 1 = []
    ∧ (ssPkg2 3 patchStream1 2 true).sleepers 0 1 = [1]
    ∧ (ssPkg 3 patchStream).reaches 0 = true ∧ (ssPkg 3 patchStream).sleepers 0 0 = [] := by
  refine ⟨fun st ws n up => ⟨_, ⟨rfl, rfl⟩, ⟨(by decide : 0 < 8), fun _ _ h => nomatch h⟩, rfl, rfl, ?_⟩, by decide +kernel, by decide +kernel,
    by decide +kernel, by decide +kernel, by decide +kernel, by decide +kernel,
    ⟨{ at_ := 96, typ := 1, inst := 1, body := 112, len := 256 }, by decide +kernel, rfl⟩, by decide +kernel, by decide +kernel,
    by decide +kernel, by decide +kernel, by decide +kernel, by decide +kernel, by decide +kernel⟩
  intro y h
  simp only [ssPkg2, List.mem_cons, List.not_mem_nil, or_false] at h
  rcases h with rfl | rfl <;> rfl

/-! ### The control port -/

/-- VersionReads: instance 0 at work, one that has fail-stopped, a forwarded read at a second die, alone and with an answer
behind it. -/
theorem witness_VersionReads :
    (AtWork (pkg (chDie vc0)) 0 (chDie vc0) ∧ PortOpen (pkg (chDie vc0)) ∧ (chDie vc0).id = 0)
    ∧ (let x : Inst := { chDie vc0 with flt := { Flt.reset with failstop := true } };
      (pkg x).insts[0]? = some x ∧ PortOpen (pkg x) ∧ x.id = 0 ∧ x.flt.failstop = true ∧ x.rst.phase = 0 ∧ x.flt.clockLost = false
        ∧ x.pwr.offTaken = false)
    ∧ (let f : Fwd := { acc := { addr := 0x200004#24, we := false, data := 0 }, at_ := 1, ans := none };
      let r : CtlResp := { err := false, data := 9 };
      let y := Inst.reset 2 1 200;
      let s (g : List Fwd) : State := { State.reset with insts := [Inst.reset 2 0 200, y], fwd := f :: g };
      (∀ g, AtWork (s g) f.at_ y ∧ (s g).fwd = f :: g) ∧ y.id < 8 ∧ f.acc.we = false ∧ f.acc.addr.toNat = y.id * 2 ^ 21 + 4
        ∧ (Fwd.answered r).ans = some r) :=
  ⟨⟨work_ch _, open_pkg _, rfl⟩, ⟨rfl, open_pkg _, rfl, rfl, rfl, rfl, rfl⟩, fun _ => ⟨⟨rfl, rfl⟩, rfl⟩, by decide, rfl, by decide, rfl⟩

theorem witness_Registers : AtWork (pkg (chDie vc0)) 0 (chDie vc0) ∧ PortOpen (pkg (chDie vc0)) ∧ (chDie vc0).id = 0
    ∧ 199 < (chDie vc0).cellsBuilt ∧ (chDie vc0).pwr.busy = false := ⟨work_ch _, open_pkg _, rfl, by decide, rfl⟩

/-- ControlErrors: a full port, each class of address, with the east link down, up, and in training before a die in reset. -/
theorem witness_ControlErrors :
    (let f : Fwd := { acc := { addr := 0x400004#24, we := false, data := 0 }, at_ := 1, ans := none };
      let a := Inst.reset 3 0 200;
      let y := Inst.reset 3 1 200;
      let z := Inst.reset 3 2 200;
      let down (x : Inst) (training : Bool) : Inst := { x with east := { Port.down with training := training } };
      let off (x : Inst) : Inst := { x with rst := { x.rst with phase := 1 } };
      let s (xs : List Inst) (fs : List Fwd) : State := { State.reset with insts := xs, fwd := fs };
      8 ≤ (s [a, y, z] (List.replicate 8 f)).fwd.length
      ∧ (∀ x y, (x = a ∨ (∃ b, x = down a b)) → AtWork (s [x, y, z] []) 0 x ∧ PortOpen (s [x, y, z] []) ∧ x.id = 0)
      ∧ (down a true).east.up = false ∧ (s [down a true, y, z] []).hopHeld 0 0x200004 = false
      ∧ (s [down a true, off y, z] []).hopHeld 0 0x200004 = true ∧ a.east.up = true
      ∧ (∀ y2 z2, (y2 = y ∨ ∃ b, y2 = down y b) → AtWork (s [a, y2, z2] [f]) 0 a ∧ AtWork (s [a, y2, z2] [f]) f.at_ y2 ∧ y2.id = 1)
      ∧ f.acc.addr.toNat / 2 ^ 21 = 2 ∧ y.east.up = true ∧ f.at_ + 1 < (s [a, y, z] [f]).insts.length
      ∧ (down y true).east.up = false ∧ (s [a, down y true, z] [f]).hopHeld f.at_ f.acc.addr.toNat = false
      ∧ (s [a, down y true, off z] [f]).hopHeld f.at_ f.acc.addr.toNat = true)
    ∧ (0x000006#24).toNat % 4 ≠ 0 ∧ (0x005000#24).toNat % 4 = 0
    ∧ 0x5000 ≤ (0x005000#24).toNat % 2 ^ 21 ∧ (0x005000#24).toNat % 2 ^ 21 < 0x10000
    ∧ 0x110000 ≤ (0x110000#24).toNat % 2 ^ 21 ∧ (0x200004#24).toNat % 4 = 0 ∧ (0x200004#24).toNat % 2 ^ 21 = 4
    ∧ (0x200004#24).toNat / 2 ^ 21 = 1 ∧ (1 : BitVec 2) ≠ 2 := by
  refine ⟨⟨by decide, ?_, rfl, by decide +kernel, by decide +kernel, rfl, ?_, by decide, rfl, by decide, rfl, by decide +kernel,
    by decide +kernel⟩, by decide⟩
  · rintro x y (rfl | ⟨b, rfl⟩) <;> exact ⟨⟨rfl, rfl⟩, ⟨(by decide : 0 < 8), fun _ _ h => nomatch h⟩, rfl⟩
  · rintro y2 z2 (rfl | ⟨b, rfl⟩) <;> exact ⟨⟨rfl, rfl⟩, ⟨rfl, rfl⟩, rfl⟩

/-! ### Power, resets, faults, links -/

/-- A die with a power controller. -/
def pwrDie (p : Power) : Inst := { chDie Vc.free with vcs := [], pwr := p }

theorem alive_pwr (p : Power) (h : p.offTaken = false) : Alive (pkg (pwrDie p)) 0 (pwrDie p) := by
  refine ⟨rfl, ?_⟩
  show (decide True && !false && !false && !p.offTaken && !false) = true
  rw [h]; rfl

/-- PowerTransitions: ticks that change the state and that do not, entries, a write that met an entry, exits. -/
theorem witness_PowerTransitions :
    (∀ p : Power, p.offTaken = false → Alive (pkg (pwrDie p)) 0 (pwrDie p)
      ∧ (∀ z ∈ (pkg (pwrDie p)).insts, z.mbWait = none ∧ z.keyWait = none ∧ z.win.busy = none)
      ∧ (pwrDie p).notices = [] ∧ (pwrDie p).linkIn = [])
    ∧ (let p : Power := { Power.reset with next := BitVec.allOnes 32, ctrl := 7 };
      (pwrDie p).awake = true ∧ p.busy = false ∧ (p.ctrl.getLsbD 0 && (pkg (pwrDie p)).quiet 0 (pwrDie p) 1) = true ∧ p.state = 0)
    ∧ (let p : Power := { Power.reset with ctrl := 0 };
      (pwrDie p).awake = true ∧ p.busy = false ∧ p.state = 0 ∧ p.ctrl.getLsbD 0 = false ∧ p.ctrl.getLsbD 1 = false ∧ p.ctrl.getLsbD 2 = false)
    ∧ ({ Power.reset with busy := true } : Power).busy = true
    ∧ (let p : Power := { Power.reset with busy := true, target := 1 }; p.state ≠ p.target ∧ p.evWrite = none ∧ p.target < 2)
    ∧ (let p : Power := { Power.reset with busy := true, target := 2 }; p.state ≠ p.target ∧ p.evWrite = none ∧ 2 ≤ p.target ∧ p.wake = none)
    ∧ (let p : Power := { Power.reset with busy := true, target := 2, wake := some 3 };
      p.state ≠ p.target ∧ p.evWrite = none ∧ 2 ≤ p.target ∧ p.wake = some 3)
    ∧ (let p : Power := { Power.reset with busy := true, target := 2, evWrite := some 5 };
      let x : Inst := { pwrDie p with stream := { Stream.none with inForce := true, power := List.replicate 32 6 } };
      Alive (pkg x) 0 x ∧ p.state ≠ p.target ∧ 2 ≤ p.target ∧ p.evWrite = some 5 ∧ p.wake = none ∧ (5#32).toNat < x.exitTicks p.target
        ∧ (pwrDie p).exitTicks p.target ≤ (5#32).toNat)
    ∧ (let p : Power := { Power.reset with state := 2 }; 2 ≤ p.state ∧ p.busy = false ∧ p.next ≠ BitVec.allOnes 32
        ∧ p.next.toNat ≤ (pwrDie p).exitTicks p.state)
    ∧ (let p : Power := { Power.reset with state := 2, next := 5 }; (pwrDie p).exitTicks p.state < p.next.toNat)
    ∧ (∀ st : Nat, let p : Power := { Power.reset with state := st, busy := true, target := st, wake := some 1 };
      p.busy = true ∧ p.state = p.target ∧ p.wake = some 1
        ∧ Inst.linkIn { pwrDie p with linkIn := [.fenceAdd (1024 * 0 + 3) 1] } = [.fenceAdd (1024 * 0 + 3) 1]) := by
  refine ⟨fun p h => ⟨alive_pwr p h, fun z hz => ?_, rfl, rfl⟩, by decide +kernel, by decide +kernel, rfl, by decide, by decide, by decide,
    ⟨⟨rfl, rfl⟩, by decide +kernel⟩, by decide +kernel, by decide +kernel, fun st => ⟨rfl, rfl, rfl, rfl⟩⟩
  rw [List.mem_singleton.mp hz]; exact ⟨rfl, rfl, rfl⟩

/-- PowerTransitions: a write to the next event that meets the entry to IDLE, nearer and farther than the exit. -/
theorem witness_IdleEvents :
    let p : Power := { Power.reset with busy := true, target := 1, evWrite := some 5 }
    let x : Inst := { pwrDie p with stream := { Stream.none with inForce := true, power := List.replicate 32 6 } }
    Alive (pkg x) 0 x ∧ Alive (pkg (pwrDie p)) 0 (pwrDie p) ∧ p.state ≠ p.target ∧ p.target < 2 ∧ p.evWrite = some 5
      ∧ (5#32).toNat < x.exitTicks p.target ∧ ¬(5#32).toNat < (pwrDie p).exitTicks p.target :=
  ⟨⟨rfl, rfl⟩, ⟨rfl, rfl⟩, by decide +kernel⟩

/-- PowerCommands: a wake of a running and of a sleeping instance, OFF that is ready and that is refused, a cell. -/
theorem witness_PowerCommands :
    (0x100#32).getLsbD 8 = true ∧ AtWork (pkg (pwrDie Power.reset)) 0 (pwrDie Power.reset) ∧ PortOpen (pkg (pwrDie Power.reset))
    ∧ Power.reset.busy = false ∧ Power.reset.state = 0
    ∧ (let p : Power := { Power.reset with state := 3 }; Alive (pkg (pwrDie p)) 0 (pwrDie p) ∧ 2 ≤ p.state ∧ p.busy = false)
    ∧ (0 : Word) ≠ 0x0FF00FF0#32 ∧ 0 < (pwrDie Power.reset).cellsBuilt
    ∧ (Power.reset.ctrl.getLsbD 9 && ((pwrDie Power.reset).cell 0).noWork) = true ∧ (cellK (slotT [])).noWork = false
    ∧ (pkg (pwrDie Power.reset)).quiet 0 (pwrDie Power.reset) 3 = false
    ∧ (let p : Power := { Power.reset with state := 1 };
      AtWork (pkg (pwrDie p)) 0 (pwrDie p) ∧ PortOpen (pkg (pwrDie p)) ∧ (pkg (pwrDie p)).quiet 0 (pwrDie p) 3 = true)
    ∧ (let p : Power := { Power.reset with offTaken := true };
      (pkg (pwrDie p)).insts[0]? = some (pwrDie p) ∧ p.offTaken = true ∧ ∀ n, ((pwrDie p).cell n).spWrites = []) :=
  ⟨by decide, ⟨rfl, rfl⟩, open_pkg _, rfl, rfl, ⟨alive_pwr _ rfl, by decide, rfl⟩, by decide, by decide, by decide +kernel, by decide +kernel,
    by decide +kernel, ⟨⟨rfl, rfl⟩, open_pkg _, by decide +kernel⟩, rfl, rfl, fun _ => rfl⟩

/-- Resets: an instance reset at once and one that waits for a commit, the end of each reset, and each case of the test access
port. -/
theorem witness_Resets :
    (let x := Inst.reset 2 1 200;
      let y : Inst := { Inst.reset 2 1 200 with rst := { Rst.reset with phase := 1 } };
      let s (z : Inst) : State := { State.reset with insts := [Inst.reset 2 0 200, z] };
      AtWork (s x) 1 x ∧ (s x).ss.st ≠ 4 ∧ (s x).fwd.length < 8 ∧ (∀ z ∈ (s x).insts, z.rst.waiting = false)
        ∧ ({ s x with ss := { LoadWin.reset with st := 4 } } : State).ss.st = 4
        ∧ (s y).insts[1]? = some y ∧ y.rst.phase = 1 ∧ 1 ≠ 0
        ∧ ∀ z ∈ (s y).insts, z.mbWait = none ∧ z.keyWait = none ∧ z.win.busy = none)
    ∧ (let x : Inst := { Inst.reset 1 0 200 with rst := { Rst.reset with phase := 2 } };
      (pkg x).insts[0]? = some x ∧ x.rst.phase = 2 ∧ ∀ z ∈ (pkg x).insts, z.mbWait = none ∧ z.keyWait = none ∧ z.win.busy = none)
    ∧ (∀ code, let x : Inst := { Inst.reset 1 0 200 with tapIr := code }; (pkg x).insts[0]? = some x ∧ x.tapIr = code ∧ x.test = false)
    ∧ (Inst.reset 1 0 200).tapIr ≠ 0x20 ∧ (Inst.reset 1 0 200).tapIr ≠ 0x10 ∧ 7 ≤ (Inst.reset 1 0 200).cellsBuilt
    ∧ Wrapper.intest ≠ .bypass ∧ Instrument.sramTest ≠ .clockMonitor ∧ Instrument.sramTest ≠ .selfTestResults :=
  ⟨⟨⟨rfl, rfl⟩, by decide, by decide, by decide +kernel, rfl, rfl, rfl, by decide, by decide +kernel⟩, ⟨rfl, rfl, by decide +kernel⟩,
    fun _ => ⟨rfl, rfl, rfl⟩, by decide, by decide, by decide, by decide, by decide, by decide⟩

/-- Resets: an instance reset behind an older access and with none, at instance 0 and at its end. -/
theorem witness_ResetOrder :
    let f : Fwd := { acc := { addr := 0x200004#24, we := false, data := 0 }, at_ := 1, ans := none }
    let s (fs : List Fwd) : State := { State.reset with insts := [Inst.reset 2 0 200, Inst.reset 2 1 200], fwd := fs }
    let y : Inst := { Inst.reset 2 0 200 with rst := { Rst.reset with phase := 1 } }
    let t : State := { State.reset with insts := [y, Inst.reset 2 1 200] }
    (AtWork (s [f]) 1 (Inst.reset 2 1 200) ∧ PortOpen (s [f]) ∧ (s [f]).behind 1 = true)
      ∧ (AtWork (s []) 0 (Inst.reset 2 0 200) ∧ (s []).fwd.length < 8 ∧ (s []).behind 0 = false ∧ (s []).behind 1 = false)
      ∧ t.insts[0]? = some y ∧ y.rst.phase = 1 ∧ ∀ z ∈ t.insts, z.mbWait = none ∧ z.keyWait = none ∧ z.win.busy = none := by
  refine ⟨⟨⟨rfl, rfl⟩, ⟨by decide, ?_⟩, by decide +kernel⟩, ⟨⟨rfl, rfl⟩, by decide, by decide, by decide⟩, rfl, rfl, by decide +kernel⟩
  rintro g rest h
  cases h; rfl

/-- CellResets: a request to a cell without work and to a busy one, and a reset that ends. -/
theorem witness_CellResets :
    AtWork (pkg (chDie vc0)) 0 (chDie vc0) ∧ PortOpen (pkg (chDie vc0)) ∧ (5#8).toNat < (chDie vc0).cellsBuilt
    ∧ (((die (cellK (slotT []))).cell 0).slots.any fun k => decide (k.phase ≠ .idle)) = true
    ∧ (let x : Inst := { chDie vc0 with rst := { Rst.reset with cellBusy := [5] } };
      (pkg x).insts[0]? = some x ∧ x.rst.cellBusy = 5 :: [] ∧ 5 < x.cellsBuilt) :=
  ⟨work_ch _, open_pkg _, by decide, by decide +kernel, rfl, rfl, by decide⟩

/-- CellFaults: a cell with an open tile, a paused cell, one that retires, one that is retired. -/
theorem witness_CellFaults :
    (let c := cellK (slotT []);
      Alive (pkg (die c)) 0 (die c) ∧ 0 < (die c).cellsBuilt ∧ c.retire = none ∧ (die c).flt.quiesced.getLsbD 0 = false
        ∧ (die c).lstFail.getLsbD 0 = false ∧ c.paused = false ∧ c.recov = [] ∧ 0 ∈ c.openSlots ∧ (c.slot 0).wait = .ready)
    ∧ (let f : CellFault := { code := 0, cls := 2, index := 0, address := 0, handle := 0, time := 0, second := false, prog := none };
      let c : Cell := { Cell.reset with paused := true, fault := some f };
      Alive (pkg (die c)) 0 (die c) ∧ c.paused = true ∧ c.fault = some f ∧ f.prog = none ∧ f.code = 0 ∧ (die c).ownersOn 0 = []
        ∧ c.launchQ = [] ∧ c.faults = [] ∧ c.retire = none)
    ∧ (let c : Cell := { Cell.reset with paused := true, retire := some ([0], 0) };
      Alive (pkg (die c)) 0 (die c) ∧ 0 < (die c).cellsBuilt ∧ c.retire.isSome = true)
    ∧ (let x : Inst := { die Cell.reset with flt := { Flt.reset with quiesced := 1 } };
      Alive (pkg x) 0 x ∧ 0 < x.cellsBuilt ∧ (x.cell 0).retire = none ∧ x.flt.quiesced.getLsbD 0 = true) :=
  ⟨⟨⟨rfl, rfl⟩, built_die _, rfl, by decide +kernel, by decide +kernel, rfl, rfl, by decide +kernel, rfl⟩, ⟨⟨rfl, rfl⟩, rfl, rfl, rfl, rfl,
    by decide +kernel, rfl, rfl, rfl⟩, ⟨⟨rfl, rfl⟩, built_die _, rfl⟩, ⟨rfl, rfl⟩, by decide, rfl, by decide⟩

/-- HubFaults: a degraded hub, a masked fault, a port without and with a transfer's request, a docent that runs, both kinds of
injection. -/
theorem witness_HubFaults :
    (∀ f : Flt, f.failstop = false → f.clockLost = false →
      let x : Inst := { chDie vc0 with flt := f };
      AtWork (pkg x) 0 x ∧ Alive (pkg x) 0 x ∧ x.savesMigration = false ∧ x.seReqs = [] ∧ uncOk x (.tlb 0) = true)
    ∧ PortOpen (pkg (chDie vc0)) ∧ Flt.reset.injected = none ∧ Flt.reset.degraded = false ∧ Flt.reset.ctrl % 2 = 0 ∧ Flt.reset.ctrl = 2
    ∧ Flt.reset.failstop = false ∧ Flt.reset.clockLost = false
    ∧ (let f : Flt := { Flt.reset with degraded := true }; f.degraded = true ∧ f.failstop = false ∧ f.clockLost = false ∧ f.injected = none)
    ∧ (let t : Xfer := { xfer0 with phase := .reading };
      let q : SeReq := { port := 3, ident := 0, xfer := some 0, reads := [read0 false], writes := [], again := false };
      let x : Inst := { xferDie t with seReqs := [q] };
      Alive (pkg x) 0 x ∧ x.flt.injected = none ∧ x.xfer t.id = some t
        ∧ (x.seReqs.filter fun r => r.port == 3 && decide (r.xfer = some t.id)).head? = some q)
    ∧ (0x80000000#32).getLsbD 31 = true ∧ (0x80000000#32).toNat / 2 ^ 24 % 2 ^ 4 ≠ 5 ∧ (0x80000000#32).toNat / 2 ^ 24 % 2 ^ 4 < 9 := by
  refine ⟨fun f h1 h2 => ?_, open_pkg _, rfl, rfl, rfl, rfl, rfl, rfl, by decide, ⟨⟨rfl, rfl⟩, rfl, rfl, by decide +kernel⟩, by decide⟩
  have h : ({ chDie vc0 with flt := f } : Inst).alive = true := by
    show (decide True && !f.failstop && !f.clockLost && !false && !false) = true
    rw [h1, h2]; rfl
  refine ⟨⟨rfl, ?_⟩, ⟨rfl, h⟩, rfl, rfl, rfl⟩
  show (Inst.alive _ && decide (0 ≤ 1) && !(false && decide (2 ≤ 0))) = true
  rw [h]; rfl

/-- HubFaults: a port's fault with nothing in flight, and with a channel's save area; a repeat that has ended; a staged line that
is lost. -/
theorem witness_PortRepeats :
    (let x := chDie vc0;
      Alive (pkg x) 0 x ∧ x.flt.injected = none ∧ x.savesMigration = false ∧ x.seReqs = [] ∧ (x.vcs.map Prod.fst).filter x.atArea = []
        ∧ x.xfers = [] ∧ x.flt.mends = [])
    ∧ (let c : Vc := { vc0 with st := .suspending, stopped := true };
      let x := chDie c;
      Alive (pkg x) 0 x ∧ x.flt.injected = none ∧ x.savesMigration = false ∧ x.seReqs = [] ∧ (x.vcs.map Prod.fst).filter x.atArea = [0]
        ∧ (x.vc 0).st = .suspending)
    ∧ (let m : PortFault := { port := 3, cls := 7, index := 5, handle := 0x00010000#32, time := 0, second := false, perm := false, xfers := [0], vcs := [] };
      let y : Inst := { xferDie { xfer0 with phase := .reading } with flt := { Flt.reset with mends := [m] } };
      y.flt.mends = [m] ∧ y.repeating m = false)
    ∧ (let t : Xfer := { xfer0 with phase := .reading, got := [{ va := 0x400, data := 0, bad := false }] };
      let x := xferDie t;
      Alive (pkg x) 0 x ∧ x.flt.injected = none ∧ x.flt.ctrl % 2 = 0 ∧ x.xfer t.id = some t ∧ t.phase = .reading) :=
  ⟨⟨⟨rfl, rfl⟩, rfl, rfl, rfl, by decide, rfl, rfl⟩, ⟨⟨rfl, rfl⟩, rfl, by decide, rfl, by decide, rfl⟩, ⟨rfl, by decide⟩,
    ⟨⟨rfl, rfl⟩, rfl, by decide, rfl, rfl⟩⟩

/-- DieLinks: a port that is up, in a package of two dies, with the flit it expects, one for another die, one without room,
the other types, and a fifth resend; a port in training, and a package of one. -/
theorem witness_DieLinks :
    (let x := Inst.reset 2 0 200;
      let s (z : Inst) : State := { State.reset with insts := [z, Inst.reset 2 1 200] };
      let f : Flit := { typ := 1, cls := 1, seq := 0, ack := 0, src := 1, dst := 0, used := 16, msgs := [.fenceAdd 3 1] };
      let g : Flit := { f with dst := 1 };
      let full : Inst := { x with west := { x.west with replay := List.replicate 128 g } };
      let tired : Inst := { x with east := { x.east with resends := 4 } };
      let down : Inst := { x with east := { Port.down with training := true } };
      (∀ z, (z = x ∨ z = full ∨ z = tired) → AtWork (s z) 0 z ∧ PortOpen (s z) ∧ (z.port true).up = true ∧ z.flt.injected = none ∧ z.id = 0
        ∧ 2 ≤ (s z).insts.length)
      ∧ f.typ = 1 ∧ f.seq = (x.port true).rxSeq ∧ f.dst.toNat = x.id ∧ f.msgs = [.fenceAdd 3 1] ∧ f.cls = 1 ∧ ({ f with cls := 2 } : Flit).cls ≠ 1
      ∧ g.typ = 1 ∧ g.seq = (x.port true).rxSeq ∧ g.dst.toNat ≠ x.id ∧ (x.port false).up = true ∧ (x.port false).replay.length < 128
      ∧ 128 ≤ (full.port false).replay.length ∧ ({ f with typ := 3 } : Flit).typ = 3 ∧ ({ f with typ := 2 } : Flit).typ ≠ 1
      ∧ (x.port true).resends < 4 ∧ 4 ≤ (tired.port true).resends ∧ ({ f with msgs := [] } : Flit).msgs = []
      ∧ (s down).insts[0]? = some down ∧ PortOpen (s down) ∧ (down.port true).up = false ∧ (down.port true).training = true)
    ∧ (pkg (chDie vc0)).insts[0]? = some (chDie vc0) ∧ (pkg (chDie vc0)).insts.length < 2 := by
  refine ⟨⟨?_, by decide, by decide, by decide, rfl, by decide, by decide, by decide, by decide, by decide, rfl, by decide,
    Nat.le_of_eq List.length_replicate.symm, rfl, by decide, by decide, by decide, rfl, rfl, ⟨(by decide : 0 < 8), fun _ _ h => nomatch h⟩, rfl, rfl⟩,
    rfl, by decide⟩
  rintro z (rfl | rfl | rfl) <;> exact ⟨⟨rfl, rfl⟩, ⟨(by decide : 0 < 8), fun _ _ h => nomatch h⟩, rfl, rfl, rfl, (by decide : 2 ≤ 2)⟩

/-- DieLinks: a flit that uses no payload byte, and a port that goes down with a flit that it still holds. -/
theorem witness_LinkEnds :
    let f : Flit := { typ := 1, cls := 1, seq := 0, ack := 0, src := 1, dst := 0, used := 16, msgs := [.fenceAdd 3 1] }
    let x : Inst := { Inst.reset 2 0 200 with east := { (Inst.reset 2 0 200).east with replay := [f] } }
    let s : State := { State.reset with insts := [x, Inst.reset 2 1 200] }
    f.used ≠ 0 ∧ ({ f with used := 0 } : Flit).used = 0 ∧ s.insts[0]? = some x ∧ (x.port true).up = true ∧ (x.port true).replay = [f]
      ∧ f.cls = 1 ∧ f.msgs = [.fenceAdd 3 1] ∧ ∀ w ∈ s.insts, w.rst.waiting = false :=
  ⟨by decide, rfl, rfl, rfl, rfl, rfl, rfl, by decide +kernel⟩

/-- LoadWindowKept: a step from a state that keeps the invariant. -/
theorem witness_LoadWindowKept :
    let s : State := { ssPkg 0 [] with pending := [.ssOpen] }
    Inv s ∧ ∃ t, step s = .next t := by
  refine ⟨⟨by decide, by decide, by decide⟩, ⟨_, rfl⟩⟩

/-! ### The worked examples of the spec -/

/-- 02_formats, the FB4 block of 16. -/
def fb4Inputs : List Word := [0x40300000#32, 0xBFA66666#32, 0x3DCCCCCD#32, 0#32, 0x80000000#32, 0x3F3D70A4#32, 0x3F800000#32,
  0xC00CCCCD#32, 0x3E851EB8#32, 0x3EC00000#32, 0xBE000000#32, 0x3FCCCCCD#32, 0x40200000#32, 0xC0300000#32, 0x3F19999A#32,
  0x3FE00000#32]

/-- 02_formats, the FB4 block: every code of the table, at the scale 2^-1. -/
theorem test_fb4Codes : fb4Inputs.map (fun w => (encodeElem [] .e2m1 3 0 0 true 0 ((f32 w).scale 1)).code) =
    [0x7, 0xD, 0, 0, 0x8, 0x3, 0x4, 0xE, 0x1, 0x2, 0x8, 0x5, 0x6, 0xF, 0x2, 0x6] := by decide +kernel

/-- 02_formats, the FB4 block: the numeric word's fields and the scale byte for amax 2.75. -/
theorem test_fb4Scale : (NumWord.of 0x22C7).fmt = some .e2m1 ∧ (NumWord.of 0x22C7).mode = 3 ∧ (NumWord.of 0x22C7).block = 16 ∧
    blockByte [] .e2m1 (NumWord.of 0x22C7) 0 (some (11, 4)) = (0x3E, false) := by decide +kernel

/-- 02_formats, 500.0 into several destinations. -/
theorem test_convert500 : let x := f32 0x43FA0000#32
    encodeElem [] .bf16 0 0 0 false 0 x = .ok 0x43FA ∧ encodeElem [] .binary16 0 0 0 false 0 x = .ok 0x5FD0 ∧
    encodeElem [] .e5m2 0 0 0 false 0 x = .ok 0x60 ∧ encodeElem [] .e4m3 0 0 0 true 0 x = .clamped 0x7E ∧
    (encodeElem [] .e4m3 0 0 0 false 0 x).code = 0x7F ∧ (encodeElem [] .e4m3 0 0 0 false 0 x).nonfin = true ∧
    encodeElem [] .e4m3 0 0 1 true 0 x = .clamped 0x7E ∧ encodeElem [] .int8 0 0 0 true 0 x = .clamped 0x7F ∧
    encodeElem [] .int8 0 0 0 false 0 x = .nanBlock := by decide +kernel

/-- 02_formats, stochastic rounding to BF16. -/
theorem test_stochastic : let x := f32 0x3F80C000#32
    (encodeElem [] .bf16 0 0 3 false 0x5A3C x).code = 0x3F81 ∧ (encodeElem [] .bf16 0 0 3 false 0x2B10 x).code = 0x3F80 ∧
    (encodeElem [] .bf16 0 0 0 false 0 x).code = 0x3F81 := by decide +kernel

/-- 02_formats, leaving TW64: the pair (1.0, 2^-24) in each rounding, and a pair that two roundings would get wrong. -/
theorem test_leaveTw64 : let x := twVal 0x3F800000#32 0x33800000#32
    toF32 0 false x = 0x3F800000#32 ∧ toF32 1 false x = 0x3F800000#32 ∧ toF32 2 false x = 0x3F800001#32 ∧
    toF32 4 false x = 0x3F800001#32 ∧ toF32 5 false x = 0x3F800000#32 ∧
    (encodeElem [] .bf16 0 0 0 false 0 (twVal 0x3F808000#32 0x30800000#32)).code = 0x3F81 := by decide +kernel

/-- 03_scaling, the INT8 weight row: both rules of the scale exponent, the codes and their error terms. -/
theorem test_int8Row : scaleK 16760439 (2 ^ 24) 127 1 false = -6 ∧ scaleK 16760439 (2 ^ 24) 127 1 true = -7 ∧
    (let x := f32 0x3F7FBE77#32
     encodeElem [] .int8 2 0 0 true 0 (x.scale 6) = .ok 0x40 ∧ encodeElem [] .int8 2 0 0 true 0 (x.scale 7) = .clamped 0x7F ∧
     sqerrTerm (x.scale 6) (.fin false 64 1) = 268 ∧ sqerrTerm (x.scale 7) (.fin false 127 1) = 49832) := by decide +kernel

/-- 03_scaling, the asymmetric activation channel: range 7.7, and the codes of 0, 1.0 and 6.2 with z = 48. -/
theorem test_uint8Channel : scaleK 77 10 255 1 false = -5 ∧ (encodeElem [] .uint8zp 1 48 0 true 0 (.fin false 0 1)).code = 0x30 ∧
    (encodeElem [] .uint8zp 1 48 0 true 0 (.fin false 32 1)).code = 0x50 ∧
    (encodeElem [] .uint8zp 1 48 0 true 0 (.fin false 1984 10)).code = 0xF6 := by decide +kernel

/-- R95's example: a forward mash of 16.0 and 4.0 with M3 bit 1 set, and its inverse. -/
theorem test_mash : let x := [0x41800000#32, 0x40800000#32] ++ List.replicate 30 0#32
    let y := mashSegment 5 false 2 x
    y = (List.replicate 16 [0x3FC00000#32, 0x40200000#32]).flatten ∧ mashSegment 5 true 2 y = x := by decide +kernel

/-- 04_scale_streams: the sequence from the seed 0xACE1, and its jump to step 16. -/
theorem test_sequence : (List.range 6).map (stateAt 0xACE1) = [0xACE1, 0x5670, 0xAB38, 0x559C, 0x2ACE, 0x1567] ∧
    stateAt 0xACE1 16 = 0x4722 ∧ seqBit 0xACE1 16 = false := by decide +kernel

/-- 05_casks: three contributions of 2^-25 after 1.0. -/
theorem test_cask : let t : Tw := .of32 0x33000000#32
    let a := twAdd (.of32 0x3F800000#32) t
    a = ⟨0x3F800000#32, 0x33000000#32⟩ ∧ twAdd a t = ⟨0x3F800000#32, 0x33800000#32⟩ ∧
    twAdd (twAdd a t) t = ⟨0x3F800001#32, 0xB3000000#32⟩ := by decide +kernel

/-- 06_fusion: the operands of a feed in E4M3, without and with an operand bias of -4. -/
theorem test_feed : (feedLane .e4m3 0 (.fin true 3 2)).1 = 0xBC ∧ (feedLane .e4m3 0 (.fin false 768 1)).1 = 0x7E ∧
    (feedLane .e4m3 (-4) (.fin true 3 2)).1 = 0x9C ∧ (feedLane .e4m3 (-4) (.fin false 768 1)).1 = 0x64 := by decide +kernel

/-- 07_chains, the attention tile: the function lanes, the quotient and lse2 of row 0. -/
theorem test_attention : exp2 (.fin true 1 2) = 0x3F3504F3#32 ∧ exp2 (.fin true 7 4) = 0x3E9837F0#32 ∧
    exp2 (.fin true 11 4) = 0x3E1837F0#32 ∧ corr 0x40000000#32 0x40800000#32 = 0x3E800000#32 ∧
    corr 0xFF800000#32 0x40000000#32 = 0#32 ∧ log2v (f32 0x3F69C000#32) = 0xBE065361#32 ∧
    rne (XV.div (.fin false 1302 1) (.fin false 935 1)) = 0x3FB23DE1#32 ∧
    (encodeElem [] .bf16 0 0 0 false 0 (XV.div (.fin false 1302 1) (.fin false 935 1))).code = 0x3FB2 := by decide +kernel

/-- 07_chains: O and l after the second add of the attention tile. -/
theorem test_attentionAdd :
    twAdd (twScale (.of32 0x3FDB0000#32) 0x3E800000#32) (.of32 0x3F580000#32) = ⟨0x3FA2C000#32, 0#32⟩ ∧
    twAdd (twScale (.of32 0x3F938000#32) 0x3E800000#32) (.of32 0x3F200000#32) = ⟨0x3F69C000#32, 0#32⟩ := by decide +kernel

/-- 08_tile_unit: the seven words of the epilogue program pass the static checks of a launch with four descriptors,
vitrines 0, 1 and 7 and no mask. -/
theorem test_epilogue : staticOk [0x5002314000000000#64, 0x0100000400000007#64, 0x0103920380000000#64, 0x20008000C01E0000#64,
    0x12008020C0702000#64, 0x3000800029081000#64, 0x3302908200000000#64] 4 0x83 0 = true ∧
    staticOk [0x5002314000000000#64, 0x0100000400000007#64, 0x0103920380000000#64, 0x20008000C01E0000#64,
    0x12008020C0702000#64, 0x3000800029081000#64, 0x3302908200000000#64] 4 0x81 0 = false := by decide +kernel

/-- The valid elements of rows 0 and 2 of 09_reductions' example. -/
def redRow0 : List Word := [0x3F800000#32, 0x40400000#32, 0x80000000#32, 0x33800000#32, 0x40400000#32, 0xC0200000#32]
def redRow2 : List Word := [0x3F800000#32, 0x40400000#32, 0x7F800000#32, 0x33800000#32, 0xFF800000#32, 0xC0200000#32]

/-- 09_reductions: row 0 under every op. -/
theorem test_reduceRow0 : redMax redRow0 = 0x40400000#32 ∧ redMin redRow0 = 0xC0200000#32 ∧
    redArgmax ((List.range 6).zip redRow0) = 1#32 ∧ redSum false redRow0 = ⟨0x40900000#32, 0x33800000#32⟩ ∧
    redSum true redRow0 = ⟨0x41CA0000#32, 0x27800000#32⟩ ∧ redMean redRow0 = 0x3F400000#32 ∧ redVar redRow0 = 0x40695556#32 := by
  decide +kernel

/-- 09_reductions: row 2, which holds both infinities. -/
theorem test_reduceRow2 : redMax redRow2 = 0x7F800000#32 ∧ redMin redRow2 = 0xFF800000#32 ∧
    redArgmax ((List.range 6).zip redRow2) = 2#32 ∧ redSum false redRow2 = ⟨0x7FC00000#32, 0#32⟩ ∧
    redSum true redRow2 = ⟨0x7F800000#32, 0#32⟩ ∧ redMean redRow2 = 0x7FC00000#32 ∧ redVar redRow2 = 0x7FC00000#32 := by
  decide +kernel

/-- R337: the check value of CRC-64/ECMA-182. -/
theorem test_crc : crc64 [0x31, 0x32, 0x33, 0x34, 0x35, 0x36, 0x37, 0x38, 0x39] = 0x6C40DF5F0B497347 := by decide +kernel

/-- 14_faults: the words of the fault record of a failed cask adder. -/
theorem test_faultRecord : faultRecord (Inst.reset 4 2 200) 0x0039 0x40030105#32 0x1F4A6B20
    { cell := some 17, port := 0, cls := 3, action := 3, second := false, perm := true, index := 77, address := 0#32, moved := 2 } =
    [0x00390006#32, 0x40030105#32, 0x02331112#32, 0x4D#32, 0x1F4A6B20#32, 0#32, 0#32, 2#32] := by decide +kernel

/-- 16_integration: ID_LINK of instances 0 and 2 of four, and ID_CONFIG of instance 2 before and after the cell map of
13_control retires cell 17. -/
theorem test_identity : (Inst.reset 4 0 200).idLink = 0x313#32 ∧ (Inst.reset 4 2 200).idLink = 0x133#32 ∧
    (Inst.reset 4 2 200).idConfig = 0x400190C8#32 ∧
    (let x := Inst.reset 4 2 200
     ({ x with inService := x.inService &&& ~~~(1#256 <<< 17), stream := { x.stream with countM1 := 3 } }).idConfig =
       0x4C018EC8#32) := by decide +kernel

/-- R69, R70: the reciprocal root of the largest finite number is 2^-64 (1 + 2^-25 + ...), whose nearest FP32 value is 2^-64. -/
theorem test_rsqrt : rsqrt (f32 0x7F7FFFFF#32) = 0x1F800000#32 := by decide +kernel

/-! ### Published vectors of the algorithms that the spec names -/

/-- FIPS 197, appendix C.3. -/
theorem test_aes : aesEnc (roundKeys (List.range 32)) ((List.range 16).map (17 * ·)) =
    beNat 16 0x8EA2B7CA516745BFEAFC49904B496089 := by decide +kernel

/-- RFC 3394, section 4.6. -/
theorem test_keyUnwrap : keyUnwrap (List.range 32) (beNat 40 0x28C9F404C4B810F4CBCCB35CFB87F8263F5786E2D80ED326CBC7F0E71A99F43BFB988B9B7A02DD21) =
    some (beNat 32 0x00112233445566778899AABBCCDDEEFF000102030405060708090A0B0C0D0E0F) := by decide +kernel

/-- FIPS 180-4's example "abc". -/
theorem test_sha384 : (sha384 [0x61, 0x62, 0x63]).map BitVec.toNat = beNat 48
    0xcb00753f45a35e8bb5a03d699ac65007272c32ab0eded1631a8b605a43ff5bed8086072ba1e7cc2358baeca134c825a7 := by decide +kernel

/-- The GCM specification's test case 14 (AES-256, 96-bit IV of zeros, one block of zeros). -/
theorem test_gcm : gcmSeal (List.replicate 32 0) (List.replicate 12 0) [] (List.replicate 16 0) =
    (beNat 16 0xcea7403d4d606b6e074ec5d3baf39d18, beNat 16 0xd0d1c8a799996bf0265b98b5d48ab919) := by decide +kernel

end Sys2Proof.Tests
end

/-! SUPPORT. Reads of the identification registers (R3): the register map at their offset, when a hub answers them (R343, R389),
and the way of the answer out of the control port (R342). -/

namespace Sys2Proof.Machine

/-! ### The register map at HUB.ID_VERSION (R3, R439) -/

@[simp] theorem State.readReg_version (s : State) (i : Nat) (x : Inst) : s.readReg i x 4 = 0x00020100#32 := by
  simp [State.readReg, offPackage, Inst.readLow, idVersion]

/-- HUB.ID_VERSION is read-only: a read of it clears nothing (R12). -/
@[simp] theorem State.readClear_version (s : State) (i : Nat) (x : Inst) : s.readClear i x 4 = s := by
  simp [State.readClear]

/-! ### A byte address is an instance and an offset (R341) -/

theorem addrInst_join {id off : Nat} (hid : id < 8) (hoff : off < 2 ^ 21) : addrInst (id * 2 ^ 21 + off) = id := by
  simp only [addrInst, fld, Nat.shiftRight_eq_div_pow]
  omega

theorem addrOff_join {id off : Nat} (hoff : off < 2 ^ 21) : addrOff (id * 2 ^ 21 + off) = off := by
  simp only [addrOff, fld, Nat.shiftRight_eq_div_pow]
  omega

/-! ### When a hub answers an access (R343, R389, R405, R411) -/

/-- The hub answers an access to the registers that a fail-stopped instance keeps answering: it is in no reset, has clocks, no OFF
has been accepted, and it has fail-stopped or is at work. -/
def Inst.Answers (x : Inst) : Prop :=
  x.rst.phase = 0 ∧ x.flt.clockLost = false ∧ x.pwr.offTaken = false ∧ (x.flt.failstop = true ∨ x.awake = true)

theorem Inst.answers_of_awake {x : Inst} (h : x.awake = true) : x.Answers := by
  obtain ⟨hphase, -, hclock, hoff, -⟩ := Inst.awake_parts h
  exact ⟨hphase, hclock, hoff, .inr h⟩

theorem Inst.Answers.not_holds {x : Inst} (h : x.Answers) (off : Nat) (we : Bool) : x.holds off we = false := by
  obtain ⟨hphase, -, -, hstop | hawake⟩ := h
  · simp [Inst.holds, hphase, hstop]
  · simp [Inst.holds, hphase, hawake]

/-- An access to an offset that a fail-stopped instance still answers is performed wherever the hub answers. -/
theorem State.ctlGate_answers {s : State} {i off : Nat} {x : Inst} (we : Bool) (f : Inst → State) (hx : s.insts[i]? = some x)
    (h : x.Answers) (hoff : offAlways off = true) : s.ctlGate i off we f = f x := by
  obtain ⟨hphase, hclock, hpower, hstop | hawake⟩ := h
  · simp [State.ctlGate, hx, hphase, hclock, hpower, hstop, hoff]
  · exact State.ctlGate_awake off we f ⟨hx, hawake⟩

/-- A read of HUB.ID_VERSION that a hub performs changes nothing but the answer. -/
theorem State.perform_version {s : State} {i : Nat} {x : Inst} {acc : CtlAcc} (hx : s.insts[i]? = some x) (h : x.Answers)
    (hwe : acc.we = false) (hoff : addrOff acc.addr.toNat = 4) : s.perform i acc = s.ctlOk 0x00020100#32 := by
  rw [State.perform, hoff, State.ctlGate_answers acc.we _ hx h rfl]
  simp [hwe]

/-! ### At the port of instance 0 -/

/-- The port hands an aligned access to a defined offset of instance 0 to its hub, where that hub answers. -/
theorem State.ctlTake_local {s : State} {x : Inst} {acc : CtlAcc} (hx : s.insts[0]? = some x) (h : x.Answers)
    (hid : addrInst acc.addr.toNat = x.id) (halign : acc.addr.toNat % 4 = 0)
    (hdef : offUndefined (addrOff acc.addr.toNat) = false) : s.ctlTake acc = s.perform 0 acc := by
  have hholds := h.not_holds
  obtain ⟨-, hclock, hpower, -⟩ := h
  simp [State.ctlTake, hx, hholds, hclock, hpower, halign, hdef, hid]

/-- The access of a read of HUB.ID_VERSION at instance 0. -/
def versionAcc : CtlAcc := { addr := 4#24, we := false, data := 0 }

theorem State.ctlTake_version {s : State} {x : Inst} (hx : s.insts[0]? = some x) (h : x.Answers) (hid : x.id = 0) :
    State.ctlTake versionAcc s = s.ctlOk 0x00020100#32 := by
  have hinst : addrInst versionAcc.addr.toNat = x.id := hid.symm
  rw [State.ctlTake_local hx h hinst rfl rfl, State.perform_version hx h rfl rfl]

theorem rcRead_version {s : State} {x : Inst} (hx : s.insts[0]? = some x) (hp : PortOpen s) (hid : x.id = 0)
    (h : x.Answers) : exec (.rcRead 4#24) s = .next (granted s 0x00020100#32) :=
  congrArg Host.Outcome.next (State.access_granted hp (fun _ => State.ctlTake_version hx h hid) rfl rfl)

/-! ### At the end of a forwarded read (R342, R344) -/

/-- A forwarded access that is answered leaves with the answers that waited behind it. -/
theorem State.forward_answered {s : State} {f : Fwd} {rest : List Fwd} {xl : XlAns} {led : Option Line} {r : CtlResp}
    (hfwd : s.fwd = f :: rest)
    (hf : State.forwardOne { s with resp := [] } f rest xl led = { s with fwd := rest, resp := [r] }) :
    s.forward xl led = State.flushResp { s with fwd := rest, resp := [r] } := by
  unfold State.forward
  split
  · next hnil => simp [hfwd] at hnil
  · next f' rest' hcons =>
    obtain ⟨rfl, rfl⟩ : f = f' ∧ rest = rest' := by simpa [hfwd] using hcons
    rw [hf]
    simp [State.flushResp]

/-- Without an answer at the head of the outstanding accesses nothing more leaves. -/
theorem State.flushResp_unanswered {s : State} (h : ∀ g more, s.fwd = g :: more → g.ans = none) : s.flushResp = s := by
  obtain ⟨_, _, _, _, _, _, fwd, _, _⟩ := s
  cases fwd with
  | nil => simp [State.flushResp]
  | cons g more =>
    have hg : g.ans = none := h g more rfl
    simp [State.flushResp, hg]

/-- An answer that waits alone leaves behind those that are on their way out. -/
theorem State.flushResp_one {s : State} {g : Fwd} {r : CtlResp} (hs : s.fwd = [g]) (hg : g.ans = some r) :
    s.flushResp = { s with fwd := [], resp := s.resp ++ [r] } := by
  simp [State.flushResp, hs, hg]

/-- The hub that a forwarded read of HUB.ID_VERSION names answers it. -/
theorem State.forwardOne_version {s : State} {f : Fwd} {x : Inst} (rest : List Fwd) (xl : XlAns) (led : Option Line)
    (hw : AtWork s f.at_ x) (hid : x.id < 8) (hwe : f.acc.we = false) (haddr : f.acc.addr.toNat = x.id * 2 ^ 21 + 4) :
    s.forwardOne f rest xl led = { s with fwd := rest, resp := [{ err := false, data := 0x00020100#32 }] } := by
  obtain ⟨hx, hawake⟩ := hw
  have hans := Inst.answers_of_awake hawake
  have hinst : addrInst f.acc.addr.toNat = x.id := haddr ▸ addrInst_join hid (by decide)
  have hoff : addrOff f.acc.addr.toNat = 4 := haddr ▸ addrOff_join (by decide)
  have hperf : State.perform { s with fwd := rest } f.at_ f.acc = State.ctlOk { s with fwd := rest } 0x00020100#32 :=
    State.perform_version hx hans hwe hoff
  simp [State.forwardOne, hx, hinst, hans.not_holds, hwe, hperf, State.ctlOk]

theorem ctlForward_version {s : State} {f : Fwd} {rest : List Fwd} {x : Inst} (xl : XlAns) (led : Option Line)
    (hfwd : s.fwd = f :: rest) (hw : AtWork s f.at_ x) (hid : x.id < 8) (hwe : f.acc.we = false)
    (haddr : f.acc.addr.toNat = x.id * 2 ^ 21 + 4) :
    exec (.ctlForward xl led) s =
      .next (State.flushResp { s with fwd := rest, resp := [{ err := false, data := 0x00020100#32 }] }) :=
  congrArg Host.Outcome.next (State.forward_answered hfwd (State.forwardOne_version rest xl led hw hid hwe haddr))

/-- Settles O49: the register map gives the value whatever the state, each hub that answers performs the read, and the answer
leaves by the port or with a forwarded access. -/
theorem versionReads : Obligations.VersionReads := by
  intro s x
  refine ⟨fun i => State.readReg_version s i x, ?atWork, ?failStopped, ?forwarded, ?releases⟩
  case atWork =>
    intro ⟨hx, hawake⟩ hp hid
    exact rcRead_version hx hp hid (Inst.answers_of_awake hawake)
  case failStopped =>
    intro hx hp hid hstop hphase hclock hpower
    exact rcRead_version hx hp hid ⟨hphase, hclock, hpower, .inl hstop⟩
  case forwarded =>
    intro f rest xl led hfwd hhead hw hid hwe haddr
    rw [ctlForward_version xl led hfwd hw hid hwe haddr, State.flushResp_unanswered hhead]
  case releases =>
    intro f g r xl led hfwd hg hw hid hwe haddr
    rw [ctlForward_version xl led hfwd hw hid hwe haddr, State.flushResp_one rfl hg]
    rfl

end Sys2Proof.Machine

/-! SUPPORT. The tile unit's comparisons, selections and moves of elements, position by position (R233, R234). -/

namespace Sys2Proof.Machine

/-! ### One register written (R208, R209) -/

theorem Cell.vit_writeRegs_one (c : Cell) (i : Nat) (l : List Word) (h : l.length = 1024) :
    (c.writeRegs [(i, l)] []).vit i = l := Cell.vit_setVit _ _ _ h

theorem Cell.mask_writeRegs_one (c : Cell) (i : Nat) (m : Mask) : (c.writeRegs [] [(i, m)]).mask i = m :=
  Cell.mask_setMask ..

end Sys2Proof.Machine

namespace Sys2Proof

open Sys2Proof.Machine

/-! ### CMP and SEL: two operand lists taken together, position by position (R233) -/

/-- Bit 32 r + c of a mask that joins the enabled positions where P holds of the two lists' elements. -/
theorem zipBits_bit (en : Mask) (P : Word → Word → Bool) (u v : List Word) (r c : Nat) (hr : r < 32) (hc : c < 32)
    (hu : u.length = 1024) (hv : v.length = 1024) :
    ((u.zip v).zipIdx.foldl (fun (m : Mask) p =>
      if en.getLsbD p.2 && P p.1.1 p.1.2 then m ||| BitVec.ofNat 1024 (2 ^ p.2) else m) 0).getLsbD (32 * r + c) =
      (en.getLsbD (32 * r + c) && P (elemAt u r c) (elemAt v r c)) := by
  have hi : 32 * r + c < 1024 := by omega
  rw [foldl_if_bit (fun p : (Word × Word) × Nat => en.getLsbD p.2 && P p.1.1 p.1.2) Prod.snd _ _ _ hi,
    show (0 : Mask).getLsbD (32 * r + c) = false from BitVec.getLsbD_zero, Bool.false_or, elemAt_eq (by omega),
    elemAt_eq (by omega), Bool.eq_iff_iff, List.any_eq_true]
  constructor
  · rintro ⟨⟨p, j⟩, hp, hb⟩
    obtain ⟨hP, hj⟩ := Bool.and_eq_true_iff.mp hb
    obtain rfl : 32 * r + c = j := of_decide_eq_true hj
    obtain ⟨-, hget⟩ := List.mem_zipIdx' hp
    simpa [hget] using hP
  · intro hP
    refine ⟨((u[32 * r + c], v[32 * r + c]), 32 * r + c), List.mk_mem_zipIdx_iff_getElem?.mpr ?_, by simpa using hP⟩
    simp [hi, hu, hv]

/-- SEL chooses at every position between the elements of two lists. -/
theorem sel_elem (m : Mask) (u v : List Word) (r c : Nat) (hr : r < 32) (hc : c < 32) (hu : u.length = 1024)
    (hv : v.length = 1024) :
    elemAt ((u.zip v).zipIdx.map fun p => if m.getLsbD p.2 then p.1.1 else p.1.2) r c =
      if m.getLsbD (32 * r + c) then elemAt u r c else elemAt v r c := by
  have hi : 32 * r + c < 1024 := by omega
  have e (l : List Word) (hl : l.length = 1024) : elemAt l r c = l[32 * r + c] := elemAt_eq (by omega)
  rw [e u hu, e v hv, elemAt_eq (by simp; omega)]
  simp

/-- CMP compares its operands in the lanes that are enabled, and clears the bits of the others. -/
theorem cmp_run {s : State} {a : Site} {x : Inst} {mk md p q pred ty : Nat} (h : Ready s a x (.cmp mk md p q pred ty)) :
    let d := x.cell a.cell
    let k := x.slot a.cell a.slot
    LaneRun (.cmp mk md p q pred ty) s a x [] [md] Led.zero fun d1 => ∀ r c, r < 32 → c < 32 →
      (d1.mask md).getLsbD (32 * r + c) =
        (laneOpen d k mk r c && cmpLane pred ty (srcElem d k.launch p r c) (srcElem d k.launch q r c)) := by
  refine LaneRun.of_out h rfl rfl (by simp) (by simp) rfl fun r c hr hc => ?_
  rw [Cell.mask_setSlot, Cell.mask_writeRegs_one, zipBits_bit _ (cmpLane pred ty) _ _ _ _ hr hc (srcList_length ..)
    (srcList_length ..), srcList_elem _ _ _ _ _ hr hc, srcList_elem _ _ _ _ _ hr hc]
  exact congrArg (· && _) (mkTail_bit _ _ _ _ _ hr hc)

/-- SEL writes the positions of its destination shape that its tail mask enables. -/
theorem sel_run {s : State} {a : Site} {x : Inst} {mk dst p q : Nat} (h : Ready s a x (.sel mk dst p q)) :
    let d := x.cell a.cell
    let k := x.slot a.cell a.slot
    LaneRun (.sel mk dst p q) s a x [opVit dst] [] Led.zero fun d1 => ∀ r c, r < 32 → c < 32 →
      elemAt (d1.vit (opVit dst)) r c =
        if k.loopTail.getLsbD (32 * r + c) && inShape dst r c then
          (if maskOn d mk r c then srcElem d k.launch p r c else srcElem d k.launch q r c)
        else elemAt (d.vit (opVit dst)) r c := by
  refine LaneRun.of_out h rfl rfl (by simp [LaneOut.vit]) (by simp [LaneOut.vit]) rfl fun r c hr hc => ?_
  have hp := srcList_length (x.cell a.cell) (x.slot a.cell a.slot).launch p
  have hq := srcList_length (x.cell a.cell) (x.slot a.cell a.slot).launch q
  simp only [LaneOut.vit, Cell.vit_setSlot]
  rw [Cell.vit_writeRegs_one _ _ _ (pickLanes_length _ _ _ (Cell.vit_length ..) (by simp [hp, hq])),
    pickLanes_elem _ _ _ _ _ hr hc (Cell.vit_length ..) (by simp [hp, hq]), sel_elem _ _ _ _ _ hr hc hp hq,
    mkMask_bit _ _ _ _ hr hc, srcList_elem _ _ _ _ _ hr hc, srcList_elem _ _ _ _ _ hr hc, BitVec.getLsbD_and,
    shapeMask_bit _ _ _ hr hc]
  rfl

/-- Settles O5: CLP is a lane computation from three operands, CMP joins the bits of its lanes, SEL picks. -/
theorem clampCompareSelect : Obligations.ClampCompareSelect := by
  intro s a x
  refine ⟨fun mk dst p q u h => ?clamp, fun mk md p q pred ty => cmp_run, fun mk dst p q => sel_run⟩
  case clamp => exact VitRun.of_map h rfl rfl fun _ _ => rfl

/-! ### PERM and SHUF: an element of a list moves to a position (R234) -/

theorem permList_length (mode : Nat) (u v : List Word) : (permList mode u v).length = 1024 := by
  rw [permList, List.length_map, lanes_length]

theorem shufList_length (mode amount : Nat) (u v : List Word) : (shufList mode amount u v).length = 1024 := by
  rw [shufList, List.length_map, lanes_length]

/-- What PERM brings to position (r, c): the transposed element, or one of its row or column, 0 for an index of 32 or more. -/
theorem permList_elem (mode : Nat) (u v : List Word) (r c : Nat) (hr : r < 32) (hc : c < 32) (hm : mode < 3) :
    elemAt (permList mode u v) r c =
      if mode = 0 then elemAt u c r
      else if 32 ≤ (elemAt v r c).toNat then 0#32
      else if mode = 1 then elemAt u r (elemAt v r c).toNat else elemAt u (elemAt v r c).toNat c := by
  rw [permList, lanes_map_elem _ _ _ hr hc]
  obtain rfl | rfl | rfl : mode = 0 ∨ mode = 1 ∨ mode = 2 := by omega
  · rfl
  all_goals rcases Nat.lt_or_ge (elemAt v r c).toNat 32 with hi | hi <;> simp [hi]

/-- What SHUF brings to position (r, c): an interleaved element, one of the even or the odd columns, or a rotated one. -/
theorem shufList_elem (mode amount : Nat) (u v : List Word) (r c : Nat) (hr : r < 32) (hc : c < 32) (hm : mode < 6) :
    elemAt (shufList mode amount u v) r c =
      if mode = 0 then (if c % 2 = 0 then elemAt u r (c / 2) else elemAt v r ((c - 1) / 2))
      else if mode = 1 then (if c % 2 = 0 then elemAt u r (c / 2 + 16) else elemAt v r ((c - 1) / 2 + 16))
      else if mode = 2 then (if c < 16 then elemAt u r (2 * c) else elemAt v r (2 * c - 32))
      else if mode = 3 then (if c < 16 then elemAt u r (2 * c + 1) else elemAt v r (2 * c - 31))
      else if mode = 4 then elemAt u r ((c + amount) % 32)
      else elemAt u ((r + amount) % 32) c := by
  rw [shufList, lanes_map_elem _ _ _ hr hc]
  obtain rfl | rfl | rfl | rfl | rfl | rfl : mode = 0 ∨ mode = 1 ∨ mode = 2 ∨ mode = 3 ∨ mode = 4 ∨ mode = 5 := by omega
  all_goals rfl

/-- Settles O6: each mode's source position lies in the operand, so that the operand's list supplies it. -/
theorem permuteShuffle : Obligations.PermuteShuffle := by
  intro s a x
  have hsrc (o r c : Nat) (hr : r < 32) (hc : c < 32) := srcList_elem (x.cell a.cell) (x.slot a.cell a.slot).launch o r c hr hc
  constructor
  case left =>
    intro mk dst p q mode hm h
    refine VitRun.of_pick h rfl (permList_length ..) rfl fun r c hr hc => ?_
    rw [permList_elem _ _ _ _ _ hr hc hm, hsrc _ _ _ hr hc, hsrc _ _ _ hc hr]
    split_ifs with h0 hi h1
    · rfl
    · rfl
    · exact hsrc _ _ _ hr (by omega)
    · exact hsrc _ _ _ (by omega) hc
  case right =>
    intro mk dst p q mode amount hm h
    refine VitRun.of_pick h rfl (shufList_length ..) rfl fun r c hr hc => ?_
    rw [shufList_elem _ _ _ _ _ _ hr hc hm]
    split_ifs
    all_goals exact hsrc _ _ _ (by omega) (by omega)

end Sys2Proof

/-! SUPPORT. The tile unit's store, an instruction on memory whose plan reads nothing (R230). -/

namespace Sys2Proof

open Sys2Proof.Machine

/-! ### An instruction on memory whose plan reads nothing -/

/-- An instruction that runs to its end and changes its cell alone, to what `d` gives of the translations `used`. -/
theorem MemEnds.of_issue {s : State} {a : Site} {x : Inst} {o : TileOp} {d : List (Nat × Nat) → Cell}
    (used : List (Nat × Nat)) (h : Ready s a x o) (ho : o.isFeed = false)
    (hi : (pureRun x).issue (s.env a.inst) a.cell a.slot o = pureRun (x.setCell a.cell (d used))) : MemEnds o s a x d :=
  ⟨_, used, h.cell_run ho hi, ⟨rfl, fun _ hn => Inst.cell_setCell_other _ _ _ _ hn⟩, Inst.cell_setCell ..⟩

@[simp] theorem firstFail_nil (rd : Rd) : firstFail [] rd = none := rfl

/-- A plan that reads and compares nothing, and whose output is `m`. -/
def unread (m : MemOut) : MemPlan := { reads := [], checks := [], fin := fun _ => .ok m }

/-- Its instruction runs to its end as soon as its output bytes are translated. -/
theorem MemRun.of_unread {s : State} {a : Site} {x : Inst} {o : TileOp} {m : MemOut} {ps us : List (Nat × Nat)}
    (h : Ready s a x o) (ho : o.isFeed = false)
    (hm : memAsk ((pureRun x).memEnv a.cell a.slot) o = some (.ok (.now (unread m)))) (hg : m.gather = none)
    (hp : Placed a x (m.writes.map Prod.fst) ps us) : MemRun o s a x m ps := by
  obtain ⟨ht, hc⟩ := hp
  have hk := h.slot_lt
  have hfetch {z : Inst} {u : List (Nat × Nat)} (l : UsedLike x z a.cell a.slot u) := Run.fetch_nil (e := s.env a.inst) l hk
  refine MemEnds.of_issue ?used h ho ?issue
  case issue =>
    simp only [Run.issue, hm, Run.memIssue, ho, MemAsk.now, unread, Bool.false_eq_true, if_false, hfetch (UsedLike.self ..),
      hfetch (UsedLike.usedAt ..), firstFail_nil, Run.place_ok (UsedLike.usedAt ..) hk ht hc, hg]
    exact Run.applyOut_used hk m _

/-! ### VST -/

/-- A list made lane by lane, along the lanes' numbers. -/
theorem lanes_flatMap {α : Type} (f : Nat × Nat → List α) :
    lanes.flatMap f = (List.range 1024).flatMap fun p => f (p / 32, p % 32) := by
  have hl : lanes = (List.range 1024).map fun p => (p / 32, p % 32) := by
    refine List.ext_getElem (by rw [lanes_length, List.length_map, List.length_range]) fun p h1 h2 => ?_
    have hp : p < 1024 := lanes_length ▸ h1
    have hg := lanes_get (p / 32) (p % 32) (by omega) (by omega)
    rw [Nat.div_add_mod] at hg
    rw [List.getElem_map, List.getElem_range, List.getElem_eq_iff, hg]
  rw [hl, List.flatMap_map]

/-- The bytes of VST: each enabled lane's element as it stands in vitrine i, for a pair after that of vitrine i + 1. -/
def storeBytes (e : MemEnv) (mk dk map i : Nat) (pair : Bool) : List (Nat × Byte) :=
  let d := e.slot.desc dk
  let t := e.slot.tileIdx map
  let word (v r j : Nat) : List Byte := leBytes 4 (elemAt (e.cell.vit v) r j).toNat
  (List.range 1024).flatMap fun p =>
    if (e.cell.mkMask mk &&& tailMask d t).getLsbD p then
      (if pair then word (i + 1) (p / 32) (p % 32) ++ word i (p / 32) (p % 32) else word i (p / 32) (p % 32)).zipIdx.map fun q =>
        (d.tileRow t (p / 32) + p % 32 * (d.bits / 8) + q.2, q.1)
    else []

/-- The output of VST. -/
def storeOut (e : MemEnv) (mk dk map i : Nat) (pair : Bool) : MemOut :=
  let d := e.slot.desc dk
  d.commit (d.laneIndex (e.slot.tileIdx map) 0 0) (storeBytes e mk dk map i pair) [] [] Led.zero

theorem storeOut_writes (e : MemEnv) (mk dk map i : Nat) (pair : Bool) : (storeOut e mk dk map i pair).writes =
    (storeBytes e mk dk map i pair).map fun q => ((e.slot.desc dk).adr q.1, q.2) := by
  simp [storeOut, Desc.commit, Desc.out]

theorem storeOut_flags (e : MemEnv) (mk dk map i : Nat) (pair : Bool) : (storeOut e mk dk map i pair).led.flags = 0 := by
  simp [storeOut, Desc.commit, Led.add, Led.zero]

/-- The numeric word that VST takes names a format (R35, R37). -/
theorem storeWord_fmt (pair : Bool) : (NumWord.of (if pair then 0x0010 else 0)).fmt ≠ none := by
  cases pair <;> decide

/-- With the numeric word of its form, VST of a legal descriptor that is not empty reads nothing and writes its elements. -/
theorem planVst_stores {e : MemEnv} (mk map i : Nat) {dk : Nat} {pair : Bool}
    (hn : (e.slot.desc dk).num = if pair then 0x0010 else 0) (he : (e.slot.desc dk).isEmpty = false)
    (hl : (e.slot.desc dk).illegal true false = false) :
    planVst e mk dk map i pair = .ok (.now (unread (storeOut e mk dk map i pair))) := by
  obtain ⟨f, hf⟩ := Option.ne_none_iff_exists'.mp (storeWord_fmt pair)
  simp only [planVst, hn, ne_eq, not_true_eq_false, if_false, withDesc, Desc.nw, hf, he, hl, Bool.false_eq_true, lanes_flatMap,
    laneOn, Nat.div_add_mod]
  rfl

/-- With any other numeric word it is refused. -/
theorem planVst_refuses {e : MemEnv} (mk map i : Nat) {dk : Nat} {pair : Bool}
    (hn : (e.slot.desc dk).num ≠ if pair then 0x0010 else 0) : planVst e mk dk map i pair = .error (.err errFmt) := by
  rw [planVst, if_pos hn]

/-- Settles O15: the plan of VST reads nothing, so that it runs once its bytes are placed, or it is refused as it issues. -/
theorem storeForm : Obligations.StoreForm := by
  intro s a x mk dk map i pair
  refine fun h => ⟨fun hn he hl ps us hp => ?stores, fun hn => ?refuses⟩
  case stores =>
    let e := (pureRun x).memEnv a.cell a.slot
    have hwrites := storeOut_writes e mk dk map i pair
    have hplaced : Placed a x ((storeOut e mk dk map i pair).writes.map Prod.fst) ps us := by
      rw [hwrites, List.map_map]
      exact hp
    exact ⟨storeOut e mk dk map i pair, rfl, rfl, rfl, rfl, storeOut_flags .., hwrites,
      MemRun.of_unread h rfl (congrArg some (planVst_stores mk map i hn he hl)) rfl hplaced⟩
  case refuses =>
    refine h.fails (pro := .none) rfl ?_
    have hm : memAsk ((pureRun x).memEnv a.cell a.slot) (.vst mk dk map i pair) = some (.error (.err errFmt)) :=
      congrArg some (planVst_refuses mk map i hn)
    simp only [Run.issue, hm, Run.memIssue]
    rfl

end Sys2Proof


/-! SUPPORT. The load window under the operations of the package (R353, R356): most leave it alone, the commands of the load
window, a lost stream message and the resets keep it well formed. -/

namespace Sys2Proof.Machine

/-! ### Operations that leave the load window alone -/

/-- A run of operations that leave the load window alone. -/
theorem foldl_ss {α : Type} {f : State → α → State} (hf : ∀ s a, (f s a).ss = s.ss) (l : List α) (s : State) :
    (l.foldl f s).ss = s.ss := by
  induction l generalizing s with
  | nil => rfl
  | cons a l ih => rw [List.foldl_cons, ih, hf]

theorem State.atDie_ss {s : State} {i : Nat} {f : Inst → State} (hf : ∀ x, (f x).ss = s.ss) : (s.atDie i f).ss = s.ss := by
  unfold State.atDie
  split
  · rfl
  · exact hf _

theorem State.atCell_ss {s : State} {a : CellAt} {f : Inst → State} (hf : ∀ x, (f x).ss = s.ss) : (s.atCell a f).ss = s.ss := by
  refine State.atDie_ss fun x => ?_
  split
  · exact hf x
  · rfl

@[simp] theorem State.post_ss (s : State) (ws : List Word) : (s.post ws).ss = s.ss := by
  unfold State.post
  repeat' split
  all_goals rfl

@[simp] theorem State.wakeNext_ss (s : State) (i j : Nat) : (s.wakeNext i j).ss = s.ss := by rw [State.wakeNext_frame]

@[simp] theorem State.logSeq_ss (s : State) (ws : List Word) (seq : BitVec 16) : (s.logSeq ws seq).ss = s.ss := by
  unfold State.logSeq
  dsimp only
  split <;> rfl

@[simp] theorem State.onFence_ss (s : State) (f : Nat) (g : Fence → Fence) : (s.onFence f g).ss = s.ss := by
  unfold State.onFence
  split <;> rfl

@[simp] theorem State.mbFreed_ss (s : State) (j m : Nat) : (s.mbFreed j m).ss = s.ss := by
  unfold State.mbFreed
  dsimp only
  split
  · rfl
  · refine (State.atDie_ss fun _ => ?_).trans (State.atDie_ss (i := j) (f := fun y => s.setInst j (y.mbRelease m)) fun _ => rfl)
    rfl

@[simp] theorem State.delivered_ss (s : State) (h : Word) : (s.delivered h).ss = s.ss := by
  refine State.atDie_ss fun y => ?_
  repeat' split
  all_goals simp

@[simp] theorem State.act_ss (s : State) (e : Eff) : (s.act e).ss = s.ss := by
  cases e with
  | patch i m => exact State.atDie_ss fun _ => rfl
  | fault ws logged => simp only [State.act]; split <;> simp
  | _ => simp [State.act]

@[simp] theorem State.eff_ss (i : Nat) (s : State) (e : Eff) : (s.eff i e).ss = s.ss := by
  unfold State.eff
  dsimp only
  repeat' split
  all_goals first | rfl | exact State.act_ss .. | exact State.atDie_ss fun _ => rfl

@[simp] theorem State.effs_ss (s : State) (i : Nat) (es : List Eff) : (s.effs i es).ss = s.ss := foldl_ss (State.eff_ss i) es s

@[simp] theorem State.runAt_ss (s : State) (i : Nat) (x : Inst) (f : Env → Inst → Run) : (s.runAt i x f).ss = s.ss := by
  simp [State.runAt]

@[simp] theorem State.run_ss (s : State) (i : Nat) (f : Env → Inst → Run) : (s.run i f).ss = s.ss := by
  unfold State.run
  split
  · rfl
  · simp

@[simp] theorem State.ctlRecord_ss (s : State) (addr : Nat) (we : Bool) (code : Nat) : (s.ctlRecord addr we code).ss = s.ss := by
  unfold State.ctlRecord
  dsimp only
  repeat' split
  all_goals rfl

@[simp] theorem State.ctlFail_ss (s : State) (addr : Nat) (we : Bool) (code : Nat) : (s.ctlFail addr we code).ss = s.ss := by
  simp [State.ctlFail]

@[simp] theorem State.flushResp_ss (s : State) : s.flushResp.ss = s.ss := rfl

@[simp] theorem State.released_ss (s : State) : s.released.ss = s.ss := by
  unfold State.released
  dsimp only
  split <;> rfl

@[simp] theorem State.localPacket_ss (s : State) (i j : Nat) : (s.localPacket i j).ss = s.ss := by
  unfold State.localPacket
  repeat' split
  all_goals simp

@[simp] theorem transferRequest_ss (s : State) (a : CellAt) (ws : List Word) (lines : List SpLine) (x : Inst) :
    (transferRequest s a ws lines x).ss = s.ss := by
  unfold transferRequest
  dsimp only
  repeat' split
  all_goals simp

@[simp] theorem State.setWin_ss (s : State) (i : Nat) (f : ChWin → ChWin) : (s.setWin i f).ss = s.ss := by
  unfold State.setWin
  split <;> rfl

@[simp] theorem State.chRun_ss (s : State) (op : Nat) (w : ChCmd) (xl : XlAns) (led : Option Line) : (s.chRun op w xl led).ss = s.ss := by
  unfold State.chRun
  dsimp only
  repeat' split
  all_goals simp

@[simp] theorem State.keyEnd_ss (s : State) (i code : Nat) : (s.keyEnd i code).ss = s.ss := by
  unfold State.keyEnd
  split <;> rfl

@[simp] theorem State.keyRun_ss (s : State) (i : Nat) (x : Inst) (w h : Word) : (s.keyRun i x w h).ss = s.ss := by
  unfold State.keyRun
  dsimp only
  repeat' split
  all_goals first | simp | refine (State.atDie_ss fun _ => ?_).trans (State.wakeNext_ss ..)
  rfl

@[simp] theorem State.keyCmd_ss (s : State) (i : Nat) (x : Inst) (w : Word) : (s.keyCmd i x w).ss = s.ss := by
  unfold State.keyCmd
  split <;> simp

@[simp] theorem State.mbEnd_ss (s : State) (i code : Nat) : (s.mbEnd i code).ss = s.ss := by
  unfold State.mbEnd
  split <;> rfl

@[simp] theorem State.mbAlloc_ss (s : State) (i : Nat) (x : Inst) : (s.mbAlloc i x).ss = s.ss := by
  unfold State.mbAlloc
  dsimp only
  repeat' split
  all_goals simp

@[simp] theorem State.onCellAt_ss (s : State) (i n : Nat) (f : Cell → Cell) : (s.onCellAt i n f).ss = s.ss := by
  unfold State.onCellAt
  split <;> rfl

@[simp] theorem State.recall_ss (s : State) (receiver : Nat) (h : Word) : (s.recall receiver h).ss = s.ss := by
  unfold State.recall
  split <;> simp

@[simp] theorem State.mbRun_ss (s : State) (i op : Nat) (h : Word) : (s.mbRun i op h).ss = s.ss := by
  unfold State.mbRun
  dsimp only
  split
  · simp
  · split
    · refine (State.atDie_ss fun _ => ?_).trans (State.wakeNext_ss ..)
      rfl
    · repeat' split
      all_goals first | simp | exact State.atDie_ss fun _ => rfl

@[simp] theorem State.mbCmd_ss (s : State) (i : Nat) (x : Inst) (op : Nat) : (s.mbCmd i x op).ss = s.ss := by
  unfold State.mbCmd
  repeat' split
  all_goals simp

@[simp] theorem State.mailboxRecord_ss (s : State) (a : CellAt) (x : Inst) (ws : List Word) : (s.mailboxRecord a x ws).ss = s.ss := by
  unfold State.mailboxRecord
  dsimp only
  repeat' split
  all_goals simp

@[simp] theorem State.heldRelease_ss (s : State) (a : CellAt) (x : Inst) : (s.heldRelease a x).ss = s.ss := by
  unfold State.heldRelease
  dsimp only
  repeat' split
  all_goals simp

@[simp] theorem State.delivery_ss (s : State) (i m : Nat) (x : Inst) : (s.delivery i m x).ss = s.ss := by
  unfold State.delivery
  dsimp only
  repeat' split
  all_goals simp

@[simp] theorem State.putBack_ss (s : State) (a : CellAt) (h : Word) : (s.putBack a h).ss = s.ss := by
  refine (State.atDie_ss fun y => ?_).trans (State.onCellAt_ss ..)
  split <;> rfl

@[simp] theorem State.holdMasked_ss (s : State) (a : CellAt) : (s.holdMasked a).ss = s.ss :=
  State.atDie_ss fun _ => foldl_ss (fun _ _ => State.putBack_ss ..) _ s

@[simp] theorem State.outAccept_ss (s : State) (a : CellAt) (x : Inst) : (s.outAccept a x).ss = s.ss := by
  unfold State.outAccept
  dsimp only
  repeat' split
  all_goals simp

@[simp] theorem State.tick_ss (s : State) (i : Nat) (x : Inst) : (s.tick i x).ss = s.ss := by
  unfold State.tick
  dsimp only
  repeat' split
  all_goals rfl

@[simp] theorem State.resumeAt_ss (s : State) (j i : Nat) : (s.resumeAt j i).ss = s.ss := by
  have mailbox (s : State) : (s.atDie i fun x => match x.mbWait with
      | some (op, h) => if s.waitsFor i (handleInst h) j then s.mbRun i op h else s
      | none => s).ss = s.ss := by
    refine State.atDie_ss fun x => ?_
    repeat' split
    all_goals simp
  have key (s : State) : (s.atDie i fun x => match x.keyWait with
      | some (w, h) => if s.waitsFor i (handleInst h) j then s.keyRun i x w h else s
      | none => s).ss = s.ss := by
    refine State.atDie_ss fun x => ?_
    repeat' split
    all_goals simp
  refine (State.atDie_ss fun x => ?_).trans ((key _).trans (mailbox s))
  repeat' split
  all_goals simp

@[simp] theorem State.resumeWaits_ss (s : State) (j : Nat) : (s.resumeWaits j).ss = s.ss :=
  foldl_ss (fun _ _ => State.resumeAt_ss ..) _ s

@[simp] theorem State.serveHeld_ss (s : State) (i : Nat) : (s.serveHeld i).ss = s.ss := by
  refine State.atDie_ss fun x => ?_
  dsimp only
  split
  · rfl
  · rw [State.resumeWaits_ss, foldl_ss fun _ _ => State.run_ss ..]
    simp

@[simp] theorem State.offRequest_ss (s : State) (i : Nat) (x : Inst) (w : Word) : (s.offRequest i x w).ss = s.ss := by
  unfold State.offRequest
  repeat' split
  all_goals rfl

@[simp] theorem State.applyFull_ss (s : State) (ws : List Word) (digest : List Byte) : (s.applyFull ws digest).ss = s.ss := by
  refine foldl_ss (fun s i => ?_) _ s
  split <;> rfl

@[simp] theorem State.applyPatch_ss (s : State) (ws : List Word) : (s.applyPatch ws).ss = s.ss := State.effs_ss ..

@[simp] theorem State.dropRecord_ss (s : State) : s.dropRecord.ss = s.ss := by
  unfold State.dropRecord
  split <;> rfl

@[simp] theorem State.deliveryLost_ss (s : State) (k m : Nat) : (s.deliveryLost k m).ss = s.ss := by
  refine State.atDie_ss fun x => ?_
  dsimp only
  split
  · refine (State.atDie_ss fun _ => ?_).trans (State.recall_ss ..)
    rfl
  · rfl

@[simp] theorem State.controlLost_ss (s : State) (acc : CtlAcc) : (s.controlLost acc).ss = s.ss := by
  unfold State.controlLost
  split <;> simp

@[simp] theorem State.cutForwards_ss (s : State) (k : Nat) : (s.cutForwards k).ss = s.ss :=
  foldl_ss (fun _ _ => State.ctlRecord_ss ..) _ _

@[simp] theorem State.cutRequests_ss (s : State) (i : Nat) : (s.cutRequests i).ss = s.ss :=
  State.atDie_ss fun _ => foldl_ss (fun _ _ => State.run_ss ..) _ _

@[simp] theorem State.joins_ss (s : State) (i : Nat) (east : Bool) : (s.joins i east).ss = s.ss := by
  unfold State.joins
  split <;> rfl

@[simp] theorem State.dropDeliveries_ss (s : State) (i : Nat) : (s.dropDeliveries i).ss = s.ss := by
  refine foldl_ss (fun s j => foldl_ss (fun s m => ?_) _ s) _ _
  repeat' split
  all_goals simp

@[simp] theorem State.hubTest_ss (s : State) (i : Nat) (hubFail : Bool) : (s.hubTest i hubFail).ss = s.ss := by
  unfold State.hubTest
  split <;> simp

@[simp] theorem State.readClear_ss (s : State) (i : Nat) (x : Inst) (off : Nat) : (s.readClear i x off).ss = s.ss := by
  unfold State.readClear
  dsimp only
  repeat' split
  all_goals rfl

@[simp] theorem State.chWrite_ss (s : State) (i : Nat) (x : Inst) (w : Word) : (s.chWrite i x w).ss = s.ss := by
  unfold State.chWrite
  dsimp only
  repeat' split
  all_goals simp

@[simp] theorem State.controlArrives_ss (s : State) (i : Nat) (acc : CtlAcc) : (s.controlArrives i acc).ss = s.ss := by
  unfold State.controlArrives
  repeat' split
  all_goals rfl

@[simp] theorem State.packetArrives_ss (s : State) (i k : Nat) (bs : List Byte) : (s.packetArrives i k bs).ss = s.ss := by
  rw [State.packetArrives, State.run_ss]
  exact State.atDie_ss fun _ => rfl

@[simp] theorem State.deliver_ss (s : State) (i k : Nat) (m : LinkMsg) : (s.deliver i k m).ss = s.ss := by
  cases m with
  | post n h msg => exact State.atDie_ss fun _ => State.mailboxRecord_ss ..
  | delivery m => exact State.atDie_ss fun _ => State.delivery_ss ..
  | control acc => simp only [State.deliver]; split <;> simp
  | record ws => simp only [State.deliver]; split <;> simp
  | _ => simp [State.deliver]

@[simp] theorem State.trainDone_ss (s : State) (i : Nat) (east : Bool) (peer : BitVec 3) : (s.trainDone i east peer).ss = s.ss := by
  unfold State.trainDone
  split
  · rfl
  · refine State.atDie_ss fun x => ?_
    split <;> rfl

end Sys2Proof.Machine
namespace Sys2Proof

open Sys2Proof.Machine

/-! ### The digest (R354, R356) -/

theorem shaRound_length (v : List (BitVec 64)) (kw : BitVec 64 × BitVec 64) : (shaRound v kw).length = v.length := by
  unfold shaRound
  split <;> simp

theorem shaBlock_length (ks h m : List (BitVec 64)) : (shaBlock ks h m).length = h.length := by
  have rounds (l : List (BitVec 64 × BitVec 64)) (v : List (BitVec 64)) : (l.foldl shaRound v).length = v.length := by
    induction l generalizing v with
    | nil => rfl
    | cons kw l ih => rw [List.foldl_cons, ih, shaRound_length]
  rw [shaBlock, List.length_zipWith, rounds, Nat.min_self]

theorem shaInit_length : shaInit.length = 8 := by
  rw [shaInit, List.length_map]
  decide +kernel

/-- A hash over any blocks keeps the number of its words. -/
theorem shaBlocks_length (blocks : List Nat) (m : Nat → List (BitVec 64)) (ks h : List (BitVec 64)) :
    (blocks.foldl (fun h i => shaBlock ks h (m i)) h).length = h.length := by
  induction blocks generalizing h with
  | nil => rfl
  | cons i l ih => rw [List.foldl_cons, ih, shaBlock_length]

/-- A digest is never empty, so that the load window holds one exactly after a close that succeeded. -/
theorem sha384_ne_nil (bs : List Byte) : sha384 bs ≠ [] := by
  have words (h : List (BitVec 64)) (hlen : h.length = 8) :
      (h.take 6).flatMap (fun w => (beNat 8 w.toNat).map (BitVec.ofNat 8)) ≠ [] := by
    match h, hlen with
    | w :: ws, _ => simp [beNat, List.range_succ_eq_map]
  exact words _ ((shaBlocks_length ..).trans shaInit_length)

/-! ### Writes of the load window (R353) -/

theorem LoadWinOk.lose {l : LoadWin} (h : LoadWinOk l) : LoadWinOk l.lose := h

theorem LoadWinOk.code {l : LoadWin} (h : LoadWinOk l) (code : Nat) : LoadWinOk { l with code := code } := h

theorem LoadWinOk.open_ {l : LoadWin} (h : LoadWinOk l) : LoadWinOk l.open_ := by
  unfold LoadWin.open_
  split
  · exact h.lose
  · simp [LoadWinOk]

theorem LoadWinOk.close {l : LoadWin} (h : LoadWinOk l) : LoadWinOk l.close := by
  unfold LoadWin.close
  split
  · obtain ⟨hwords, -, hdigest⟩ := h
    refine ⟨hwords, by simp, ?_⟩
    simp_all
  · exact h.lose

theorem LoadWinOk.closeDone {l : LoadWin} (h : LoadWinOk l) : LoadWinOk l.closeDone := by
  obtain ⟨hwords, -, -⟩ := id h
  unfold LoadWin.closeDone
  split
  · exact h
  · split
    · simp [LoadWinOk, hwords]
    · simp [LoadWinOk, hwords, sha384_ne_nil]

theorem LoadWinOk.data {l : LoadWin} (h : LoadWinOk l) (w : Word) : LoadWinOk (l.data w) := by
  obtain ⟨hwords, hst, hdigest⟩ := id h
  unfold LoadWin.data
  repeat' split
  · exact h.lose
  · exact h
  · refine ⟨?_, hst, hdigest⟩
    rw [List.length_append, List.length_singleton]
    omega

/-! ### Operations that keep the load window well formed -/

theorem Inv.of_ss {s t : State} (h : Inv s) (he : t.ss = s.ss) : Inv t := by rwa [Inv, he]

theorem Inv.setInst {s : State} (h : Inv s) (i : Nat) (x : Inst) : Inv (s.setInst i x) := h

theorem Inv.run {s : State} (h : Inv s) (i : Nat) (f : Env → Inst → Run) : Inv (s.run i f) := h.of_ss (State.run_ss ..)

theorem Inv.foldl {α : Type} {f : State → α → State} (hf : ∀ s a, Inv s → Inv (f s a)) (l : List α) {s : State} (h : Inv s) :
    Inv (l.foldl f s) := by
  induction l generalizing s with
  | nil => exact h
  | cons a l ih => exact ih (hf s a h)

theorem Inv.atDie {s : State} {i : Nat} {f : Inst → State} (h : Inv s) (hf : ∀ x, Inv (f x)) : Inv (s.atDie i f) := by
  unfold State.atDie
  split
  · exact h
  · exact hf _

/-- A commit (R358, R359): refused in CLOSED, with its digest kept; EMPTY after a patch; COMMITTING with the digest of CLOSED. -/
theorem Inv.ssCommit {s : State} (h : Inv s) : Inv s.ssCommit := by
  obtain ⟨hwords, hst, hdigest⟩ := id h
  unfold State.ssCommit
  dsimp only
  split
  · exact h.lose
  · next h3 =>
    have hd : s.ss.digest ≠ [] := hdigest.mp (.inl (not_not.mp h3))
    repeat' split
    all_goals first | exact h | simp [Inv, LoadWinOk, hwords, hd]

/-- The end of a full commit (R358): EMPTY, back in CLOSED with the digest, or still COMMITTING. -/
theorem Inv.commitDone {s : State} (h : Inv s) : Inv s.commitDone := by
  obtain ⟨hwords, hst, hdigest⟩ := id h
  unfold State.commitDone
  dsimp only
  split
  · exact h
  · next h4 =>
    have hd : s.ss.digest ≠ [] := hdigest.mp (.inr (not_not.mp h4))
    split
    · exact h.of_ss (by simp)
    · split <;> simp [Inv, LoadWinOk, hwords, hd]

/-- A message of an abandoned flit: that of a stream sends the window back to CLOSED (R391). -/
theorem Inv.abandon {s : State} (h : Inv s) (i k : Nat) (m : LinkMsg) : Inv (s.abandon i k m) := by
  cases m with
  | stream =>
    obtain ⟨hwords, hst, hdigest⟩ := id h
    simp only [State.abandon]
    split
    · next h4 =>
      have hd : s.ss.digest ≠ [] := hdigest.mp (.inr h4)
      simp [Inv, LoadWinOk, hwords, hd]
    · exact h
  | request q answer => exact h.of_ss (State.atDie_ss fun _ => rfl)
  | post n _ _ =>
    refine h.of_ss (State.atDie_ss fun x => ?_)
    split <;> rfl
  | _ => exact h.of_ss (by simp [State.abandon])

theorem Inv.endFlit {s : State} (h : Inv s) (f : Flit) : Inv (s.endFlit f) := Inv.foldl (fun _ m hs => hs.abandon _ _ m) _ h

theorem Inv.linkFalls {s : State} (h : Inv s) (i : Nat) (east : Bool) : Inv (s.linkFalls i east) := by
  refine h.atDie fun x => ?_
  split
  · exact h
  · have hrun : Inv (s.run i fun _ x => (pureRun x).portDown east) := h.of_ss (by simp)
    have hends := Inv.foldl (fun _ f hs => Inv.endFlit hs f) (x.port east).replay hrun
    exact hends.of_ss ((foldl_ss (fun _ _ => State.cutRequests_ss ..) _ _).trans (State.cutForwards_ss ..))

theorem Inv.linksReset {s : State} (h : Inv s) (i : Nat) : Inv (s.linksReset i) := by
  have down (s : State) (east : Bool) (h : Inv s) : Inv (match s.peer i east with
      | some k => (s.linkFalls k !east).joins k !east
      | none => s) := by
    split
    · exact (h.linkFalls ..).of_ss (State.joins_ss ..)
    · exact h
  exact down _ false (down s true h)

/-! ### Resets (R411 to R416, R435) -/

theorem Inv.resetBegin {s : State} (h : Inv s) (i : Nat) : Inv (s.resetBegin i) := by
  have hlinks : Inv (((s.run i stopReset).dropDeliveries i).linksReset i) := (h.of_ss (by simp)).linksReset i
  unfold State.resetBegin
  dsimp only
  split
  · exact hlinks
  · exact hlinks.of_ss rfl

theorem Inv.instReset {s : State} (h : Inv s) (i : Nat) (x : Inst) : Inv (s.instReset i x) := by
  unfold State.instReset
  repeat' split
  · exact h
  · exact h
  · exact h.resetBegin i

theorem Inv.of_reset {s : State} {patches : Nat} (h : s.ss = { LoadWin.reset with patches := patches }) : Inv s := by
  simp [Inv, h, LoadWin.reset, LoadWinOk]

theorem Inv.instResetDone {s : State} (h : Inv s) (i : Nat) (x : Inst) (failed : BitVec 256) (hubFail : Bool) :
    Inv (s.instResetDone i x failed hubFail) := by
  unfold State.instResetDone
  dsimp only
  split
  · exact h
  · refine Inv.of_ss ?_ ((State.resumeWaits_ss ..).trans (State.hubTest_ss ..))
    split
    · exact Inv.of_reset rfl
    · exact h

theorem Inv.resetWaiting {s : State} (h : Inv s) : Inv s.resetWaiting := by
  refine Inv.foldl (fun s i hs => ?_) _ h
  repeat' split
  · exact hs.resetBegin i
  · exact hs
  · exact hs

theorem Inv.released {s : State} (h : Inv s) : Inv s.released := h.of_ss (State.released_ss s)

theorem Inv.afterLoss {s : State} (h : Inv s) (st : Nat) : Inv (s.afterLoss st) := by
  refine Inv.released ?_
  split
  · exact h.resetWaiting
  · exact h

theorem Inv.powerOnReset {s : State} (h : Inv s) (i : Nat) (x : Inst) (pos : BitVec 3) : Inv (s.powerOnReset i x pos) := by
  have hdrop (y : Inst) : Inv ((s.setInst i y).dropDeliveries i) := h.of_ss (State.dropDeliveries_ss ..)
  unfold State.powerOnReset
  dsimp only
  split
  · exact Inv.resetWaiting (Inv.of_reset (patches := 0) rfl)
  · exact (((hdrop _).linksReset i).setInst i _).afterLoss _

theorem Inv.powerOnDone {s : State} (h : Inv s) (i : Nat) (x : Inst) (failed : BitVec 256) (hubFail : Bool) :
    Inv (s.powerOnDone i x failed hubFail) := by
  unfold State.powerOnDone
  split
  · exact h
  · exact h.of_ss ((State.resumeWaits_ss ..).trans (State.hubTest_ss ..))

theorem Inv.commitEnds {s : State} (h : Inv s) : Inv s.commitEnds := by
  unfold State.commitEnds
  repeat' split
  · exact h
  · exact h.commitDone
  · exact h.commitDone.resetWaiting

theorem Inv.rstCtrl {s : State} (h : Inv s) (i : Nat) (x : Inst) (w : Word) : Inv (s.rstCtrl i x w) := by
  unfold State.rstCtrl
  repeat' split
  · exact h.instReset i x
  · exact h
  · exact h

/-- Test state clears the staging buffer of instance 0 and leaves the window's state and digest (R435). -/
theorem Inv.testState {s : State} (h : Inv s) (i : Nat) : Inv (s.testState i) := by
  have hdrop : Inv ((s.run i stopReset).dropDeliveries i) := h.of_ss (by simp)
  obtain ⟨-, hst, hdigest⟩ := id hdrop
  unfold State.testState
  dsimp only
  split
  · split
    · exact ⟨Nat.zero_le _, hst, hdigest⟩
    · exact hdrop
  · exact hdrop

theorem Inv.testEnter {s : State} (h : Inv s) (i : Nat) (op : TapOp) (x : Inst) : Inv (s.testEnter i op x) := by
  have hset (y : Inst) : Inv (s.setInst i y) := h
  cases op with
  | ir code => exact h
  | wir b w =>
    simp only [State.testEnter]
    repeat' split
    · exact h
    · exact h
    · exact (hset _).testState i
  | instrument k =>
    simp only [State.testEnter]
    split
    · exact h
    · exact h.testState i

/-! ### Accesses of the control port (R341 to R344) -/

theorem Inv.writePackage {s : State} (h : Inv s) (off : Nat) (w : Word) : Inv (s.writePackage off w) := by
  unfold State.writePackage
  repeat' split
  all_goals first
    | exact h
    | exact LoadWinOk.open_ h
    | exact LoadWinOk.close h
    | exact h.ssCommit
    | exact LoadWinOk.data h w

theorem Inv.writeReg {s : State} (h : Inv s) (i : Nat) (x : Inst) (off : Nat) (w : Word) : Inv (s.writeReg i x off w) := by
  unfold State.writeReg
  dsimp only
  repeat' split
  all_goals first
    | exact h
    | exact h.writePackage off w
    | exact h.rstCtrl i x w
    | exact h.of_ss (by simp)

theorem Inv.ctlGate {s : State} {i off : Nat} {we : Bool} {f : Inst → State} (h : Inv s) (hf : ∀ x, Inv (f x)) :
    Inv (s.ctlGate i off we f) := by
  unfold State.ctlGate
  dsimp only
  repeat' split
  all_goals first | exact h | exact hf _ | exact h.of_ss (by simp)

theorem Inv.perform {s : State} (h : Inv s) (i : Nat) (acc : CtlAcc) : Inv (s.perform i acc) := by
  refine h.ctlGate fun x => ?_
  split
  · exact (h.writeReg i x _ _).of_ss rfl
  · exact h.of_ss (State.readClear_ss ..)

theorem Inv.ctlTake {s : State} (h : Inv s) (acc : CtlAcc) : Inv (s.ctlTake acc) := by
  unfold State.ctlTake
  dsimp only
  repeat' split
  all_goals first | exact h | exact h.perform 0 acc | exact h.of_ss (by simp)

theorem Inv.access {s : State} {f : State → State} (h : Inv s) (hf : ∀ t, Inv t → Inv (f t)) : Inv (s.access f) := by
  have hserved : Inv (f { s with resp := [] }) := hf _ h
  unfold State.access
  dsimp only
  repeat' split
  all_goals first | exact h | exact hserved

/-- A write that is a command of its own row, whatever it makes of the state in which the access found the window. -/
theorem Inv.ctlRow {s t : State} {i off : Nat} {w : Word} {f : Inst → State} (h : Inv s) (hf : ∀ x, Inv (f x))
    (ht : s.ctlRow i off w f = .next t) : Inv t := by
  obtain rfl := Host.Outcome.next.inj ht
  refine h.access fun u hu => ?_
  repeat' split
  · exact hu.of_ss (by simp)
  · exact hu
  · exact hu.ctlGate fun x => (hf x).of_ss rfl

theorem Inv.forwardOne {s : State} (h : Inv s) (f : Fwd) (rest : List Fwd) (xl : XlAns) (led : Option Line) :
    Inv (s.forwardOne f rest xl led) := by
  have hrest : Inv { s with fwd := rest } := h
  unfold State.forwardOne
  dsimp only
  repeat' split
  all_goals first | exact h | exact hrest.perform _ _ | exact hrest.of_ss (by simp)

theorem Inv.forward {s : State} (h : Inv s) (xl : XlAns) (led : Option Line) : Inv (s.forward xl led) := by
  unfold State.forward
  split
  · exact h
  · next f rest _ =>
    have hone : Inv (({ s with resp := [] } : State).forwardOne f rest xl led) := Inv.forwardOne (s := { s with resp := [] }) h ..
    dsimp only
    repeat' split
    all_goals exact hone

/-! ### Flits (R374, R430) -/

theorem Inv.abandonAll {s : State} (h : Inv s) (f : Flit) : Inv (s.abandonAll f) := (h.endFlit f).afterLoss _

theorem Inv.passOn {s : State} (h : Inv s) (i : Nat) (east : Bool) (f : Flit) : Inv (s.passOn i east f) := by
  refine h.atDie fun x => ?_
  split
  · exact h
  · exact h.abandonAll f

theorem Inv.flitGood {s : State} (h : Inv s) (i : Nat) (east : Bool) (x : Inst) (f : Flit) : Inv (s.flitGood i east x f) := by
  have hset (y : Inst) : Inv (s.setInst i y) := h
  unfold State.flitGood
  dsimp only
  repeat' split
  · exact h
  · exact h
  · exact (hset _).of_ss (foldl_ss (fun _ _ => State.deliver_ss ..) _ _)
  · exact (hset _).passOn i east f

theorem Inv.flitBad {s : State} (h : Inv s) (i k : Nat) (east : Bool) (x : Inst) (f : Flit) : Inv (s.flitBad i k east x f) := by
  unfold State.flitBad
  dsimp only
  split
  · exact h
  · exact Inv.abandonAll (h.of_ss (by simp)) f

theorem Inv.flitReceive {s : State} (h : Inv s) (i : Nat) (east : Bool) (f : Flit) (bad : Nat) (x : Inst) :
    Inv (s.flitReceive i east f bad x) := by
  unfold State.flitReceive
  split
  · exact h
  · dsimp only
    repeat' split
    all_goals first
      | exact h
      | exact h.flitBad ..
      | exact h.flitGood ..
      | exact ((h.setInst i _).run i _).atDie fun z => ((h.setInst i _).run i _).flitGood ..

/-! ### Every command -/

theorem Inv.onInst {s t : State} {i : Nat} {f : Env → Inst → Run} (h : Inv s) (ht : onInst s i f = .next t) : Inv t := by
  obtain rfl := Host.Outcome.next.inj ht
  exact h.of_ss (State.run_ss ..)

theorem Inv.onCell {s t : State} {a : CellAt} {f : Env → Inst → Run} (h : Inv s) (ht : onCell s a f = .next t) : Inv t := by
  obtain rfl := Host.Outcome.next.inj ht
  exact h.of_ss (State.atCell_ss fun _ => State.runAt_ss ..)

theorem Inv.onPort {s t : State} {a : CellAt} {f : Inst → State} (h : Inv s) (hf : ∀ x, (f x).ss = s.ss)
    (ht : onPort s a f = .next t) : Inv t := by
  obtain rfl := Host.Outcome.next.inj ht
  exact h.of_ss (State.atCell_ss hf)

theorem Inv.chRow {s t : State} {op : Nat} {w : ChCmd} {xl : XlAns} {led : Option Line} (h : Inv s)
    (ht : s.chRow op w xl led = .next t) : Inv t := by
  unfold State.chRow at ht
  repeat' split at ht
  · obtain rfl := Host.Outcome.next.inj ht
    exact h.of_ss (State.chRun_ss ..)
  · exact h.ctlRow (fun _ => h.of_ss (State.setWin_ss ..)) ht
  · exact h.ctlRow (fun _ => h.of_ss (State.chRun_ss ..)) ht

theorem Inv.keyRow {s t : State} {i op : Nat} {w : Word} (h : Inv s) (ht : keyRow s i op w = .next t) : Inv t := by
  unfold Machine.keyRow at ht
  split at ht
  · exact h.ctlRow (fun _ => h.of_ss (State.keyCmd_ss ..)) ht
  · obtain rfl := Host.Outcome.next.inj ht
    exact h

/-- No command leaves the load window ill formed. -/
theorem Inv.exec {s t : State} {c : Instr} (h : Inv s) (ht : exec c s = .next t) : Inv t := by
  have hnext {u : State} (e : Host.Outcome.next (φ := Fault) (ρ := Refusal) u = .next t) (hu : Inv u) : Inv t := Host.Outcome.next.inj e ▸ hu
  cases c with
  | transferRequest c ws lines => exact hnext ht (h.of_ss (State.atCell_ss fun _ => transferRequest_ss ..))
  | collLocalPacket i j => exact hnext ht (h.of_ss (State.localPacket_ss ..))
  | mailboxRecord c ws => exact h.onPort (fun _ => State.mailboxRecord_ss ..) ht
  | mbHeldPostRelease c => exact h.onPort (fun _ => State.heldRelease_ss ..) ht
  | outboundWordAccept c =>
    have hheld : Inv (s.holdMasked c) := h.of_ss (State.holdMasked_ss ..)
    exact hheld.onPort (fun _ => State.outAccept_ss ..) ht
  | mbDelivery i m => exact hnext ht (h.of_ss (State.atDie_ss fun _ => State.delivery_ss ..))
  | mbAlloc i => exact h.ctlRow (fun _ => h.of_ss (State.mbCmd_ss ..)) ht
  | mbFree i => exact h.ctlRow (fun _ => h.of_ss (State.mbCmd_ss ..)) ht
  | mbSend i => exact h.ctlRow (fun _ => h.of_ss (State.mbCmd_ss ..)) ht
  | mbTake i => exact h.ctlRow (fun _ => h.of_ss (State.mbCmd_ss ..)) ht
  | ssOpen => exact h.ctlRow (f := fun _ => { s with ss := s.ss.open_ }) (fun _ => LoadWinOk.open_ h) ht
  | ssDataWrite w => exact h.ctlRow (f := fun _ => { s with ss := s.ss.data w }) (fun _ => LoadWinOk.data h w) ht
  | ssClose => exact h.ctlRow (f := fun _ => { s with ss := s.ss.close }) (fun _ => LoadWinOk.close h) ht
  | ssCloseDone =>
    refine hnext ht (h.atDie fun x => ?_)
    split
    · exact LoadWinOk.closeDone h
    · exact h
  | ssCommit => exact h.ctlRow (fun _ => h.ssCommit) ht
  | ssCommitDone => exact hnext ht h.commitEnds
  | registerWrite addr data => exact hnext ht (h.access fun _ hu => hu.ctlTake _)
  | rcRead addr => exact hnext ht (h.access fun _ hu => hu.ctlTake _)
  | ctlForward xl led => exact hnext ht (h.forward xl led)
  | ctlErrorResponse acc size =>
    refine hnext ht (h.access fun u hu => hu.atDie fun x => ?_)
    repeat' split
    all_goals first | exact hu | exact hu.ctlTake acc | exact hu.of_ss (State.ctlFail_ss ..)
  | fenceWrite i k w => exact h.ctlRow (fun _ => h.setInst ..) ht
  | flushUnbound c =>
    refine h.ctlRow (fun x => ?_) ht
    split <;> exact h
  | pwrWake i w =>
    simp only [Machine.exec, execPwrWake] at ht
    repeat' split at ht
    · exact hnext ht h
    · exact hnext ht (h.of_ss (State.atDie_ss fun _ => rfl))
    · exact h.ctlRow (fun _ => h.setInst ..) ht
  | pwrOffRequest i w => exact h.ctlRow (fun _ => h.of_ss (State.offRequest_ss ..)) ht
  | pwrTick i => exact hnext ht (h.of_ss (State.atDie_ss fun _ => State.tick_ss ..))
  | pwrExitDone i => exact hnext ht (h.of_ss ((State.serveHeld_ss ..).trans (State.run_ss ..)))
  | fltInject i w => exact h.ctlRow (fun _ => h.setInst ..) ht
  | instReset i byPin =>
    simp only [Machine.exec, execInstReset] at ht
    split at ht
    · exact hnext ht (h.atDie fun x => h.instReset i x).released
    · exact h.ctlRow (fun x => h.instReset i x) ht
  | instResetDone i failed hubFail => exact hnext ht (h.atDie fun x => h.instResetDone i x failed hubFail)
  | cellReset i n => exact h.ctlRow (fun _ => h.setInst ..) ht
  | powerOnReset i pos => exact hnext ht (h.atDie fun x => h.powerOnReset i x pos).released
  | powerOnResetDone i failed hubFail => exact hnext ht (h.atDie fun x => h.powerOnDone i x failed hubFail)
  | testStateEnter i op => exact hnext ht (h.atDie fun x => h.testEnter i op x)
  | flitReceive i east f bad => exact hnext ht (h.atDie fun x => h.flitReceive i east f bad x)
  | linkDown i east => exact hnext ht ((h.linkFalls i east).afterLoss _)
  | linkTrainDone i east peer => exact hnext ht (h.of_ss (State.trainDone_ss ..))
  | keyLoad i w => exact h.keyRow ht
  | keyClear i w => exact h.keyRow ht
  | chCreate w xl => exact h.chRow ht
  | chStart w => exact h.chRow ht
  | chPreempt w => exact h.chRow ht
  | chResume w => exact h.chRow ht
  | chDestroy w => exact h.chRow ht
  | chQuery w led => exact h.chRow ht
  | _ => first | exact h.onInst ht | exact h.onCell ht

/-- Settles O59: by what each command does to the load window; most leave it alone, and those of the window itself, the loss of a
stream message and the resets keep the digest exactly in CLOSED and COMMITTING. -/
theorem loadWindowKept : Obligations.LoadWindowKept := by
  intro s t h hstep
  cases hp : s.pending with
  | nil =>
    simp only [step, hp] at hstep
    exact Host.Outcome.next.inj hstep ▸ h
  | cons c rest =>
    simp only [step, hp] at hstep
    exact Inv.exec (s := { s with pending := rest }) h hstep

end Sys2Proof


/-! SUPPORT. The lane instructions of the tile unit: arithmetic, rounding, conversion and MSK without memory, position by position
(R187, R231 to R233, R236, R237, R243). -/

namespace Sys2Proof

open Sys2Proof.Machine

/-! ### Arithmetic of the lanes (R68, R69, R96, R233) -/

/-- Settles O2: each of the four instructions maps a lane function over its operands' lists. -/
theorem laneArithmetic : Obligations.LaneArithmetic := by
  intro s a x
  refine ⟨fun mk dst p q kmode sat h => ?scale, fun mk dst p q u h => ?clamp, fun mk dst p q u rnd sat hr h => ?fma,
    fun mk dst p func h => ?function⟩
  case scale => exact VitRun.of_map (u := q) h rfl rfl fun _ _ => rfl
  case clamp => exact VitRun.of_map h rfl rfl fun _ _ => rfl
  case fma =>
    have hbad : rndBad rnd = false := by
      simp only [List.mem_cons, List.not_mem_nil, or_false] at hr
      rcases hr with rfl | rfl | rfl | rfl | rfl <;> rfl
    refine VitRun.of_map h rfl ?_ fun _ _ => rfl
    simp only [laneOp, hbad, Bool.false_eq_true, if_false]
    rfl
  case function => exact VitRun.of_map (q := p) (u := p) h rfl rfl fun _ _ => rfl

/-! ### Rounding (R187, R232) -/

/-- Settles O3: with a numeric word that RND takes, it maps the rounding of its form over its operand's list. -/
theorem roundLanes : Obligations.RoundLanes := by
  intro s a x mk dst p num opf beta f hf hmode htw hzp hcb hrnd h
  have hplain : ¬((NumWord.of num).mode ≠ 0 ∨ f = .tw64 ∨ f.isZp = true ∨ f.isCodebook = true) := by simp [hmode, htw, hzp, hcb]
  cases opf with
  | true =>
    have hop : (opFmt (NumWord.of num).fmtCode).isNone = false := by
      rw [Option.isNone_eq_false_iff]
      exact hrnd
    refine VitRun.of_map (q := p) (u := p) (f := fun w _ _ => rndLane f 0 true beta w) h rfl ?_ fun _ _ => rfl
    simp only [laneOp, hf, hplain, hop, Bool.false_eq_true, if_false, if_true]
    rfl
  | false =>
    have hbad : rndBad (NumWord.of num).rnd = false := hrnd
    refine VitRun.of_map (q := p) (u := p)
      (f := fun w _ _ => rndLane f (NumWord.of num).rnd (NumWord.of num).sat beta w) h rfl ?_ fun _ _ => rfl
    simp only [laneOp, hf, hplain, hbad, Bool.false_eq_true, if_false]
    rfl

/-! ### CVT between vitrines (R231) -/

theorem Cell.vit_writeRegs_pair (c : Cell) (i : Nat) (u v : List Word) (hu : u.length = 1024) (hv : v.length = 1024) :
    (c.writeRegs [(i, u), (i + 1, v)] []).vit i = u ∧ (c.writeRegs [(i, u), (i + 1, v)] []).vit (i + 1) = v := by
  constructor
  · exact (Cell.vit_setVit_other _ _ _ _ (by omega)).trans (Cell.vit_setVit _ _ _ hu)
  · exact Cell.vit_setVit _ _ _ hv

/-- The widening form writes both vitrines of its pair, in the lanes of its mask and its loop's tail. -/
theorem cvtWiden_run {s : State} {a : Site} {x : Inst} {mk dst p rnd : Nat} {sat : Bool} (hr : rndBad rnd = false)
    (h : Ready s a x (.cvtVitrine mk dst p false rnd sat)) :
    let d := x.cell a.cell
    let k := x.slot a.cell a.slot
    let src := srcElem d k.launch
    let i := opVit dst
    LaneRun (.cvtVitrine mk dst p false rnd sat) s a x [i, i + 1] []
      (laneSum fun r c => if laneOpen d k mk r c then Led.nonfin (!f32IsFinite (src p r c)) else Led.zero)
      fun d1 => ∀ r c, r < 32 → c < 32 →
        elemAt (d1.vit i) r c = (if laneOpen d k mk r c then
          (if f32IsNan (src p r c) then f32Nan else src p r c) else elemAt (d.vit i) r c)
        ∧ elemAt (d1.vit (i + 1)) r c = if laneOpen d k mk r c then 0#32 else elemAt (d.vit (i + 1)) r c := by
  intro d k src i
  have hsrc := srcList_length d k.launch p
  have ho : laneOp x.stream.tabs (ownerOf k.launch) d k (.cvtVitrine mk dst p false rnd sat) = some (.ok
      (let u := d.srcList k.launch p
       let hi := mapLanes (d.mkMask mk &&& k.loopTail) (d.vit i) u u u fun w _ _ =>
         (if f32IsNan w then f32Nan else w, Led.nonfin (!f32IsFinite w))
       let lo := mapLanes (d.mkMask mk &&& k.loopTail) (d.vit (i + 1)) u u u fun _ _ _ => (0#32, Led.zero)
       { vits := [(i, hi.1), (i + 1, lo.1)], masks := [], led := hi.2 })) := by
    simp only [laneOp, hr, Bool.false_eq_true, if_false]
    rfl
  refine LaneRun.of_out h rfl ho (by simp) (by simp) ?led fun r c hr hc => ?elems
  case led =>
    dsimp only
    rw [mapLanes_led _ _ _ _ _ _ (Cell.vit_length ..) hsrc hsrc hsrc]
    refine laneSum_congr fun r c hr hc => ?_
    rw [mkTail_bit _ _ _ _ _ hr hc, srcList_elem _ _ _ _ _ hr hc]
  case elems =>
    have hlen (v : Nat) (f : Word → Word → Word → Word × Led) := mapLanes_length (d.mkMask mk &&& k.loopTail) (d.vit v) _ _ _ f
      (Cell.vit_length ..) hsrc hsrc hsrc
    obtain ⟨hhi, hlo⟩ := Cell.vit_writeRegs_pair d i _ _ (hlen i fun w _ _ =>
      (if f32IsNan w then f32Nan else w, Led.nonfin (!f32IsFinite w))) (hlen (i + 1) fun _ _ _ => (0#32, Led.zero))
    rw [Cell.vit_setSlot, Cell.vit_setSlot, hhi, hlo]
    rw [mapLanes_elem _ _ _ _ _ _ _ _ hr hc (Cell.vit_length ..) hsrc hsrc hsrc,
      mapLanes_elem _ _ _ _ _ _ _ _ hr hc (Cell.vit_length ..) hsrc hsrc hsrc, mkTail_bit _ _ _ _ _ hr hc,
      srcList_elem _ _ _ _ _ hr hc]
    exact ⟨rfl, rfl⟩

/-- Settles O4: the narrowing form maps one rounding over the pair's two lists, the widening form writes two vitrines. -/
theorem convertVitrine : Obligations.ConvertVitrine := by
  intro s a x mk dst p rnd sat d k src hr
  refine ⟨fun h => ?narrow, fun h => cvtWiden_run hr h⟩
  case narrow =>
    refine VitRun.of_map (q := p + 32) (u := p + 32) (f := fun h l _ => roundLane rnd sat (twVal h l)) h rfl ?_ fun _ _ => rfl
    simp only [laneOp, hr, Bool.false_eq_true, if_false, if_true]
    rfl

/-! ### MSK without memory (R243) -/

/-- A bitwise operation of MSK, bit by bit. -/
theorem mskBits_bit (op : Nat) (u v : Mask) (i : Nat) (hi : i < 1024) (hop : op ≤ 6) :
    (mskBits op u v).getLsbD i =
      if op = 0 then u.getLsbD i && v.getLsbD i
      else if op = 1 then u.getLsbD i || v.getLsbD i
      else if op = 2 then u.getLsbD i ^^ v.getLsbD i
      else if op = 3 then u.getLsbD i && !v.getLsbD i
      else if op = 4 then !u.getLsbD i
      else if op = 5 then true
      else false := by
  obtain rfl | rfl | rfl | rfl | rfl | rfl | rfl : op = 5 ∨ op = 0 ∨ op = 1 ∨ op = 2 ∨ op = 3 ∨ op = 4 ∨ op = 6 := by omega
  · exact fullMask_bit i hi
  all_goals simp [mskBits, hi]

/-- The causal mask joins the bits of the lanes whose column does not pass the row's limit. -/
theorem causalMask_bit (cq cj : Nat) (shift : Int) (i : Nat) (hi : i < 1024) :
    (causalMask cq cj shift).getLsbD i = decide ((32 * cj + i % 32 : Int) ≤ (32 * cq + i / 32 : Int) + shift) := by
  let P (p : Nat × Nat) : Bool := decide ((32 * cj + p.2 : Int) ≤ (32 * cq + p.1 : Int) + shift)
  have hmask : causalMask cq cj shift =
      lanes.foldl (fun (m : Mask) p => if P p then m ||| BitVec.ofNat 1024 (2 ^ (32 * p.1 + p.2)) else m) 0 := by
    simp only [causalMask, P, decide_eq_true_eq]
  rw [hmask, foldl_if_bit P (fun p => 32 * p.1 + p.2) _ _ _ hi, show (0 : Mask).getLsbD i = false from BitVec.getLsbD_zero,
    Bool.false_or, Bool.eq_iff_iff, List.any_eq_true]
  constructor
  · rintro ⟨⟨r, c⟩, hmem, hb⟩
    obtain ⟨hP, hi⟩ := Bool.and_eq_true_iff.mp hb
    have hc : r < 32 ∧ c < 32 := by simpa [lanes] using hmem
    have := of_decide_eq_true hi
    obtain rfl : r = i / 32 := by omega
    obtain rfl : c = i % 32 := by omega
    simpa [P] using hP
  · intro hb
    refine ⟨(i / 32, i % 32), by simp [lanes]; omega, ?_⟩
    simpa [P, Nat.div_add_mod] using hb

/-- Settles O11: the bitwise operations and CAUSAL write one mask, which the bits above describe. -/
theorem maskOperations : Obligations.MaskOperations := by
  intro s a x md ma mb op dk kk q j d k bit hop h
  rcases hop with hop | rfl
  · have ho : laneOp x.stream.tabs (ownerOf k.launch) d k (.msk md ma mb op dk kk q j) =
        some (.ok { vits := [], masks := [(md, mskBits op (d.mask ma) (d.mask mb))], led := Led.zero }) := if_pos hop
    have hm : memAsk ((pureRun x).memEnv a.cell a.slot) (.msk md ma mb op dk kk q j) = none := by
      simp only [memAsk]
      split_ifs <;> first | rfl | omega
    refine LaneRun.of_out h hm ho (by simp) (by simp) rfl fun i hi => ?_
    rw [Cell.mask_setSlot, Cell.mask_writeRegs_one]
    refine (mskBits_bit op _ _ i hi hop).trans ?_
    split_ifs <;> first | rfl | omega
  · refine LaneRun.of_out h rfl rfl (by simp) (by simp) rfl fun i hi => ?_
    rw [Cell.mask_setSlot, Cell.mask_writeRegs_one]
    exact causalMask_bit _ _ _ i hi

end Sys2Proof


/-! SUPPORT. The tile unit's reductions and the instructions of a chain's step vector (R180 to R187, R197, R201, R237, R238). -/

namespace Sys2Proof

open Sys2Proof.Machine

/-! ### The step vector (R186) -/

theorem stepWrite_length (old : List Word) (cols : List (Nat × (Nat → Word))) : (stepWrite old cols).length = 1024 := by
  rw [stepWrite, List.length_map, lanes_length]

/-- A column of a rewritten step vector: the new one, +0 from column 7 on, or the old one. -/
theorem stepWrite_elem (old : List Word) (cols : List (Nat × (Nat → Word))) (r c : Nat) (hr : r < 32) (hc : c < 32) :
    elemAt (stepWrite old cols) r c =
      ((cols.find? fun q => q.1 == c).map fun q => q.2 r).getD (if 7 ≤ c then 0#32 else elemAt old r c) := by
  rw [stepWrite, lanes_map_elem _ _ _ hr hc]
  cases cols.find? fun q => q.1 == c <;> rfl

/-- An instruction that rewrites columns of its step vector alone. -/
theorem StepRun.of_write {s : State} {a : Site} {x : Inst} {o : TileOp} {sv : Nat} {led : Led} {cols : Nat → Nat → Option Word}
    {new : List (Nat × (Nat → Word))} (h : Ready s a x o) (hm : memAsk ((pureRun x).memEnv a.cell a.slot) o = none)
    (ho : laneOp x.stream.tabs (ownerOf (x.slot a.cell a.slot).launch) (x.cell a.cell) (x.slot a.cell a.slot) o =
      some (.ok (LaneOut.vit sv (stepWrite ((x.cell a.cell).vit sv) new) led)))
    (hnew : ∀ r c, r < 32 → c < 32 → ((new.find? fun q => q.1 == c).map fun q => q.2 r) = cols r c) :
    StepRun o s a x sv led cols := by
  refine LaneRun.of_out h hm ho (by simp [LaneOut.vit]) (by simp [LaneOut.vit]) rfl fun r c hr hc => ?_
  simp only [LaneOut.vit, Cell.vit_setSlot]
  rw [Cell.vit_writeRegs_one _ _ _ (stepWrite_length ..), stepWrite_elem _ _ _ _ hr hc, hnew r c hr hc]
  cases cols r c <;> rfl

/-- The column of a list of new ones is that of the first that names it. -/
theorem find_column_cons (j : Nat) (f : Nat → Word) (new : List (Nat × (Nat → Word))) (r c : Nat) :
    (((j, f) :: new).find? fun q => q.1 == c).map (fun q => q.2 r) =
      if c = j then some (f r) else (new.find? fun q => q.1 == c).map fun q => q.2 r := by
  by_cases h : c = j
  · simp [h]
  · rw [List.find?_cons_of_neg (by simpa using Ne.symm h), if_neg h]

/-- The valid elements of a row of an operand. -/
theorem validOf_row (d : Cell) (k : Slot) (mk p r : Nat) (hr : r < 32) :
    (validOf (d.mkMask mk &&& k.loopTail) (d.srcList k.launch p) false r).map Prod.snd =
      (List.range 32).filterMap fun c => if laneOpen d k mk r c then some (srcElem d k.launch p r c) else none := by
  rw [validOf, List.map_filterMap]
  refine List.filterMap_congr fun c hc => ?_
  have hc := List.mem_range.mp hc
  simp only [laneOn, Bool.false_eq_true, if_false, mkTail_bit _ _ _ _ _ hr hc, srcList_elem _ _ _ _ _ hr hc]
  split <;> rfl

/-- The columns that the offset form writes, from the issued offsets that it takes. -/
def offsetCols (en tail : Mask) (u : List Word) (issued : Nat → Word) : List (Nat × (Nat → Word)) :=
  [(0, issued), (1, fun r => fMax (issued r) (ceil32 (redMax ((validOf en u false r).map Prod.snd)))),
    (4, fun _ => BitVec.ofNat 32 (tailCols tail)), (6, fun _ => 0x3F800000#32)]

theorem redOffset_run {s : State} {a : Site} {x : Inst} {mk p sv group : Nat} {nogroup : Bool} {issued : Nat → Word}
    (h : Ready s a x (.redOffset mk p group nogroup sv))
    (ho : laneOp x.stream.tabs (ownerOf (x.slot a.cell a.slot).launch) (x.cell a.cell) (x.slot a.cell a.slot)
        (.redOffset mk p group nogroup sv) =
      let en := (x.cell a.cell).mkMask mk &&& (x.slot a.cell a.slot).loopTail
      let tail := (x.slot a.cell a.slot).loopTail
      let u := (x.cell a.cell).srcList (x.slot a.cell a.slot).launch p
      let old := (x.cell a.cell).vit sv
      some (.ok (LaneOut.vit sv (stepWrite old (offsetCols en tail u issued)) (redOffsetOut en tail u old issued).2))) :
    let d := x.cell a.cell
    let k := x.slot a.cell a.slot
    ∃ led, StepRun (.redOffset mk p group nogroup sv) s a x sv led fun r c =>
      if c = 0 then some (issued r)
      else if c = 1 then some (fMax (issued r) (ceil32 (redMax ((List.range 32).filterMap fun c =>
        if laneOpen d k mk r c then some (srcElem d k.launch p r c) else none))))
      else if c = 4 then some (BitVec.ofNat 32 ((List.range 32).filter fun j =>
        (List.range 32).any fun i => k.loopTail.getLsbD (32 * i + j)).length)
      else if c = 6 then some 0x3F800000#32
      else none := by
  refine ⟨_, StepRun.of_write h rfl ho fun r c hr hc => ?_⟩
  simp only [offsetCols, find_column_cons, List.find?_nil, Option.map_none, validOf_row _ _ _ _ _ hr]
  rfl

/-- The columns that the merge form writes: the segment's record u under the cask's issued offsets. -/
def mergeCols (u : List Word) (issued : Nat → Word) : List (Nat × (Nat → Word)) :=
  [(0, issued), (1, fun r => fMax (issued r) (elemAt u r 0)), (2, fun r => elemAt u r 2), (3, fun r => elemAt u r 3),
    (4, fun r => elemAt u r 1 &&& 0x7FFFFF#32)]

/-- Settles O10: each step form rewrites the columns of the step vector that it names. -/
theorem reduceSteps : Obligations.ReduceSteps := by
  intro s a x
  refine ⟨fun mk p group sv h => ?fresh, fun mk p group sv e q hq hchain h => ?ofCask, fun mk p sv h => ?sum,
    fun mk p group sv e q hq hchain h => ?merge⟩
  case fresh => exact redOffset_run h rfl
  case ofCask =>
    refine redOffset_run h ?_
    simp only [laneOp, hq, hchain, Bool.false_eq_true, if_false, if_true]
    rfl
  case sum =>
    refine StepRun.of_write h rfl rfl fun r c hr hc => ?_
    simp only [find_column_cons, List.find?_nil, Option.map_none]
    rw [← validOf_row _ _ _ _ _ hr]
    rfl
  case merge =>
    let d := x.cell a.cell
    let u := d.srcList (x.slot a.cell a.slot).launch p
    have ho : laneOp x.stream.tabs (ownerOf (x.slot a.cell a.slot).launch) d (x.slot a.cell a.slot) (.redMerge mk p group sv) =
        some (.ok (LaneOut.vit sv (stepWrite (d.vit sv) (mergeCols u q.issuedOf)) (redMergeOut u (d.vit sv) q.issuedOf).2)) := by
      simp only [laneOp, d, hq, hchain, if_true]
      rfl
    refine ⟨_, StepRun.of_write h rfl ho fun r c hr hc => ?_⟩
    have hsrc (j : Nat) (hj : j < 32) : elemAt u r j = _ := srcList_elem d (x.slot a.cell a.slot).launch p r j hr hj
    simp only [mergeCols, find_column_cons, List.find?_nil, Option.map_none, hsrc, Nat.reduceLT]
    rfl

/-! ### FN in softmax and merge form (R181, R182, R201) -/

/-- A list that pairs every lane with its element. -/
theorem lanes_zip_elem (u : List Word) (f : (Nat × Nat) × Word → Word) (r c : Nat) (hr : r < 32) (hc : c < 32)
    (hu : u.length = 1024) : elemAt ((lanes.zip u).map f) r c = f ((r, c), elemAt u r c) := by
  have hi : 32 * r + c < 1024 := by omega
  have hl := lanes_get r c hr hc
  rw [elemAt_eq (by simp [lanes_length, hu, hi]), elemAt_eq (by omega)]
  rw [List.getElem?_eq_getElem (by rw [lanes_length]; exact hi)] at hl
  simp [Option.some.inj hl]

theorem lanes_zip_length (u : List Word) (f : (Nat × Nat) × Word → Word) (hu : u.length = 1024) :
    ((lanes.zip u).map f).length = 1024 := by simp [lanes_length, hu]

/-- The weights that FN in softmax form writes at the positions of its destination shape. -/
theorem softmax_elem (d : Cell) (k : Slot) (mk dst p : Nat) (f : Nat → Word → Word) (r c : Nat) (hr : r < 32) (hc : c < 32) :
    elemAt (pickLanes (shapeMask dst) (d.vit (opVit dst)) ((lanes.zip (d.srcList k.launch p)).map fun q =>
      if laneOn (d.mkMask mk &&& k.loopTail) q.1.1 q.1.2 then f q.1.1 q.2 else 0#32)) r c =
      if inShape dst r c then (if laneOpen d k mk r c then f r (srcElem d k.launch p r c) else 0#32)
      else elemAt (d.vit (opVit dst)) r c := by
  have hsrc := srcList_length d k.launch p
  rw [pickLanes_elem _ _ _ _ _ hr hc (Cell.vit_length ..) (lanes_zip_length _ _ hsrc), lanes_zip_elem _ _ _ _ hr hc hsrc,
    shapeMask_bit _ _ _ hr hc, laneOn, mkTail_bit _ _ _ _ _ hr hc, srcList_elem _ _ _ _ _ hr hc]

theorem softmax_length (d : Cell) (k : Slot) (dst p : Nat) (f : (Nat × Nat) × Word → Word) :
    (pickLanes (shapeMask dst) (d.vit (opVit dst)) ((lanes.zip (d.srcList k.launch p)).map f)).length = 1024 :=
  pickLanes_length _ _ _ (Cell.vit_length ..) (lanes_zip_length _ _ (srcList_length ..))

theorem Cell.vit_writeRegs_last (c : Cell) (i j : Nat) (u v : List Word) (hv : v.length = 1024) :
    (c.writeRegs [(i, u), (j, v)] []).vit j = v := Cell.vit_setVit _ _ _ hv

theorem Cell.vit_writeRegs_first (c : Cell) (i j : Nat) (u v : List Word) (h : i ≠ j) (hu : u.length = 1024) :
    (c.writeRegs [(i, u), (j, v)] []).vit i = u :=
  (Cell.vit_setVit_other _ _ _ _ h).trans (Cell.vit_setVit _ _ _ hu)

/-- Settles O8: the weights of each form go to the destination shape, α and μ into columns of the step vector. -/
theorem softmaxLanes : Obligations.SoftmaxLanes := by
  intro s a x d k src
  refine ⟨fun mk dst p sv h => ?weights, fun mk dst p sv h => ?recorded, fun mk p sv h => ?merge⟩
  case weights =>
    let w := softmaxOut (d.mkMask mk &&& k.loopTail) (d.srcList k.launch p) (d.vit sv)
    have ho : laneOp x.stream.tabs (ownerOf k.launch) d k (.fnSoftmax mk dst p sv false) = some (.ok
        { vits := [(opVit dst, pickLanes (shapeMask dst) (d.vit (opVit dst)) w.1), (sv, w.2.1)], masks := [], led := w.2.2 }) := rfl
    refine ⟨w.2.2, LaneRun.of_out h rfl ho (by simp) (by simp) rfl fun r c hr hc => ?_⟩
    rw [Cell.vit_setSlot, Cell.vit_setSlot]
    constructor
    · intro hne
      have hlen : (pickLanes (shapeMask dst) (d.vit (opVit dst)) w.1).length = 1024 := softmax_length ..
      dsimp only
      rw [Cell.vit_writeRegs_first _ _ _ _ _ hne hlen]
      exact softmax_elem d k mk dst p (fun r u => weight u (elemAt (d.vit sv) r 1)) r c hr hc
    · have hstep : w.2.1 = stepWrite (d.vit sv) [(5, fun r => corr (elemAt (d.vit sv) r 0) (elemAt (d.vit sv) r 1))] := rfl
      dsimp only
      rw [hstep, Cell.vit_writeRegs_last _ _ _ _ _ (stepWrite_length ..), stepWrite_elem _ _ _ _ hr hc, find_column_cons]
      split <;> rfl
  case recorded =>
    let w := softmaxLse (d.mkMask mk &&& k.loopTail) (d.srcList k.launch p) (d.vit sv)
    have ho : laneOp x.stream.tabs (ownerOf k.launch) d k (.fnSoftmax mk dst p sv true) = some (.ok
        (LaneOut.vit (opVit dst) (pickLanes (shapeMask dst) (d.vit (opVit dst)) w.1) w.2)) := rfl
    refine ⟨w.2, LaneRun.of_out h rfl ho (by simp [LaneOut.vit]) (by simp [LaneOut.vit]) rfl fun r c hr hc => ?_⟩
    rw [Cell.vit_setSlot]
    refine (congrArg (elemAt · r c) (Cell.vit_writeRegs_one _ _ _ (softmax_length ..))).trans ?_
    exact softmax_elem d k mk dst p (fun r u => weightLse u (elemAt (d.vit sv) r 4)) r c hr hc
  case merge =>
    let u := d.srcList k.launch p
    have ho : laneOp x.stream.tabs (ownerOf k.launch) d k (.fnMerge mk p sv) = some (.ok (LaneOut.vit sv
        (stepWrite (d.vit sv) [(5, fun r => corr (elemAt (d.vit sv) r 0) (elemAt (d.vit sv) r 1)),
          (6, fun r => corr (elemAt u r 0) (elemAt (d.vit sv) r 1))]) (fnMergeOut u (d.vit sv)).2)) := rfl
    refine ⟨_, StepRun.of_write h rfl ho fun r c hr hc => ?_⟩
    have hsrc : elemAt u r 0 = src p r 0 := srcList_elem d k.launch p r 0 hr (by omega)
    simp only [find_column_cons, List.find?_nil, Option.map_none, hsrc]

end Sys2Proof

namespace Sys2Proof

open Sys2Proof.Machine

/-! ### RED in plain form (R238, R247, R248) -/

theorem elemAt_putElem (v : List Word) (r c r1 c1 : Nat) (w : Word) (hv : v.length = 1024) (hr : r < 32) (hc : c < 32)
    (hr1 : r1 < 32) (hc1 : c1 < 32) : elemAt (putElem v r c w) r1 c1 = if r1 = r ∧ c1 = c then w else elemAt v r1 c1 := by
  rw [elemAt, elemAt, putElem, List.getD_eq_getElem?_getD, List.getD_eq_getElem?_getD, List.getElem?_set]
  by_cases h : r1 = r ∧ c1 = c
  · obtain ⟨rfl, rfl⟩ := h
    simp [show 32 * r1 + c1 < v.length by omega]
  · rw [if_neg (by omega), if_neg h]

/-- Position j of group g along the axis that a plain reduction reduces. -/
def axisElem (cols : Bool) (v : List Word) (g j : Nat) : Word := if cols then elemAt v j g else elemAt v g j

def axisPut (cols : Bool) (v : List Word) (g j : Nat) (w : Word) : List Word := if cols then putElem v j g w else putElem v g j w

@[simp] theorem axisPut_length (cols : Bool) (v : List Word) (g j : Nat) (w : Word) : (axisPut cols v g j w).length = v.length := by
  cases cols <;> simp [axisPut, putElem]

theorem axisElem_axisPut (cols : Bool) (v : List Word) (g j g1 j1 : Nat) (w : Word) (hv : v.length = 1024) (hg : g < 32) (hj : j < 32)
    (hg1 : g1 < 32) (hj1 : j1 < 32) :
    axisElem cols (axisPut cols v g j w) g1 j1 = if g1 = g ∧ j1 = j then w else axisElem cols v g1 j1 := by
  cases cols
  · exact elemAt_putElem _ _ _ _ _ _ hv hg hj hg1 hj1
  · simp only [axisElem, axisPut, if_true, elemAt_putElem _ _ _ _ _ _ hv hj hg hj1 hg1, and_comm]

/-- The words of one group, written from position k on. -/
def axisPuts (cols : Bool) (v : List Word) (g k : Nat) (ws : List Word) (n : Nat) : List Word :=
  (ws.zipIdx n).foldl (fun v p => axisPut cols v g (k + p.2) p.1) v

theorem axisPuts_length (cols : Bool) (g k : Nat) (ws : List Word) :
    ∀ (v : List Word) (n : Nat), (axisPuts cols v g k ws n).length = v.length := by
  induction ws with
  | nil => exact fun _ _ => rfl
  | cons w ws ih => exact fun v n => (ih _ _).trans (axisPut_length ..)

theorem axisElem_axisPuts (cols : Bool) (g k g1 j1 : Nat) (hg : g < 32) (hg1 : g1 < 32) (hj1 : j1 < 32) (ws : List Word) :
    ∀ (v : List Word) (n : Nat), v.length = 1024 → k + n + ws.length ≤ 32 →
      axisElem cols (axisPuts cols v g k ws n) g1 j1 =
        if g1 = g ∧ k + n ≤ j1 ∧ j1 < k + n + ws.length then ws.getD (j1 - (k + n)) 0#32 else axisElem cols v g1 j1 := by
  induction ws with
  | nil =>
    intro v n _ _
    rw [if_neg (by simp)]
    rfl
  | cons w ws ih =>
    intro v n hv hk
    rw [List.length_cons] at hk ⊢
    have hstep : axisPuts cols v g k (w :: ws) n = axisPuts cols (axisPut cols v g (k + n) w) g k ws (n + 1) := rfl
    rw [hstep, ih _ _ (by simpa using hv) (by omega), axisElem_axisPut _ _ _ _ _ _ _ hv hg (by omega) hg1 hj1]
    by_cases hhere : g1 = g ∧ k + n ≤ j1 ∧ j1 < k + n + (ws.length + 1)
    · rw [if_pos hhere]
      by_cases hfirst : j1 = k + n
      · rw [if_neg (by omega), if_pos ⟨hhere.1, hfirst⟩, hfirst, Nat.sub_self]
        rfl
      · rw [if_pos (by omega), show j1 - (k + n) = j1 - (k + (n + 1)) + 1 by omega]
        rfl
    · rw [if_neg hhere, if_neg (by omega), if_neg (by omega)]

/-- The groups write apart from each other: each position is that of its own group's words, or as it was. -/
theorem axisElem_groups (cols : Bool) (k g1 j1 : Nat) (f : Nat → List Word) (hg1 : g1 < 32) (hj1 : j1 < 32)
    (hf : ∀ g, k + (f g).length ≤ 32) (gs : List Nat) (hn : gs.Nodup) (hgs : ∀ g ∈ gs, g < 32) :
    ∀ v : List Word, v.length = 1024 →
      (gs.foldl (fun v g => axisPuts cols v g k (f g) 0) v).length = 1024
      ∧ axisElem cols (gs.foldl (fun v g => axisPuts cols v g k (f g) 0) v) g1 j1 =
        if g1 ∈ gs ∧ k ≤ j1 ∧ j1 < k + (f g1).length then (f g1).getD (j1 - k) 0#32 else axisElem cols v g1 j1 := by
  induction gs with
  | nil => simp
  | cons g gs ih =>
    intro v hv
    obtain ⟨hnot, hn⟩ := List.nodup_cons.mp hn
    obtain ⟨hlen, helem⟩ := ih hn (fun u hu => hgs u (List.mem_cons_of_mem _ hu)) (axisPuts cols v g k (f g) 0)
      ((axisPuts_length ..).trans hv)
    refine ⟨hlen, helem.trans ?_⟩
    rw [axisElem_axisPuts cols g k g1 j1 (hgs g List.mem_cons_self) hg1 hj1 _ v 0 hv (hf g)]
    by_cases hgg : g1 = g
    · subst hgg
      simp [hnot]
    · simp [hgg]

/-- A plain reduction writes the words of its groups and adds up their ledger updates. -/
theorem redPlainOut_eq (op : Nat) (cols : Bool) (en : Mask) (a old : List Word) (k : Nat) :
    redPlainOut op cols en a old k =
      ((List.range 32).foldl (fun v g => axisPuts cols v g k (redGroup op (validOf en a cols g)).1 0) old,
        Led.sum ((List.range 32).map fun g => (redGroup op (validOf en a cols g)).2)) := by
  have hsplit (gs : List Nat) (v : List Word) (led : Led) : gs.foldl (fun acc g =>
      let q := redGroup op (validOf en a cols g)
      (q.1.zipIdx.foldl (fun v p => if cols then putElem v (k + p.2) g p.1 else putElem v g (k + p.2) p.1) acc.1,
        Led.add acc.2 q.2)) (v, led) =
      (gs.foldl (fun v g => axisPuts cols v g k (redGroup op (validOf en a cols g)).1 0) v,
        (gs.map fun g => (redGroup op (validOf en a cols g)).2).foldl Led.add led) := by
    induction gs generalizing v led with
    | nil => rfl
    | cons g gs ih => exact ih _ _
  exact hsplit _ _ _

theorem redGroup_length (op : Nat) (xs : List (Nat × Word)) (hop : op < 7) :
    (redGroup op xs).1.length = if op = 2 ∨ op = 3 then 2 else 1 := by
  obtain rfl | rfl | rfl | rfl | rfl | rfl | rfl : op = 0 ∨ op = 1 ∨ op = 2 ∨ op = 3 ∨ op = 4 ∨ op = 5 ∨ op = 6 := by omega
  all_goals rfl

/-- Settles O9: the valid elements of each row or column give its words, which stand apart from those of the others. -/
theorem reducePlain : Obligations.ReducePlain := by
  intro s a x mk p dst op cols d k on hk hop h
  have hon (g : Nat) (hg : g < 32) : validOf (d.mkMask mk &&& k.loopTail) (d.srcList k.launch p) cols g = on g := by
    refine List.filterMap_congr fun j hj => ?_
    have hj := List.mem_range.mp hj
    cases cols
    · simp [laneOn, mkTail_bit _ _ _ _ _ hg hj, srcList_elem _ _ _ _ _ hg hj, d, k]
    · simp [laneOn, mkTail_bit _ _ _ _ _ hj hg, srcList_elem _ _ _ _ _ hj hg, d, k]
  let u := redPlainOut op cols (d.mkMask mk &&& k.loopTail) (d.srcList k.launch p) (d.vit (opVit dst)) (opK dst)
  have ho : laneOp x.stream.tabs (ownerOf k.launch) d k (.redPlain mk p dst op cols) = some (.ok (LaneOut.vit (opVit dst) u.1 u.2)) :=
    rfl
  have hled : u.2 = Led.sum ((List.range 32).map fun g => (redGroup op (on g)).2) := by
    simp only [u, redPlainOut_eq]
    refine congrArg Led.sum (List.map_congr_left fun g hg => ?_)
    rw [hon g (List.mem_range.mp hg)]
  refine LaneRun.of_out h rfl ho (by simp [LaneOut.vit]) (by simp [LaneOut.vit]) hled fun g j hg hj => ?_
  obtain ⟨hlen, helem⟩ := axisElem_groups cols (opK dst) g j
    (fun g => (redGroup op (validOf (d.mkMask mk &&& k.loopTail) (d.srcList k.launch p) cols g)).1) hg hj
    (fun g => by rw [redGroup_length _ _ hop]; split_ifs at hk ⊢ <;> omega) (List.range 32) List.nodup_range
    (fun _ hm => List.mem_range.mp hm) (d.vit (opVit dst)) (Cell.vit_length ..)
  rw [hon g hg] at helem
  have hu : u.1 = _ := congrArg Prod.fst (redPlainOut_eq ..)
  simp only [LaneOut.vit, Cell.vit_setSlot]
  rw [Cell.vit_writeRegs_one _ _ _ (by rw [hu]; exact hlen), hu]
  refine helem.trans ?_
  simp only [List.mem_range, hg, true_and]
  rfl

end Sys2Proof


/-! SUPPORT. PACK and UNPK: a vitrine as one byte string (R235). -/

namespace Sys2Proof

open Sys2Proof.Machine

/-- A number added up along a list is the sum over its positions. -/
theorem foldl_zipIdx_sum {α : Type} (l : List α) (f : α × Nat → Nat) (g : Nat → Nat)
    (hg : ∀ i (h : i < l.length), f (l[i], i) = g i) :
    l.zipIdx.foldl (fun acc p => acc + f p) 0 = ((List.range l.length).map g).sum := by
  have hmap : l.zipIdx.map f = (List.range l.length).map g := by
    refine List.ext_getElem (by simp) fun i h1 h2 => ?_
    have hi : i < l.length := by simpa using h2
    simpa using hg i hi
  rw [← hmap, List.sum_eq_foldl, List.foldl_map]

theorem ofString_length (n : Nat) : (ofString n).length = 1024 := by simp [ofString]

/-- A word of a byte string. -/
theorem ofString_elem (n r c : Nat) (hr : r < 32) (hc : c < 32) :
    elemAt (ofString n) r c = BitVec.ofNat 32 (n / 2 ^ (32 * (32 * r + c))) := by
  rw [elemAt_eq (by rw [ofString_length]; omega)]
  simp [ofString, Nat.shiftRight_eq_div_pow]

/-- An element of an operand's list by its lane number. -/
theorem srcList_getElem (d : Cell) (launch : List Word) (o l : Nat) (hl : l < 1024) :
    (d.srcList launch o)[l]'(by rw [srcList_length]; exact hl) = srcElem d launch o (l / 32) (l % 32) := by
  rw [← srcList_elem _ _ _ _ _ (by omega) (by omega), elemAt_eq (by rw [srcList_length]; omega)]
  simp only [Nat.div_add_mod]

theorem mkTail_lane (d : Cell) (k : Slot) (mk l : Nat) (hl : l < 1024) :
    (d.mkMask mk &&& k.loopTail).getLsbD l = laneOpen d k mk (l / 32) (l % 32) := by
  rw [← mkTail_bit _ _ _ _ _ (by omega) (by omega), Nat.div_add_mod]

/-- The codes of a list's enabled lanes as one string, and their ledger updates. -/
theorem packOut_spec (tabs : List (BitVec 16)) (f : Fmt) (n : NumWord) (d : Cell) (k : Slot) (mk p : Nat) :
    let src := srcElem d k.launch p
    let enc (r c : Nat) := encodeElem tabs f 0 0 n.rnd n.sat 0 (f32 (src r c))
    let u := packOut tabs f n (d.mkMask mk &&& k.loopTail) (d.srcList k.launch p)
    u.1 = ofString ((List.range 1024).map fun l =>
      if laneOpen d k mk (l / 32) (l % 32) then (enc (l / 32) (l % 32)).code * 2 ^ (f.bits * l) else 0).sum
    ∧ u.2 = laneSum fun r c => if laneOpen d k mk r c then encLed tabs f n 0 0 (f32 (src r c)) (enc r c) else Led.zero := by
  intro src enc u
  have hlen := srcList_length d k.launch p
  have hsrc := srcList_getElem d k.launch p
  have hbit := mkTail_lane d k mk
  constructor
  · simp only [u, packOut]
    rw [foldl_zipIdx_sum _ (fun q : (Nat × Led) × Nat => q.1.1 <<< (f.bits * q.2)) (fun l =>
      if laneOpen d k mk (l / 32) (l % 32) then (enc (l / 32) (l % 32)).code * 2 ^ (f.bits * l) else 0) fun l hl => ?_]
    · rw [List.length_map, List.length_zipIdx, hlen]
    · have hl : l < 1024 := by simpa [hlen] using hl
      simp only [List.getElem_map, List.getElem_zipIdx, Nat.zero_add, hbit l hl, hsrc l hl]
      split
      · rw [Nat.shiftLeft_eq]
      · rw [Nat.zero_shiftLeft]
  · refine congrArg Led.sum (List.ext_getElem (by simp [hlen]) fun l h1 h2 => ?_)
    have hl : l < 1024 := by simpa using h2
    simp only [List.getElem_map, List.getElem_zipIdx, Nat.zero_add, List.getElem_range, hbit l hl, hsrc l hl]
    split <;> rfl

/-- A vitrine read as one byte string. -/
theorem vitString_eq (d : Cell) (launch : List Word) (p : Nat) :
    vitString (d.srcList launch p) =
      ((List.range 1024).map fun l => (srcElem d launch p (l / 32) (l % 32)).toNat * 2 ^ (32 * l)).sum := by
  have hlen := srcList_length d launch p
  rw [vitString, foldl_zipIdx_sum _ (fun q : Word × Nat => q.1.toNat <<< (32 * q.2))
    (fun l => (srcElem d launch p (l / 32) (l % 32)).toNat * 2 ^ (32 * l)) fun l hl => ?_, hlen]
  rw [srcList_getElem _ _ _ _ (hlen ▸ hl), Nat.shiftLeft_eq]

/-- The list that UNPK writes: the decoded code in the enabled lanes. -/
theorem unpkList_elem (en : Mask) (old : List Word) (f : Nat → Word × Led) (r c : Nat) (hr : r < 32) (hc : c < 32)
    (ho : old.length = 1024) :
    elemAt ((old.zipIdx.map fun q => if en.getLsbD q.2 then f q.2 else (q.1, Led.zero)).map Prod.fst) r c =
      if en.getLsbD (32 * r + c) then (f (32 * r + c)).1 else elemAt old r c := by
  rw [elemAt_eq (by simp; omega), elemAt_eq (by omega)]
  simp only [List.getElem_map, List.getElem_zipIdx, Nat.zero_add]
  split <;> rfl

theorem unpkList_led (en : Mask) (old : List Word) (f : Nat → Word × Led) (ho : old.length = 1024) :
    Led.sum ((old.zipIdx.map fun q => if en.getLsbD q.2 then f q.2 else (q.1, Led.zero)).map Prod.snd) =
      laneSum fun r c => if en.getLsbD (32 * r + c) then (f (32 * r + c)).2 else Led.zero := by
  refine congrArg Led.sum (List.ext_getElem (by simp [ho]) fun l h1 h2 => ?_)
  simp only [List.getElem_map, List.getElem_zipIdx, Nat.zero_add, List.getElem_range, Nat.div_add_mod]
  split <;> rfl

/-- Settles O7: PACK writes the string of its lanes' codes, UNPK decodes the codes of its operand's string. -/
theorem packUnpack : Obligations.PackUnpack := by
  intro s a x mk dst p num f d k n src hf
  refine ⟨fun hr h => ?pack, fun h => ?unpack⟩
  case pack =>
    let u := packOut x.stream.tabs f n (d.mkMask mk &&& k.loopTail) (d.srcList k.launch p)
    have ho : laneOp x.stream.tabs (ownerOf k.launch) d k (.pack mk dst p num) = some (.ok
        (LaneOut.vit (opVit dst) (pickLanes (shapeMask dst) (d.vit (opVit dst)) u.1) u.2)) := by
      have hr : rndBad (NumWord.of num).rnd = false := hr
      simp only [laneOp, hf, hr, Bool.false_eq_true, if_false]
      rfl
    obtain ⟨hstring, hled⟩ := packOut_spec x.stream.tabs f n d k mk p
    have hlen : u.1.length = 1024 := by rw [hstring]; exact ofString_length _
    refine LaneRun.of_out h rfl ho (by simp [LaneOut.vit]) (by simp [LaneOut.vit]) hled fun r c hr hc => ?_
    simp only [LaneOut.vit, Cell.vit_setSlot]
    rw [Cell.vit_writeRegs_one _ _ _ (pickLanes_length _ _ _ (Cell.vit_length ..) hlen),
      pickLanes_elem _ _ _ _ _ hr hc (Cell.vit_length ..) hlen, shapeMask_bit _ _ _ hr hc, hstring, ofString_elem _ _ _ hr hc]
  case unpack =>
    have hold := Cell.vit_length d (opVit dst)
    let en := d.mkMask mk &&& k.loopTail &&& shapeMask dst
    let decoded := unpkLane x.stream.tabs f (vitString (d.srcList k.launch p))
    let u := (d.vit (opVit dst)).zipIdx.map fun q => if en.getLsbD q.2 then decoded q.2 else (q.1, Led.zero)
    have ho : laneOp x.stream.tabs (ownerOf k.launch) d k (.unpk mk dst p num) = some (.ok
        (LaneOut.vit (opVit dst) (u.map Prod.fst) (Led.sum (u.map Prod.snd)))) := by
      simp only [laneOp, hf]
      rfl
    refine VitRun.of_lanes h rfl ho (by simp [u, hold]) (fun r c hr hc => ?_) ?_
    · rw [unpkList_elem en _ decoded r c hr hc hold, enable_bit _ _ _ _ _ _ hr hc]
      simp only [decoded, unpkLane, vitString_eq, Nat.shiftRight_eq_div_pow]
      rfl
    · rw [unpkList_led en _ decoded hold]
      refine laneSum_congr fun r c hr hc => ?_
      rw [enable_bit _ _ _ _ _ _ hr hc]
      simp only [decoded, unpkLane, vitString_eq, Nat.shiftRight_eq_div_pow]
      rfl

end Sys2Proof


/-! SUPPORT. Loops, fence waits, signals, drained tiles, mash runs: proofs of the statements about the instructions that
steer a tile program. -/

namespace Sys2Proof

open Sys2Proof.Machine

/-! ### The queue -/

/-- Settles O1. -/
theorem stepRunsFront : Obligations.StepRunsFront := by
  unfold Obligations.StepRunsFront
  exact ⟨fun _ _ _ => rfl, fun s h => by simp only [step, h]⟩

/-! ### Instructions that steer the program -/

/-- An instruction that is neither on memory nor on lanes, when the control unit leaves its slot as k1. -/
theorem SlotRun.of_control {s : State} {a : Site} {x : Inst} {o : TileOp} {k1 : Slot} {pro : Prologue} (h : Ready s a x o)
    (hf : o.isFeed = false) (hm : memAsk ((pureRun x).memEnv a.cell a.slot) o = none)
    (hl : laneOp x.stream.tabs (ownerOf (x.slot a.cell a.slot).launch) (x.cell a.cell) (x.slot a.cell a.slot) o = none)
    (hc : (pureRun x).control (s.env a.inst) a.cell a.slot o = (pureRun x).setSlot a.cell a.slot k1) :
    SlotRun (cmdOf o a pro) s a x k1 := h.slot_run hf ((issue_control hm hl).trans hc)

/-- Bit p of the mask of enabled lanes is the lane's own condition. -/
theorem enabled_bit (d : Cell) (k : Slot) (mk p : Nat) (hp : p < 1024) :
    (d.mkMask mk &&& k.loopTail).getLsbD p = laneOpen d k mk (p / 32) (p % 32) := by
  rw [← mkTail_bit d k mk (p / 32) (p % 32) (by omega) (by omega), Nat.div_add_mod]

/-- The enabled 1 bits of a mask, counted by their positions. -/
theorem popCount_enabled (d : Cell) (k : Slot) (mk : Nat) (m : Mask) :
    popCount (m &&& d.mkMask mk &&& k.loopTail) = ((List.range 1024).filter fun p =>
      m.getLsbD p && laneOpen d k mk (p / 32) (p % 32)).length := by
  unfold popCount
  refine congrArg List.length (List.filter_congr fun p hp => ?_)
  rw [BitVec.and_assoc, BitVec.getLsbD_and, enabled_bit _ _ _ _ (List.mem_range.1 hp)]

/-- Settles O19: both write their slot alone; a mask's enabled 1 bits are counted by their positions. -/
theorem signalsAndSummaries : Obligations.SignalsAndSummaries := by
  unfold Obligations.SignalsAndSummaries
  intro s a x
  refine ⟨fun f inc h => SlotRun.of_control (pro := .none) h rfl rfl rfl rfl, fun mk kind i row col code hk h => ?_⟩
  refine SlotRun.of_control (pro := .none) h rfl rfl rfl ?_
  simp only [Run.control, Run.summ, ← popCount_enabled]
  match kind, hk with
  | 0, _ => rfl
  | 1, _ => rfl
  | 2, _ => rfl
  | 3, _ => rfl

/-- The trip counts of a LOOP multiply to its total (R213). -/
theorem trips_prod (d : Desc) (dims : Nat) : (tripsOf d dims).foldl (· * ·) 1 =
    (if bitOf dims 0 then ceilDiv d.e0 32 else 1) * (if bitOf dims 1 then ceilDiv d.e1 32 else 1)
      * (if bitOf dims 2 then d.e2 else 1) * (if bitOf dims 3 then d.e3 else 1) := by
  simp only [tripsOf, List.filterMap_cons, List.filterMap_nil]
  cases bitOf dims 0 <;> cases bitOf dims 1 <;> cases bitOf dims 2 <;> cases bitOf dims 3 <;> simp

/-- Past a skipped body outside every loop the program goes on with a fresh tile. -/
theorem Run.advance_past {r : Run} {n k : Nat} {s1 : Slot} (hk : k < (r.cell n).slots.length) (hl : s1.loop = none)
    (hi : s1.idx < s1.prog.length) : (r.setSlot n k s1).advance n k = r.setSlot n k (nextTile s1 s1.idx none) := by
  have hs : (r.setSlot n k s1).slot n k = s1 := Run.slot_setSlot _ _ _ _ hk
  have ha : afterTile s1 = (s1.idx, none) := by simp only [afterTile, hl]
  have hlen : k < ((r.setSlot n k s1).cell n).slots.length := by
    rw [Run.setSlot_eq, Run.cell_setCell]; simpa [Cell.setSlot] using hk
  rw [Run.advance_goes _ _ _ hlen (by rw [hs, GoesOn, ha]; exact hi), hs, ha, Run.setSlot_setSlot]

/-- Settles O17: the total is the product of the trip counts; the three cases are those of `Run.loop`. -/
theorem loopEnters : Obligations.LoopEnters := by
  unfold Obligations.LoopEnters
  intro s a x dk dims len startEn startK k d trip total start k1 legal hfmt h
  have ht : (tripsOf d dims).foldl (· * ·) 1 = total := trips_prod d dims
  have hnf : d.nw.fmt.isNone = false := by cases hd : d.nw.fmt <;> simp_all
  have hctl : (pureRun x).issue (s.env a.inst) a.cell a.slot (.loop dk dims len startEn startK)
      = (pureRun x).loop a.cell a.slot dk dims len startEn startK := issue_control rfl rfl
  have hlegal : legal → (!d.isEmpty && d.illegal false false) = false := by
    rintro (he | he) <;> simp [he]
  have hslot : (pureRun x).slot a.cell a.slot = k := rfl
  refine ⟨fun hl hs => ⟨fun hi => ?_, fun hi => ?_⟩, fun hl hs => ⟨fun hi hn hp => ?_, fun hi => ?_⟩, fun hl => ?_⟩
  · refine h.slot_run (pro := .none) rfl (hctl.trans ?_)
    have hin : k.inTile = false := decide_eq_false (not_not.2 hi)
    simp only [Run.loop, hslot, ← show d = k.desc dk from rfl, hnf, hlegal hl, ht, hin]
    exact if_pos hs
  · refine h.slot_run (pro := .none) rfl (hctl.trans ?_)
    have hin : k.inTile = true := decide_eq_true hi
    simp only [Run.loop, hslot, ← show d = k.desc dk from rfl, hnf, hlegal hl, ht, hin]
    exact if_pos hs
  · refine h.slot_run (pro := .none) rfl (hctl.trans ?_)
    have hin : k.inTile = false := decide_eq_false (not_not.2 hi)
    simp only [Run.loop, hslot, ← show d = k.desc dk from rfl, hnf, hlegal hl, ht, hin]
    refine (if_neg (Nat.not_lt.2 hs)).trans ?_
    exact Run.advance_past (s1 := { k1 with idx := k.idx + 1 + len }) h.slot_lt hn hp
  · refine h.slot_run (pro := .none) rfl (hctl.trans ?_)
    have hin : k.inTile = true := decide_eq_true hi
    simp only [Run.loop, hslot, ← show d = k.desc dk from rfl, hnf, hlegal hl, ht, hin]
    exact if_neg (Nat.not_lt.2 hs)
  · refine h.fails (pro := .none) rfl (hctl.trans ?_)
    have hill : (!d.isEmpty && d.illegal false false) = true := by
      simp only [legal, not_or, Bool.not_eq_true, Bool.not_eq_false] at hl
      simp [hl]
    simp only [Run.loop, hslot, ← show d = k.desc dk from rfl, hnf, hill]
    rfl

/-- A wait whose fence has reached its target. -/
theorem reached_of_nonneg {v t : Word} (h : 0 ≤ (v - t).toInt) : reached v t = true := decide_eq_true h

theorem not_reached_of_neg {v t : Word} (h : (v - t).toInt < 0) : ¬reached v t = true := by
  simp only [reached, decide_eq_true_eq, not_le, h]

/-- Settles O18: the four outcomes of the issue, and the three of a held wait's next look that the statement names. -/
theorem fenceWaits : Obligations.FenceWaits := by
  unfold Obligations.FenceWaits
  intro s a x k
  constructor
  · intro f scalar sk imm h target waits
    have hctl : (pureRun x).issue (s.env a.inst) a.cell a.slot (.waitf f scalar sk imm)
        = (pureRun x).waitf (s.env a.inst) a.cell a.slot f target := issue_control rfl rfl
    refine ⟨fun haw => ?_, fun haw => ?_⟩
    · refine (h.exec (pro := .none) rfl).trans (congrArg _ ?_)
      exact State.runAt_eq (r := ⟨x.setSlot a.cell a.slot waits, [.ask (f / 1024)]⟩) (hctl.trans (if_pos haw))
    have haw' : ¬(s.env a.inst).away (f / 1024) = true := by rw [haw]; decide
    refine ⟨fun he hv => h.slot_run (pro := .none) rfl (hctl.trans ?_), fun he hv => h.slot_run (pro := .none) rfl (hctl.trans ?_),
      fun he => h.fails (pro := .none) rfl (hctl.trans ?_)⟩
    · exact (if_neg haw').trans ((if_neg (not_not.2 he)).trans (if_pos (reached_of_nonneg hv)))
    · exact (if_neg haw').trans ((if_neg (not_not.2 he)).trans (if_neg (not_reached_of_neg hv)))
    · exact (if_neg haw').trans (if_pos he)
  · intro f target since hw hc hu hp hj hk
    have hex : ∀ r, (pureRun x).waitfPass (s.env a.inst) a.cell a.slot = r →
        exec (.waitfPass a) s = .next ((s.setInst a.inst r.x).effs a.inst r.effs) := by
      intro r hr
      rw [show exec (.waitfPass a) s = execWaitfPass a s from rfl, execWaitfPass, onSlot_some _ hw.1 hc hj]
      refine congrArg _ (State.runAt_eq ?_)
      exact (if_pos ⟨CellUp.cellRuns hw.2 hu, hp⟩).trans hr
    have hpass : (pureRun x).waitfPass (s.env a.inst) a.cell a.slot =
        if (s.env a.inst).away (f / 1024) then (pureRun x).emit (.ask (f / 1024))
        else if (s.fence f).err ≠ 0 then (pureRun x).failHere a.cell a.slot (s.fence f).err
        else if reached (s.fence f).value target then
          (pureRun x).modSlot a.cell a.slot fun s => (s.addLed (waitLed since x.ticks)).next
        else pureRun x := by
      have hk' : ((pureRun x).slot a.cell a.slot).wait = .fence f target since := hk
      simp only [Run.waitfPass, hk']
      rfl
    refine ⟨fun haw => hex ⟨x, [.ask (f / 1024)]⟩ (hpass.trans (if_pos haw)), fun haw => ?_⟩
    have haw' : ¬(s.env a.inst).away (f / 1024) = true := by rw [haw]; decide
    refine ⟨fun he hv => ?_, fun he hv => ?_⟩
    · exact hex ⟨_, []⟩ (hpass.trans ((if_neg haw').trans ((if_neg (not_not.2 he)).trans (if_pos (reached_of_nonneg hv)))))
    · exact hex ⟨x, []⟩ (hpass.trans ((if_neg haw').trans ((if_neg (not_not.2 he)).trans
        (if_neg (not_reached_of_neg hv)))))

/-! ### Drained tiles -/

/-- A slot that keeps no tile of a tag binds anew (R151). -/
theorem Cell.bindFor_eq {c : Cell} {k : Nat} {tag : BitVec 16} {b : Binder}
    (h : ∀ t ∈ c.drain, t.tag = tag → t.id ∉ (c.slot k).tile.kept) : c.bindFor k tag b = c.bind tag b := by
  have hn : c.drain.find? (fun t => decide (t.tag = tag) && (c.slot k).tile.kept.contains t.id) = none := by
    simp only [List.find?_eq_none, Bool.and_eq_true, decide_eq_true_eq, List.contains_iff_mem, not_and]
    exact h
  simp only [Cell.bindFor, hn]

theorem Cell.bind_old {c : Cell} {tag : BitVec 16} {b : Binder} {t : DrainTile}
    (h : c.drain.find? (fun t => t.tag == tag && t.bound.isNone) = some t) : c.bind tag b = (c.setBound t.id b, t.id) := by
  simp only [Cell.bind, h]

theorem Cell.bind_new {c : Cell} {tag : BitVec 16} {b : Binder}
    (h : c.drain.find? (fun t => t.tag == tag && t.bound.isNone) = none) : c.bind tag b =
      ({ c with drain := c.drain ++ [{ id := c.freshTile, tag := tag, beats := [], bound := some b }] }, c.freshTile) := by
  simp only [Cell.bind, h]

/-- Binding keeps the beats of a tile. -/
theorem Cell.tileBeats_setBound {c : Cell} {i : Nat} {b : Binder} {t : DrainTile}
    (h : (c.drain.find? fun u => u.id == i) = some t) : (c.setBound i b).tileBeats i = t.beats := by
  have hm : ((c.setBound i b).drain.find? fun u => u.id == i) = some { t with bound := some b } := by
    have ht : t.id = i := by simpa using List.find?_some h
    have hf : ((fun u : DrainTile => u.id == i) ∘ fun u : DrainTile => if u.id = i then { u with bound := some b } else u)
        = fun u => u.id == i := by
      funext u
      simp only [Function.comp_apply]
      split <;> rfl
    simp only [Cell.setBound, List.find?_map, hf, h, Option.map_some, ht, if_true]
  simp only [Cell.tileBeats, hm]

/-- A tile of which no beat has arrived is empty. -/
theorem tileBeats_fresh {ds : List DrainTile} {i : Nat} {t : DrainTile} (h : (ds.find? fun u => u.id == i) = none)
    (ht : t.id = i) (c : Cell) : ({ c with drain := ds ++ [t] } : Cell).tileBeats i = t.beats := by
  have hm : ((ds ++ [t]).find? fun u => u.id == i) = some t := by simp [List.find?_append, h, ht]
  simp only [Cell.tileBeats, hm]

/-- A consumer of a tile that has not arrived goes on, and its register waits. -/
theorem Run.bindFill_waits {r : Run} {n k : Nat} {tag : BitVec 16} {kind : FillKind} {c1 : Cell} {i : Nat}
    (hb : (r.cell n).bindFor k tag (.slot k) = (c1, i)) (hl : (c1.tileBeats i).length ≠ 4) :
    r.bindFill n k tag kind = r.setCell n (c1.setSlot k { (c1.slot k).next with
      fills := (c1.slot k).fills ++ [{ id := i, kind := kind }] }) := by
  simp only [Run.bindFill, hb]
  exact if_neg hl

/-- A consumer of a complete tile takes it at once. -/
theorem Run.bindFill_takes {r : Run} {n k : Nat} {tag : BitVec 16} {kind : FillKind} {c1 : Cell} {i : Nat}
    (hb : (r.cell n).bindFor k tag (.slot k) = (c1, i)) (hl : (c1.tileBeats i).length = 4) :
    r.bindFill n k tag kind = (r.setCell n (c1.setSlot k { (c1.slot k).next with
      fills := (c1.slot k).fills ++ [{ id := i, kind := kind }] })).fill n k { id := i, kind := kind } := by
  simp only [Run.bindFill, hb]
  exact if_pos hl

/-- A consumer that has just bound its tile takes it: what its cell becomes (R151, R159). -/
theorem Run.fill_setSlot (r : Run) (n k i id : Nat) (en : Mask) (c : Cell) (s : Slot) (hk : k < c.slots.length) :
    (r.setCell n (c.setSlot k s)).fill n k { id := id, kind := .vit i en } =
      r.setCell n ((c.setSlot k { s.takeFeeds with
        fills := s.fills.filter fun g => g.id != id
        tile := { s.takeFeeds.tile with bound := s.tile.bound ++ [id] } }).setVit i
          (pickLanes en (c.vit i) (c.tileBeats id).flatten)) := by
  simp only [Run.fill, Run.cell_setCell, Run.setCell_setCell, Cell.slot_setSlot _ _ _ hk, Cell.setSlot_setSlot]
  rfl

/-- Settles O21: the consumer binds an old tile, complete or not, or a new one. -/
theorem drainForm : Obligations.DrainForm := by
  unfold Obligations.DrainForm
  intro s a x mk i tag c k mine bound hkept h
  have hctl : (pureRun x).issue (s.env a.inst) a.cell a.slot (.vldDrain mk i tag)
      = (pureRun x).bindFill a.cell a.slot tag (.vit i (c.mkMask mk &&& k.loopTail)) := issue_control rfl rfl
  have hbf : ((pureRun x).cell a.cell).bindFor a.slot tag (.slot a.slot) = c.bind tag (.slot a.slot) := Cell.bindFor_eq hkept
  refine ⟨fun t ht hb hid hw hfl => ?_, fun t ht hb hid => ?_, fun ht hid => ?_⟩
  · have hbd := hbf.trans (Cell.bind_old ht)
    have hbeats : (c.setBound t.id (.slot a.slot)).tileBeats t.id = t.beats := Cell.tileBeats_setBound hid
    have hlen : (pickLanes (c.mkMask mk &&& k.loopTail) (c.vit i) t.beats.flatten).length = 1024 :=
      pickLanes_length _ _ _ (Cell.vit_length ..) hw
    have hfills : (k.fills ++ [(⟨t.id, .vit i (c.mkMask mk &&& k.loopTail)⟩ : Fill)]).filter (fun g => g.id != t.id)
        = k.fills := by
      simpa [List.filter_append, List.filter_eq_self] using hfl
    let k1 : Slot := { k.next with
          feedOld := Led.zero, feedNew := []
          tile := { k.tile with led := k.tile.led.add k.feedEvents, bound := k.tile.bound ++ [t.id] } }
    let d : Cell := ((c.setBound t.id (.slot a.slot)).setSlot a.slot k1).setVit i
      (pickLanes (c.mkMask mk &&& k.loopTail) (c.vit i) t.beats.flatten)
    have hcell : CellRun (.vldDrain a) s a.at_ x d := by
      refine h.cell_run (pro := .none) rfl (hctl.trans ((Run.bindFill_takes hbd (by rw [hbeats, hb])).trans ?_))
      rw [Run.fill_setSlot _ _ _ _ _ _ (c.setBound t.id (.slot a.slot)) _ h.slot_lt, hbeats]
      have hs : (c.setBound t.id (.slot a.slot)).slot a.slot = k := rfl
      simp only [hs, hfills]
      rfl
    refine ⟨x.setCell a.cell d, hcell, ⟨rfl, fun m hm => Inst.cell_setCell_other _ _ _ _ hm⟩, ?_, fun j hj => ?_, ?_, fun r j hr hj => ?_⟩
    · rw [Inst.cell_setCell]; rfl
    · rw [Inst.cell_setCell]; exact Cell.vit_setVit_other _ _ _ _ hj
    · rw [Inst.slot, Inst.cell_setCell]
      exact Cell.slot_setSlot _ _ _ h.slot_lt
    · rw [Inst.cell_setCell, Cell.vit_setVit _ _ _ hlen, pickLanes_elem _ _ _ _ _ hr hj (Cell.vit_length ..) hw,
        mkTail_bit _ _ _ _ _ hr hj]
  · refine h.cell_run (pro := .none) rfl (hctl.trans ((Run.bindFill_waits (hbf.trans (Cell.bind_old ht)) ?_).trans rfl))
    rw [Cell.tileBeats_setBound hid]; omega
  · refine h.cell_run (pro := .none) rfl (hctl.trans ((Run.bindFill_waits (hbf.trans (Cell.bind_new ht)) ?_).trans rfl))
    rw [tileBeats_fresh hid rfl]; simp

/-! ### Mash runs -/

/-- A rotation keeps the number of its lanes. -/
theorem mashSegment_length (m : Nat) (inv : Bool) (sign : Nat) (x : List Word) : (mashSegment m inv sign x).length = x.length := by
  have hstage : ∀ (ss : List Nat) (v : List Tw), (ss.foldl mashStage v).length = v.length := by
    intro ss
    induction ss with
    | nil => exact fun v => rfl
    | cons q ss ih => intro v; rw [List.foldl_cons, ih]; simp [mashStage]
  simp only [mashSegment]
  split
  · simp
  · simp [hstage]

/-- What a MASH takes of its input: its enabled lanes, +0 in the others. -/
def mashTile (en : Mask) (l : List Word) : List Word := l.zipIdx.map fun p => if en.getLsbD p.2 then p.1 else 0#32

theorem mashTile_eq (d : Cell) (k : Slot) (mk : Nat) (l : List Word) (h : l.length = 1024) :
    mashTile (d.mkMask mk &&& k.loopTail) l =
      (List.range 1024).map fun p => if laneOpen d k mk (p / 32) (p % 32) then l.getD p 0#32 else 0#32 := by
  refine List.ext_getElem (by simp [mashTile, h]) fun p h1 h2 => ?_
  have hp : p < 1024 := by simpa using h2
  simp only [mashTile, List.getElem_map, List.getElem_zipIdx, List.getElem_range, Nat.zero_add, enabled_bit _ _ _ _ hp]
  rw [List.getD_eq_getElem l _ (by omega)]

/-- The tiles of a run once a MASH has taken its input. -/
def Machine.MashRun.fed (u : MashRun) (en : Mask) (input : Option (List Word)) : MashRun :=
  match input with
  | some l => { u with tiles := u.tiles ++ [mashTile en l] }
  | .none => u

/-- A run whose next output tile has been written. -/
def Machine.MashRun.emitted (u : MashRun) : MashRun :=
  { u with outs := u.outs + 1, tiles := if (u.outs + 1) % u.g = 0 then u.tiles.drop u.g else u.tiles
           signs := if (u.outs + 1) % u.g = 0 then u.signs.drop 1 else u.signs }

/-- Before its first output is due, a run only takes its input. -/
theorem Run.mashStep_takes {r : Run} {n k dst : Nat} {en : Mask} {input : Option (List Word)} {u : MashRun}
    (hu : ((r.cell n).slot k).mash.fed en input = u) (h : u.count < u.g) :
    r.mashStep n k dst en input = r.setCell n ((r.cell n).setSlot k { (r.cell n).slot k with mash := u }) := by
  subst hu
  cases input <;> exact if_pos h

/-- What the model drops of a run after an output, said by the case. -/
theorem emitted_eq (u : MashRun) :
    ({ u with
        outs := u.outs + 1, tiles := u.tiles.drop (if (u.outs + 1) % u.g = 0 then u.g else 0)
        signs := u.signs.drop (if (if (u.outs + 1) % u.g = 0 then u.g else 0) = 0 then 0 else 1) } : MashRun) = u.emitted := by
  have hg : u.g ≠ 0 := (Nat.two_pow_pos _).ne'
  unfold MashRun.emitted
  by_cases h : (u.outs + 1) % u.g = 0
  · simp only [if_pos h, if_neg hg]
  · simp only [if_neg h, if_true, List.drop_zero]

/-- With an output due, it writes the output's enabled lanes. -/
theorem Run.mashStep_emits {r : Run} {n k dst : Nat} {en : Mask} {input : Option (List Word)} {u : MashRun}
    (hu : ((r.cell n).slot k).mash.fed en input = u) (h : ¬u.count < u.g) :
    r.mashStep n k dst en input = r.setCell n
      (((r.cell n).setVit (opVit dst) (pickLanes en ((r.cell n).vit (opVit dst)) (u.output u.outs en).1)).setSlot k
        ({ (r.cell n).slot k with mash := u.emitted }.addLed (Led.nonfin (u.output u.outs en).2))) := by
  subst hu
  rw [← emitted_eq]
  cases input <;> exact if_neg h

/-- A row of a segment's tiles. -/
def segmentRow (tiles : List (List Word)) (r : Nat) : List Word := tiles.flatMap fun w => (w.drop (32 * r)).take 32

theorem segmentRow_length {tiles : List (List Word)} (h : ∀ w ∈ tiles, w.length = 1024) {r : Nat} (hr : r < 32) :
    (segmentRow tiles r).length = 32 * tiles.length :=
  flatMap_const_length _ _ _ fun w hw => by simp [h w hw]; omega

/-- Output tile q of a run: row r is its part of the rotation of that row of the segment (R89). -/
theorem output_elem {u : MashRun} {q : Nat} (en : Mask) (hg : u.g ≤ u.tiles.length) (ht : ∀ w ∈ u.tiles, w.length = 1024) :
    (u.output q en).1.length = 1024 ∧ ∀ r j, r < 32 → j < 32 → elemAt (u.output q en).1 r j =
      ((mashSegment u.m u.inv (u.signs.getD 0 0).toNat (segmentRow (u.tiles.take u.g) r)).drop (32 * (q % u.g))).getD j 0#32 := by
  let row (r : Nat) : List Word := ((mashSegment u.m u.inv (u.signs.getD 0 0).toNat
    (segmentRow (u.tiles.take u.g) r)).drop (32 * (q % u.g))).take 32
  have hrow : ∀ r < 32, (row r).length = 32 := by
    intro r hr
    have hlt : q % u.g < u.g := Nat.mod_lt _ (Nat.two_pow_pos _)
    simp only [row, List.length_take, List.length_drop, mashSegment_length,
      segmentRow_length (fun w hw => ht w (List.mem_of_mem_take hw)) hr, Nat.min_eq_left hg]
    omega
  have hout : (u.output q en).1 = (List.range 32).flatMap row := by
    simp only [MashRun.output, List.flatMap_map]
    rfl
  have hmem : ∀ r ∈ List.range 32, (row r).length = 32 := fun r hr => hrow r (List.mem_range.1 hr)
  refine ⟨by rw [hout, flatMap_const_length _ _ _ hmem]; rfl, fun r j hr hj => ?_⟩
  rw [elemAt, hout, List.getD_eq_getElem?_getD, getElem?_rows _ _ 32 _ _ hmem hj (by simpa using hr), List.getElem_range,
    List.getElem?_take_of_lt hj, ← List.getD_eq_getElem?_getD]

/-- The run that a MASH leaves before its input is there. -/
def mashNext (c : Cell) (o : MashOp) (u : MashRun) : MashRun :=
  { u with signs := if o.input ≠ 0 ∧ u.supplied % u.g = 0 then u.signs ++ [c.mask o.sign] else u.signs
           count := u.count + 1, closed := u.closed || decide (o.input = 0) }

/-- A MASH of a run that R92 permits. -/
theorem Run.mash_ok {r : Run} {n k : Nat} {o : MashOp} {en : Mask} {u : MashRun} (hu : mashRunOf (r.slot n k).mash o = some u)
    (hb : mashBad u o ((r.slot n k).loop.map fun l => ((r.slot n k).desc l.d).e0) = false) :
    r.mash n k o en =
      let r1 := r.setSlot n k { r.slot n k with mash := mashNext (r.cell n) o u }
      if o.input = 1 then r1.bindFill n k o.tag (.mash o.dst (decide (u.g ≤ u.count + 1)) en)
      else (r1.mashStep n k o.dst en (if o.input = 2 then some ((r.cell n).vit o.ivit) else none)).modSlot n k Slot.next := by
  have hs : (r.cell n).slot k = r.slot n k := rfl
  simp only [Run.mash, hs, hu, hb]
  rfl

theorem Run.modSlot_setSlot (r : Run) (n k : Nat) {c : Cell} (s : Slot) (hk : k < c.slots.length) (f : Slot → Slot) :
    (r.setCell n (c.setSlot k s)).modSlot n k f = r.setCell n (c.setSlot k (f s)) := by
  simp only [Run.modSlot, Run.setSlot_setCell, Run.slot_setCell, Cell.slot_setSlot _ _ _ hk, Cell.setSlot_setSlot]

/-- Settles O20: a drained input waits; any other is taken at once, and an output that is due is written. -/
theorem mashRuns : Obligations.MashRuns := by
  unfold Obligations.MashRuns
  intro s a x mk dst input ivit sign m inv first tag u c k o tile tiles signs u1 htl hu hb h
  let en : Mask := c.mkMask mk &&& k.loopTail
  let next := mashNext c o u
  let c1 : Cell := c.setSlot a.slot { k with mash := next }
  have hctl : (pureRun x).issue (s.env a.inst) a.cell a.slot (.mash mk dst input ivit sign m inv first tag)
      = (pureRun x).mash a.cell a.slot o en := issue_control rfl rfl
  have hmash := hctl.trans (Run.mash_ok hu hb)
  have hr1 : (pureRun x).setSlot a.cell a.slot { k with mash := next } = (pureRun x).setCell a.cell c1 := Run.setSlot_eq ..
  have hcell : ((pureRun x).setCell a.cell c1).cell a.cell = c1 := Run.cell_setCell ..
  have hslot : c1.slot a.slot = { k with mash := next } := Cell.slot_setSlot _ _ _ h.slot_lt
  have hfed : next.fed en (if input = 2 then some (c.vit ivit) else none) = u1 := by
    have htile : mashTile en (c.vit ivit) = tile := mashTile_eq _ _ _ _ (Cell.vit_length ..)
    by_cases hi : input = 2
    · simp only [if_pos hi, MashRun.fed, htile, u1, tiles]
      rfl
    · simp only [if_neg hi, MashRun.fed, u1, tiles]
      rfl
  have hnow : (((((pureRun x).setCell a.cell c1).cell a.cell).slot a.slot).mash.fed en
      (if input = 2 then some (c.vit ivit) else none)) = u1 := by rw [hcell, hslot, hfed]
  have hstep : input ≠ 1 → (pureRun x).issue (s.env a.inst) a.cell a.slot (.mash mk dst input ivit sign m inv first tag)
      = (((pureRun x).setCell a.cell c1).mashStep a.cell a.slot dst en
          (if input = 2 then some (c.vit ivit) else none)).modSlot a.cell a.slot Slot.next :=
    fun hin => hmash.trans (if_neg hin)
  refine ⟨fun hin htag hid => ?_, fun hin hlt => ?_, fun hin hge hlen => ?_⟩
  · have hnew : c1.drain.find? (fun t => t.tag == tag && t.bound.isNone) = none := by
      simp only [List.find?_eq_none, Bool.and_eq_true, beq_iff_eq, not_and]
      exact fun w hw ht => absurd ht (htag w hw)
    have hbind := (Cell.bindFor_eq (c := c1) (k := a.slot) (b := .slot a.slot)
      fun t ht hte => absurd hte (htag t ht)).trans (Cell.bind_new hnew)
    refine h.cell_run (pro := .none) rfl (hmash.trans ((if_pos hin).trans ?_))
    refine (Run.bindFill_waits ((congrArg (fun d => Cell.bindFor d a.slot tag (.slot a.slot)) hcell).trans hbind) ?_).trans ?_
    · have hid1 : (c1.drain.find? fun w => w.id == c1.freshTile) = none := hid
      rw [tileBeats_fresh (t := ⟨c1.freshTile, tag, [], some (.slot a.slot)⟩) hid1 rfl]
      exact Nat.zero_ne_add_one 3
    · let drain : List DrainTile := c1.drain ++ [⟨c1.freshTile, tag, [], some (.slot a.slot)⟩]
      have hs : ({ c1 with drain := drain } : Cell).slot a.slot = { k with mash := next } := hslot
      have hnext : next = u1 := by rw [← hfed, if_neg (by omega)]; rfl
      rw [hs, hnext, Run.setCell_setCell]
      exact congrArg (fun d : Cell => (pureRun x).setCell a.cell { d with drain := drain }) (Cell.setSlot_setSlot c a.slot _ _)
  · refine h.slot_run (pro := .none) rfl ((hstep hin).trans ?_)
    rw [Run.mashStep_takes hnow (by exact hlt), hcell, hslot, Cell.setSlot_setSlot]
    rw [Run.setCell_setCell, Run.modSlot_setSlot _ _ _ _ h.slot_lt]
    rfl
  · have hlen1 : u1.g ≤ u1.tiles.length := hlen
    have htiles : ∀ w ∈ u1.tiles, w.length = 1024 := by
      intro w hw
      simp only [u1, tiles] at hw
      split at hw
      · obtain hw | hw := List.mem_append.1 hw
        · exact htl w hw
        · rw [List.mem_singleton.1 hw]; simp [tile]
      · exact htl w hw
    obtain ⟨ho, helem⟩ := output_elem (q := u1.outs) en hlen1 htiles
    let led := Led.nonfin (u1.output u1.outs en).2
    let k2 : Slot := ({ k with mash := u1.emitted }.addLed led).next
    let d : Cell := (c.setVit (opVit dst) (pickLanes en (c.vit (opVit dst)) (u1.output u1.outs en).1)).setSlot a.slot k2
    have h1 : a.slot < c1.slots.length := by simpa [c1, Cell.setSlot] using h.slot_lt
    have hrun : CellRun (.mash a) s a.at_ x d := by
      refine h.cell_run (pro := .none) rfl ((hstep hin).trans ?_)
      rw [Run.mashStep_emits hnow (by exact Nat.not_lt.2 hge), hcell, hslot, Run.setCell_setCell]
      exact (Run.modSlot_setSlot (c := c1.setVit (opVit dst) _) _ _ _ _ h1 _).trans
        (congrArg ((pureRun x).setCell a.cell) (Cell.setSlot_setSlot (c.setVit (opVit dst) _) a.slot _ k2))
    refine ⟨x.setCell a.cell d, led, hrun, ⟨rfl, fun m hm => Inst.cell_setCell_other _ _ _ _ hm⟩, ?_, ?_, fun r j hr hj => ?_⟩
    · rw [Inst.cell_setCell]
      refine ⟨rfl, fun i hi => ?_, fun i _ => rfl, fun j hj => ?_⟩
      · exact Cell.vit_setVit_other _ _ _ _ (by simpa using hi)
      · exact Cell.slot_setSlot_other _ _ _ _ hj
    · rw [Inst.slot, Inst.cell_setCell]
      exact Cell.slot_setSlot _ _ _ h.slot_lt
    · rw [Inst.cell_setCell, Cell.vit_setSlot, Cell.vit_setVit _ _ _ (pickLanes_length _ _ _ (Cell.vit_length ..) ho),
        pickLanes_elem _ _ _ _ _ hr hj (Cell.vit_length ..) ho, mkTail_bit _ _ _ _ _ hr hj, helem r j hr hj]
      rfl

end Sys2Proof


/-! SUPPORT. The state after reset, and the operand vectors that the multiplier takes: proofs of the statements. -/

namespace Sys2Proof

open Sys2Proof.Machine

/-- Every die of the reset package is at its reset values. -/
theorem reset_inst {x : Inst} (h : x ∈ State.reset.insts) : ∃ n k b, x = Inst.reset n k b := by
  obtain ⟨k, -, rfl⟩ := List.mem_map.1 h
  exact ⟨_, _, _, rfl⟩

/-- Settles O60: tables without entries give the reset values. -/
theorem resetState : Obligations.ResetState := by
  unfold Obligations.ResetState
  refine ⟨⟨by decide, by decide, by decide⟩, rfl, rfl, rfl, rfl, rfl, rfl, rfl, fun x hx => ?_⟩
  obtain ⟨n, k, b, rfl⟩ := reset_inst hx
  refine ⟨rfl, rfl, rfl, rfl, rfl, rfl, rfl, rfl, rfl, rfl, rfl, rfl, rfl, rfl, rfl, rfl, rfl, rfl, fun v => ⟨rfl, rfl⟩,
    fun k => rfl, fun k => rfl, fun m => ⟨rfl, rfl, rfl⟩, fun n => ⟨rfl, rfl, rfl, rfl, rfl, rfl, rfl, fun k => rfl, fun k j => ?_⟩⟩
  simp only [Cell.vit, Inst.cell, Inst.reset, Tbl.get, Cell.reset, List.nil_append, List.take_replicate, Nat.min_self,
    List.getD_eq_getElem?_getD, List.getElem?_replicate]
  split <;> rfl

/-- Settles O30: a vector leaves the queue, a stall is counted, or nothing happens. -/
theorem feedAccepts : Obligations.FeedAccepts := by
  unfold Obligations.FeedAccepts
  intro s a x c hw hc
  have hex : exec (.feedVectorAccept a) s = onCell s a (feedAccept a.cell) := rfl
  refine ⟨fun f rest hu hq => ?_, fun hst => ?_, fun hq hf => ?_⟩
  · refine CellRun.of_cell hex hw.1 hc ?_
    have hq' : (if x.cellRuns a.cell then (x.cell a.cell).feedQ else []) = f :: rest :=
      (if_pos (CellUp.cellRuns hw.2 hu)).trans hq
    simp only [feedAccept, hq']
    rfl
  · refine CellRun.of_cell hex hw.1 hc ?_
    have hq' : (if x.cellRuns a.cell then (x.cell a.cell).feedQ else []) = [] := by
      obtain ⟨hq, -⟩ | ⟨-, hp⟩ := hst
      · rw [show (x.cell a.cell).feedQ = [] from hq, ite_self]
      · exact if_neg (by simp [Inst.cellRuns, show (x.cell a.cell).paused = true from hp])
    have hstall : (x.awake && ((x.cell a.cell).feedWaits || !(x.cell a.cell).feedQ.isEmpty)) = true := by
      obtain ⟨-, hf⟩ | ⟨hq, -⟩ := hst
      · simp [hw.2, show (x.cell a.cell).feedWaits = true from hf]
      · simp [hw.2, show (x.cell a.cell).feedQ ≠ [] from hq]
    simp only [feedAccept, hq', hstall]
    rfl
  · rw [hex, onCell_some _ hw.1 hc]
    refine congrArg _ (State.runAt_pure ?_)
    have hq' : (x.cell a.cell).feedQ = [] := hq
    have hstall : (x.awake && ((x.cell a.cell).feedWaits || !(x.cell a.cell).feedQ.isEmpty)) = false := by
      simp [hq', show (x.cell a.cell).feedWaits = false from hf]
    have hq2 : (if x.cellRuns a.cell then (x.cell a.cell).feedQ else []) = [] := by rw [hq', ite_self]
    simp only [feedAccept, hstall, hq2]
    rfl

end Sys2Proof


/-! SUPPORT. The commit of a tile (R217): what every commit does, and the proofs of the statements about tiles without and with
memory output and about the end of a program. -/

namespace Sys2Proof

open Sys2Proof.Machine

/-! ### What a commit does to its cell -/

/-- A fold of steps that keep the slots keeps them. -/
theorem foldl_slots {α : Type} (f : Cell → α → Cell) (h : ∀ c a, (f c a).slots = c.slots) (l : List α) (c : Cell) :
    (l.foldl f c).slots = c.slots := by
  induction l generalizing c with
  | nil => rfl
  | cons b l ih => rw [List.foldl_cons, ih, h]

theorem Cell.releaseCask_slots (c : Cell) (e : Nat) : (c.releaseCask e).slots = c.slots := by
  unfold Cell.releaseCask
  split <;> rfl

/-- The cell of a slot whose tile has committed: its drained tiles are free, and its summaries are posted; `x1` holds the ledger
(R103, R152, R244). -/
def postedCell (x x1 : Inst) (n j : Nat) : Cell :=
  let k := x.slot n j
  k.tile.sums.foldl (fun c m => c.postSummary (launchTag k.launch) m.code.toNat
    (m.val.getD (BitVec.ofNat 32 (x1.vc (ownerOf k.launch)).led.flags.toNat)))
    ((k.tile.bound ++ k.tile.kept).foldl Cell.freeTile ((x.cell n).settled j))

/-- A cask that the tile closes is released (R133). -/
def closeOf (c : Cell) : Option (Nat × Nat) → Cell
  | some p => if c.casks.any (fun q => q.1 == p.1 && q.2.no == p.2) then (c.releaseCask p.1).runAdds else c
  | none => c

/-- The cell of a slot whose tile has committed, before the slot goes on. -/
def commitCell (x x1 : Inst) (n j : Nat) : Cell := closeOf (postedCell x x1 n j) (x.slot n j).tile.closes

theorem closeOf_slots (c : Cell) (p : Option (Nat × Nat)) : (closeOf c p).slots = c.slots := by
  unfold closeOf
  split
  · split
    · rw [Cell.runAdds_slots, Cell.releaseCask_slots]
    · rfl
  · rfl

theorem postedCell_slots (x x1 : Inst) (n j : Nat) : (postedCell x x1 n j).slots = (x.cell n).slots := by
  refine (foldl_slots _ ?_ _ _).trans ((foldl_slots _ ?_ _ _).trans ?_) <;> intros <;> rfl

theorem commitCell_slots (x x1 : Inst) (n j : Nat) : (commitCell x x1 n j).slots = (x.cell n).slots := by
  rw [commitCell, closeOf_slots, postedCell_slots]

/-- The instance whose ledger has taken the tile of a slot (R103). -/
def booked (x : Inst) (n j : Nat) : Inst :=
  x.book (ownerOf (x.slot n j).launch) ((x.slot n j).tile.led.add { Led.zero with tiles := 1 })

theorem tileDone_eq (x : Inst) (n j : Nat) : tileDone x n j = (booked x n j).setCell n ((commitCell x (booked x n j) n j).setSlot j
    (nextTile (x.slot n j) (afterTile (x.slot n j)).1 (afterTile (x.slot n j)).2)) := rfl

theorem emit_sigs (r : Run) (l : List (Nat × Word)) :
    l.foldl (fun r p => r.emit (.fenceAdd p.1 p.2)) r = { r with effs := r.effs ++ l.map fun p => .fenceAdd p.1 p.2 } := by
  induction l generalizing r with
  | nil => simp
  | cons p l ih => rw [List.foldl_cons, ih]; simp [Run.emit]

theorem foldl_congr_fun {α β : Type} {f g : β → α → β} (h : ∀ b a, f b a = g b a) (l : List α) (b : β) :
    l.foldl f b = l.foldl g b := by
  rw [show f = g from funext fun b => funext (h b)]

/-- The effects of a tile, then the slot goes on. -/
theorem Run.applyTile_eq (r : Run) (n k : Nat) : r.applyTile n k =
    Run.advance { x := (booked r.x n k).setCell n (commitCell r.x (booked r.x n k) n k), effs := r.effs ++ tileSigs (r.slot n k) } n k := by
  simp only [Run.applyTile, emit_sigs]
  rw [foldl_congr_fun (g := fun c (m : Summ) => c.postSummary (launchTag (r.slot n k).launch) m.code.toNat
    (m.val.getD (BitVec.ofNat 32 ((booked r.x n k).vc (ownerOf (r.slot n k).launch)).led.flags.toNat)))]
  · rfl
  · intro c m
    cases m.val <;> rfl

/-- A tile whose program goes on commits. -/
theorem Run.applyTile_goes (r : Run) (n k : Nat) (hk : k < (r.cell n).slots.length) (h : GoesOn (r.slot n k)) :
    r.applyTile n k = { x := tileDone r.x n k, effs := r.effs ++ tileSigs (r.slot n k) } := by
  let r2 : Run := { x := (booked r.x n k).setCell n (commitCell r.x (booked r.x n k) n k), effs := r.effs ++ tileSigs (r.slot n k) }
  have hcell : r2.cell n = commitCell r.x (booked r.x n k) n k := Inst.cell_setCell ..
  have hslots : (r2.cell n).slots = (r.cell n).slots := by rw [hcell, commitCell_slots]; rfl
  have hslot : r2.slot n k = r.slot n k := by
    have : (r2.cell n).slot k = (r.cell n).slot k := by rw [Cell.slot, hslots]; rfl
    exact this
  rw [Run.applyTile_eq]
  refine (Run.advance_goes r2 n k (by rw [hslots]; exact hk) (by rw [hslot]; exact h)).trans ?_
  rw [hslot, tileDone_eq, Run.setSlot_eq, hcell]
  simp only [Run.setCell, r2, Inst.setCell_setCell]
  rfl

/-- A cask instruction that is a tile of its own commits, when its program goes on (R217). -/
theorem Run.endCaskTile_goes (r : Run) (n k : Nat) (hk : k < (r.cell n).slots.length) (h : GoesOn (r.slot n k).next) :
    r.endCaskTile n k = { x := tileDone (r.x.setSlot n k (r.slot n k).next) n k, effs := r.effs ++ tileSigs (r.slot n k) } := by
  have hs : (r.setSlot n k (r.slot n k).next).slot n k = (r.slot n k).next := Run.slot_setSlot _ _ _ _ hk
  have hk' : k < ((r.setSlot n k (r.slot n k).next).cell n).slots.length := by
    rw [Run.setSlot_eq, Run.cell_setCell]; simpa [Cell.setSlot] using hk
  rw [Run.endCaskTile, Run.modSlot, Run.applyTile_goes _ _ _ hk' (by rw [hs]; exact h), hs]
  rfl

/-! ### Requests of lines (R421) -/

/-- The lines of a request. -/
def runLines (p : Nat × Nat) : List Nat := (List.range p.2).map (p.1 + ·)

theorem runLines_succ (l n : Nat) : runLines (l, n + 1) = l :: runLines (l + 1, n) := by
  simp only [runLines, List.range_succ_eq_map, List.map_cons, List.map_map, Nat.add_zero, List.cons.injEq, true_and]
  exact List.map_congr_left fun i _ => by simp only [Function.comp_apply]; omega

/-- One more line in front joins the first request when it is the one before it and the request has place. -/
theorem runsOf_cons (l : Nat) (ls : List Nat) : runsOf (l :: ls) = (l, 1) :: runsOf ls
    ∨ ∃ n rest, runsOf ls = (l + 1, n) :: rest ∧ n < 4 ∧ runsOf (l :: ls) = (l, n + 1) :: rest := by
  cases h : runsOf ls with
  | nil => simp [runsOf, h]
  | cons p rest =>
    obtain ⟨m, n⟩ := p
    by_cases hm : m = l + 1 ∧ n < 4
    · obtain ⟨rfl, hn⟩ := hm
      exact .inr ⟨n, rest, rfl, hn, by simp [runsOf, h, hn]⟩
    · exact .inl (by simp [runsOf, h, hm])

/-- The requests cover the lines in order, each once. -/
theorem runsOf_lines (ls : List Nat) : (runsOf ls).flatMap runLines = ls := by
  induction ls with
  | nil => rfl
  | cons l ls ih =>
    obtain h | ⟨n, rest, hr, -, h⟩ := runsOf_cons l ls
    · rw [h, List.flatMap_cons, ih]; simp [runLines]
    · rw [hr, List.flatMap_cons] at ih
      rw [h, List.flatMap_cons, runLines_succ, List.cons_append, ih]

/-- Each request has 1 to 4 lines. -/
theorem runsOf_size (ls : List Nat) : ∀ p ∈ runsOf ls, 1 ≤ p.2 ∧ p.2 ≤ 4 := by
  induction ls with
  | nil => simp [runsOf]
  | cons l ls ih =>
    obtain h | ⟨n, rest, hr, hn, h⟩ := runsOf_cons l ls
    · rw [h]; simpa using ih
    · rw [hr] at ih
      rw [h]
      simp only [List.mem_cons, forall_eq_or_imp] at ih ⊢
      exact ⟨⟨by omega, by omega⟩, ih.2⟩

theorem mem_eraseDups {α : Type} [BEq α] [LawfulBEq α] {a : α} {l : List α} : a ∈ l.eraseDups ↔ a ∈ l := by
  induction hn : l.length using Nat.strong_induction_on generalizing l with
  | _ n ih =>
    cases l with
    | nil => simp
    | cons b l =>
      have hlt : (l.filter fun c => !c == b).length < n := by
        have := List.length_filter_le (fun c => !c == b) l
        simp only [List.length_cons] at hn
        omega
      rw [List.eraseDups_cons, List.mem_cons, ih _ hlt rfl, List.mem_filter, List.mem_cons]
      by_cases hab : a = b <;> simp [hab]

theorem nodup_eraseDups {α : Type} [BEq α] [LawfulBEq α] (l : List α) : l.eraseDups.Nodup := by
  induction hn : l.length using Nat.strong_induction_on generalizing l with
  | _ n ih =>
    cases l with
    | nil => simp
    | cons b l =>
      have hlt : (l.filter fun c => !c == b).length < n := by
        have := List.length_filter_le (fun c => !c == b) l
        simp only [List.length_cons] at hn
        omega
      rw [List.eraseDups_cons, List.nodup_cons, mem_eraseDups]
      exact ⟨by simp, ih _ hlt _ rfl⟩

/-- Distinct lines grouped by a key are the same lines. -/
theorem perm_groups (g : Nat → Nat) {ls : List Nat} (h : ls.Nodup) :
    ((ls.map g).eraseDups.flatMap fun i => ls.filter fun l => g l == i).Perm ls := by
  refine (List.perm_ext_iff_of_nodup (List.nodup_flatMap.2 ⟨fun i _ => h.filter _, ?_⟩) h).2 fun l => ?_
  · refine (nodup_eraseDups _).imp fun {i j} hij => ?_
    intro l hi hj
    simp only [List.mem_filter, beq_iff_eq] at hi hj
    exact hij (hi.2.symm.trans hj.2)
  · simp only [List.mem_flatMap, mem_eraseDups, List.mem_map, List.mem_filter, beq_iff_eq]
    exact ⟨fun ⟨_, _, hl, _⟩ => hl, fun hl => ⟨g l, ⟨l, hl, rfl⟩, hl, rfl⟩⟩

/-- The requests of a tile's write-out (R300, R421): 1 to 4 lines each, with their bytes. -/
theorem writeOut_size (k : Slot) (j : Nat) : ∀ w ∈ k.writeOut j, 1 ≤ w.outs.length ∧ w.outs.length ≤ 4 ∧ w.who = .slot j
    ∧ w.outs = (List.range w.outs.length).map fun i => lineOut k.tile.writes (w.line + i) := by
  intro w hw
  simp only [Slot.writeOut, List.mem_flatMap, List.mem_map] at hw
  obtain ⟨i, -, p, hp, rfl⟩ := hw
  obtain ⟨h1, h4⟩ := runsOf_size _ p hp
  simp [h1, h4]

/-- They hold every written line once. -/
theorem writeOut_lines (k : Slot) (j : Nat) :
    ((k.writeOut j).flatMap fun w => (List.range w.outs.length).map (w.line + ·)).Perm
      (k.tile.writes.map fun w => w.addr / 64).eraseDups := by
  have hgroup : ∀ i, ((runsOf ((k.tile.writes.map fun w => w.addr / 64).eraseDups.filter fun l => lineIndex k.tile.writes l == i)).map
      fun p => (⟨p.1, (List.range p.2).map fun j => lineOut k.tile.writes (p.1 + j), .slot j, writeRank (k.opAt i), i, 0⟩ : SpWrite)).flatMap
        (fun w => (List.range w.outs.length).map (w.line + ·))
      = (k.tile.writes.map fun w => w.addr / 64).eraseDups.filter fun l => lineIndex k.tile.writes l == i := by
    intro i
    rw [List.flatMap_map]
    simp only [List.length_map, List.length_range]
    exact runsOf_lines _
  rw [Slot.writeOut, List.flatMap_assoc]
  simp only [hgroup]
  exact perm_groups _ (nodup_eraseDups _)

/-- A tile with bytes has requests. -/
theorem writeOut_ne_nil {k : Slot} (j : Nat) (h : k.tile.writes ≠ []) : k.writeOut j ≠ [] := by
  intro he
  have hp := writeOut_lines k j
  obtain ⟨w, ws, hw⟩ := List.exists_cons_of_ne_nil h
  have hmem : w.addr / 64 ∈ (k.tile.writes.map fun w => w.addr / 64).eraseDups := by
    rw [mem_eraseDups, hw]; simp
  rw [he] at hp
  simpa using hp.mem_iff.2 hmem

theorem writeOut_nil {k : Slot} (j : Nat) (h : k.tile.writes = []) : k.writeOut j = [] := by simp [Slot.writeOut, h]

/-! ### TILE_COMMIT -/

/-- A complete tile commits. -/
theorem TileReady.exec {s : State} {a : Site} {x : Inst} (h : TileReady s a x) {r : Run}
    (hr : (pureRun x).startCommit a.cell a.slot = r) :
    exec (.tileCommit a) s = .next ((s.setInst a.inst r.x).effs a.inst r.effs) := by
  obtain ⟨hw, hc, hu, hp, hwait, hidx, hedge, hfills, hadds, hfeed, hsums, hj⟩ := h
  rw [show Machine.exec (.tileCommit a) s = onSlot s a tileCommit from rfl, onSlot_some _ hw.1 hc hj]
  refine congrArg _ (State.runAt_eq (Eq.trans (if_pos ?_) hr))
  have hin : (((pureRun x).cell a.cell).slot a.slot).inTile = true := decide_eq_true hidx
  have hcell : (pureRun x).cell a.cell = x.cell a.cell := rfl
  rw [hin, hcell, CellUp.cellRuns hw.2 hu, hp, hwait, hedge, hfills, hadds, hfeed, decide_eq_true hsums]
  rfl

theorem TileReady.slot_lt {s : State} {a : Site} {x : Inst} (h : TileReady s a x) : a.slot < (x.cell a.cell).slots.length := by
  obtain ⟨-, -, -, hp, -⟩ := h
  apply Cell.slot_lt
  intro he
  simp [he, Slot.idle] at hp

/-- A tile without memory output takes effect. -/
theorem Run.commitTile_applies {r : Run} {n k : Nat} (h : (r.slot n k).tile.writes = []) : r.commitTile n k = r.applyTile n k := by
  have hw : ((r.cell n).slot k).writeOut k = [] := writeOut_nil k h
  simp only [Run.commitTile, hw, List.isEmpty_nil, if_true]

/-- One with memory output leaves in requests. -/
theorem Run.commitTile_leaves {r : Run} {n k : Nat} (h : (r.slot n k).tile.writes ≠ []) : r.commitTile n k =
    r.setCell n ({ r.cell n with spWrites := (r.cell n).spWrites ++ ((r.cell n).slot k).writeOut k }.setSlot k
      { (r.cell n).slot k with wait := .commit (((r.cell n).slot k).writeOut k).length none }) := by
  have hw : (((r.cell n).slot k).writeOut k).isEmpty = false := by
    rw [Bool.eq_false_iff, ne_eq, List.isEmpty_iff]
    exact writeOut_ne_nil k h
  simp only [Run.commitTile, hw]
  rfl

/-- Settles O27: the branches of the commit, and the requests of a write-out. -/
theorem tileCommits : Obligations.TileCommits := by
  unfold Obligations.TileCommits
  intro s a x c k lines base formed leaves h
  have hgate : ∀ {d : Cell}, (pureRun x).startCommit a.cell a.slot = (pureRun x).setCell a.cell d →
      CellRun (.tileCommit a) s a.at_ x d := fun hr => h.exec hr
  have hstart : k.tile.gathers = [] → (pureRun x).startCommit a.cell a.slot = (pureRun x).commitTile a.cell a.slot := by
    intro hg
    have hg' : (((pureRun x).cell a.cell).slot a.slot).tile.gathers.isEmpty = true := by
      rw [show (((pureRun x).cell a.cell).slot a.slot).tile.gathers = [] from hg]; rfl
    simp only [Run.startCommit, hg', if_true]
  have hgather : k.tile.gathers ≠ [] → (pureRun x).startCommit a.cell a.slot =
      if c.gatherBusy a.slot then pureRun x else if base.isEmpty then (pureRun x).formTile a.cell a.slot
      else (pureRun x).setCell a.cell ((c.request (.slot a.slot) 3 base).setSlot a.slot { k with readBuf := [], wait := .gather }) := by
    intro hg
    have hg' : ¬(((pureRun x).cell a.cell).slot a.slot).tile.gathers.isEmpty = true := by
      rw [List.isEmpty_iff]; exact hg
    exact if_neg hg'
  refine ⟨fun hg hw hgo => ?_, fun hg hw => ?_, fun hg hb hne => ?_, fun hg hb he hf => ?_, fun hg hb => ?_, ?_, ?_⟩
  · have := (hstart hg).trans ((Run.commitTile_applies (r := pureRun x) hw).trans (Run.applyTile_goes _ _ _ h.slot_lt hgo))
    exact h.exec this
  · exact hgate ((hstart hg).trans (Run.commitTile_leaves hw))
  · refine hgate ((hgather hg).trans ?_)
    rw [if_neg (by rw [hb]; decide), if_neg (by rw [List.isEmpty_iff]; exact hne)]
    rfl
  · refine hgate ((hgather hg).trans ?_)
    rw [if_neg (by rw [hb]; decide), if_pos (by rw [he]; rfl)]
    let k1 : Slot := { k with tile := { k.tile with writes := k.tile.writes ++ formed.1, led := k.tile.led.add formed.2 } }
    have hslot : (c.setSlot a.slot k1).slot a.slot = k1 := Cell.slot_setSlot _ _ _ h.slot_lt
    have hcell : ((pureRun x).setSlot a.cell a.slot k1).cell a.cell = c.setSlot a.slot k1 := Run.cell_setCell ..
    have hwr : (((pureRun x).setSlot a.cell a.slot k1).slot a.cell a.slot).tile.writes ≠ [] := by
      rw [Run.slot_setSlot _ _ _ _ h.slot_lt]
      exact fun hn => hf (List.append_eq_nil_iff.1 hn).2
    refine (Run.commitTile_leaves hwr).trans ?_
    rw [hcell, hslot, Run.setSlot_eq, Run.setCell_setCell]
    exact congrArg (fun d : Cell => (pureRun x).setCell a.cell { d with spWrites := c.spWrites ++ k1.writeOut a.slot })
      (Cell.setSlot_setSlot c a.slot k1 _)
  · have := (hgather hg).trans (if_pos hb)
    exact h.exec this
  · exact writeOut_size k a.slot
  · exact writeOut_lines k a.slot

/-! ### The end of a program -/

/-- The cell once the program of slot k has ended (R206, R221): its tile is dropped, its claims are zeroed, its end summary is
posted, its slot is free. -/
def leftCell (c : Cell) (drop : Bool) (k : Nat) (v : Word) : Cell :=
  ((((c.dropTile drop k).settled k).zeroClaims (c.slot k).launch).postSummary (launchTag (c.slot k).launch) 0xFFFF v).setSlot k Slot.idle

theorem unclose_ready {c : Cell} {k : Nat} (h : (c.slot k).wait = .ready) : c.unclose k = c := by
  simp only [Cell.unclose, h]

/-- A tile that is dropped while its slot waits for no close: the drained tiles that it bound are free again, and its requests,
windows and operand vectors are nobody's. -/
theorem dropTile_kept {c : Cell} {k : Nat} (h : (c.slot k).wait = .ready) :
    ∃ d, c.dropTile false k = d ∧ d = { c with drain := d.drain, spReads := d.spReads, spWrites := d.spWrites, feedQ := d.feedQ
                                               casks := c.casks.map fun p => (p.1, { p.2 with wins := p.2.wins.filter (· != k) }) } := by
  have hslot : ((((c.letTiles false ((c.slot k).tile.bound ++ (c.slot k).tile.kept ++ (c.slot k).fills.map Fill.id)).orphan
      (.slot k)).closeWins k).dropFeeds k noSlot).slot k = c.slot k := rfl
  refine ⟨_, rfl, ?_⟩
  rw [Cell.dropTile, unclose_ready (by rw [hslot]; exact h)]
  rfl

/-- A slot that does not wait reserves no place for summaries. -/
theorem reserved_setSlot_le (c : Cell) (k : Nat) {s : Slot} (h : s.wait = .ready) : (c.setSlot k s).reserved ≤ c.reserved := by
  have hset : ∀ (l : List Slot) (f : Slot → Nat), f s = 0 → ∀ k, ((l.set k s).map f).sum ≤ (l.map f).sum := by
    intro l f hf
    induction l with
    | nil => simp
    | cons t l ih =>
      intro k
      cases k with
      | zero => simp [hf]
      | succ k => simpa using ih k
  exact hset c.slots _ (by simp only [h]) k

/-- With place for its end summary, a program that ends with success leaves at once (R206, R244, R289). -/
theorem Run.endProgram_ok {r : Run} {n k : Nat} (hk : k < (r.cell n).slots.length) (hw : (r.slot n k).wait = .ready)
    (h : (r.cell n).summaries + (r.cell n).reserved < 16) : r.endProgram n k 0 false 0 [] =
      { x := (r.x.orphanXlate n k).setCell n (leftCell (r.cell n) false k (BitVec.ofNat 32 (flagAt (r.slot n k).empty 16)))
        effs := r.effs ++ [.record (recProgram (r.slot n k).empty false 0 (wordAt (r.slot n k).launch 0)
          (launchTag (r.slot n k).launch) n k 0 [])] } := by
  obtain ⟨d, hd, hframe⟩ := dropTile_kept (c := r.cell n) hw
  let s1 : Slot := { r.slot n k with
    phase := .ending 0 false 0 [], fills := [], wait := .ready, readBuf := []
    feedOld := Led.zero, feedNew := [], tile := TileBuf.at (r.slot n k).idx none MashRun.none Led.zero }
  have hdrop : (r.cell n).dropTile (dropsTiles 0 false) k = d := hd
  have hslots : d.slots = (r.cell n).slots := by rw [hframe]
  have hlen : k < d.slots.length := by rw [hslots]; exact hk
  have hroom : (d.setSlot k s1).summaries + (d.setSlot k s1).reserved < 16 := by
    have h1 : (d.setSlot k s1).summaries = (r.cell n).summaries := by rw [hframe]; rfl
    have h2 : (d.setSlot k s1).reserved ≤ (r.cell n).reserved := by
      refine (reserved_setSlot_le d k rfl).trans (le_of_eq ?_)
      rw [Cell.reserved, hslots]; rfl
    omega
  let r1 : Run := { r with x := (r.x.setCell n (d.setSlot k s1)).orphanXlate n k }
  have hcell : r1.cell n = d.setSlot k s1 := Inst.cell_setCell r.x n _
  have hs1 : (r1.cell n).slot k = s1 := by rw [hcell]; exact Cell.slot_setSlot _ _ _ hlen
  have hend : r.endProgram n k 0 false 0 [] = r1.release n k 0 false 0 [] := by
    simp only [Run.endProgram, hdrop]
    exact if_pos hroom
  have hv : 0 % 2 ^ 16 + flagAt s1.empty 16 + flagAt false 17 = flagAt (r.slot n k).empty 16 := by simp [flagAt, s1]
  rw [hend]
  simp only [Run.release, hs1, hv]
  rw [hcell, leftCell, hd]
  let v : Word := BitVec.ofNat 32 (flagAt (r.slot n k).empty 16)
  let left (e : Cell) : Cell := ((e.settled k).zeroClaims s1.launch).postSummary (launchTag s1.launch) 0xFFFF v
  have hleft : (left (d.setSlot k s1)).setSlot k Slot.idle = (left d).setSlot k Slot.idle := Cell.setSlot_setSlot (left d) k s1 _
  have hx : r1.x.setCell n ((left (d.setSlot k s1)).setSlot k Slot.idle)
      = (r.x.orphanXlate n k).setCell n ((left d).setSlot k Slot.idle) := by
    rw [hleft]
    exact Inst.setCell_setCell (r.x.orphanXlate n k) n _ _
  exact congrArg (fun y : Inst => (⟨y, r.effs ++ [_]⟩ : Run)) hx

/-- A program that stands at its end, with nothing of its tile left, ends with success (R206). -/
theorem Run.endIfDone_ends {r : Run} {n k : Nat} (hp : (r.slot n k).phase = .running) (ha : (r.cell n).addsOpen k = false)
    (hw : (r.slot n k).wait = .ready) (hi : (r.slot n k).idx = (r.slot n k).prog.length) (ht : (r.slot n k).tile.start = (r.slot n k).idx)
    (hf : r.x.flt.failstop = false) : r.endIfDone n k = r.endProgram n k 0 false 0 [] := by
  have hslot : (r.cell n).slot k = r.slot n k := rfl
  simp only [Run.endIfDone, hslot, hw]
  rw [if_pos ⟨hp, by rw [ha]; rfl⟩, if_pos ⟨hi, ht⟩, if_neg (by rw [hf]; decide)]

/-- The last tile of a program outside every loop commits: the program ends with success. -/
theorem Run.applyTile_ends {r : Run} {n k : Nat} (hk : k < (r.cell n).slots.length) (hp : (r.slot n k).phase = .running)
    (hl : (r.slot n k).loop = none) (hi : (r.slot n k).idx = (r.slot n k).prog.length) (ha : (r.cell n).addsOpen k = false)
    (hsums : (r.slot n k).tile.sums = []) (hc : (r.slot n k).tile.closes = none) (hf : r.x.flt.failstop = false)
    (hroom : (r.cell n).summaries + (r.cell n).reserved < 16) :
    ∃ (y : Inst) (d : Cell), r.applyTile n k =
        { x := y.setCell n (leftCell d false k (BitVec.ofNat 32 (flagAt (r.slot n k).empty 16)))
          effs := r.effs ++ tileSigs (r.slot n k) ++ [.record (recProgram (r.slot n k).empty false 0 (wordAt (r.slot n k).launch 0)
            (launchTag (r.slot n k).launch) n k 0 [])] }
      ∧ d = { r.cell n with drain := d.drain, recov := d.recov, slots := d.slots } ∧ (d.slot k).wait = .ready
      ∧ (d.slot k).launch = (r.slot n k).launch ∧ k < d.slots.length := by
  let r2 : Run := { x := (booked r.x n k).setCell n (commitCell r.x (booked r.x n k) n k), effs := r.effs ++ tileSigs (r.slot n k) }
  let t : Slot := { (r.slot n k).newTile with wait := .ready }
  let c2 : Cell := commitCell r.x (booked r.x n k) n k
  let r3 : Run := r2.setCell n (c2.setSlot k t)
  have hslots : c2.slots = (r.cell n).slots := commitCell_slots _ _ _ _
  have hframe : c2 = { r.cell n with drain := c2.drain, recov := c2.recov } := by
    have hs : (r.x.slot n k).tile.sums = [] := hsums
    have hcl : (r.x.slot n k).tile.closes = none := hc
    have hfree : ∀ (l : List Nat) (c : Cell), l.foldl Cell.freeTile c = { c with drain := (l.foldl Cell.freeTile c).drain } := by
      intro l
      induction l with
      | nil => exact fun c => rfl
      | cons i l ih => intro c; rw [List.foldl_cons, ih]; rfl
    simp only [c2, commitCell, postedCell, hs, hcl, closeOf, List.foldl_nil]
    rw [hfree]
    rfl
  have hlen : k < c2.slots.length := by rw [hslots]; exact hk
  have hcell2 : r2.cell n = c2 := Inst.cell_setCell ..
  have hslot2 : r2.slot n k = r.slot n k := by
    have : (r2.cell n).slot k = (r.cell n).slot k := by rw [hcell2, Cell.slot, hslots]; rfl
    exact this
  have hadv : r2.advance n k = r3.endIfDone n k := by
    simp only [Run.advance, hslot2, hl]
    rw [Run.setSlot_eq, hcell2]
  have hcell3 : r3.cell n = c2.setSlot k t := Run.cell_setCell ..
  have hslot3 : r3.slot n k = t := by
    have : (r3.cell n).slot k = t := by rw [hcell3]; exact Cell.slot_setSlot _ _ _ hlen
    exact this
  have hroom3 : (r3.cell n).summaries + (r3.cell n).reserved < 16 := by
    have h1 : (c2.setSlot k t).summaries = (r.cell n).summaries := by rw [hframe]; rfl
    have h2 : (c2.setSlot k t).reserved ≤ (r.cell n).reserved := by
      refine (reserved_setSlot_le c2 k rfl).trans (le_of_eq ?_)
      rw [Cell.reserved, hslots]; rfl
    rw [hcell3]
    omega
  have hadd3 : (r3.cell n).addsOpen k = false := by rw [hcell3, hframe]; exact ha
  have hend := Run.endIfDone_ends (r := r3) (n := n) (k := k) (by rw [hslot3]; exact hp) hadd3 (by rw [hslot3])
    (by rw [hslot3]; exact hi) (by rw [hslot3]; rfl) hf
  have hok := Run.endProgram_ok (r := r3) (n := n) (k := k) (by rw [hcell3]; simpa [Cell.setSlot] using hlen)
    (by rw [hslot3]) hroom3
  refine ⟨r3.x.orphanXlate n k, c2.setSlot k t, ?_, ?_, ?_, ?_, ?_⟩
  · rw [Run.applyTile_eq]
    refine hadv.trans (hend.trans (hok.trans ?_))
    rw [hcell3, hslot3]
    rfl
  · rw [hframe]; rfl
  · rw [Cell.slot_setSlot _ _ _ hlen]
  · rw [Cell.slot_setSlot _ _ _ hlen]; rfl
  · simpa [Cell.setSlot] using hlen

/-- Settles O28. -/
theorem programEnds : Obligations.ProgramEnds := by
  unfold Obligations.ProgramEnds
  intro s a x c k h hg hwr hsums hcl hl hidx hroom
  have hk : a.slot < ((pureRun x).cell a.cell).slots.length := h.slot_lt
  have hexec := fun {r} => h.exec (r := r)
  obtain ⟨hw, -, -, hp, -, -, -, -, hadds, -⟩ := h
  obtain ⟨y, d, hrun, hframe, hwait, hlaunch, hlen⟩ := Run.applyTile_ends (r := pureRun x) hk hp hl hidx hadds hsums hcl
    (Inst.awake_parts hw.2).2.1 hroom
  have hstart : (pureRun x).startCommit a.cell a.slot = (pureRun x).applyTile a.cell a.slot := by
    have hg' : (((pureRun x).cell a.cell).slot a.slot).tile.gathers.isEmpty = true := by
      rw [show (((pureRun x).cell a.cell).slot a.slot).tile.gathers = [] from hg]; rfl
    simp only [Run.startCommit, hg', if_true]
    exact Run.commitTile_applies (r := pureRun x) hwr
  obtain ⟨e, he, heframe⟩ := dropTile_kept hwait
  let v : Word := BitVec.ofNat 32 (flagAt k.empty 16)
  have hcell : (y.setCell a.cell (leftCell d false a.slot v)).cell a.cell =
      (((e.settled a.slot).zeroClaims k.launch).postSummary (launchTag k.launch) 0xFFFF v).setSlot a.slot Slot.idle := by
    rw [Inst.cell_setCell, leftCell, he, hlaunch]
    rfl
  have hvits : e.vits = c.vits ∧ e.masks = c.masks ∧ e.outQ = c.outQ ∧ e.slots = d.slots := by
    rw [heframe, hframe]
    exact ⟨rfl, rfl, rfl, rfl⟩
  obtain ⟨hvits, hmasks, hout, hslots⟩ := hvits
  refine ⟨y.setCell a.cell (leftCell d false a.slot v), hexec (hstart.trans hrun), ?_, fun i hi => ?_, fun i hi => ?_, fun i hi => ?_, ?_⟩
  · rw [Inst.slot, hcell]
    exact Cell.slot_setSlot _ _ _ (by simpa [Cell.postSummary, Cell.zeroClaims, Cell.settled, hslots] using hlen)
  · rw [hcell]
    exact (Cell.zeroClaims_vit (e.settled a.slot) k.launch i).trans (if_pos hi)
  · rw [hcell]
    exact (Cell.zeroClaims_mask (e.settled a.slot) k.launch i).trans (if_pos hi)
  · rw [hcell]
    refine ((Cell.zeroClaims_vit (e.settled a.slot) k.launch i).trans (if_neg (by rw [hi]; decide))).trans ?_
    rw [Cell.vit, Cell.vit, ← hvits]; rfl
  · rw [hcell]
    exact congrArg (· ++ _) hout

end Sys2Proof


/-! SUPPORT. The cask table: what the entries of a table are after a change, and the proofs of the statements about the opening and
the closing of a cask. -/

namespace Sys2Proof

open Sys2Proof.Machine

/-- An instruction whose run is known. -/
theorem Ready.runs {s : State} {a : Site} {x : Inst} {o : TileOp} {r : Run} {pro : Prologue} (h : Ready s a x o)
    (ho : o.isFeed = false) (hi : (pureRun x).issue (s.env a.inst) a.cell a.slot o = r) :
    Machine.exec (cmdOf o a pro) s = .next ((s.setInst a.inst r.x).effs a.inst r.effs) :=
  (h.exec ho).trans (congrArg _ (State.runAt_eq (f := fun e y => (pureRun y).issue e a.cell a.slot o) hi))

/-- A cask instruction that has left its cell as d, and its slot as it was, is a tile of its own (R217). -/
theorem Run.endCaskTile_setCell {x : Inst} {n k : Nat} {d : Cell} (hk : k < (x.cell n).slots.length)
    (hs : d.slots = (x.cell n).slots) (h : GoesOn (x.slot n k).next) :
    ((pureRun x).setCell n d).endCaskTile n k =
      { x := tileDone (x.setCell n (d.setSlot k (x.slot n k).next)) n k, effs := tileSigs (x.slot n k) } := by
  have hslot : ((pureRun x).setCell n d).slot n k = x.slot n k := by
    rw [Run.slot_setCell, Cell.slot, hs]; rfl
  have hset : (x.setCell n d).setSlot n k (x.slot n k).next = x.setCell n (d.setSlot k (x.slot n k).next) := by
    rw [Inst.setSlot, Inst.cell_setCell, Inst.setCell_setCell]
  rw [Run.endCaskTile_goes _ _ _ (by rw [Run.cell_setCell, hs]; exact hk) (by rw [hslot]; exact h), hslot, ← hset]
  rfl

/-! ### A table with one entry changed -/

/-- A new key joins a table. -/
theorem put_perm {α : Type} {k : Nat} {v : α} {t : Tbl α} (h : ∀ p ∈ t, p.1 ≠ k) : (Tbl.put k v t).Perm ((k, v) :: t) := by
  induction t with
  | nil => exact .refl _
  | cons p t ih =>
    obtain ⟨i, w⟩ := p
    have hi : i ≠ k := h (i, w) List.mem_cons_self
    simp only [Tbl.put]
    split
    · exact .refl _
    · rw [if_neg (Ne.symm hi)]
      exact ((ih fun p hp => h p (List.mem_cons_of_mem _ hp)).cons _).trans (.swap _ _ _)

/-- What a changed key reads. -/
theorem find_put {α : Type} (k : Nat) (v : α) (t : Tbl α) : (Tbl.put k v t).find? (fun p => p.1 == k) = some (k, v) := by
  induction t with
  | nil => simp [Tbl.put]
  | cons p t ih =>
    obtain ⟨i, w⟩ := p
    simp only [Tbl.put]
    split
    · simp
    · split
      · simp
      · rename_i hk hne
        rw [List.find?_cons_of_neg (by simpa using fun e => hne e.symm)]
        exact ih

/-- Every entry of a changed table is the new one or an old one of another key, when the keys rise. -/
theorem mem_put {α : Type} {k : Nat} {v : α} {t : Tbl α} (h : (t.map Prod.fst).Pairwise (· < ·)) {p : Nat × α}
    (hp : p ∈ Tbl.put k v t) : p = (k, v) ∨ p ∈ t ∧ p.1 ≠ k := by
  induction t with
  | nil => simpa [Tbl.put] using hp
  | cons q t ih =>
    obtain ⟨i, w⟩ := q
    obtain ⟨hlt, hs⟩ := List.pairwise_cons.1 h
    have hgt : ∀ r ∈ t, i < r.1 := fun r hr => hlt _ (List.mem_map_of_mem hr)
    simp only [Tbl.put] at hp
    split at hp
    · rename_i hk
      obtain rfl | hp := List.mem_cons.1 hp
      · exact .inl rfl
      · refine .inr ⟨hp, ?_⟩
        obtain rfl | hp := List.mem_cons.1 hp
        · exact fun e : i = k => by omega
        · have := hgt p hp; omega
    · split at hp
      · rename_i hk
        obtain rfl | hp := List.mem_cons.1 hp
        · exact .inl rfl
        · have := hgt p hp
          exact .inr ⟨List.mem_cons_of_mem _ hp, by omega⟩
      · rename_i hk
        obtain rfl | hp := List.mem_cons.1 hp
        · exact .inr ⟨List.mem_cons_self, fun e : i = k => hk e.symm⟩
        · obtain rfl | ⟨hp, hne⟩ := ih hs hp
          · exact .inl rfl
          · exact .inr ⟨List.mem_cons_of_mem _ hp, hne⟩

theorem put_keys_above {α : Type} {k i : Nat} {v : α} {t : Tbl α} (hk : i < k) (h : ∀ p ∈ t, i < p.1) :
    ∀ p ∈ Tbl.put k v t, i < p.1 := by
  induction t with
  | nil => simpa [Tbl.put] using hk
  | cons q t ih =>
    obtain ⟨j, w⟩ := q
    intro p hp
    simp only [Tbl.put] at hp
    split at hp
    · obtain rfl | hp := List.mem_cons.1 hp
      · exact hk
      · exact h p hp
    · split at hp
      · obtain rfl | hp := List.mem_cons.1 hp
        · exact hk
        · exact h p (List.mem_cons_of_mem _ hp)
      · obtain rfl | hp := List.mem_cons.1 hp
        · exact h _ List.mem_cons_self
        · exact ih (fun p hp => h p (List.mem_cons_of_mem _ hp)) p hp

/-- The keys still rise. -/
theorem put_keys {α : Type} {k : Nat} {v : α} {t : Tbl α} (h : (t.map Prod.fst).Pairwise (· < ·)) :
    ((Tbl.put k v t).map Prod.fst).Pairwise (· < ·) := by
  induction t with
  | nil => simp [Tbl.put]
  | cons q t ih =>
    obtain ⟨i, w⟩ := q
    obtain ⟨hlt, hs⟩ := List.pairwise_cons.1 h
    have hgt : ∀ r ∈ t, i < r.1 := fun r hr => hlt _ (List.mem_map_of_mem hr)
    simp only [Tbl.put]
    split
    · rename_i hk
      refine List.pairwise_cons.2 ⟨fun j hj => ?_, h⟩
      obtain ⟨p, hp, rfl⟩ := List.mem_map.1 hj
      obtain rfl | hp := List.mem_cons.1 hp
      · exact hk
      · exact hk.trans (hgt p hp)
    · split
      · rename_i hk
        subst hk
        exact List.pairwise_cons.2 ⟨hlt, hs⟩
      · refine List.pairwise_cons.2 ⟨fun j hj => ?_, ih hs⟩
        obtain ⟨p, hp, rfl⟩ := List.mem_map.1 hj
        exact put_keys_above (by omega) hgt p hp

/-! ### Casks -/

theorem caskAt_setCask (c : Cell) (e : Nat) (q : Cask) : Cell.caskAt (c.setCask e q) e = some q := by
  rw [Cell.caskAt, Cell.setCask, find_put]; rfl

/-- Two ranges apart (R127). -/
def Apart (p q : Nat × Cask) : Prop := p.2.base + 0x4000 ≤ q.2.base ∨ q.2.base + 0x4000 ≤ p.2.base

theorem casksOk_congr {c d : Cell} (h : d.casks = c.casks) (hc : CasksOk c) : CasksOk d := by
  unfold CasksOk at hc ⊢
  rwa [h]

/-- A well-kept table takes a cask at a free entry, in a range apart (R127). -/
theorem casksOk_open {c : Cell} {e : Nat} {q : Cask} (hc : CasksOk c) (he : ∀ p ∈ c.casks, p.1 ≠ e)
    (hfit : q.base + 0x4000 ≤ 2 ^ 20) (hI : q.I = q.D + q.adds.length) (hA : q.I ≤ q.A)
    (hap : ∀ p ∈ c.casks, Apart (e, q) p) : CasksOk (c.setCask e q) := by
  obtain ⟨hkeys, hall, hapart⟩ := hc
  have hperm : (c.setCask e q).casks.Perm ((e, q) :: c.casks) := put_perm he
  refine ⟨put_keys hkeys, fun p hp => ?_, ?_⟩
  · obtain rfl | hp := List.mem_cons.1 (hperm.mem_iff.1 hp)
    · exact ⟨hfit, hI, hA⟩
    · exact hall p hp
  · exact (hperm.pairwise_iff (R := Apart) fun h => h.symm).2 (List.pairwise_cons.2 ⟨hap, hapart⟩)

theorem freeEntry_free {c : Cell} {e : Nat} (h : c.freeEntry = some e) : ∀ p ∈ c.casks, p.1 ≠ e := by
  have := List.find?_some h
  simpa using this

/-- An open that fails a check. -/
theorem Run.caskOpen_fails {r : Run} {n k group base cnt : Nat} {init bound chain : Bool} {rs code : Nat}
    (h : openCheck r.x (r.cell n) (ownerOf ((r.cell n).slot k).launch) group base (scalarOf ((r.cell n).slot k).launch cnt).toNat
      init bound chain (openRows chain init ((r.cell n).vit rs)) = code) (hne : code ≠ 0) :
    r.caskOpen n k group base cnt init bound chain rs = r.failHere n k code := by
  simp only [Run.caskOpen, h]
  rw [if_pos hne]

/-- One that passes them all. -/
theorem Run.caskOpen_opens {r : Run} {n k group base cnt : Nat} {init bound chain : Bool} {rs e : Nat}
    (h : openCheck r.x (r.cell n) (ownerOf ((r.cell n).slot k).launch) group base (scalarOf ((r.cell n).slot k).launch cnt).toNat
      init bound chain (openRows chain init ((r.cell n).vit rs)) = 0) (he : (r.cell n).freeEntry = some e) :
    r.caskOpen n k group base cnt init bound chain rs = (r.setCell n { (r.cell n).setCask e
      { no := (r.cell n).opens, owner := ownerOf ((r.cell n).slot k).launch, group := group, base := base
        A := (scalarOf ((r.cell n).slot k).launch cnt).toNat, I := 0, D := 0, init := init, bound := bound, chain := chain
        rows := openRows chain init ((r.cell n).vit rs), adds := [], wins := [], closing := false } with
      opens := (r.cell n).opens + 1 }).endCaskTile n k := by
  simp only [Run.caskOpen, h, he]
  rw [if_neg (by simp)]

/-- Settles O22: the checks of R127 in their order, then the new entry. -/
theorem caskOpens : Obligations.CaskOpens := by
  unfold Obligations.CaskOpens
  classical
  intro s a x group base cnt init bound chain rs c k v A rows q fits new apart small free counts fail h
  have hctl : (pureRun x).issue (s.env a.inst) a.cell a.slot (.caskOpen group base cnt init bound chain rs)
      = (pureRun x).caskOpen a.cell a.slot group base cnt init bound chain rs := issue_control rfl rfl
  let check := openCheck x c v group base A init bound chain rows
  have hfail : ∀ code, check = code → code ≠ 0 → fail code := by
    intro code hcode hne
    exact h.fails (pro := .none) rfl (hctl.trans (Run.caskOpen_fails (r := pureRun x) hcode hne))
  have hfits : ¬fits ↔ 2 ^ 20 < base + 0x4000 := by simp only [fits, not_le]
  have hnew : ¬new ↔ (c.findCask v group).isSome = true := Option.isSome_iff_ne_none.symm
  have hapart : ¬apart ↔ (c.casks.any fun p => decide (base < p.2.base + 0x4000) && decide (p.2.base < base + 0x4000)) = true := by
    simp only [apart, List.any_eq_true, Bool.and_eq_true, decide_eq_true_eq, not_forall, not_or, not_le, exists_prop]
    exact exists_congr fun p => and_congr_right fun _ => And.comm
  have hsmall : ¬small ↔ (if bound then 2 ^ 22 else 2 ^ 32 - 1) < A + (if init then 1 else 0) + (if chain then A else 0) := by
    simp only [small, not_le]
  have hfree : (∀ e, ¬free e) ↔ (c.freeEntry.isNone || decide (32 ≤ x.caskCount v)) = true := by
    rw [Bool.or_eq_true, decide_eq_true_eq, Option.isNone_iff_eq_none]
    refine ⟨fun hf => ?_, fun hf e he => ?_⟩
    · cases hentry : c.freeEntry with
      | none => exact .inl rfl
      | some e => exact .inr (not_lt.1 fun hlt => hf e ⟨hentry, hlt⟩)
    · obtain hf | hf := hf
      · exact absurd (hf.symm.trans he.1) (by simp)
      · exact absurd he.2 (not_lt.2 hf)
  have hcounts : ¬counts ↔ (chain && init && rows.any fun s => decide (2 ^ 22 < s.posC)) = true := by
    simp only [counts, Bool.and_eq_true, List.any_eq_true, decide_eq_true_eq, not_forall, not_le, exists_prop, and_assoc]
  have hcheck : check = if ¬fits then 0x0003 else if ¬new then 0x0020 else if ¬apart then 0x0021 else if ¬small then 0x0022
      else if ∀ e, ¬free e then 0x0023 else if ¬counts then 0x0028 else 0 := by
    simp only [hfits, hnew, hapart, hsmall, hfree, hcounts]
    rfl
  refine ⟨fun e h1 h2 h3 h4 h5 h6 hgo => ?_, fun h1 => ?_, fun h1 h2 => ?_, fun h1 h2 h3 => ?_, fun h1 h2 h3 h4 => ?_,
    fun h1 h2 h3 h4 h5 => ?_, fun e h1 h2 h3 h4 h5 h6 => ?_⟩
  · have hzero : check = 0 := by
      rw [hcheck, if_neg (not_not.2 h1), if_neg (not_not.2 h2), if_neg (not_not.2 h3), if_neg (not_not.2 h4),
        if_neg (fun hf => hf e h5), if_neg (not_not.2 h6)]
    refine ⟨?_, fun hok => casksOk_open hok (freeEntry_free h5.1) h1 rfl (Nat.zero_le _) h3⟩
    let d : Cell := { c.setCask e q with opens := c.opens + 1 }
    have hopen : (pureRun x).caskOpen a.cell a.slot group base cnt init bound chain rs
        = ((pureRun x).setCell a.cell d).endCaskTile a.cell a.slot := Run.caskOpen_opens (r := pureRun x) hzero h5.1
    exact h.runs (pro := .none) rfl (hctl.trans (hopen.trans (Run.endCaskTile_setCell (d := d) h.slot_lt rfl hgo)))
  · exact hfail _ (by rw [hcheck, if_pos h1]) (by decide)
  · exact hfail _ (by rw [hcheck, if_neg (not_not.2 h1), if_pos h2]) (by decide)
  · exact hfail _ (by rw [hcheck, if_neg (not_not.2 h1), if_neg (not_not.2 h2), if_pos h3]) (by decide)
  · exact hfail _ (by rw [hcheck, if_neg (not_not.2 h1), if_neg (not_not.2 h2), if_neg (not_not.2 h3), if_pos h4]) (by decide)
  · exact hfail _ (by rw [hcheck, if_neg (not_not.2 h1), if_neg (not_not.2 h2), if_neg (not_not.2 h3), if_neg (not_not.2 h4),
      if_pos h5]) (by decide)
  · exact hfail _ (by rw [hcheck, if_neg (not_not.2 h1), if_neg (not_not.2 h2), if_neg (not_not.2 h3), if_neg (not_not.2 h4),
      if_neg (fun hf => hf e h5), if_pos h6]) (by decide)

/-- A released cask has left its table. -/
theorem caskAt_release (c : Cell) (e : Nat) : Cell.caskAt (c.releaseCask e) e = none := by
  have hnone : (c.releaseCask e).casks.find? (fun p => p.1 == e) = none := by
    unfold Cell.releaseCask
    split
    · assumption
    · rw [List.find?_eq_none]
      intro p hp
      have := List.of_mem_filter hp
      simpa using this
  rw [Cell.caskAt, hnone]; rfl

section
variable {r : Run} {n k e no : Nat} (hw : (r.slot n k).wait = .close e no) (ha : (r.cell n).addsOpen k = false)
include hw ha

/-- A close whose cask has no add in progress releases it. -/
theorem Run.closeDone_releases {p : Nat × Cask} (hf : (r.cell n).casks.find? (fun p => p.1 == e && p.2.no == no) = some p)
    (he : p.2.adds = []) : r.closeDone n k = (r.setCell n ((r.cell n).releaseCask e)).endCaskTile n k := by
  have hw' : ((r.cell n).slot k).wait = .close e no := hw
  simp only [Run.closeDone, hw', ha, hf, he, List.isEmpty_nil, if_true, Bool.false_eq_true, if_false]

theorem Run.closeDone_waits {p : Nat × Cask} (hf : (r.cell n).casks.find? (fun p => p.1 == e && p.2.no == no) = some p)
    (he : p.2.adds ≠ []) : r.closeDone n k = r := by
  have hw' : ((r.cell n).slot k).wait = .close e no := hw
  have he' : p.2.adds.isEmpty = false := by simpa using he
  simp only [Run.closeDone, hw', ha, hf, he', Bool.false_eq_true, if_false]

theorem Run.closeDone_closed (hf : (r.cell n).casks.find? (fun p => p.1 == e && p.2.no == no) = none) :
    r.closeDone n k = r.endCaskTile n k := by
  have hw' : ((r.cell n).slot k).wait = .close e no := hw
  simp only [Run.closeDone, hw', ha, hf, Bool.false_eq_true, if_false]

end

/-- Settles O26. -/
theorem caskCloses : Obligations.CaskCloses := by
  unfold Obligations.CaskCloses
  intro s a x group c k
  have hctl : (pureRun x).issue (s.env a.inst) a.cell a.slot (.caskClose group) = (pureRun x).caskClose a.cell a.slot group :=
    issue_control rfl rfl
  refine ⟨fun e q hf h => ?_, fun hf h => ?_, fun e no hwait hadds hw hc hu hj hp hgo => ?_⟩
  · refine h.cell_run (pro := .none) rfl (hctl.trans ?_)
    have hf' : ((pureRun x).cell a.cell).findCask (ownerOf (((pureRun x).cell a.cell).slot a.slot).launch) group = some (e, q) := hf
    simp only [Run.caskClose, hf']
    rfl
  · refine h.fails (pro := .none) rfl (hctl.trans ?_)
    have hf' : ((pureRun x).cell a.cell).findCask (ownerOf (((pureRun x).cell a.cell).slot a.slot).launch) group = none := hf
    simp only [Run.caskClose, hf']
    rfl
  · intro found goesOn
    have hk : a.slot < (x.cell a.cell).slots.length := by
      apply Cell.slot_lt
      intro he
      have : (x.slot a.cell a.slot).phase = .running := hp
      simp [Inst.slot, he, Slot.idle] at this
    have hex : ∀ r, (pureRun x).closeDone a.cell a.slot = r →
        exec (.caskCloseDone a) s = .next ((s.setInst a.inst r.x).effs a.inst r.effs) := by
      intro r hr
      rw [show exec (.caskCloseDone a) s = execCaskCloseDone a s from rfl, execCaskCloseDone, onSlot_some _ hw.1 hc hj]
      refine congrArg _ (State.runAt_eq ?_)
      exact (if_pos ⟨CellUp.cellRuns hw.2 hu, hp⟩).trans hr
    have hdone : ∀ d : Cell, d.slots = c.slots → (pureRun x).closeDone a.cell a.slot
        = ((pureRun x).setCell a.cell d).endCaskTile a.cell a.slot → goesOn d := fun d hd hr =>
      hex _ (hr.trans (Run.endCaskTile_setCell (d := d) hk hd hgo))
    exact ⟨fun p hfd hempty => ⟨caskAt_release c e, hdone _ (Cell.releaseCask_slots c e)
        (Run.closeDone_releases (r := pureRun x) hwait hadds hfd hempty)⟩,
      fun p hfd hne => hex (pureRun x) (Run.closeDone_waits (r := pureRun x) hwait hadds hfd hne),
      fun hfd => hex _ ((Run.closeDone_closed (r := pureRun x) hwait hadds hfd).trans
        (Run.endCaskTile_goes (pureRun x) _ _ hk hgo))⟩

end Sys2Proof


/-! SUPPORT. Statements about casks that fail on a cask table with two casks at one entry: the model keeps such a table as it is,
`findCask` finds the second by its group, the cask unit finds the first by its entry. -/

namespace Sys2Proof

open Sys2Proof.Machine

/-! ### A small package -/

/-- A die whose cell 0 is c, with a running channel 0 and a structure stream in force. -/
def runningDie (c : Cell) : Inst :=
  { Inst.reset 1 0 200 with
    cells := [(0, c)], vcs := [(0, { Vc.free with st := .running, ctx := some 0, weight := 1 })]
    stream := { Stream.none with inForce := true } }

/-- A package of one die. -/
def soleDie (x : Inst) : State := { State.reset with insts := [x] }

/-- A slot of channel 0 that runs a program of one word, twice. -/
def wordSlot (w : BitVec 64) : Slot :=
  { Slot.idle with phase := .running, launch := [0x00010000#32, 0#32, 0#32, 0x00BE0303#32], prog := [w, w] }

/-- Slot 0 of cell 0 of die 0. -/
def site0 : Site := { inst := 0, cell := 0, slot := 0 }

/-! ### An add at a doubled entry -/

/-- An add whose committed half is loaded and whose store has not begun. -/
def loadedAdd : CaskAdd :=
  { slot := 1, index := 0, iter := 0, src := .words [], step := []
    load := some (List.replicate 128 { line := 0, resp := 0, data := 0 }), tslot := 0, storing := false, led := Led.zero }

/-- An empty cask of group 8 and, at the same entry, one of group 7 with that add. -/
def doubledCell : Cell :=
  let q : Cask := { no := 0, owner := 0, group := 8, base := 0x4000, A := 2, I := 0, D := 0, init := false, bound := true, chain := false
                    rows := [], adds := [], wins := [], closing := false }
  { Cell.reset with
    slots := [wordSlot 0x4100000076000000#64, Slot.idle, Slot.idle, Slot.idle]
    casks := [(3, q), (3, { q with group := 7, I := 1, adds := [loadedAdd] })] }

theorem doubledCell_ready : Ready (soleDie (runningDie doubledCell)) site0 (runningDie doubledCell) (.caskAdd 7 1 4 false 0 0) :=
  ⟨⟨rfl, by decide +kernel⟩, by decide, ⟨rfl, by decide, by decide⟩, rfl, rfl, by decide +kernel, by decide +kernel,
    .inl rfl, by decide +kernel, by decide +kernel, rfl⟩

/-- The cell after the issue. -/
def doubledAfter : Cell := (((pureRun (runningDie doubledCell)).caskAdd 0 0 7 1 4 false 0 0).x).cell 0

theorem doubledAfter_stores : doubledAfter.spWrites ≠ [] := by decide +kernel

/-- What the issue leaves of the cell is what any account of it says. -/
theorem doubledCell_run {d : Cell} (h : CellRun (.caskAdd site0) (soleDie (runningDie doubledCell)) site0.at_ (runningDie doubledCell) d) :
    d = doubledAfter := by
  let r : Run := (pureRun (runningDie doubledCell)).caskAdd 0 0 7 1 4 false 0 0
  have heffs : r.effs = [] := by decide +kernel
  have hrun := doubledCell_ready.runs (pro := .none) (r := r) rfl (issue_control rfl rfl)
  rw [heffs, State.effs_nil] at hrun
  have hinst := congrArg (fun t : State => t.insts[0]?) (Host.Outcome.next.inj (hrun.symm.trans h))
  have hx : r.x = (runningDie doubledCell).setCell 0 d := Option.some.inj hinst
  have hcell : r.x.cell 0 = d := by rw [hx, Inst.cell_setCell]
  exact hcell.symm

/-- The unit of the entry finds the cask without adds. -/
theorem doubledCell_idle (e : Nat) : doubledCell.addReady e = none := by
  by_cases he : e = 3
  · subst he
    rfl
  · have hf : doubledCell.casks.find? (fun p => p.1 == e) = none := by
      simp [doubledCell, Ne.symm he]
    simp only [Cell.addReady, hf]

/-- Refutes O23: with two casks at one entry, the earlier add of the second cask is the head of that entry once the add has been
written there, and its store begins, though no add was ready before the issue. -/
theorem not_caskAddIssues : ¬ Obligations.CaskAddIssues := by
  unfold Obligations.CaskAddIssues
  intro h
  obtain ⟨hadd, -⟩ := h _ site0 _ 7 1 4 false 0 0 doubledCell_ready
  obtain ⟨d, q1, hrun, -, hkeeps, -⟩ := hadd 3 _ rfl (by decide) rfl (by decide) (by decide) (by decide)
  have hd : d.spWrites = doubledCell.spWrites := hkeeps fun e q z ls ts hr => by
    exact absurd ((doubledCell_idle e).symm.trans hr) (by simp)
  rw [doubledCell_run hrun] at hd
  exact doubledAfter_stores hd

end Sys2Proof


/-! SUPPORT. The scratchpad port: what the lines of a read and the acknowledgement of a write do, and the proofs of the statements. -/

namespace Sys2Proof

open Sys2Proof.Machine

/-! ### SP_READ_DATA -/

/-- The granted request has the highest priority (R22). -/
theorem nextRead_rank {c : Cell} {q : SpRead} (h : c.nextRead = some q) :
    ∀ p ∈ c.spReads, p.rank < q.rank → p.rank ≠ 1 ∧ p.rank ≠ 2 := by
  intro p hp hlt
  unfold Cell.nextRead at h
  cases h1 : c.spReads.find? (fun q => q.rank == 1) with
  | some q1 =>
    rw [h1] at h
    obtain rfl : q1 = q := Option.some.inj h
    have : q1.rank = 1 := by simpa using List.find?_some h1
    omega
  | none =>
    have hn1 : p.rank ≠ 1 := by simpa using List.find?_eq_none.1 h1 p hp
    rw [h1, Option.none_or] at h
    cases h2 : c.spReads.find? (fun q => q.rank == 2) with
    | some q2 =>
      rw [h2] at h
      obtain rfl : q2 = q := Option.some.inj h
      have : q2.rank = 2 := by simpa using List.find?_some h2
      exact ⟨hn1, by omega⟩
    | none => exact ⟨hn1, by simpa using List.find?_eq_none.1 h2 p hp⟩

theorem answer_lines (q : SpRead) (beat : List (BitVec 2 × Line)) (h : beat.length = q.n) :
    (q.answer beat).map SpLine.line = (List.range q.n).map (q.line + ·) := by
  refine List.ext_getElem (by simp [SpRead.answer, h]) fun i h1 h2 => ?_
  simp [SpRead.answer]

/-- The beat that answers a request (R421). -/
theorem spRead_some {n : Nat} {beat : List (BitVec 2 × Line)} {e : Env} {x : Inst} {q : SpRead} (h : (x.cell n).nextRead = some q)
    (hl : beat.length = q.n) :
    let r := pureRun (x.setCell n { x.cell n with spReads := (x.cell n).spReads.erase q })
    (∀ k, q.who = .slot k → spRead n beat e x = r.slotLines e n k (q.answer beat))
    ∧ (∀ j, q.who = .add j → spRead n beat e x = r.addLines n j (q.answer beat))
    ∧ (q.who = .nobody → spRead n beat e x = r) := by
  intro r
  refine ⟨fun k hk => ?_, fun j hj => ?_, fun hn => ?_⟩
  all_goals
    simp only [spRead, h]
    rw [if_neg (not_not.2 hl)]
  · rw [hk]
  · rw [hj]
  · rw [hn]

/-- A slot that holds more lines. -/
def withLines (k : Slot) (ls : List SpLine) : Slot := { k with readBuf := k.readBuf ++ ls }

theorem Run.modSlot_setCell (r : Run) (n j : Nat) (d : Cell) (f : Slot → Slot) :
    (r.setCell n d).modSlot n j f = r.setCell n (d.setSlot j (f (d.slot j))) := by
  rw [Run.modSlot, Run.slot_setCell, Run.setSlot_setCell]

/-- Whether a cell works does not depend on its slots. -/
theorem cellRuns_setSlot (x : Inst) (n j k : Nat) (d : Cell) (s t : Slot) :
    (x.setCell n (d.setSlot j s)).cellRuns n = (x.setCell n (d.setSlot k t)).cellRuns n := by
  simp only [Inst.cellRuns, Inst.cell_setCell]
  rfl

/-- Lines for a program being fetched, or for a slot that still misses others, are kept (R421). -/
theorem Run.slotLines_keeps {e : Env} {x : Inst} {n j : Nat} {d : Cell} {ls : List SpLine} (hj : j < d.slots.length)
    (h : (d.slot j).phase = .fetching ∨ ((d.slot j).wait = .lines ∨ (d.slot j).wait = .gather) ∧ d.owesSlot j = true) :
    (pureRun (x.setCell n d)).slotLines e n j ls = pureRun (x.setCell n (d.setSlot j (withLines (d.slot j) ls))) := by
  have hmod : (pureRun (x.setCell n d)).modSlot n j (fun s => { s with readBuf := s.readBuf ++ ls })
      = (pureRun x).setCell n (d.setSlot j (withLines (d.slot j) ls)) := Run.modSlot_setCell (pureRun x) n j d _
  have hslot : ((pureRun x).setCell n (d.setSlot j (withLines (d.slot j) ls))).slot n j = withLines (d.slot j) ls := by
    rw [Run.slot_setCell, Cell.slot_setSlot _ _ _ hj]
  have howes : (((pureRun x).setCell n (d.setSlot j (withLines (d.slot j) ls))).cell n).owesSlot j = d.owesSlot j := by
    rw [Run.cell_setCell]; rfl
  simp only [Run.slotLines, hmod, hslot, howes]
  have hph : (withLines (d.slot j) ls).phase = (d.slot j).phase := rfl
  have hwt : (withLines (d.slot j) ls).wait = (d.slot j).wait := rfl
  rw [hph, hwt]
  obtain hf | ⟨hw, ho⟩ := h
  · simp only [hf, reduceCtorEq, false_and, if_false]
    rfl
  · rw [ho]
    simp only [Bool.not_true, Bool.false_eq_true, and_false, if_false]
    rfl

/-- With its last lines an instruction goes on (R421). -/
theorem Run.slotLines_issues {e : Env} {x : Inst} {n j : Nat} {d : Cell} {ls : List SpLine} {o : TileOp} (hj : j < d.slots.length)
    (hp : (d.slot j).phase = .running) (hw : (d.slot j).wait = .lines) (ho : d.owesSlot j = false)
    (hr : (x.setCell n (d.setSlot j { withLines (d.slot j) ls with wait := .ready })).cellRuns n = true)
    (hop : (d.slot j).nextOp = some o) :
    (pureRun (x.setCell n d)).slotLines e n j ls
      = (pureRun (x.setCell n (d.setSlot j { withLines (d.slot j) ls with wait := .ready }))).issue e n j o := by
  have hmod : (pureRun (x.setCell n d)).modSlot n j (fun s => { s with readBuf := s.readBuf ++ ls })
      = (pureRun x).setCell n (d.setSlot j (withLines (d.slot j) ls)) := Run.modSlot_setCell (pureRun x) n j d _
  have hslot : ((pureRun x).setCell n (d.setSlot j (withLines (d.slot j) ls))).slot n j = withLines (d.slot j) ls := by
    rw [Run.slot_setCell, Cell.slot_setSlot _ _ _ hj]
  have howes : (((pureRun x).setCell n (d.setSlot j (withLines (d.slot j) ls))).cell n).owesSlot j = d.owesSlot j := by
    rw [Run.cell_setCell]; rfl
  have hruns : ((pureRun x).setCell n (d.setSlot j (withLines (d.slot j) ls))).x.cellRuns n = true :=
    (cellRuns_setSlot x n j j d _ _).trans hr
  have hretry : ((pureRun x).setCell n (d.setSlot j (withLines (d.slot j) ls))).modSlot n j (fun s => { s with wait := .ready })
      = (pureRun x).setCell n (d.setSlot j { withLines (d.slot j) ls with wait := .ready }) := by
    rw [Run.modSlot_setCell, Cell.slot_setSlot _ _ _ hj, Cell.setSlot_setSlot]
  have hnext : (((pureRun x).setCell n (d.setSlot j { withLines (d.slot j) ls with wait := .ready })).slot n j).nextOp = some o := by
    rw [Run.slot_setCell, Cell.slot_setSlot _ _ _ hj]; exact hop
  simp only [Run.slotLines, hmod, hslot, howes]
  rw [if_pos ⟨hp, hw, hruns, by rw [ho]; rfl⟩, Run.retry]
  simp only [hretry, hnext]
  rfl

theorem insts_length_setInst (s : State) (i : Nat) (y : Inst) : (s.setInst i y).insts.length = s.insts.length := by
  simp [State.setInst]

section
variable {s : State} {i n : Nat} {x : Inst} (c : Cell) (h : s.insts[i]? = some x)
include h

/-- A change of a cell changes nothing that a reader `g` of an instance sees, when `g` does not look at cells. -/
theorem getElem_setCell {β : Type} (g : Option Inst → β) (hg : g (some (x.setCell n c)) = g (some x)) (k : Nat) :
    g (s.setInst i (x.setCell n c)).insts[k]? = g s.insts[k]? := by
  by_cases hk : k = i
  · subst hk
    rw [State.getElem_setInst _ _ _ _ h, h, hg]
  · rw [State.getElem_setInst_other _ _ _ _ hk]

/-- No die sees another's cells, nor its own, in the package (R26, R405). -/
theorem env_setCell : (s.setInst i (x.setCell n c)).env i = s.env i := by
  have hlen := insts_length_setInst s i (x.setCell n c)
  have heast : ∀ a b, (s.setInst i (x.setCell n c)).linkedEast a b = s.linkedEast a b := by
    intro a b
    simp only [State.linkedEast, hlen]
    exact congrArg _ (funext fun k => getElem_setCell c h (fun o => match o with
      | some x => x.east.up
      | none => false) rfl _)
  have hwest : ∀ a b, (s.setInst i (x.setCell n c)).linkedWest a b = s.linkedWest a b := by
    intro a b
    simp only [State.linkedWest, hlen]
    exact congrArg _ (funext fun k => getElem_setCell c h (fun o => match o with
      | some x => x.west.up
      | none => false) rfl _)
  have hpath : ∀ a b, (s.setInst i (x.setCell n c)).path a b = s.path a b := by
    intro a b
    simp only [State.path, hlen, heast]
  have hsleep : ∀ a b, (s.setInst i (x.setCell n c)).sleepers a b = s.sleepers a b := by
    intro a b
    simp only [State.sleepers, hpath]
    exact congrArg (fun p => List.filter p _) (funext fun k => getElem_setCell c h (fun o => match o with
      | some x => x.asleep
      | none => false) rfl _)
  have hfence : (s.setInst i (x.setCell n c)).fence = s.fence := funext fun f => getElem_setCell c h (fun o => match o with
      | none => (⟨0, errInstFailed⟩ : Fence)
      | some x =>
        let g := x.fence (f % 1024)
        if x.flt.failstop && decide (g.err = 0) then { g with err := errInstFailed } else g) rfl _
  have hvc : ((s.setInst i (x.setCell n c)).env i).vc = (s.env i).vc := funext fun j => funext fun v =>
    getElem_setCell c h (fun o => match o with
      | some x => x.vc v
      | none => Vc.free) rfl j
  have hlinked : ∀ a b, (s.setInst i (x.setCell n c)).linked a b = s.linked a b := by
    intro a b
    simp only [State.linked, heast, hwest]
  have hstop : ((s.setInst i (x.setCell n c)).env i).stopped = (s.env i).stopped := by
    funext j
    simp only [State.env, hlinked]
    exact getElem_setCell c h (fun o => match o with
      | some x => x.flt.failstop || (decide (x.rst.phase = 0) && !s.linked i j)
      | none => false) rfl j
  have haway : ((s.setInst i (x.setCell n c)).env i).away = (s.env i).away := by
    funext j
    simp only [State.env, hsleep]
    exact congrArg (fun b => _ || (_ && b)) (getElem_setCell c h (fun o => match o with
      | some x => decide (x.rst.phase ≠ 0)
      | none => false) rfl j)
  have hext : ∀ e f : Env, e.die = f.die → e.fence = f.fence → e.free = f.free → e.vc = f.vc → e.stopped = f.stopped →
      e.away = f.away → e = f := by
    intro e f h1 h2 h3 h4 h5 h6
    cases e; cases f
    simp_all
  exact hext _ _ rfl hfence rfl hvc hstop haway

end

/-- The add at the head of a cask keeps the lines of its half (R130). -/
theorem Run.addLines_keeps {r : Run} {n e : Nat} {d : Cell} {ls : List SpLine} {q : Cask} {z : CaskAdd} {zs : List CaskAdd}
    (hq : Cell.caskAt d e = some q) (hz : q.adds = z :: zs) (hl : (∀ l ∈ ls, l.resp = 0) ∨ q.D = 0 ∧ q.init = false) :
    (r.setCell n d).addLines n e ls
      = r.setCell n (d.setCask e { q with adds := { z with load := z.load.map (· ++ ls) } :: zs }).startStores := by
  obtain ⟨p, hf, rfl⟩ := Option.map_eq_some_iff.1 hq
  have hbad : (if p.2.discards then none else ls.find? fun l => decide (l.resp ≠ 0)) = none := by
    obtain hl | ⟨h1, h2⟩ := hl
    · rw [List.find?_eq_none.2 (by simpa using hl), ite_self]
    · exact if_pos (by simp [Cask.discards, h1, h2])
  simp only [Run.addLines, Run.cell_setCell, hf, hz, hbad, Run.setCell_setCell]

/-- Settles O31. -/
theorem readData : Obligations.ReadData := by
  unfold Obligations.ReadData
  constructor
  · intro s a x resp data q c ls d hb hq
    have hex : exec (.spReadData a resp data) s = onCell s a (spRead a.cell (resp.zip data)) := rfl
    refine ⟨fun hn => ?_, fun hn => ⟨fun j hw hj => ?_, fun e z zs m hw hz hm hl _ => ?_, fun hw => ?_, ?_, ?_⟩⟩
    · rw [hex, onCell_some _ hb.1 hb.2]
      refine congrArg _ (State.runAt_pure ?_)
      have hq' : (x.cell a.cell).nextRead = some q := hq
      simp only [spRead, hq']
      exact if_pos hn
    · refine CellRun.of_cell hex hb.1 hb.2 (((spRead_some hq hn).1 j hw).trans ?_)
      refine Run.slotLines_keeps ?_ hj
      apply Cell.slot_lt
      intro he
      have hidle : c.slot j = Slot.idle := he
      rw [hidle] at hj
      simp [Slot.idle] at hj
    · refine CellRun.of_cell hex hb.1 hb.2 (((spRead_some hq hn).2.1 e hw).trans ?_)
      exact Run.addLines_keeps (r := pureRun x) (d := d) hz hm hl
    · exact CellRun.of_cell hex hb.1 hb.2 ((spRead_some hq hn).2.2 hw)
    · exact answer_lines q _ hn
    · exact nextRead_rank hq
  · intro s a x resp data q o c k d x1 hb hq hn hw hp hwait howes h
    let k1 : Slot := { withLines k (q.answer (resp.zip data)) with wait := .ready }
    have hk : a.slot < d.slots.length := by
      apply Cell.slot_lt
      intro he
      have hidle : c.slot a.slot = Slot.idle := he
      rw [show k = Slot.idle from hidle] at hp
      simp [Slot.idle] at hp
    have hslot : x1.slot a.cell a.slot = k1 := by
      rw [Inst.slot, Inst.cell_setCell]
      exact Cell.slot_setSlot _ _ _ hk
    have hop : (d.slot a.slot).nextOp = some o := by
      have := h.2.2.2.2.2.1
      rw [hslot] at this
      exact this
    have hrun : spRead a.cell (resp.zip data) (s.env a.inst) x = (pureRun x1).issue (s.env a.inst) a.cell a.slot o :=
      ((spRead_some hq hn).1 a.slot hw).trans
        (Run.slotLines_issues hk hp hwait howes (CellUp.cellRuns h.1.2 h.2.2.1) hop)
    have henv : (s.setInst a.inst x1).env a.inst = s.env a.inst := env_setCell _ hb.1
    have hissue : exec (cmdOf o a k.prologue) (s.setInst a.inst x1) = .next ((s.setInst a.inst x1).runAt a.inst x1 fun e y =>
        (pureRun y).issue e a.cell a.slot o) := by
      cases hf : o.isFeed with
      | false => exact h.exec hf
      | true =>
        have hfeed := h.exec_feed hf
        have hself : x1.setSlot a.cell a.slot (x1.slot a.cell a.slot) = x1 := by
          rw [Inst.setSlot, hslot, Inst.cell_setCell, Inst.setCell_setCell, Cell.setSlot_setSlot]
          rfl
        have hpro : (x1.slot a.cell a.slot).prologue = k.prologue := by rw [hslot]; rfl
        rw [hpro] at hfeed
        rw [hfeed]
        simp only [State.runAt, hself]
    have hexec : exec (.spReadData a.at_ resp data) s = .next (s.runAt a.inst x (spRead a.cell (resp.zip data))) :=
      onCell_some (a := a.at_) _ hb.1 hb.2
    rw [hissue, hexec, State.runAt_eq (f := spRead a.cell (resp.zip data)) hrun]
    simp only [State.runAt, henv, State.setInst_setInst]

/-! ### SP_WRITE_ACK -/

/-- The write that an acknowledgement answers (R421). -/
theorem spWrite_some {n : Nat} {err : Bool} {e : Env} {x : Inst} {w : SpWrite} (h : (x.cell n).nextWrite = some w) :
    let r := pureRun (x.setCell n { x.cell n with spWrites := (x.cell n).spWrites.erase w })
    (∀ k, w.who = .slot k → spWrite n err e x = (r.writeAck n k w.index err).ackInvalidations)
    ∧ (∀ j, w.who = .add j → spWrite n err e x = r.storeAck n j err)
    ∧ (w.who = .nobody ∨ (∃ v, w.who = .scrub v) → spWrite n err e x = r) := by
  intro r
  refine ⟨fun k hk => ?_, fun j hj => ?_, fun hn => ?_⟩
  · simp only [spWrite, h, hk]
    rfl
  · simp only [spWrite, h, hj]
    rfl
  · obtain hn | ⟨v, hn⟩ := hn <;> simp only [spWrite, h, hn] <;> rfl

/-- A write of an add's store that succeeds leaves the add to its commit. -/
theorem Run.storeAck_ok (r : Run) (n e : Nat) : r.storeAck n e false = r := by
  simp only [Run.storeAck, Bool.false_eq_true, if_false]
  split
  · rfl
  · split <;> rfl

theorem Run.storeAck_fails {r : Run} {n e : Nat} {q : Cask} {z : CaskAdd} {zs : List CaskAdd} (hq : Cell.caskAt (r.cell n) e = some q)
    (hz : q.adds = z :: zs) : r.storeAck n e true = r.addFail n e z errMemWrite := by
  obtain ⟨p, hf, rfl⟩ := Option.map_eq_some_iff.1 hq
  simp only [Run.storeAck, hf, hz, if_true]

theorem ackInvalidations_frame (x : Inst) : x.ackInvalidations
    = { x with invAcks := x.ackInvalidations.invAcks, invOwed := x.ackInvalidations.invOwed } := by
  unfold Inst.ackInvalidations
  dsimp only
  split <;> rfl

/-- While a write-out is in progress no invalidation is acknowledged (R298). -/
theorem ackInvalidations_busy {x : Inst} {n j left : Nat} {err : Option (Nat × Nat)} {c : Cell}
    (hk : (c.slot j).wait = .commit left err) : (x.setCell n c).ackInvalidations = x.setCell n c := by
  have hne : c.slot j ≠ Slot.idle := fun he => by rw [he] at hk; simp [Slot.idle] at hk
  have hj := Cell.slot_lt _ _ hne
  have hreset : c ≠ Cell.reset := by
    intro he
    rw [he] at hne
    rcases j with _ | _ | _ | _ | j <;> exact hne rfl
  have hmem : n ∈ (x.setCell n c).liveCells := by
    have hput : (x.setCell n c).cells = Tbl.put n c (Tbl.del n x.cells) := if_neg hreset
    rw [Inst.liveCells, hput]
    exact List.mem_map_of_mem (List.mem_of_find?_eq_some (find_put n c _))
  have hbusy : ((x.setCell n c).liveCells.any fun m => ((x.setCell n c).cell m).slots.any fun s => match s.wait with
      | .commit .. => true
      | _ => false) = true := by
    refine List.any_eq_true.2 ⟨n, hmem, List.any_eq_true.2 ⟨c.slot j, ?_, ?_⟩⟩
    · rw [Inst.cell_setCell, Cell.slot, List.getD_eq_getElem _ _ hj]
      exact List.getElem_mem hj
    · rw [hk]
  simp only [Inst.ackInvalidations]
  refine if_pos ?_
  rw [Bool.or_eq_true]
  exact .inr hbusy

theorem discardTiles_parts (ids : List Nat) : ∀ c : Cell,
    c.discardTiles ids = { c with drain := (c.discardTiles ids).drain, owed := (c.discardTiles ids).owed } := by
  induction ids with
  | nil => exact fun c => rfl
  | cons i ids ih =>
    intro c
    have h1 : c.discardTile i = { c with drain := (c.discardTile i).drain, owed := (c.discardTile i).owed } := by
      unfold Cell.discardTile
      split <;> rfl
    have h2 := ih (c.discardTile i)
    rw [show c.discardTiles (i :: ids) = (c.discardTile i).discardTiles ids from rfl, h2, h1]

/-- What a dropped tile changes of its cell, while its slot waits for no close. -/
theorem dropTile_parts {c : Cell} {k : Nat} (drop : Bool) (h : ∀ e no, (c.slot k).wait ≠ .close e no) :
    ∃ d, c.dropTile drop k = d ∧ d = { c with drain := d.drain, owed := d.owed, spReads := d.spReads, spWrites := d.spWrites
                                              feedQ := d.feedQ, casks := d.casks } := by
  refine ⟨_, rfl, ?_⟩
  have hun : ∀ d : Cell, d.slot k = c.slot k → d.unclose k = d := by
    intro d hd
    unfold Cell.unclose
    split
    · rename_i e no hw
      rw [hd] at hw
      exact absurd hw (h e no)
    · rfl
  cases drop with
  | false =>
    simp only [Cell.dropTile]
    rw [hun]
    · rfl
    · rfl
  | true =>
    have hd := discardTiles_parts ((c.slot k).tile.bound ++ (c.slot k).tile.kept ++ (c.slot k).fills.map Fill.id) c
    simp only [Cell.dropTile, Cell.letTiles, if_true]
    rw [hd, hun]
    · rfl
    · rfl

/-- A program that ends, whatever its code, leaves at once when its end summary has place (R206, R244, R289). -/
theorem Run.endProgram_leaves {r : Run} {n k code index : Nat} {cs : List Nat} (hk : k < (r.cell n).slots.length)
    (hw : ∀ e no, (r.slot n k).wait ≠ .close e no)
    (h : (r.cell n).summaries + ((r.cell n).setSlot k Slot.idle).reserved < 16) :
    ∃ d : Cell, r.endProgram n k code false index cs =
        { x := (r.x.orphanXlate n k).setCell n d
          effs := r.effs ++ [.record (recProgram (r.slot n k).empty false code (wordAt (r.slot n k).launch 0)
            (launchTag (r.slot n k).launch) n k index cs)] }
      ∧ d.slot k = Slot.idle := by
  obtain ⟨d, hd, hframe⟩ := dropTile_parts (c := r.cell n) (dropsTiles code false) hw
  let s1 : Slot := { r.slot n k with
    phase := .ending code false index cs, fills := [], wait := .ready, readBuf := []
    feedOld := Led.zero, feedNew := [], tile := TileBuf.at (r.slot n k).idx none MashRun.none Led.zero }
  have hslots : d.slots = (r.cell n).slots := by rw [hframe]
  have hlen : k < d.slots.length := by rw [hslots]; exact hk
  have hroom : (d.setSlot k s1).summaries + (d.setSlot k s1).reserved < 16 := by
    have h1 : (d.setSlot k s1).summaries = (r.cell n).summaries := by rw [hframe]; rfl
    have h2 : (d.setSlot k s1).reserved ≤ ((r.cell n).setSlot k Slot.idle).reserved := by
      have := reserved_setSlot_le ((r.cell n).setSlot k Slot.idle) k (s := s1) rfl
      rw [Cell.setSlot_setSlot] at this
      refine le_trans (le_of_eq ?_) this
      rw [Cell.reserved, Cell.reserved, Cell.setSlot, hslots]
      rfl
    omega
  let r1 : Run := { r with x := (r.x.setCell n (d.setSlot k s1)).orphanXlate n k }
  have hcell : r1.cell n = d.setSlot k s1 := Inst.cell_setCell r.x n _
  have hs1 : (r1.cell n).slot k = s1 := by rw [hcell]; exact Cell.slot_setSlot _ _ _ hlen
  have hend : r.endProgram n k code false index cs = r1.release n k code false index cs := by
    simp only [Run.endProgram, hd]
    exact if_pos hroom
  refine ⟨(((d.setSlot k s1).settled k).zeroClaims s1.launch |>.postSummary (launchTag s1.launch) 0xFFFF
    (BitVec.ofNat 32 (code % 2 ^ 16 + flagAt s1.empty 16 + flagAt false 17))).setSlot k Slot.idle, ?_, ?_⟩
  · rw [hend]
    simp only [Run.release, hs1]
    rw [hcell]
    refine congrArg (fun y : Inst => (⟨y, r.effs ++ [_]⟩ : Run)) ?_
    exact Inst.setCell_setCell (r.x.orphanXlate n k) n _ _
  · exact Cell.slot_setSlot _ _ _ (by simpa [Cell.postSummary, Cell.zeroClaims, Cell.settled, Cell.setSlot] using hlen)

/-- Settles O32. -/
theorem writeAcknowledged : Obligations.WriteAcknowledged := by
  unfold Obligations.WriteAcknowledged
  intro s a x w c k d x1 hb
  have hex : ∀ err, exec (.spWriteAck a.at_ err) s = onCell s a.at_ (spWrite a.cell err) := fun _ => rfl
  have hrun : ∀ err r, spWrite a.cell err (s.env a.inst) x = r →
      exec (.spWriteAck a.at_ err) s = .next ((s.setInst a.inst r.x).effs a.inst r.effs) := fun err r hr =>
    (onCell_some (a := a.at_) _ hb.1 hb.2).trans (congrArg _ (State.runAt_eq (i := a.inst) hr))
  refine ⟨fun err hn => ?_, fun err hn hw => ?_, fun e hn hw => ?_, fun e q z zs hn hw hq hz => ?_, fun hn hw => ⟨?_, ?_, ?_⟩⟩
  · have hnone : (x.cell a.cell).nextWrite = none := by
      simp [Cell.nextWrite, show (x.cell a.cell).spWrites = [] from hn]
    refine hrun err (pureRun x) ?_
    simp only [spWrite, hnone]
  · exact hrun err _ ((spWrite_some hn).2.2 hw)
  · exact hrun false _ (((spWrite_some hn).2.1 e hw).trans (Run.storeAck_ok ..))
  · have hfail : spWrite a.cell true (s.env a.inst) x = (pureRun x1).addFail a.cell e z 0x0053 := by
      refine ((spWrite_some hn).2.1 e hw).trans (Run.storeAck_fails (r := pureRun x1) ?_ hz)
      rw [show (pureRun x1).cell a.cell = d from Inst.cell_setCell ..]
      exact hq
    exact hrun true _ hfail
  all_goals
    have hcell : (pureRun x1).cell a.cell = d := Inst.cell_setCell ..
    have hslot : (pureRun x1).slot a.cell a.slot = k := by
      have : ((pureRun x1).cell a.cell).slot a.slot = k := by rw [hcell]; rfl
      exact this
    have hack := fun err => (spWrite_some (err := err) (e := s.env a.inst) hn).1 a.slot hw
    have hidle : ∀ {left old}, k.wait = .commit left old → a.slot < d.slots.length := by
      intro left old hwait
      refine Cell.slot_lt _ _ fun he => ?_
      rw [show k = Slot.idle from he] at hwait
      simp [Slot.idle] at hwait
  · intro left old err hwait hleft
    let code : Option (Nat × Nat) := match (generalizing := false) old with
      | some p => some p
      | none => if err then some (0x0053, w.index) else none
    let d1 : Cell := d.setSlot a.slot { k with wait := .commit (left - 1) code }
    have hw1 : (pureRun x1).writeAck a.cell a.slot w.index err = (pureRun x1).setCell a.cell d1 := by
      simp only [Run.writeAck, hslot, hwait]
      rw [if_pos hleft, Run.setSlot_eq, hcell]
      rfl
    have hd1 : (d1.slot a.slot).wait = .commit (left - 1) code := by
      rw [Cell.slot_setSlot _ _ _ (hidle hwait)]
    have hbusy : ((pureRun x1).setCell a.cell d1).ackInvalidations = pureRun (x.setCell a.cell d1) := by
      have hx : ((pureRun x1).setCell a.cell d1).x = x.setCell a.cell d1 := Inst.setCell_setCell ..
      rw [Run.ackInvalidations, hx, ackInvalidations_busy hd1]
      rfl
    exact hrun err _ ((hack err).trans ((congrArg Run.ackInvalidations hw1).trans hbusy))
  · intro left hwait hleft hgo hfs
    have hlen : a.slot < ((pureRun x1).cell a.cell).slots.length := by rw [hcell]; exact hidle hwait
    have happly := Run.applyTile_goes (pureRun x1) a.cell a.slot hlen (by rw [hslot]; exact hgo)
    have hw1 : (pureRun x1).writeAck a.cell a.slot w.index false = (pureRun x1).applyTile a.cell a.slot := by
      simp only [Run.writeAck, hslot, hwait]
      rw [if_neg (Nat.not_lt.2 hleft), happly]
      exact if_neg fun hh => by
        have hf : x.flt.failstop = true := hh.1
        rw [hfs] at hf
        cases hf
    refine (hrun false _ ((hack false).trans (congrArg Run.ackInvalidations (hw1.trans happly)))).trans ?_
    rw [hslot]
    rfl
  · intro left old err p hwait hleft hp hroom
    have hlen : a.slot < ((pureRun x1).cell a.cell).slots.length := by rw [hcell]; exact hidle hwait
    obtain ⟨e, hend, hfree⟩ := Run.endProgram_leaves (r := pureRun x1) (n := a.cell) (k := a.slot) (code := p.1) (index := p.2)
      (cs := k.counters4) hlen (by rw [hslot, hwait]; exact fun _ _ h => nomatch h) (by rw [hcell]; exact hroom)
    have hw1 : (pureRun x1).writeAck a.cell a.slot w.index err = (pureRun x1).endProgram a.cell a.slot p.1 false p.2 k.counters4 := by
      simp only [Run.writeAck, hslot, hwait]
      rw [if_neg (Nat.not_lt.2 hleft)]
      obtain rfl | ⟨rfl, rfl, rfl⟩ := hp <;> rfl
    let y : Inst := (((pureRun x1).x.orphanXlate a.cell a.slot).setCell a.cell e).ackInvalidations
    have hy : y = { ((pureRun x1).x.orphanXlate a.cell a.slot).setCell a.cell e with invAcks := y.invAcks, invOwed := y.invOwed } :=
      ackInvalidations_frame _
    refine ⟨y, ?_, ?_, ?_, ?_⟩
    · refine (hrun err _ ((hack err).trans (congrArg Run.ackInvalidations (hw1.trans hend)))).trans ?_
      rw [hslot]
      rfl
    · have hcy : y.cell a.cell = e := by
        rw [hy]
        exact Inst.cell_setCell ((pureRun x1).x.orphanXlate a.cell a.slot) _ _
      rw [Inst.slot, hcy, hfree]
    · rw [hy]; rfl
    · rw [hy]; rfl

end Sys2Proof


/-! SUPPORT. The statement about launches fails on a package whose first die does not know its own number: the checks of admission
compare a handle with the number that the die holds, the wait for a die that cannot be asked goes by its place in the package. -/

namespace Sys2Proof

open Sys2Proof.Machine

/-- A launch record for channel 0 of instance 1, with generation 1. -/
def farRecord : List Word := [0x20010000#32, 0#32, 0#32, 0#32, 0#32]

/-- Die 0 of the package, whose number is 1; its cell 0 has that record at the head of its queue. -/
def misnumberedDie : Inst := { runningDie { Cell.reset with launchQ := [farRecord] } with id := 1 }

/-- The package: die 1 is in reset. -/
def misnumbered : State :=
  { State.reset with insts := [misnumberedDie, { Inst.reset 2 1 200 with rst := { Rst.reset with phase := 1 } }] }

/-- The launch queue of cell 0 of die 0 after a command. -/
def queueAfter : Host.Outcome State Fault Refusal → Option (List (List Word))
  | .next t => t.insts[0]?.map fun x => (x.cell 0).launchQ
  | _ => none

/-- The record stays in the queue: die 1 cannot be asked. -/
theorem misnumbered_waits : queueAfter (exec (.launchAdmit site0.at_) misnumbered) = some [farRecord] := by decide +kernel

theorem misnumbered_admits : misnumberedDie.admitCheck (misnumbered.env 0) farRecord = 0 := by decide +kernel

/-- Refutes O33: a record that passes every check of admission stays in the queue, when the die's own number names a die that is in
reset. -/
theorem not_launches : ¬ Obligations.Launches := by
  unfold Obligations.Launches
  rintro ⟨-, h⟩
  obtain ⟨hadmit, -⟩ := h misnumbered site0 misnumberedDie farRecord ⟨rfl, by decide +kernel⟩ (by decide) ⟨rfl, by decide, by decide⟩
  obtain ⟨d, hrun, hq, -⟩ := hadmit [] rfl (by decide +kernel) (by decide +kernel) misnumbered_admits
  have hrun' : exec (.launchAdmit site0.at_) misnumbered = .next (misnumbered.setInst 0 (misnumberedDie.setCell 0 d)) := hrun
  have hafter : queueAfter (exec (.launchAdmit site0.at_) misnumbered) = some d.launchQ := by
    rw [hrun']
    show some ((misnumberedDie.setCell 0 d).cell 0).launchQ = some d.launchQ
    rw [Inst.cell_setCell]
  rw [misnumbered_waits, hq] at hafter
  exact absurd hafter (by decide)

end Sys2Proof

namespace Sys2Proof

/-! SUPPORT. Power commands and cell resets (R401, R405, R409, R410, R414, R416). -/

open Sys2Proof.Machine

/-- A die at work is not woken: a wake changes nothing there. -/
theorem wakeBy_settled {x : Inst} (h : x.awake = true) (hb : x.pwr.busy = false) (cause : Nat) : x.wakeBy cause = x := by
  obtain ⟨-, hst⟩ : x.alive = true ∧ x.pwr.state ≤ 1 := by simp_all [Inst.awake]
  simp [Inst.wakeBy, Inst.entering, hb, show ¬2 ≤ x.pwr.state by omega]

/-- Settles O53: a wake, an OFF request and a gating each by the branches of its command. -/
theorem powerCommands : Obligations.PowerCommands := by
  intro s i x p
  refine ⟨fun data hd => ⟨fun hw hp hb => ?_, fun ha hst hb => ?_⟩, fun hw => ⟨fun data hp hd => ?_, fun hp => ?_, fun n hn hst => ?_⟩,
    fun hx ho hs => ?_⟩
  · refine CtlRun.of_row (f := fun x => s.setInst i (pwrWake data x)) ?_ rfl hw hp ?_
    · have hh : x.holds 0x2004 true = false := by simp [Inst.holds, hw.2, (Inst.awake_parts hw.2).1]
      simp [exec, execPwrWake, hd, hw.1, hh]
    · rw [pwrWake, wakeBy_settled hw.2 hb, if_pos hw.2]; rfl
  · have hst : 2 ≤ x.pwr.state := hst
    have hb : x.pwr.busy = false := hb
    have hal := ha.2
    simp only [Inst.alive, Bool.and_eq_true, decide_eq_true_eq, Bool.not_eq_true'] at hal
    have hh : x.holds 0x2004 true = true := by
      simp [Inst.holds, Inst.awake, Inst.entering, hal, hb, show ¬x.pwr.state ≤ 1 by omega]
    have hwake : x.wakeBy 7 = x.beginExit 7 := by simp [Inst.wakeBy, ha.2, hst, hb]
    simp [exec, execPwrWake, hd, ha.1, hh, State.atDie, hwake, Inst.beginExit, p]
  · exact CtlRun.of_row rfl rfl hw hp (by simp [State.offRequest, offPattern, hd, State.setInst_self _ _ _ hw.1])
  · refine CtlRun.of_row rfl rfl hw hp ?_
    simp only [State.offRequest, offPattern, ne_eq]
    exact (apply_ite (s.setInst i) _ _ _).symm
  · refine HubRun.of_cell (a := { inst := i, cell := n }) rfl hw.1 hn ?_
    have hg : x.gate n = if p.ctrl.getLsbD 9 && (x.cell n).noWork then x.setCell n { x.cell n with gated := true } else x := by
      simp [Inst.gate, hw.2, show x.pwr.state = 0 from hst, p]
    rw [← hg]; rfl
  · refine HubRun.of_inst rfl hx ?_
    have hl : (x.liveCells.any fun n => !(x.cell n).spWrites.isEmpty) = false := by simp [hs]
    simp [offReady, hl, show x.pwr.offTaken = true from ho, pureRun, p]

/-- Settles O55: the request by the model's own condition, the reset by what it keeps of the cell. -/
theorem cellResets : Obligations.CellResets := by
  intro s i x
  refine ⟨fun hw hp n hn => ?_, fun n rest hx hb hn => ⟨(x.cell n).resetCell, ?_, ?_⟩⟩
  · intro c busy
    refine CtlRun.of_row rfl rfl hw hp ?_
    have hreq : x.cellResetReq n.toNat = if busy then { x with rst := { x.rst with refused := true, lastCell := n.toNat } }
        else { x with rst := { x.rst with cellBusy := x.rst.cellBusy ++ [n.toNat] } } := by
      simp [Inst.cellResetReq, hn, Cell.refusesReset, busy, c]
    rw [← hreq]
  · refine HubRun.of_inst rfl hx ?_
    simp only [cellResetDone, hb, hn, if_true]
    rfl
  · simp [Cell.resetCell, Cell.reset]
end Sys2Proof

namespace Sys2Proof

/-! SUPPORT. A step that goes over every live cell of a die, and the transitions of the power states (R402 to R406, R409,
R416). -/

open Sys2Proof.Machine

/-! ### Steps over every live cell -/

/-- A die on which every cell of a list has been changed by f, in order. -/
def overCells (f : Cell → Cell) (l : List Nat) (x : Inst) : Inst := l.foldl (fun x n => x.setCell n (f (x.cell n))) x

theorem overCells_frame (f : Cell → Cell) (l : List Nat) (x : Inst) :
    overCells f l x = { x with cells := (overCells f l x).cells } := by
  induction l generalizing x with
  | nil => rfl
  | cons n l ih => exact ih (x.setCell n (f (x.cell n)))

/-- A cell is changed once for each time that the list names it. -/
theorem cell_overCells (f : Cell → Cell) (l : List Nat) (x : Inst) (n : Nat) :
    (overCells f l x).cell n = f^[l.count n] (x.cell n) := by
  induction l generalizing x with
  | nil => rfl
  | cons m l ih =>
    refine (ih (x.setCell m (f (x.cell m)))).trans ?_
    by_cases h : m = n
    · subst h; simp
    · rw [Inst.cell_setCell_other _ _ _ _ (Ne.symm h), List.count_cons_of_ne h]

theorem Tbl.get_of_notMem {α : Type} {d : α} {t : Tbl α} {k : Nat} (h : k ∉ t.map Prod.fst) : Tbl.get d t k = d := by
  induction t with
  | nil => rfl
  | cons p t ih =>
    rw [List.map_cons, List.mem_cons, not_or] at h
    exact (if_neg (Ne.symm h.1)).trans (ih h.2)

/-- A cell that no entry of the table gives stands at its reset values. -/
theorem cell_not_live {x : Inst} {n : Nat} (h : n ∉ x.liveCells) : x.cell n = Cell.reset :=
  Tbl.get_of_notMem h

/-- What a projection of a cell becomes, under a step that acts on it by g, does not depend on how often the step runs. -/
theorem proj_overCells {α : Type} (p : Cell → α) (g : α → α) {f : Cell → Cell} (hf : ∀ c, p (f c) = g (p c))
    (hg : ∀ a, g (g a) = g a) (h0 : g (p Cell.reset) = p Cell.reset) (x : Inst) (n : Nat) :
    p ((overCells f x.liveCells x).cell n) = g (p (x.cell n)) := by
  have hit (k : Nat) (c : Cell) : p (f^[k + 1] c) = g (p c) := by
    induction k with
    | zero => exact hf c
    | succ k ih => rw [Function.iterate_succ_apply', hf, ih, hg]
  rw [cell_overCells]
  by_cases hn : n ∈ x.liveCells
  · obtain ⟨k, hk⟩ := Nat.exists_eq_succ_of_ne_zero (List.count_pos_iff.2 hn).ne'
    rw [hk, hit]
  · rw [List.count_eq_zero.2 hn, cell_not_live hn]
    exact h0.symm

/-! ### Power states -/

/-- The procedure of R404 takes the deepest state that is enabled and whose condition and times hold. -/
theorem choose_eq (s : State) (i : Nat) (x : Inst) {ok : Nat → Bool}
    (h : ∀ st, ok st = (x.pwr.ctrl.getLsbD (st - 1) && s.quiet i x st && x.timeFor st)) :
    s.choose i x = if ok 3 then 3 else if ok 2 then 2 else if ok 1 then 1 else 0 := by
  simp only [State.choose, ← h, List.find?]
  cases ok 3 <;> cases ok 2 <;> cases ok 1 <;> rfl

/-- A tick of a die whose hub runs (R404, R409). -/
theorem tick_alive {s : State} {i : Nat} {x : Inst} (h : x.alive = true) :
    let x1 := { x with ticks := (x.ticks + 1) % 2 ^ 64, pwr := x.pwr.count }
    let st := s.choose i x1
    s.tick i x = if !x.awake || x.pwr.busy then s.setInst i x1
      else if st = x.pwr.state then s.setInst i x1
      else s.setInst i { x1 with pwr := { x1.pwr with busy := true, target := if st = 0 then 1 else st } } := by
  intro x1 st
  simp only [Inst.alive, Bool.and_eq_true, decide_eq_true_eq, Bool.not_eq_true'] at h
  obtain ⟨⟨⟨⟨hph, -⟩, hcl⟩, hoff⟩, -⟩ := h
  obtain ⟨hst, hb, htg, hot⟩ : x1.pwr.state = x.pwr.state ∧ x1.pwr.busy = x.pwr.busy ∧ x1.pwr.target = x.pwr.target
      ∧ x1.pwr.offTaken = x.pwr.offTaken := by
    simp only [x1, Power.count]
    split <;> exact ⟨rfl, rfl, rfl, rfl⟩
  have hal : x1.alive = x.alive := by rw [Inst.alive, Inst.alive, hot]
  have haw : x1.awake = x.awake := by rw [Inst.awake, Inst.awake, hal, hst, hb, htg]
  have htick : s.tick i x = if !x1.awake || x1.pwr.busy || decide (2 ≤ x1.pwr.state) then s.setInst i x1
      else if st = x1.pwr.state then s.setInst i x1
      else s.setInst i { x1 with pwr := { x1.pwr with busy := true, target := if st = 0 then 1 else st } } := by
    simp only [State.tick, hcl, hoff, hph]
    rfl
  rw [htick, haw, hb, hst]
  have hlow (ha : x.awake = true) : decide (2 ≤ x.pwr.state) = false := by
    simp only [Inst.awake, Bool.and_eq_true, decide_eq_true_eq] at ha
    simp; omega
  cases ha : x.awake with
  | false => rfl
  | true => simp only [hlow ha, Bool.or_false]

/-- Nobody in the package waits for another die. -/
def NobodyWaits (s : State) : Prop := ∀ z ∈ s.insts, z.mbWait = none ∧ z.keyWait = none ∧ z.win.busy = none

theorem NobodyWaits.setInst {s : State} (h : NobodyWaits s) (i : Nat) {y : Inst}
    (hy : y.mbWait = none ∧ y.keyWait = none ∧ y.win.busy = none) : NobodyWaits (s.setInst i y) := fun z hz =>
  (List.mem_or_eq_of_mem_set hz).elim (h z) fun he => he ▸ hy

theorem resumeAt_idle {s : State} (h : NobodyWaits s) (j i : Nat) : s.resumeAt j i = s := by
  cases hi : s.insts[i]? with
  | none => simp [State.resumeAt, State.atDie, hi]
  | some x =>
    obtain ⟨hm, hk, hb⟩ := h x (List.mem_of_getElem? hi)
    simp [State.resumeAt, State.atDie, hi, hm, hk, hb]

/-- Where nobody waits, nothing goes on with a die that is at work again. -/
theorem resumeWaits_idle {s : State} (h : NobodyWaits s) (j : Nat) : s.resumeWaits j = s := by
  rw [State.resumeWaits]
  generalize List.range s.insts.length = l
  induction l with
  | nil => rfl
  | cons i l ih => rwa [List.foldl_cons, resumeAt_idle h]

/-- A die in RUN without notices serves the messages that it held. -/
theorem serveHeld_awake {s : State} {i : Nat} {x : Inst} (hx : s.insts[i]? = some x) (ha : x.awake = true) (hn : x.notices = []) :
    s.serveHeld i = ((s.setInst i { x with linkIn := [], notices := [] }).effs i x.linkIn).resumeWaits i := by
  simp [State.serveHeld, State.atDie, hx, ha, hn]

/-- The registers that an exit from DORMANT returns to default (R416). -/
theorem fromDormant_spec (x : Inst) :
    x.fromDormant = { x with
      cells := x.fromDormant.cells, tlb := [], keyHandle := 0, mbArg0 := 0, mbArg1 := 0, dbMask := BitVec.allOnes 32
      win := { x.win with args := List.replicate 6 0 }, pwr := { x.pwr with dormantExit := true }, intStat := x.intStat ||| 8#4 }
    ∧ ∀ n, x.fromDormant.cell n = { x.cell n with scaleCheck := 0, stallFeed := 0, stallDrain := 0 } := by
  let f (c : Cell) : Cell := { c with scaleCheck := 0, stallFeed := 0, stallDrain := 0 }
  constructor
  · have hf := overCells_frame f x.liveCells x
    unfold overCells at hf
    simp only [Inst.fromDormant]
    rw [hf]
  · exact fun n => proj_overCells id f (fun _ => rfl) (fun _ => rfl) rfl x n

/-- What an exit leaves of a die that is alive on the way out of a state (R405). -/
theorem exitDone_run {e : Env} {x : Inst} (ha : x.alive = true) (hb : x.pwr.busy = true) (ht : x.pwr.state = x.pwr.target) :
    let x1 := if x.pwr.state = 3 then x.fromDormant else x
    exitDone e x = pureRun { x1 with
      pwr := { x1.pwr with state := 0, busy := false, target := 0, cause := x1.pwr.wake.getD x1.pwr.cause, wake := none } } := by
  simp [exitDone, ha, hb, ht]

/-- An exit is complete: the die is in RUN and serves what it held (R405). -/
theorem pwrExit_runs {s : State} {i : Nat} {x y z : Inst} (hx : s.insts[i]? = some x)
    (ha : x.alive = true) (hb : x.pwr.busy = true) (ht : x.pwr.state = x.pwr.target) (hr : (exitDone (s.env i) x).x = y)
    (haw : y.awake = true) (hn : y.notices = []) (hz : { y with linkIn := [], notices := [] } = z) :
    exec (.pwrExitDone i) s = .next (((s.setInst i z).effs i y.linkIn).resumeWaits i) := by
  have hi : (s.setInst i y).insts[i]? = some y := State.getElem_setInst s i x y hx
  have hrun : s.run i exitDone = s.setInst i y := by
    rw [exitDone_run ha hb ht] at hr
    simp only [State.run, hx, State.runAt, exitDone_run ha hb ht, ← hr]
    rfl
  rw [← hz]
  simp [exec, execPwrExitDone, hrun, serveHeld_awake hi haw hn]

/-- An increment of a fence of die i itself, on the way from nobody (R242). -/
theorem effs_own_fence {s : State} {i k : Nat} {x : Inst} (inc : Word) (hx : s.insts[i]? = some x) (hk : k < 1024) :
    s.effs i [.fenceAdd (1024 * i + k) inc] = s.setInst i (x.setFence k { x.fence k with value := (x.fence k).value + inc }) := by
  have hd : (1024 * i + k) / 1024 = i := by omega
  have hm : (1024 * i + k) % 1024 = k := by omega
  simp [State.eff, Eff.die, hd, State.act, State.onFence, hx, hm]

/-- Settles O52: the tick by `tick_alive`, entries and exits by the branches of their commands. -/
theorem powerTransitions : Obligations.PowerTransitions := by
  intro s i x p never nobodyWaits ha
  have hx : s.insts[i]? = some x := ha.1
  have hal : x.alive = true := ha.2
  refine ⟨?_, fun hb hst hev => ?_, fun w hb hst htg hev => ?_, fun w hb hst htg hev hw => ?_, fun hst hb => ?_,
    fun cause hb hst hw hno hnot => ?_⟩
  · intro x1 next ok st
    have hx1 : x1 = { x with ticks := (x.ticks + 1) % 2 ^ 64, pwr := x.pwr.count } := by
      simp only [x1, Power.count, p, never]
      split <;> rfl
    have hctrl : x1.pwr.ctrl = p.ctrl := rfl
    have hc : st = s.choose i x1 := (choose_eq s i x1 fun _ => rfl).symm
    have htick := tick_alive (s := s) (i := i) hal
    simp only [← hx1, ← hc] at htick
    have hexec : exec (.pwrTick i) s = .next (s.tick i x) := by simp [exec, execPwrTick, State.atDie, hx]
    rw [hexec, htick]
    refine ⟨fun h => ?_, fun haw hb he => ?_, fun haw hb he => ?_⟩
    · rw [if_pos]
      obtain h | h := h
      · simp [h]
      · simp [show x.pwr.busy = true from h]
    · rw [if_neg (by simp [haw, show x.pwr.busy = false from hb]), if_pos he]
    · rw [if_neg (by simp [haw, show x.pwr.busy = false from hb]), if_neg he, show x.pwr.count = x1.pwr by rw [hx1]]
  · have hb : x.pwr.busy = true := hb
    have hst : x.pwr.state ≠ x.pwr.target := hst
    have hev : x.pwr.evWrite = none := hev
    refine ⟨fun htg => ?_, fun htg hw => ?_, fun cause htg hw => ?_⟩ <;> refine HubRun.of_inst rfl hx ?_
    · simp [entryDone, hal, hb, hst, hev, show x.pwr.target < 2 from htg, pureRun, p]
    · simp [entryDone, hal, hb, hst, hev, show ¬x.pwr.target < 2 from Nat.not_lt.2 htg, show x.pwr.wake = none from hw, pureRun, p]
    · simp [entryDone, hal, hb, hst, hev, show ¬x.pwr.target < 2 from Nat.not_lt.2 htg, show x.pwr.wake = some cause from hw, pureRun, p,
        Inst.beginExit]
  · refine HubRun.of_inst rfl hx ?_
    simp [entryDone, hal, show x.pwr.busy = true from hb, show x.pwr.state ≠ x.pwr.target from hst,
      show x.pwr.evWrite = some w from hev, show x.pwr.target < 2 from htg, pureRun, p]
  · have htg : ¬x.pwr.target < 2 := Nat.not_lt.2 htg
    have hentry : entryDone (s.env i) x = pureRun (if w.toNat < x.exitTicks x.pwr.target then
        { x with pwr := { p with state := p.target, evWrite := none, next := w, wake := some 1 } }
        else { x with pwr := { p with state := p.target, busy := false, target := 0, evWrite := none, next := w } }) := by
      have hcond : (!x.alive || !x.pwr.busy || decide (x.pwr.state = x.pwr.target)) = false := by
        simp [hal, show x.pwr.busy = true from hb, show x.pwr.state ≠ x.pwr.target from hst]
      simp only [entryDone, hcond, show x.pwr.evWrite = some w from hev, show x.pwr.wake = none from hw, if_neg htg]
      by_cases hl : w.toNat < x.exitTicks x.pwr.target <;> simp [hl, Inst.beginExit, p, show x.pwr.busy = true from hb, show x.pwr.wake = none from hw]
    refine ⟨fun hle => ?_, fun hle => ?_⟩ <;> refine HubRun.of_inst rfl hx (hentry.trans ?_)
    · rw [if_pos hle]; rfl
    · rw [if_neg (Nat.not_lt.2 hle)]; rfl
  · have hst : 2 ≤ x.pwr.state := hst
    have hb : x.pwr.busy = false := hb
    refine ⟨fun hne hle => ?_, fun h => ?_⟩ <;> refine HubRun.of_inst rfl hx ?_
    · have hne : x.pwr.next ≠ BitVec.allOnes 32 := hne
      have hle : x.pwr.next.toNat ≤ x.exitTicks x.pwr.state := hle
      rw [eventExit, if_pos (by exact ⟨hal, hst, by simp [hb], hne, hle⟩)]
      simp [Inst.beginExit, pureRun, p]
    · rw [eventExit, if_neg]
      · rfl
      · rintro ⟨-, -, -, hne, hle⟩
        exact h.elim hne (Nat.not_lt.2 hle)
  · have hb : x.pwr.busy = true := hb
    have hst : x.pwr.state = x.pwr.target := hst
    have hw : x.pwr.wake = some cause := hw
    intro run
    have hxw := hno x (List.mem_of_getElem? hx)
    have hrun := exitDone_run (e := s.env i) hal hb hst
    have haw (y : Inst) (hya : y.alive = true) (hys : y.pwr.state = 0) (hyb : y.pwr.busy = false) : y.awake = true := by
      simp [Inst.awake, hya, hys, hyb]
    refine ⟨fun h3 hl => ?_, fun k inc h3 hl hk => ?_, fun h3 hl => ?_⟩
    · rw [if_neg h3] at hrun
      let z : Inst := { x with pwr := run }
      have hex := pwrExit_runs (z := z) hx hal hb hst (congrArg Run.x hrun) (haw _ hal rfl rfl) hnot
        (by simp [pureRun, run, p, hw, hl, hnot, z])
      simp only [pureRun, hl, State.effs_nil] at hex
      rw [HubRun, hex, resumeWaits_idle (NobodyWaits.setInst hno i (y := z) hxw), State.effs_nil]
    · rw [if_neg h3] at hrun
      let z : Inst := { x with pwr := run, linkIn := [] }
      have hex := pwrExit_runs (z := z) hx hal hb hst (congrArg Run.x hrun) (haw _ hal rfl rfl) hnot
        (by simp [pureRun, run, p, hw, hnot, z])
      simp only [pureRun, hl] at hex
      rw [effs_own_fence inc (State.getElem_setInst s i x z hx) hk, State.setInst_setInst] at hex
      rw [HubRun, hex, resumeWaits_idle, State.effs_nil]
      · rfl
      · exact NobodyWaits.setInst hno i hxw
    · have h3 : x.pwr.state = 3 := h3
      obtain ⟨hfd, hcell⟩ := fromDormant_spec x
      rw [if_pos h3] at hrun
      let z : Inst := { x with
        cells := x.fromDormant.cells, tlb := [], keyHandle := 0, mbArg0 := 0, mbArg1 := 0, dbMask := never
        win := { x.win with args := List.replicate 6 0 }, intStat := x.intStat ||| 8#4
        pwr := { p with state := 0, busy := false, target := 0, cause := cause, wake := none, dormantExit := true } }
      have hlink : x.fromDormant.linkIn = [] := by rw [hfd]; exact hl
      have hex := pwrExit_runs (z := z) hx hal hb hst (congrArg Run.x hrun) (haw _ (by rw [hfd]; exact hal) rfl rfl)
        (by rw [hfd]; exact hnot) (by rw [hfd]; simp [pureRun, p, hw, hl, hnot, z, never])
      simp only [pureRun, hlink, State.effs_nil] at hex
      refine ⟨z, ?_, rfl, hcell⟩
      rw [HubRun, hex, resumeWaits_idle (NobodyWaits.setInst hno i (y := z) hxw), State.effs_nil]
end Sys2Proof

namespace Sys2Proof

/-! SUPPORT. Key commands (R281 to R284, R427). -/

open Sys2Proof.Machine

/-- A die at work can take a request of its own at once. -/
theorem reach_self {s : State} {i : Nat} {x : Inst} (h : AtWork s i x) : s.reach i i x = some 0 := by
  have hs : s.sleepers i i = [] := by simp [State.sleepers, State.path]
  obtain ⟨hph, hfs, -⟩ := Inst.awake_parts h.2
  simp [State.reach, hph, State.linked, hs, Inst.reach, hfs, h.2]

/-- Instance x after a key command that ended with a code (R283). -/
def keyEnded (x : Inst) (code : Nat) : Inst := { x with keyCode := code, keyWrap := List.replicate 12 0, keyWait := none }

theorem keyEnd_some {s : State} {i : Nat} {x : Inst} (h : s.insts[i]? = some x) (code : Nat) :
    s.keyEnd i code = s.setInst i (keyEnded x code) := by
  simp [State.keyEnd, h, keyEnded]

/-- A key command at an instance at work whose window waits for nothing. -/
theorem keyRow_runs {s : State} {i : Nat} {x y : Inst} {w : Word} (hw : AtWork s i x) (hp : PortOpen s)
    (hy : s.keyCmd i x w = s.setInst i y) :
    (w.toNat % 4 = 1 → CtlRun (.keyLoad i w) s i y) ∧ (w.toNat % 4 = 2 → CtlRun (.keyClear i w) s i y) := by
  have hop : keyOp w = w.toNat % 4 := by simp [keyOp, fld]
  refine ⟨fun h => ?_, fun h => ?_⟩
  · exact CtlRun.of_row (f := fun x => s.keyCmd i x w) (by simp [exec, execKeyLoad, keyRow, hop, h]) rfl hw hp hy
  · exact CtlRun.of_row (f := fun x => s.keyCmd i x w) (by simp [exec, execKeyClear, keyRow, hop, h]) rfl hw hp hy

/-- A key command with legal arguments that acts at its own instance. -/
theorem keyCmd_own {s : State} {i : Nat} {x : Inst} {w : Word} (hw : AtWork s i x) (hk : x.keyWait = none)
    (ha : keyArgsBad w = false) (hh : handleInst x.keyHandle = i) (hi : i < x.instCount) :
    s.keyCmd i x w = s.setInst i (keyEnded (s.keyAt x w x.keyHandle x.keyWrap).2 (s.keyAt x w x.keyHandle x.keyWrap).1) := by
  have hx : s.insts[i]? = some x := hw.1
  simp only [State.keyCmd, hk, Option.isSome_none, State.keyRun, ha, hh, Nat.not_le.2 hi, hx, reach_self hw]
  simp [keyEnd_some (State.getElem_setInst s i x _ hx)]

theorem keyArgsBad_eq {w : Word} (h : w.toNat % 4 = 1 ∨ w.toNat % 4 = 2) :
    keyArgsBad w = decide (w.toNat / 2 ^ 16 ≠ 0 ∨ w.toNat / 2 ^ 2 % 2 ^ 2 ≠ 0) := by
  have hop : keyOp w = w.toNat % 4 := by simp [keyOp, fld]
  have hlt : w.toNat < 2 ^ 32 := w.isLt
  have hhi : w.toNat / 2 ^ 16 % 2 ^ 16 = w.toNat / 2 ^ 16 := Nat.mod_eq_of_lt (by omega)
  have hno : ¬(keyOp w = 0 ∨ keyOp w = 3) := by omega
  simp only [keyArgsBad, hno, decide_false, Bool.false_or, Bool.decide_or, fld, Nat.shiftRight_eq_div_pow, hhi, Nat.reduceAdd,
    Nat.reduceSub]

/-- Settles O46: the checks of R284 one after the other, each by the branch of `keyAt` that it is. -/
theorem keyCommands : Obligations.KeyCommands := by
  intro s i x w h v slot k fresh ends rsv both hw
  have hx : s.insts[i]? = some x := hw.1
  have hbad (hop : w.toNat % 4 = 1 ∨ w.toNat % 4 = 2) : keyArgsBad w = rsv := keyArgsBad_eq hop
  have hslot : keySlotOf w = slot := by simp [keySlotOf, fld, Nat.shiftRight_eq_div_pow, slot]
  have hcmd (y : Inst) (hp : PortOpen s) (hy : w.toNat % 4 = 1 ∨ w.toNat % 4 = 2 → s.keyCmd i x w = s.setInst i y) :
      (w.toNat % 4 = 1 → CtlRun (.keyLoad i w) s i y) ∧ (w.toNat % 4 = 2 → CtlRun (.keyClear i w) s i y) :=
    ⟨fun ho => (keyRow_runs hw hp (hy (.inl ho))).1 ho, fun ho => (keyRow_runs hw hp (hy (.inr ho))).2 ho⟩
  refine ⟨fun hp hk => ?_, fun hp hk => ⟨fun hr => ?_, fun hr hle => ?_⟩, fun hp hk hr hh hi => ?_, fun key last => ?_⟩
  · exact hcmd x hp fun _ => by rw [State.keyCmd, if_pos hk, State.setInst_self s i x hx]
  · refine hcmd (keyEnded x 0x0040) hp fun ho => ?_
    simp [State.keyCmd, hk, State.keyRun, hbad ho, hr, keyEnd_some hx, errKeySlot]
  · refine hcmd (keyEnded x 0x0030) hp fun ho => ?_
    have hle : x.instCount ≤ handleInst x.keyHandle := hle
    simp [State.keyCmd, hk, State.keyRun, hbad ho, hr, hle, keyEnd_some hx, errChArg]
  · have hown (y : Inst) (code : Nat) (hat : s.keyAt x w h x.keyWrap = (code, y)) :
        (w.toNat % 4 = 1 → ends (.keyLoad i w) y code) ∧ (w.toNat % 4 = 2 → ends (.keyClear i w) y code) :=
      hcmd (keyEnded y code) hp fun ho => by
        rw [keyCmd_own hw hk ((hbad ho).trans hr) hh hi, hat]
    have hop : keyOp w = w.toNat % 4 := by simp [keyOp, fld]
    refine ⟨fun hst => ?_, fun hst hg => ?_⟩
    · exact hown x 0x0031 (by simp only [State.keyAt]; rw [if_pos hst]; rfl)
    · have hlive : ¬(v.st = .free ∨ v.gen ≠ handleGen h) := not_or.2 ⟨hst, not_not.2 hg⟩
      refine ⟨fun hkb => ?_, fun hkb hno => ?_, fun hkb hown' => ⟨fun ho => ?_, fun ho => ?_⟩⟩
      · exact hown x 0x00F0 (by simp only [State.keyAt, hslot]; rw [if_neg hlive, if_pos hkb]; rfl)
      · exact hown x 0x0040 (by simp only [State.keyAt, hslot]; rw [if_neg hlive, if_neg (ne_true_of_eq_false hkb), if_pos hno]; rfl)
      · refine (hown (x.setKey slot { KeySlot.empty with owner := k.owner }) 0 ?_).2 ho
        simp only [State.keyAt, hslot]
        rw [if_neg hlive, if_neg (ne_true_of_eq_false hkb), if_neg (not_not.2 hown'), if_pos (hop.trans ho)]
      · have hload : s.keyAt x w h x.keyWrap = match x.instKey with
            | none => (errKeyUnwrap, x)
            | some ik => match unwrapKey ik x.keyWrap with
              | none => (errKeyUnwrap, x)
              | some d => if s.keyReused d then (errKeyReuse, x) else (0, x.setKey slot (fresh d)) := by
          simp only [State.keyAt, hslot]
          rw [if_neg hlive, if_neg (ne_true_of_eq_false hkb), if_neg (not_not.2 hown'), if_neg (by omega)] <;> rfl
        refine ⟨fun hik => ?_, fun ik hik hun => ?_, fun ik d hik hun => ⟨fun hre => ?_, fun hre => ?_⟩⟩
        · exact (hown x 0x0041 (by rw [hload, hik]; rfl)).1 ho
        · exact (hown x 0x0041 (by rw [hload]; simp only [hik, hun]; rfl)).1 ho
        · exact (hown x 0x0042 (by rw [hload]; simp only [hik, hun, hre]; rfl)).1 ho
        · exact (hown (x.setKey slot (fresh d)) 0 (by rw [hload]; simp only [hik, hun, hre]; rfl)).1 ho
  · intro held
    refine HubRun.of_inst rfl hx ?_
    have hrun : keyProvision key last (s.env i) x = pureRun (if last = false then { x with keyResp := some 2#2 }
        else if held then { x with keyResp := some 1#2 } else { x with instKey := some key, keyResp := some 0#2 }) := by
      have hheld : (x.instKey.isSome ∧ (x.keys.any fun p => p.2.hasKey) = true) ↔ held = true := by simp [held]
      simp only [keyProvision, Inst.alive_of_awake hw.2, hheld]
      cases last <;> cases held <;> rfl
    exact hrun
end Sys2Proof

namespace Sys2Proof

/-! SUPPORT. The commands of the channel window and the port commands of channels (R259 to R278). -/

open Sys2Proof.Machine

/-! ### Records leave the control port alone -/

theorem eff_record_port (i : Nat) (s : State) (ws : List Word) :
    (State.eff i s (.record ws)).fwd = s.fwd ∧ (State.eff i s (.record ws)).resp = s.resp := by
  have hpost (t : State) : (t.post ws).fwd = t.fwd ∧ (t.post ws).resp = t.resp := by
    simp only [State.post]
    repeat' split
    all_goals exact ⟨rfl, rfl⟩
  simp only [State.eff, State.act, State.atDie]
  repeat' split
  all_goals simp [hpost]

theorem setWin_port (s : State) (i : Nat) (f : ChWin → ChWin) :
    (s.setWin i f).fwd = s.fwd ∧ (s.setWin i f).resp = s.resp := by
  simp only [State.setWin]
  split <;> exact ⟨rfl, rfl⟩

/-- The effects of a command leave the accesses at the control port where they are. -/
def KeepsPort (es : List Eff) : Prop := ∀ (s : State) (i : Nat), (s.effs i es).fwd = s.fwd ∧ (s.effs i es).resp = s.resp

theorem keepsPort_nil : KeepsPort [] := fun _ _ => ⟨rfl, rfl⟩

theorem keepsPort_record (ws : List Word) : KeepsPort [.record ws] := fun s i => eff_record_port i s ws

/-! ### A command of the window of its own instance -/

/-- The window after a command that came to `d` (R268). -/
def answered (w : ChCmd) (d : ChDone) (data : List Word) (f : ChWin → ChWin) : Prop := ∀ win : ChWin,
  win.answer w d data = f { win with result := BitVec.ofNat 32 (w.cmdId.toNat * 2 ^ 16 + d.code), busy := none }

/-- A command written to a window at work that waits for nothing runs. -/
theorem chRow_runs {i : Instr} {s t : State} {w : ChCmd} {x : Inst} {op : Nat} {xl : XlAns} {led : Option Line}
    (he : exec i s = s.chRow op w xl led) (hi : rowWrite i = (w.win, 0x800, chWord op w)) (hw : AtWork s w.win x) (hp : PortOpen s)
    (hb : x.win.busy = none) (ht : s.chRun op w xl led = t) (hport : t.fwd = s.fwd ∧ t.resp = s.resp) :
    exec i s = .next (served i s t) := by
  refine served_of_row (f := fun _ => s.chRun op w xl led) ?_ hi hw hp ht hport.1 hport.2
  simp [he, State.chRow, hw.1, hb]

/-- What the state is after a command of the window of die i that came to `d`, with the data `data` of a query. -/
def winEnds (s : State) (w : ChCmd) (d : ChDone) (data : List Word) : State :=
  ((s.setInst w.win d.r.x).effs w.win d.r.effs).setWin w.win fun win => win.answer w d data

theorem winEnds_port {s : State} {w : ChCmd} {d : ChDone} {data : List Word} (h : KeepsPort d.r.effs) :
    (winEnds s w d data).fwd = s.fwd ∧ (winEnds s w d data).resp = s.resp := by
  obtain ⟨h1, h2⟩ := setWin_port ((s.setInst w.win d.r.x).effs w.win d.r.effs) w.win fun win => win.answer w d data
  obtain ⟨h3, h4⟩ := h (s.setInst w.win d.r.x) w.win
  exact ⟨h1.trans h3, h2.trans h4⟩

/-- A command whose arguments break check 1 of R265 ends at the window. -/
theorem chRun_bad {s : State} {w : ChCmd} {x : Inst} {op : Nat} {xl : XlAns} {led : Option Line} (hx : s.insts[w.win]? = some x)
    (ha : chArgsBad op w x.win.args x.instCount = true) :
    s.chRun op w xl led = winEnds s w (.refuse x errChArg) [] := by
  simp [State.chRun, hx, ha, winEnds, ChDone.refuse, pureRun, State.setInst_self s _ x hx]

/-- A command with legal arguments that acts at its own instance, and whose answer carries no data of the host. -/
theorem chRun_own {s : State} {w : ChCmd} {x : Inst} {op : Nat} {xl : XlAns} {led : Option Line} {d : ChDone} (hw : AtWork s w.win x)
    (ha : chArgsBad op w x.win.args x.instCount = false) (ht : chTarget op x.win.args = w.win)
    (hd : (if op = 1 then x.chCreate (decide (s.ss.st = 4)) w x.win.args xl else x.chHandle op w (wordAt x.win.args 0) led) = d)
    (hq : ∀ st, d.query ≠ some (st, none)) :
    s.chRun op w xl led = winEnds s w d (match d.query with
      | some (_, some l) => l
      | _ => []) := by
  have hx : s.insts[w.win]? = some x := hw.1
  simp only [State.chRun, hx, ha, ht, reach_self hw]
  simp only [Bool.false_eq_true, ↓reduceIte, ne_eq, not_true_eq_false, hd]
  match hdq : d.query with
  | none => rfl
  | some (st, none) => exact absurd hdq (hq st)
  | some (_, some l) => rfl

/-- A command of the window of its own instance that comes to `d` ends as `WinRun` says. -/
theorem WinRun.of_done {i : Instr} {s : State} {w : ChCmd} {x : Inst} {op : Nat} {xl : XlAns} {led : Option Line} {d : ChDone}
    {y : Inst} {es : List Eff} {code : Nat} {f : ChWin → ChWin}
    (he : exec i s = s.chRow op w xl led) (hi : rowWrite i = (w.win, 0x800, chWord op w)) (hw : AtWork s w.win x) (hp : PortOpen s)
    (hb : x.win.busy = none) {data : List Word} (hrun : s.chRun op w xl led = winEnds s w d data)
    (hd : d.r = { x := y, effs := es }) (hcode : d.code = code) (hk : KeepsPort es) (hf : answered w d data f) :
    WinRun i s w y es code f := by
  have hk' : KeepsPort d.r.effs := by rw [hd]; exact hk
  rw [WinRun, chRow_runs he hi hw hp hb hrun (winEnds_port hk')]
  simp only [winEnds, hd, funext hf, hcode]

theorem answered_plain (w : ChCmd) {d : ChDone} (hh : d.handle = none) (hq : d.query = none) : answered w d [] id := fun win => by
  simp [ChWin.answer, hh, hq]

/-- The commands that name a handle, op 2 to 6: what a command of an op is in the row of its own. -/
def IsRow (i : Instr) (op : Nat) (w : ChCmd) (led : Option Line) : Prop :=
  (2 ≤ op ∧ op ≤ 6) ∧ (∀ s, exec i s = s.chRow op w noXl led) ∧ rowWrite i = (w.win, 0x800, chWord op w)

theorem isRow_start (w : ChCmd) : IsRow (.chStart w) 2 w none := ⟨by omega, fun _ => rfl, rfl⟩
theorem isRow_preempt (w : ChCmd) : IsRow (.chPreempt w) 3 w none := ⟨by omega, fun _ => rfl, rfl⟩
theorem isRow_resume (w : ChCmd) : IsRow (.chResume w) 4 w none := ⟨by omega, fun _ => rfl, rfl⟩
theorem isRow_destroy (w : ChCmd) : IsRow (.chDestroy w) 5 w none := ⟨by omega, fun _ => rfl, rfl⟩
theorem isRow_query (w : ChCmd) (led : Option Line) : IsRow (.chQuery w led) 6 w led := ⟨by omega, fun _ => rfl, rfl⟩

/-- A command of an op in 2 to 6 with a reserved bit set ends with CH_ARG (R265 check 1). -/
theorem WinRun.of_reserved {i : Instr} {op : Nat} {s : State} {w : ChCmd} {x : Inst} {led : Option Line} (hi : IsRow i op w led)
    (hw : AtWork s w.win x) (hp : PortOpen s) (hb : x.win.busy = none) (hr : w.rsv ≠ 0) : WinRun i s w x [] 0x0030 id := by
  obtain ⟨-, he, hrow⟩ := hi
  have ha : chArgsBad op w x.win.args x.instCount = true := by simp [chArgsBad, show ¬w.rsv = 0#7 from hr]
  exact WinRun.of_done (he s) hrow hw hp hb (chRun_bad hw.1 ha) rfl rfl keepsPort_nil (answered_plain w rfl rfl)

/-- The arguments of a command pass check 1 of R265, and its channel is one of the window's own instance. -/
def OwnArgs (s : State) (w : ChCmd) (x : Inst) : Prop :=
  AtWork s w.win x ∧ PortOpen s ∧ x.win.busy = none ∧ w.rsv = 0 ∧ handleInst (wordAt x.win.args 0) = w.win ∧ w.win < x.instCount

/-- A command that names a handle of the window's own instance runs there. -/
theorem chRun_handle {i : Instr} {op : Nat} {s : State} {w : ChCmd} {x : Inst} {led : Option Line} {d : ChDone}
    (hi : IsRow i op w led) (ho : OwnArgs s w x) (hd : x.chHandle op w (wordAt x.win.args 0) led = d)
    (hq : ∀ st, d.query ≠ some (st, none)) :
    s.chRun op w noXl led = winEnds s w d (match d.query with
      | some (_, some l) => l
      | _ => []) := by
  obtain ⟨⟨h2, h6⟩, -, -⟩ := hi
  obtain ⟨hw, -, -, hr, hh, hlt⟩ := ho
  have h1 : op ≠ 1 := by omega
  refine chRun_own hw ?_ ?_ (by rwa [if_neg h1]) hq
  · simp [chArgsBad, hr, h1, hh, hlt]; omega
  · rw [chTarget, if_neg h1, hh]

/-- A command that answers with its code alone. -/
theorem WinRun.of_handle {i : Instr} {op : Nat} {s : State} {w : ChCmd} {x y : Inst} {led : Option Line} {es : List Eff} {code : Nat}
    (hi : IsRow i op w led) (ho : OwnArgs s w x)
    (hd : x.chHandle op w (wordAt x.win.args 0) led = { code := code, r := { x := y, effs := es }, handle := none, query := none })
    (hk : KeepsPort es) : WinRun i s w y es code id :=
  WinRun.of_done (hi.2.1 s) hi.2.2 ho.1 ho.2.1 ho.2.2.1 (chRun_handle hi ho hd (by simp)) rfl rfl hk (answered_plain w rfl rfl)

/-- A query that answers with state and ledger. -/
theorem WinRun.of_query {i : Instr} {op : Nat} {s : State} {w : ChCmd} {x y : Inst} {led : Option Line} {st : Nat} {data : List Word}
    (hi : IsRow i op w led) (ho : OwnArgs s w x)
    (hd : x.chHandle op w (wordAt x.win.args 0) led = { code := 0, r := pureRun y, handle := none, query := some (st, some data) }) :
    WinRun i s w y [] 0 fun win => { win with qstate := st, data := data } :=
  WinRun.of_done (hi.2.1 s) hi.2.2 ho.1 ho.2.1 ho.2.2.1 (chRun_handle hi ho hd (by simp)) rfl rfl keepsPort_nil
    fun _ => rfl

/-- A command that the checks of R265 refuse. -/
theorem WinRun.of_refuse {i : Instr} {op : Nat} {s : State} {w : ChCmd} {x : Inst} {led : Option Line} {code : Nat}
    (hi : IsRow i op w led) (ho : OwnArgs s w x) (hd : x.chHandle op w (wordAt x.win.args 0) led = .refuse x code) :
    WinRun i s w x [] code id := WinRun.of_handle hi ho hd keepsPort_nil

/-! ### The checks of R265 (3 to 5) -/

theorem chHandle_stale {x : Inst} {op : Nat} {w : ChCmd} {h : Word} {led : Option Line}
    (hs : (x.vc (handleVc h)).st = .free ∨ (x.vc (handleVc h)).gen ≠ handleGen h) : x.chHandle op w h led = .refuse x 0x0031 := by
  simp only [Inst.chHandle, errChStale]
  rw [if_pos hs]

theorem chHandle_state {x : Inst} {op : Nat} {w : ChCmd} {h : Word} {led : Option Line} (hf : (x.vc (handleVc h)).st ≠ .free)
    (hg : (x.vc (handleVc h)).gen = handleGen h) (ha : chAccepts op (x.vc (handleVc h)).st = false) :
    x.chHandle op w h led = .refuse x 0x0032 := by
  simp only [Inst.chHandle, errChState]
  rw [if_neg (not_or.2 ⟨hf, not_not.2 hg⟩), if_pos (by simp [ha])]

theorem chHandle_busy {x : Inst} {op : Nat} {w : ChCmd} {h : Word} {led : Option Line} (hf : (x.vc (handleVc h)).st ≠ .free)
    (hg : (x.vc (handleVc h)).gen = handleGen h) (ha : chAccepts op (x.vc (handleVc h)).st = true)
    (hb : (x.vc (handleVc h)).cmd.isSome = true ∧ op ≠ 5 ∧ op ≠ 6) : x.chHandle op w h led = .refuse x 0x0033 := by
  simp only [Inst.chHandle, errChBusy]
  rw [if_neg (not_or.2 ⟨hf, not_not.2 hg⟩), if_neg (by simp [ha]), if_pos hb]

/-! ### The beginning of a stop (R142, R205, R311) -/

/-- A property that a change of a cell never loses holds between a cell and what a step over the live cells makes of it. -/
theorem rel_overCells {R : Cell → Cell → Prop} (hrefl : ∀ c, R c c) (htrans : ∀ a b c, R a b → R b c → R a c) {f : Cell → Cell}
    (hf : ∀ c, R c (f c)) (l : List Nat) (x : Inst) (n : Nat) : R (x.cell n) ((overCells f l x).cell n) := by
  rw [cell_overCells]
  generalize l.count n = k
  induction k with
  | zero => exact hrefl _
  | succ k ih => rw [Function.iterate_succ_apply']; exact htrans _ _ _ ih (hf _)

/-- What the beginning of a stop does to a cell: launches of the handle are refused, other adds pass those of the channel. -/
def stopCell (h : Word) (v : Nat) (c : Cell) : Cell := ((c.refuseLaunches h errChState).parkAdds v).runAdds

theorem refuseFetch_frame (c : Cell) (k code : Nat) : c.refuseFetch k code = { c with
    slots := c.slots.set k Slot.idle, vits := (c.refuseFetch k code).vits, masks := (c.refuseFetch k code).masks
    spReads := (c.refuseFetch k code).spReads, spWrites := (c.refuseFetch k code).spWrites
    respQ := (c.refuseFetch k code).respQ, outQ := (c.refuseFetch k code).outQ } := by
  unfold Cell.refuseFetch
  rw [Cell.answer_frame]
  rfl

/-- The slots in which a fetch is refused are idle, the others as they were. -/
def SlotsRest (c d : Cell) : Prop := ∀ j, d.slot j = c.slot j ∨ d.slot j = Slot.idle

theorem SlotsRest.trans {a b c : Cell} (h1 : SlotsRest a b) (h2 : SlotsRest b c) : SlotsRest a c := fun j =>
  (h2 j).elim (fun h => (h1 j).imp (h.trans ·) (h.trans ·)) .inr

theorem slotsRest_of_slots {c d : Cell} (h : d.slots = c.slots) : SlotsRest c d := fun j => .inl (by rw [Cell.slot, Cell.slot, h])

theorem refuseFetch_rest (c : Cell) (k code : Nat) : SlotsRest c (c.refuseFetch k code) := by
  rw [refuseFetch_frame]
  intro j
  simp only [Cell.slot, List.getD_eq_getElem?_getD, List.getElem?_set]
  split
  · split <;> exact .inr rfl
  · exact .inl rfl

/-- Refused launches: the fetches that are refused, and then the queue without them. -/
theorem refuseLaunches_eq (c : Cell) (h : Word) (code : Nat) : ∃ ks : List Nat,
    let c1 := ks.foldl (fun c k => c.refuseFetch k code) c
    c.refuseLaunches h code = { c1 with
      launchQ := c1.launchQ.filter fun ws => wordAt ws 0 ≠ h, respQ := (c.refuseLaunches h code).respQ
      outQ := (c.refuseLaunches h code).outQ } := by
  have hfold (l : List Nat) (d : Cell) : ∃ ks : List Nat, l.foldl (fun c k =>
      if (c.slot k).phase = .fetching ∧ decide (wordAt (c.slot k).launch 0 = h) then c.refuseFetch k code else c) d
        = ks.foldl (fun c k => c.refuseFetch k code) d := by
    induction l generalizing d with
    | nil => exact ⟨[], rfl⟩
    | cons k l ih =>
      rw [List.foldl_cons]
      split
      · obtain ⟨ks, hks⟩ := ih (d.refuseFetch k code)
        exact ⟨k :: ks, hks⟩
      · exact ih d
  obtain ⟨ks, hks⟩ := hfold (List.range 4) c
  refine ⟨ks, ?_⟩
  rw [← hks]
  simp only [ne_eq, decide_not]
  rfl

theorem foldl_refuseFetch {ks : List Nat} {code : Nat} (c : Cell) :
    let c1 := ks.foldl (fun c k => c.refuseFetch k code) c
    c1.launchQ = c.launchQ ∧ c1.casks = c.casks ∧ SlotsRest c c1 := by
  induction ks generalizing c with
  | nil => exact ⟨rfl, rfl, fun j => .inl rfl⟩
  | cons k ks ih =>
    obtain ⟨h1, h2, h3⟩ := ih (c.refuseFetch k code)
    have hf := refuseFetch_frame c k code
    exact ⟨h1.trans (by rw [hf]), h2.trans (by rw [hf]), (refuseFetch_rest c k code).trans h3⟩

/-- A refusal leaves the casks, and the slots but for idle ones, and takes the handle's launches from the queue. -/
theorem refuseLaunches_spec (c : Cell) (h : Word) (code : Nat) :
    (c.refuseLaunches h code).launchQ = c.launchQ.filter (fun ws => wordAt ws 0 ≠ h) ∧ (c.refuseLaunches h code).casks = c.casks
      ∧ SlotsRest c (c.refuseLaunches h code) := by
  obtain ⟨ks, hk⟩ := refuseLaunches_eq c h code
  obtain ⟨h1, h2, h3⟩ := foldl_refuseFetch (ks := ks) (code := code) c
  dsimp only at hk
  refine ⟨?_, ?_, h3.trans (slotsRest_of_slots ?_)⟩ <;> rw [hk]
  · rw [← h1]
  · exact h2

/-- Every cask of a cell is there in another one, at its place and with its owner. -/
def KeepsCasks (c d : Cell) : Prop := ∀ e q, Cell.caskAt c e = some q → ∃ r, Cell.caskAt d e = some r ∧ r.base = q.base ∧ r.owner = q.owner

theorem KeepsCasks.refl (c : Cell) : KeepsCasks c c := fun _ q h => ⟨q, h, rfl, rfl⟩

theorem KeepsCasks.trans {a b c : Cell} (h1 : KeepsCasks a b) (h2 : KeepsCasks b c) : KeepsCasks a c := fun e q h => by
  obtain ⟨r, hr, hb, ho⟩ := h1 e q h
  obtain ⟨t, ht, hb', ho'⟩ := h2 e r hr
  exact ⟨t, ht, hb'.trans hb, ho'.trans ho⟩

theorem keepsCasks_of_casks {c d : Cell} (h : d.casks = c.casks) : KeepsCasks c d := fun _ q hq => ⟨q, by rwa [Cell.caskAt, h], rfl, rfl⟩

/-- A changed entry of a table leaves what the other keys find. -/
theorem find_put_other {α : Type} {k j : Nat} (v : α) (t : Tbl α) (h : j ≠ k) :
    (Tbl.put k v t).find? (fun p => p.1 == j) = t.find? (fun p => p.1 == j) := by
  have hk : ((k, v).1 == j) = false := by simp [Ne.symm h]
  induction t with
  | nil => simp [Tbl.put, Ne.symm h]
  | cons p t ih =>
    obtain ⟨i, w⟩ := p
    simp only [Tbl.put]
    split
    · rw [List.find?_cons_of_neg (by simp [Ne.symm h])]
    · split
      · rename_i hk
        rw [List.find?_cons_of_neg (by simp [Ne.symm h]), List.find?_cons_of_neg (by simp [← hk, Ne.symm h])]
      · simp only [List.find?_cons, ih]

/-- A cask that is changed but for its range and its owner. -/
theorem keepsCasks_put {c d : Cell} {e : Nat} {q q' : Cask} (hq : Cell.caskAt c e = some q) (hd : d.casks = Tbl.put e q' c.casks)
    (hb : q'.base = q.base) (ho : q'.owner = q.owner) : KeepsCasks c d := fun j r hr => by
  by_cases hj : j = e
  · subst hj
    obtain rfl : q = r := Option.some.inj (hq.symm.trans hr)
    exact ⟨q', by rw [Cell.caskAt, hd, find_put]; rfl, hb, ho⟩
  · exact ⟨r, by rw [Cell.caskAt, hd, find_put_other q' c.casks hj]; exact hr, rfl, rfl⟩

theorem caskAt_of_find {c : Cell} {e : Nat} {p : Nat × Cask} (h : c.casks.find? (fun p => p.1 == e) = some p) :
    Cell.caskAt c e = some p.2 := by
  rw [Cell.caskAt, h]; rfl

theorem startLoad_keepsCasks (c : Cell) (e : Nat) : KeepsCasks c (c.startLoad e) := by
  unfold Cell.startLoad
  split
  · exact .refl c
  · rename_i p hp
    split
    · exact .refl c
    · dsimp only
      split
      · exact .refl c
      · exact keepsCasks_put (caskAt_of_find hp) rfl rfl rfl

theorem addReady_caskAt {c : Cell} {e : Nat} {q : Cask} {a : CaskAdd} {ls : List SpLine} {src : List Tw}
    (h : c.addReady e = some (q, a, ls, src)) : Cell.caskAt c e = some q := by
  unfold Cell.addReady at h
  split at h
  · exact absurd h (by simp)
  · rename_i p hp
    split at h
    · exact absurd h (by simp)
    · split at h
      · split at h
        · obtain ⟨rfl, -⟩ := Prod.mk.inj (Option.some.inj h)
          exact caskAt_of_find hp
        · exact absurd h (by simp)
      · exact absurd h (by simp)

theorem startStore_keepsCasks (c : Cell) (e : Nat) : KeepsCasks c (c.startStore e) := by
  unfold Cell.startStore
  split
  · exact .refl c
  · rename_i q a ls src hr
    split
    · exact .refl c
    · have hr' : c.addReady e = some (q, a, ls, src) := by
        split at hr
        · exact absurd hr (by simp)
        · exact hr
      exact keepsCasks_put (addReady_caskAt hr') rfl rfl rfl

theorem runAdds_keepsCasks (c : Cell) : KeepsCasks c c.runAdds := by
  have hloads (d : Cell) : KeepsCasks d d.startLoads := by
    unfold Cell.startLoads
    split
    · exact .refl d
    · split
      · exact .refl d
      · exact startLoad_keepsCasks _ _
      · split
        · exact startLoad_keepsCasks _ _
        · exact (startLoad_keepsCasks _ _).trans (startLoad_keepsCasks _ _)
  have hstores (d : Cell) : KeepsCasks d d.startStores := by
    unfold Cell.startStores
    split
    · exact .refl d
    · dsimp only
      split
      · exact startStore_keepsCasks _ _
      · split
        · exact (startStore_keepsCasks _ _).trans (startStore_keepsCasks _ _)
        · exact startStore_keepsCasks _ _
  exact (hloads c).trans (hstores _)

/-- What lets other adds pass those of a channel touches adds, their order and the scratchpad's requests alone. -/
theorem parkAdds_frame (c : Cell) (v : Nat) : c.parkAdds v = { c with
    casks := (c.parkAdds v).casks, addQ := (c.parkAdds v).addQ, spReads := (c.parkAdds v).spReads
    spWrites := (c.parkAdds v).spWrites } := by
  have hfold (l : List Nat) (d : Cell) : l.foldl (fun c e => c.orphan (.add e)) d = { d with
      spReads := (l.foldl (fun c e => c.orphan (.add e)) d).spReads
      spWrites := (l.foldl (fun c e => c.orphan (.add e)) d).spWrites } := by
    induction l generalizing d with
    | nil => rfl
    | cons e l ih => rw [List.foldl_cons, ih]; rfl
  simp only [Cell.parkAdds]
  rw [hfold]

theorem parkAdds_keepsCasks (c : Cell) (v : Nat) : KeepsCasks c (c.parkAdds v) := by
  have hfold (l : List Nat) (d : Cell) : (l.foldl (fun c e => c.orphan (.add e)) d).casks = d.casks := by
    induction l generalizing d with
    | nil => rfl
    | cons e l ih => rw [List.foldl_cons, ih]; rfl
  intro e q hq
  simp only [Cell.parkAdds, Cell.caskAt, hfold]
  rw [Cell.caskAt, Option.map_eq_some_iff] at hq
  obtain ⟨p, hp, rfl⟩ := hq
  rw [List.find?_map, Function.comp_def, hp]
  exact ⟨_, rfl, rfl, rfl⟩

/-- What the beginning of a stop leaves of a cell: launches of the handle leave the queue, fetches may end, and casks stay. -/
theorem stopCell_spec (h : Word) (v : Nat) (c : Cell) :
    (stopCell h v c).launchQ = c.launchQ.filter (fun ws => wordAt ws 0 ≠ h) ∧ KeepsCasks c (stopCell h v c)
      ∧ SlotsRest c (stopCell h v c) := by
  obtain ⟨h1, h2, h3⟩ := refuseLaunches_spec c h errChState
  have hp := parkAdds_frame (c.refuseLaunches h errChState) v
  refine ⟨?_, ?_, ?_⟩
  · rw [stopCell, Cell.runAdds_frame, hp, ← h1]
  · exact (keepsCasks_of_casks h2).trans ((parkAdds_keepsCasks _ v).trans (runAdds_keepsCasks _))
  · refine h3.trans (slotsRest_of_slots ?_)
    rw [stopCell, Cell.runAdds_slots, hp]

/-- The cells of a die at the beginning of a stop of its channel v. -/
def stopped (x : Inst) (v : Nat) : Inst := overCells (stopCell (x.handleOf v) v) x.liveCells x

theorem stopped_frame (x : Inst) (v : Nat) : stopped x v = { x with cells := (stopped x v).cells } := overCells_frame ..

theorem stopped_vc (x : Inst) (v u : Nat) : (stopped x v).vc u = x.vc u := by rw [stopped_frame]; rfl

theorem beginStop_eq (r : Run) (v : Nat) (pre : Bool) :
    r.beginStop v pre = ({ r with x := stopped r.x v } : Run).abandonXfers v pre := by
  have hfold (l : List Nat) (x : Inst) : l.foldl (fun x n =>
      x.setCell n (((x.cell n).refuseLaunches (x.handleOf v) errChState).parkAdds v).runAdds) x
        = overCells (stopCell (x.handleOf v) v) l x := by
    induction l generalizing x with
    | nil => rw [overCells, List.foldl_nil, List.foldl_nil]
    | cons n l ih =>
      have hl := ih (x.setCell n (stopCell (x.handleOf v) v (x.cell n)))
      rw [show (x.setCell n (stopCell (x.handleOf v) v (x.cell n))).handleOf v = x.handleOf v from rfl] at hl
      simp only [overCells, stopCell, List.foldl_cons] at hl ⊢
      exact hl
  rw [Run.beginStop, hfold]
  rfl

/-- A channel without transfers has none to abandon. -/
theorem abandonXfers_none {r : Run} {v : Nat} (h : r.x.xfers.all (fun t => t.vc != v) = true) :
    r.abandonXfers v true = { r with x := r.x.setVc v (r.x.vc v) } := by
  have hno (t : Xfer) (ht : t ∈ r.x.xfers) : (t.vc == v) = false := by
    simpa using List.all_eq_true.1 h t ht
  have hgone : (r.x.xfers.filter fun t => t.vc == v && !t.committed) = [] := by
    rw [List.filter_eq_nil_iff]; intro t ht; simp [hno t ht]
  have hrest : (r.x.xfers.filter fun t => !(t.vc == v && !t.committed)) = r.x.xfers := by
    rw [List.filter_eq_self]; intro t ht; simp [hno t ht]
  simp only [Run.abandonXfers, hgone, List.foldl_nil, hrest, if_true, List.map_nil, List.append_nil]

/-- The stop of a channel without transfers begins (R274): its state, and the launches of its handle. -/
theorem beginSuspend_spec {e : Env} {x x0 : Inst} {v : Nat} {c : Vc} (hc : x0 = x.setVc v c) (hg : c.gen = (x.vc v).gen)
    (h : x.xfers.all (fun t => t.vc != v) = true) :
    ∃ y, (pureRun x0).beginSuspend v = pureRun y
      ∧ OnlyVc x y v { c with st := .suspending, stopped := false, resume := [], xrecs := [] }
      ∧ ∀ n, (y.cell n).launchQ = (x.cell n).launchQ.filter fun ws => wordAt ws 0 ≠ x.handleOf v := by
  subst hc
  let d : Vc := { c with st := .suspending, stopped := false, resume := [], xrecs := [] }
  let x1 := x.setVc v d
  have hhandle : x1.handleOf v = x.handleOf v := by
    simp [Inst.handleOf, x1, d, hg]
  have hfr := stopped_frame x1 v
  have hall : (stopped x1 v).xfers.all (fun t => t.vc != v) = true := by rw [hfr]; exact h
  have hrun : (pureRun (x.setVc v c)).beginSuspend v = pureRun ((stopped x1 v).setVc v ((stopped x1 v).vc v)) := by
    simp only [Run.beginSuspend, pureRun, Inst.vc_setVc, Inst.setVc_setVc, beginStop_eq]
    exact abandonXfers_none (r := pureRun (stopped x1 v)) hall
  refine ⟨_, hrun, ⟨?_, ?_, ?_⟩, ?_⟩
  · rw [hfr]; rfl
  · rw [Inst.vc_setVc, stopped_vc, Inst.vc_setVc]
  · intro u hu
    rw [Inst.vc_setVc_other _ _ _ _ hu, stopped_vc]
    exact Inst.vc_setVc_other _ _ _ _ hu
  · intro n
    rw [Inst.cell_setVc, ← hhandle]
    exact proj_overCells Cell.launchQ (fun q => q.filter fun ws => wordAt ws 0 ≠ x1.handleOf v)
      (fun c => (stopCell_spec _ v c).1) (fun q => by simp) rfl x1 n

/-! ### Commands that a channel accepts (R264) -/

/-- The channel of a handle is there, and its state accepts the op: what the checks 3 and 4 of R265 pass. -/
def Accepts (x : Inst) (h : Word) (op : Nat) : Prop :=
  (x.vc (handleVc h)).st ≠ .free ∧ (x.vc (handleVc h)).gen = handleGen h ∧ chAccepts op (x.vc (handleVc h)).st = true

/-- The record of a command that is done at once. -/
def doneRecord (w : ChCmd) (h : Word) : List Eff := [.record (recSimple 2 0 h w.cmdId.toNat)]

/-- The command as a channel keeps it. -/
def kept (op : Nat) (w : ChCmd) : VcCmd := { op := op, cmdId := w.cmdId, win := w.win }

section
variable {x : Inst} {w : ChCmd} {h : Word} {led : Option Line}

theorem chStart_done (ha : Accepts x h 2) (hc : (x.vc (handleVc h)).cmd = none) : x.chHandle 2 w h led = .ok
    { x := { x.setVc (handleVc h) { x.vc (handleVc h) with st := .ready } with readyQ := x.readyQ ++ [handleVc h] }
      effs := doneRecord w h } := by
  obtain ⟨hf, hg, hacc⟩ := ha
  simp only [Inst.chHandle]
  rw [if_neg (not_or.2 ⟨hf, not_not.2 hg⟩), if_neg (by simp [hacc]), if_neg (by simp [hc])]
  rfl

theorem chPreempt_done (ha : Accepts x h 3) (hc : (x.vc (handleVc h)).cmd = none) :
    let v := handleVc h
    let c := x.vc v
    (c.st = .running → x.chHandle 3 w h led = .ok ((pureRun (x.setVc v { c with cmd := some (kept 3 w) })).beginSuspend v))
    ∧ (c.st = .ready → x.chHandle 3 w h led = .ok
      { x := { x.setVc v { c with st := .preempted, ctx := none } with readyQ := x.readyQ.filter (· != v) }, effs := doneRecord w h })
    ∧ (c.st = .preempted → x.chHandle 3 w h led = .ok { x := x, effs := doneRecord w h }) := by
  obtain ⟨hf, hg, hacc⟩ := ha
  intro v c
  refine ⟨fun hs => ?_, fun hs => ?_, fun hs => ?_⟩ <;>
    · simp only [Inst.chHandle]
      rw [if_neg (not_or.2 ⟨hf, not_not.2 hg⟩), if_neg (by simp [hacc]), if_neg (by simp [hc])]
      simp only [v, c, kept, doneRecord, pureRun, Run.emit, List.nil_append, show (x.vc (handleVc h)).st = _ from hs]

theorem chResume_done (ha : Accepts x h 4) (hc : (x.vc (handleVc h)).cmd = none) : x.chHandle 4 w h led = .ok
    (pureRun (x.setVc (handleVc h) { x.vc (handleVc h) with cmd := some (kept 4 w) })) := by
  obtain ⟨hf, hg, hacc⟩ := ha
  simp only [Inst.chHandle]
  rw [if_neg (not_or.2 ⟨hf, not_not.2 hg⟩), if_neg (by simp [hacc]), if_neg (by simp [hc])]
  rfl

theorem chDestroy_done (ha : Accepts x h 5) :
    let v := handleVc h
    let c := x.vc v
    x.chHandle 5 w h led = .ok (if c.cmd.isSome then pureRun (x.setVc v { c with destroy := c.destroy ++ [kept 5 w] })
      else (pureRun x).beginDestroy v (kept 5 w)) := by
  obtain ⟨hf, hg, hacc⟩ := ha
  simp only [Inst.chHandle]
  rw [if_neg (not_or.2 ⟨hf, not_not.2 hg⟩), if_neg (by simp [hacc]), if_neg (by simp), apply_ite ChDone.ok]
  rfl

theorem chQuery_done (hf : (x.vc (handleVc h)).st ≠ .free) (hg : (x.vc (handleVc h)).gen = handleGen h) :
    x.chHandle 6 w h led = x.chQuery w (handleVc h) led := by
  simp only [Inst.chHandle]
  rw [if_neg (not_or.2 ⟨hf, not_not.2 hg⟩), if_neg (by simp [chAccepts]), if_neg (by simp)]

/-- The words of a ledger as a query answers them. -/
def queryWords (bs : List Byte) : List Word := (List.range 16).map fun i => BitVec.ofNat 32 (ofLeBytes ((bs.drop (4 * i)).take 4))

/-- The state after a query has cleared a ledger to `new` while the save area already holds the old one: the area is resealed. -/
def resealed (x : Inst) (v : Nat) (c : Vc) (bytes : List Byte) (z : Nat) : Inst :=
  { x.setVc v { c with areaSeal := z } with
    hubWrites := x.hubWrites ++ [{ asid := c.asid, va := c.saveVa + 0x40, bytes := bytes },
      { asid := c.asid, va := c.saveVa + 0x38, bytes := leBytes 8 z }] }

theorem chQuery_live {v : Nat} (hc : (x.vc v).ctx.isSome = true) (hs : (x.vc v).st ≠ .ready) :
    let c := x.vc v
    let clean : Led := { Led.zero with fp := c.led.fp }
    let ans (y : Inst) : ChDone :=
      { code := 0, r := pureRun y, handle := none, query := some (c.st.code, some (queryWords c.led.bytes)) }
    (c.st ≠ .suspending ∨ c.stopped = false ∨ w.clear = false →
      x.chQuery w v led = ans (if w.clear then x.setVc v { c with led := clean } else x))
    ∧ (c.st = .suspending → c.stopped = true → w.clear = true →
      ∃ z, x.chQuery w v led = ans (resealed x v { c with led := clean } clean.bytes z)) := by
  intro c clean ans
  have hlive : c.live = true := by simp [Vc.live, Vc.resident, c, hc, hs]
  have hq : x.chQuery w v led = ans (if w.clear then (x.setVc v { c with led := c.led.cleared }).resave v c.led else x) := by
    simp only [Inst.chQuery]
    rw [if_pos (by rw [show (x.vc v).live = true from hlive]; rfl)]
    rfl
  rw [hq]
  constructor
  · intro h
    cases hcl : w.clear with
    | false => rfl
    | true =>
      have hno : ¬(c.st = .suspending ∧ c.stopped = true) := by
        rintro ⟨h1, h2⟩
        simp [h1, h2, hcl] at h
      simp only [if_true, Inst.resave, Inst.vc_setVc]
      rw [if_neg hno]
      rfl
  · intro h1 h2 h3
    refine ⟨reseal c.areaSeal c.led.bytes clean.bytes, ?_⟩
    simp only [h3, if_true, Inst.resave, Inst.vc_setVc]
    rw [if_pos ⟨h1, h2⟩, Inst.setVc_setVc]
    rfl

theorem chQuery_saved {v : Nat} {l : Line} (hc : (x.vc v).ctx = none ∨ (x.vc v).st = .ready) (hs : (x.vc v).st ≠ .destroying) :
    let c := x.vc v
    let ans (y : Inst) : ChDone :=
      { code := 0, r := pureRun y, handle := none, query := some (c.st.code, some (queryWords (lineBytes l))) }
    (w.clear = false → x.chQuery w v (some l) = ans x)
    ∧ (w.clear = true → ∃ z, x.chQuery w v (some l)
      = ans (resealed x v c ({ Led.zero with fp := (Led.ofBytes (lineBytes l)).fp } : Led).bytes z)) := by
  intro c ans
  have hlive : (c.live || decide (c.st = .destroying)) = false := by
    obtain hc | hc := hc <;> simp [Vc.live, Vc.resident, c, hc, hs]
  constructor
  · intro h
    simp only [Inst.chQuery]
    rw [if_neg (ne_true_of_eq_false hlive), h]
    rfl
  · intro h
    refine ⟨reseal c.areaSeal (lineBytes l) ({ Led.zero with fp := (Led.ofBytes (lineBytes l)).fp } : Led).bytes, ?_⟩
    simp only [Inst.chQuery]
    rw [if_neg (ne_true_of_eq_false hlive), h]
    rfl

end

/-- Settles O41: every command by the row that takes it, the checks of R265 and what the accepting branch does. -/
theorem channelCommands : Obligations.ChannelCommands := by
  intro s w x h v c cmd rec_ fails words clean hw hp
  have hx : s.insts[w.win]? = some x := hw.1
  refine ⟨fun b hb hne => ?_, fun hb => ⟨fun hr => ?_, fun hr hh hlt => ⟨fun hs => ?_, fun hf hg => ?_⟩⟩⟩
  · have hlost {i : Instr} {op : Nat} {xl : XlAns} {led : Option Line} (he : exec i s = s.chRow op w xl led)
        (hi : rowWrite i = (w.win, 0x800, chWord op w)) :
        CtlRun i s w.win { x with win := { x.win with lost := true } } := by
      refine CtlRun.of_row (f := fun _ => s.setWin w.win fun win => { win with lost := true }) ?_ hi hw hp ?_
      · have hneq : b ≠ (op, w) := fun e => hne (by rw [e])
        simp [he, State.chRow, hx, hb, hneq]
      · simp [State.setWin, hx]
    exact ⟨hlost rfl rfl, hlost rfl rfl, hlost rfl rfl, hlost rfl rfl, fun led => hlost rfl rfl, fun xl => hlost rfl rfl⟩
  · exact ⟨.of_reserved (isRow_start w) hw hp hb hr, .of_reserved (isRow_preempt w) hw hp hb hr,
      .of_reserved (isRow_resume w) hw hp hb hr, .of_reserved (isRow_destroy w) hw hp hb hr,
      fun led => .of_reserved (isRow_query w led) hw hp hb hr⟩
  · have ho : OwnArgs s w x := ⟨hw, hp, hb, hr, hh, hlt⟩
    exact ⟨.of_refuse (isRow_start w) ho (chHandle_stale hs), .of_refuse (isRow_preempt w) ho (chHandle_stale hs),
      .of_refuse (isRow_resume w) ho (chHandle_stale hs), .of_refuse (isRow_destroy w) ho (chHandle_stale hs),
      fun led => .of_refuse (isRow_query w led) ho (chHandle_stale hs)⟩
  · have ho : OwnArgs s w x := ⟨hw, hp, hb, hr, hh, hlt⟩
    have state {op : Nat} {led : Option Line} (ha : chAccepts op c.st = false) := chHandle_state (w := w) (led := led) hf hg ha
    have busy {op : Nat} {led : Option Line} (ha : chAccepts op c.st = true) (hc : c.cmd.isSome = true) (h5 : op ≠ 5) (h6 : op ≠ 6) :=
      chHandle_busy (w := w) (led := led) hf hg ha ⟨hc, h5, h6⟩
    have acc {op : Nat} (ha : chAccepts op c.st = true) : Accepts x h op := ⟨hf, hg, ha⟩
    have hrec := keepsPort_record (recSimple 2 0 h w.cmdId.toNat)
    refine ⟨fun hs => ?_, fun hs => ?_, fun hs => ?_, fun hs => ?_, fun hs hc => ?_, fun hs hc => ?_, fun hs hc => ?_,
      fun hs hc => ?_, fun hs hc hall => ?_, fun hs hc => ?_, fun hs hc => ⟨?_, ?_⟩, fun hs hc => ?_, fun led hc hs hst => ?_,
      fun led hc hs hst hcl => ?_, fun l hc hs hcl => ?_, fun l hc hs hcl => ?_⟩
    · exact .of_refuse (isRow_start w) ho (state (by simp [chAccepts, hs]))
    · exact .of_refuse (isRow_preempt w) ho (state (by rcases hs with hs | hs | hs <;> rw [hs] <;> rfl))
    · exact .of_refuse (isRow_resume w) ho (state (by simp [chAccepts, hs]))
    · exact .of_refuse (isRow_destroy w) ho (state (by simp [chAccepts, hs]))
    · exact .of_refuse (isRow_start w) ho (busy (by simp [chAccepts, hs]) hc (by decide) (by decide))
    · exact .of_refuse (isRow_preempt w) ho (busy (by simp [chAccepts, hs]) hc (by decide) (by decide))
    · exact .of_refuse (isRow_resume w) ho (busy (by simp [chAccepts, hs]) hc (by decide) (by decide))
    · exact .of_handle (isRow_start w) ho (chStart_done (acc (by simp [chAccepts, hs])) hc) hrec
    · obtain ⟨y, hy, honly, hq⟩ := beginSuspend_spec (x := x) (v := v) (c := { c with cmd := some (kept 3 w) })
        (e := s.env w.win) rfl rfl hall
      refine ⟨y, .of_handle (isRow_preempt w) ho ?_ keepsPort_nil, honly, hq⟩
      exact ((chPreempt_done (acc (by simp [chAccepts, hs])) hc).1 hs).trans (congrArg ChDone.ok hy)
    · exact .of_handle (isRow_preempt w) ho ((chPreempt_done (acc (by simp [chAccepts, hs])) hc).2.1 hs) hrec
    · exact .of_handle (isRow_preempt w) ho ((chPreempt_done (acc (by simp [chAccepts, hs])) hc).2.2 hs) hrec
    · exact .of_handle (isRow_resume w) ho (chResume_done (acc (by simp [chAccepts, hs])) hc) keepsPort_nil
    · exact .of_handle (isRow_destroy w) ho ((chDestroy_done (acc (by simp [chAccepts, hs]))).trans
        (congrArg ChDone.ok (if_pos hc))) keepsPort_nil
    · exact .of_query (isRow_query w led) ho ((chQuery_done hf hg).trans ((chQuery_live hc hs).1 hst))
    · obtain ⟨z, hz⟩ := (chQuery_live (w := w) (led := led) hc (ne_of_eq_of_ne hs (by decide))).2 hs hst hcl
      exact ⟨z, .of_query (isRow_query w led) ho ((chQuery_done hf hg).trans hz)⟩
    · exact .of_query (isRow_query w (some l)) ho ((chQuery_done hf hg).trans ((chQuery_saved hc hs).1 hcl))
    · obtain ⟨z, hz⟩ := (chQuery_saved (w := w) (l := l) hc hs).2 hcl
      exact ⟨z, .of_query (isRow_query w (some l)) ho ((chQuery_done hf hg).trans hz)⟩
end Sys2Proof

namespace Sys2Proof

/-! SUPPORT. Creation, saves and the scheduler of channels (R259 to R277). -/

open Sys2Proof.Machine

/-- A port command of a die at work that may end a repeat of a fault. -/
theorem MendRun.of_alive {i : Instr} {s : State} {j : Nat} {x y : Inst} {es : List Eff} {f : Env → Inst → Run}
    (he : exec i s = onInst s j (whenAlive (mending f))) (hw : AtWork s j x) (hf : f (s.env j) x = { x := y, effs := es }) :
    MendRun i s j y es :=
  HubRun.of_inst he hw.1 (by simp [whenAlive_alive _ (Inst.alive_of_awake hw.2), mending, hf])

/-- A command of a channel with no destroy behind it is done: its record, and the channel has no command. -/
theorem cmdDone_plain {r : Run} {v : Nat} (h : Word) (code id : Nat) (hd : (r.x.vc v).destroy = []) :
    r.cmdDone v h code id
      = { x := r.x.setVc v { r.x.vc v with cmd := none }, effs := r.effs ++ [.record (recSimple 2 code h id)] } := by
  simp [Run.cmdDone, Run.emit, hd]

theorem cmdDone_record {x : Inst} {v : Nat} {c : Vc} {es : List Eff} (h : Word) (code id : Nat) (hd : c.destroy = []) :
    ({ x := x.setVc v c, effs := es } : Run).cmdDone v h code id
      = { x := x.setVc v { c with cmd := none }, effs := es ++ [.record (recSimple 2 code h id)] } := by
  rw [cmdDone_plain h code id (by rw [Inst.vc_setVc]; exact hd)]
  simp

/-- The checks of a CH_CREATE on the window's own instance pass, up to those of its save area. -/
theorem chRun_create {s : State} {w : ChCmd} {x : Inst} {xl : XlAns} {d : ChDone} (hw : AtWork s w.win x)
    (ha : chArgsBad 1 w x.win.args x.instCount = false) (ht : (wordAt x.win.args 0).toNat % 8 = w.win)
    (hd : x.chCreate (decide (s.ss.st = 4)) w x.win.args xl = d) (hq : d.query = none) :
    s.chRun 1 w xl none = winEnds s w d [] := by
  have hrun := chRun_own (op := 1) (led := none) hw ha ht hd (by simp [hq])
  rw [hrun, hq]

theorem chCreate_noStream {x : Inst} {frozen : Bool} {w : ChCmd} {args : List Word} {xl : XlAns} (h : x.stream.inForce = false) :
    x.chCreate frozen w args xl = .refuse x 0x0038 := by
  simp [Inst.chCreate, h, errNoStream]

theorem hubWrite_setVc (x : Inst) (ws : List HubWrite) (v : Nat) (c : Vc) :
    (x.hubWrite ws).setVc v c = { x.setVc v c with hubWrites := x.hubWrites ++ ws } := rfl

/-- A channel that is created: what it holds. -/
def createdVc (x : Inst) (w : ChCmd) (v : Nat) : Vc :=
  let arg (k : Nat) : Nat := (wordAt x.win.args k).toNat
  { Vc.free with
    st := .created, gen := (x.vc v).gen, weight := arg 0 / 2 ^ 8 % 2 ^ 8, asid := BitVec.ofNat 16 (arg 0 / 2 ^ 16), key := arg 5 % 2 ^ 12
    saveVa := arg 1 + arg 2 * 2 ^ 32, seed := BitVec.ofNat 64 (arg 3 + arg 4 * 2 ^ 32), cmd := some (kept 1 w) }

/-- A CH_CREATE without a key slot whose save area is in T0 and cached. -/
theorem chCreate_done {x : Inst} {w : ChCmd} {xl : XlAns} {e : TlbEntry} {v : Nat} :
    let arg (k : Nat) : Nat := (wordAt x.win.args k).toNat
    let va := arg 1 + arg 2 * 2 ^ 32
    let x1 := x.setVc v (createdVc x w v)
    x.stream.inForce = true → arg 0 / 2 ^ 8 % 2 ^ 8 ≠ 0 → arg 5 / 2 ^ 12 % 2 = 0 →
    x.tlbFind (BitVec.ofNat 16 (arg 0 / 2 ^ 16)) (va / 4096) = some e → e.r = true → e.w = true →
    x.tier (e.ppn + (va / 4096 - e.vpn)) = 0 → x.freeVc = some v →
    x.chCreate false w x.win.args xl = {
      code := 0
      r := pureRun { x.setVc v { createdVc x w v with areaSeal := x1.sealOf v } with hubWrites := x.hubWrites ++ x1.saveWrites v }
      handle := some (mkHandle x.id (x.vc v).gen v)
      query := none } := by
  intro arg va x1 hf hwt hkey htlb her hew htier hfree
  have hwt' : fld (wn x.win.args 0) 15 8 = arg 0 / 2 ^ 8 % 2 ^ 8 := by simp [fld, Nat.shiftRight_eq_div_pow, wn, arg]
  have hasid : BitVec.ofNat 16 (fld (wn x.win.args 0) 31 16) = BitVec.ofNat 16 (arg 0 / 2 ^ 16) := by
    apply BitVec.eq_of_toNat_eq
    simp [fld, Nat.shiftRight_eq_div_pow, wn, arg]
  have hen : bitOf (wn x.win.args 5) 12 = false := by
    have hodd : ¬arg 5 / 2 ^ 12 % 2 = 1 := by omega
    simpa [bitOf, Nat.testBit_eq_decide_div_mod_eq, wn, arg] using hodd
  have hx : x.saveXlate (BitVec.ofNat 16 (arg 0 / 2 ^ 16)) va xl = some (x, e.ppn + (va / 4096 - e.vpn)) := by
    simp only [Inst.saveXlate, htlb, her, hew]
    rfl
  simp only [Inst.chCreate, hf, hasid, hwt', hen, Bool.not_true, Bool.or_false, Bool.false_eq_true, ↓reduceIte, false_and]
  rw [if_neg hwt]
  simp only [show wn x.win.args 1 + wn x.win.args 2 * 2 ^ 32 = va from rfl, hx, htier, hfree, ne_eq, not_true_eq_false, ↓reduceIte]
  have hset (c : Vc) : (x1.hubWrite (x1.saveWrites v)).setVc v c
      = { x.setVc v c with hubWrites := x.hubWrites ++ x1.saveWrites v } := by
    rw [hubWrite_setVc, Inst.setVc_setVc]
    rfl
  have hhandle : ((x1.hubWrite (x1.saveWrites v)).handleOf v) = mkHandle x.id (x.vc v).gen v := by
    show mkHandle x.id (x1.vc v).gen v = _
    rw [Inst.vc_setVc]
    rfl
  rw [← hset, ← hhandle]
  rfl

/-- The end of a create, as its write of the area came out. -/
theorem chCreateDone_of {e : Env} {x : Inst} {v : Nat} {d : VcCmd} (fault : Bool) (hst : (x.vc v).st = .created)
    (hcmd : (x.vc v).cmd = some d) (hop : d.op = 1) :
    let c := x.vc v
    let x1 := if c.keyEn = true ∧ (x.key c.key).owner = some v then x.setKey c.key KeySlot.empty else x
    chCreateDone v fault e x = if fault then
        (pureRun (x1.setVc v { Vc.free with gen := c.gen, destroy := c.destroy })).cmdDone v (x.handleOf v) 0x0036 d.cmdId.toNat
      else (pureRun (x.setVc v { c with seed := 0 })).cmdDone v (x.handleOf v) 0 d.cmdId.toNat := by
  unfold chCreateDone
  dsimp only
  split
  · rename_i cmd h1 h2
    obtain rfl := Option.some.inj (hcmd.symm.trans h2)
    rw [if_neg (not_not.2 hop)]
    rfl
  · rename_i h
    exact absurd hcmd (h d hst)

/-- Settles O42: a create by its checks and what the last of them leads to, its end by `cmdDone_record`. -/
theorem channelCreation : Obligations.ChannelCreation := by
  intro s w x arg asid va cmd hw
  have hx : s.insts[w.win]? = some x := hw.1
  refine ⟨fun xl hp hb ha ht => ⟨fun hf => ?_, fun hf hst hwt => ?_, fun e v hf hst hwt hkey htlb her hew htier hfree => ?_⟩,
    fun v d => ?_⟩
  · have hd := chCreate_noStream (frozen := decide (s.ss.st = 4)) (w := w) (args := x.win.args) (xl := xl) hf
    exact .of_done (data := []) rfl rfl hw hp hb (chRun_create hw ha ht hd rfl) rfl rfl keepsPort_nil (answered_plain w rfl rfl)
  · have hwt' : fld (wn x.win.args 0) 15 8 = 0 := by
      have h0 : arg 0 / 2 ^ 8 % 2 ^ 8 = 0 := hwt
      simpa [fld, Nat.shiftRight_eq_div_pow, wn, arg] using h0
    have hd : x.chCreate (decide (s.ss.st = 4)) w x.win.args xl = .refuse x errChArg := by
      simp [Inst.chCreate, hf, hst, hwt']
    exact .of_done (data := []) rfl rfl hw hp hb (chRun_create hw ha ht hd rfl) rfl rfl keepsPort_nil (answered_plain w rfl rfl)
  · have hd := chCreate_done (w := w) (xl := xl) hf hwt hkey htlb her hew htier hfree
    rw [← decide_eq_false hst] at hd
    exact .of_done (data := []) rfl rfl hw hp hb (chRun_create hw ha ht hd rfl) rfl rfl keepsPort_nil fun _ => rfl
  · intro c hst hcmd hop hd
    constructor <;> refine MendRun.of_alive rfl hw ((chCreateDone_of _ hst hcmd hop).trans ?_)
    · exact cmdDone_record _ _ _ hd
    · refine (cmdDone_record (c := { Vc.free with gen := c.gen, destroy := c.destroy }) _ _ _ hd).trans ?_
      rw [show c.destroy = [] from hd]
      rfl

/-! ### Stops and saves (R266, R270, R274 to R277) -/

theorem stopAll_none {r : Run} {v : Nat} (h : r.x.running v = []) (code : Nat) (pre : Bool) : r.stopAll v code pre = r := by
  simp [Run.stopAll, h]

/-- The area of a channel does not hold its own seal. -/
theorem saveArea_sealed (x : Inst) (v z : Nat) : (x.setVc v { x.vc v with areaSeal := z }).saveArea v = x.saveArea v := by
  simp only [Inst.saveArea, Inst.handleOf, Inst.vc_setVc, Inst.caskRecords]
  rfl

/-- The writes of a save, with the channel sealed or not. -/
theorem saveWrites_sealed (x : Inst) (v z : Nat) : (x.setVc v { x.vc v with areaSeal := z }).saveWrites v = x.saveWrites v := by
  simp only [Inst.saveWrites, saveArea_sealed, Inst.vc_setVc]

theorem reopen_frame (x : Inst) (v : Nat) : x.reopen v = { x with cells := (x.reopen v).cells } :=
  overCells_frame (fun c => { c with casks := c.casks.map fun p =>
    if p.2.owner = v then (p.1, { p.2 with closing := false }) else p }) x.liveCells x

/-- What a channel is whose save begins. -/
def savingVc (x : Inst) (v : Nat) : Vc :=
  { x.vc v with stopped := true, resume := [], savedAt := x.ticks, saves := ((x.vc v).saves + 1) % 2 ^ 16 }

/-- The stop of a channel without running programs and transfers ends with its save. -/
theorem preemptStop_saves {e : Env} {x : Inst} {v : Nat} (ha : x.awake = true) (hst : (x.vc v).st = .suspending)
    (hs : (x.vc v).stopped = false) (hr : x.running v = []) (ht : x.xfers.all (fun t => t.vc != v) = true) :
    let x2 := (x.reopen v).setVc v (savingVc x v)
    preemptStopDone v e x = pureRun ((x2.setVc v { x2.vc v with areaSeal := x2.sealOf v }).hubWrite (x2.saveWrites v)) := by
  intro x2
  have hready : x.stopReady v = true := by simp [Inst.stopReady, hr, ht]
  have hrec : x.resumeRecords v = [] := by simp [Inst.resumeRecords, hr]
  have hgo : ((x.vc v).stopped || !x.awake || !x.stopReady v) = false := by simp [hs, ha, hready]
  have hfr := reopen_frame x v
  have hvc : (x.reopen v).vc v = x.vc v := by rw [hfr]; rfl
  have hticks : (x.reopen v).ticks = x.ticks := by rw [hfr]
  have hx2 : (x.reopen v).setVc v { (x.reopen v).vc v with
      stopped := true, resume := [], savedAt := (x.reopen v).ticks, saves := (((x.reopen v).vc v).saves + 1) % 2 ^ 16 } = x2 := by
    rw [hvc, hticks]
    rfl
  unfold preemptStopDone
  rw [if_neg (ne_true_of_eq_false hgo)]
  split
  · simp only [pureRun, stopAll_none (r := { x := x, effs := [] }) hr, hrec, hx2]
  · rename_i h
    exact absurd (hst.symm.trans h) (by decide)
  · rename_i h _
    exact absurd hst h

theorem finishRetires_none {r : Run} (h : ∀ n, (r.x.cell n).retire = none) : r.finishRetires = r := by
  rw [Run.finishRetires]
  generalize r.x.liveCells = l
  induction l with
  | nil => rfl
  | cons n l ih =>
    have hn : r.finishRetire n = r := by
      simp only [Run.finishRetire, h n]
    rwa [List.foldl_cons, hn]

/-- A channel whose save is written, no longer resident. -/
def savedVc (c : Vc) : Vc :=
  { c with ctx := none, stopped := false, sched := false, migrate := false, led := Led.zero, seed := 0, resume := [], xrecs := [] }

section
variable {e : Env} {x : Inst} {v : Nat} {d : VcCmd} (hst : (x.vc v).st = .suspending) (hs : (x.vc v).stopped = true)
  (hn : ∀ n, (x.cell n).retire = none) (hm : (x.vc v).migrate = false)
include hst hs hn

theorem save_fails (hc : (x.vc v).cmd = some d) (hd : (x.vc v).destroy = []) : contextSaveDone v true e x =
    { x := x.setVc v { x.vc v with st := .failed, stopped := false, sched := false, migrate := false, cmd := none }
      effs := [.record (recSimple 2 0x0036 (x.handleOf v) d.cmdId.toNat)] } := by
  have hcmd := cmdDone_record (x := x) (v := v)
    (c := { x.vc v with st := .failed, stopped := false, sched := false, migrate := false }) (es := []) (x.handleOf v) errChSaveFault d.cmdId.toNat hd
  have hgo : ¬((x.vc v).st ≠ .suspending ∨ (!(x.vc v).stopped) = true) := by simp [hst, hs]
  unfold contextSaveDone
  simp only [if_neg hgo, if_true, hc, pureRun]
  rw [finishRetires_none] <;> rw [← hc, hcmd]
  · rfl
  · exact hn

include hm

theorem save_for_command (hc : (x.vc v).cmd = some d) (hd : (x.vc v).destroy = []) (hsch : (x.vc v).sched = false) :
    contextSaveDone v false e x = { x := x.setVc v { savedVc (x.vc v) with st := .preempted, cmd := none }
                                    effs := [.record (recSimple 2 0 (x.handleOf v) d.cmdId.toNat)] } := by
  have hcmd := cmdDone_record (x := x) (v := v) (c := { savedVc (x.vc v) with st := .preempted }) (es := []) (x.handleOf v) 0
    d.cmdId.toNat hd
  have hgo : ¬((x.vc v).st ≠ .suspending ∨ (!(x.vc v).stopped) = true) := by simp [hst, hs]
  unfold contextSaveDone
  simp only [if_neg hgo, Bool.false_eq_true, if_false, hc, pureRun, hsch, hm, Bool.or_self]
  rw [finishRetires_none] <;> rw [← hc]
  · exact hcmd
  · exact fun n => (congrArg (fun r => (r.x.cell n).retire) hcmd).trans (hn n)

omit hn in
theorem save_for_scheduler (hc : (x.vc v).cmd = none) (hsch : (x.vc v).sched = true) : contextSaveDone v false e x =
    { x := { x.setVc v { savedVc (x.vc v) with st := .ready } with readyQ := x.readyQ ++ [v] }
      effs := [.record (recSimple 4 0 (x.handleOf v) 0)] } := by
  have hgo : ¬((x.vc v).st ≠ .suspending ∨ (!(x.vc v).stopped) = true) := by simp [hst, hs]
  unfold contextSaveDone
  simp only [if_neg hgo, Bool.false_eq_true, if_false, hc, hm, hsch, Bool.or_false, if_true]
  rw [← hc]
  rfl

end

/-- The check of a CH_RESUME, as the area is (R277). -/
theorem saveCheckDone_of {e : Env} {x : Inst} {v : Nat} {d : VcCmd} (area : AreaRead) (hst : (x.vc v).st = .preempted)
    (hc : (x.vc v).cmd = some d) (hop : d.op = 4) (hd : (x.vc v).destroy = []) :
    let c := x.vc v
    let rec_ (code : Nat) : List Eff := [.record (recSimple 2 code (x.handleOf v) d.cmdId.toNat)]
    (x.areaOk v area = true → saveCheckDone v area e x
      = { x := { x.setVc v { c with st := .ready, cmd := none } with readyQ := x.readyQ ++ [v] }, effs := rec_ 0 })
    ∧ (x.areaOk v area = false → saveCheckDone v area e x = { x := x.setVc v { c with cmd := none }, effs := rec_ 0x0037 }) := by
  intro c rec_
  have hgo : saveCheckDone v area e x = (pureRun (if x.areaOk v area then
      { x.setVc v { c with st := .ready } with readyQ := x.readyQ ++ [v] } else x)).cmdDone v (x.handleOf v)
        (if x.areaOk v area then 0 else 0x0037) d.cmdId.toNat := by
    unfold saveCheckDone
    dsimp only
    split
    · rename_i cmd h1 h2
      obtain rfl := Option.some.inj (hc.symm.trans h2)
      rw [if_neg (not_not.2 hop)]
      rfl
    · rename_i h
      exact absurd hc (h d hst)
  refine ⟨fun h => ?_, fun h => ?_⟩ <;> rw [hgo, h]
  · have hv := Inst.vc_setVc x v { c with st := .ready }
    refine (cmdDone_plain (r := pureRun { x.setVc v { c with st := .ready } with readyQ := x.readyQ ++ [v] }) _ _ _
      ((congrArg Vc.destroy hv).trans hd)).trans ?_
    have hset : (x.setVc v { c with st := .ready }).setVc v { (x.setVc v { c with st := .ready }).vc v with cmd := none }
        = x.setVc v { c with st := .ready, cmd := none } := by rw [hv, Inst.setVc_setVc]
    exact congrArg (fun y : Inst => ({ x := { y with readyQ := x.readyQ ++ [v] }, effs := rec_ 0 } : Run)) hset
  · exact cmdDone_plain _ _ _ hd

/-- Settles O44: the stop by `preemptStop_saves`, the save and the check of an area by what each leads to. -/
theorem channelSaves : Obligations.ChannelSaves := by
  intro s i x v c h hw
  refine ⟨fun hst hs hr ht => ?_, fun hst hs hn hm hd => ?_, fun area d hst hc hop hd => ⟨fun ha => ?_, fun ha => ?_⟩⟩
  · let x2 := (x.reopen v).setVc v (savingVc x v)
    let y := (x2.setVc v { x2.vc v with areaSeal := x2.sealOf v }).hubWrite (x2.saveWrites v)
    have hfr := reopen_frame x v
    have hseal : y.sealOf v = x2.sealOf v := congrArg (fun a : List Byte => ofLeBytes ((a.drop 0x38).take 8)) (saveArea_sealed x2 v _)
    have hsave : y.saveWrites v = x2.saveWrites v := saveWrites_sealed x2 v _
    refine ⟨y, MendRun.of_inst rfl hw.1 (preemptStop_saves hw.2 hst hs hr ht), ?_, fun u hu => ?_, ?_⟩
    · rw [hseal]
      have hv2 : x2.vc v = savingVc x v := Inst.vc_setVc ..
      refine (Inst.vc_setVc x2 v _).trans ?_
      rw [hv2]
      rfl
    · refine (Inst.vc_setVc_other x2 v u _ hu).trans ((Inst.vc_setVc_other _ v u _ hu).trans ?_)
      rw [hfr]
      rfl
    · rw [hsave]
      show (x.reopen v).hubWrites ++ _ = _
      rw [hfr]
  · refine ⟨fun d hc hsch => ?_, fun hc hsch => ?_, fun d hc => ?_⟩
    · exact MendRun.of_alive rfl hw (save_for_command hst hs hn hm hc hd hsch)
    · exact MendRun.of_alive rfl hw (save_for_scheduler hst hs hm hc hsch)
    · exact MendRun.of_alive rfl hw (save_fails hst hs hn hc hd)
  · exact MendRun.of_alive rfl hw ((saveCheckDone_of area hst hc hop hd).1 ha)
  · exact MendRun.of_alive rfl hw ((saveCheckDone_of area hst hc hop hd).2 ha)
end Sys2Proof

namespace Sys2Proof

/-! SUPPORT. The scheduler (R261, R269, R270, R277). -/

open Sys2Proof.Machine

/-- The lowest context that no channel holds: the contexts below it are held by as many residents. -/
theorem freeCtx_eq {x : Inst} {k : Nat} (hk : ∀ p ∈ x.vcs, p.2.ctx ≠ some k) (hlow : ∀ j, j < k → ∃ p ∈ x.vcs, p.2.ctx = some j) :
    x.freeCtx = k := by
  have hle : k ≤ x.residents := by
    have hsub : (List.range k).map some ⊆ (x.vcs.filter fun p => p.2.resident).map fun p => p.2.ctx := by
      intro j hj
      obtain ⟨m, hm, rfl⟩ := List.mem_map.1 hj
      obtain ⟨p, hp, hc⟩ := hlow m (List.mem_range.1 hm)
      exact List.mem_map.2 ⟨p, List.mem_filter.2 ⟨hp, by simp [Vc.resident, hc]⟩, hc⟩
    have hnd : ((List.range k).map some).Nodup := List.nodup_range.map (Option.some_injective _)
    simpa [Inst.residents] using (hnd.subperm hsub).length_le
  have hfind : ((List.range (x.residents + 1)).find? fun k => x.vcs.all fun p => decide (p.2.ctx ≠ some k)) = some k := by
    rw [List.find?_range_eq_some]
    refine ⟨by simpa using hk, by simp; omega, fun j hj => ?_⟩
    obtain ⟨p, hp, hc⟩ := hlow j hj
    simp only [Bool.not_eq_true', List.all_eq_false]
    exact ⟨p, hp, by simp [hc]⟩
  rw [Inst.freeCtx, hfind]; rfl

/-- Settles O45: each of the scheduler's commands by the branch that its condition takes. -/
theorem scheduler : Obligations.Scheduler := by
  intro s i x hw
  have hx : s.insts[i]? = some x := hw.1
  refine ⟨fun v rest k hq hres hk hlow => ?_, fun v area => ?_, fun hle => ?_, fun v hlt hv hall => ?_⟩
  · refine HubRun.of_inst rfl hx ?_
    have hfew : ¬(contexts ≤ x.residents ∨ (!x.awake) = true) := by
      rw [not_or]
      exact ⟨Nat.not_le.2 hres, by simp [hw.2]⟩
    simp only [schedAdmit, hq, if_neg hfew, freeCtx_eq hk hlow]
    rfl
  · intro c at_ hst hc
    have hgo : ¬((x.vc v).st ≠ .ready ∨ (!(x.vc v).resident) = true) := by
      simp only [not_or, not_not, Vc.resident]
      exact ⟨hst, by rw [show (x.vc v).ctx.isSome = true from hc]; decide⟩
    refine ⟨fun ha => ?_, fun ha => ?_⟩ <;> refine MendRun.of_alive rfl hw ?_
    · simp only [restoreDone, if_neg hgo, ha, if_true]
      rfl
    · simp only [restoreDone, if_neg hgo, ha, Bool.false_eq_true, if_false]
      rfl
  · refine HubRun.of_inst rfl hx ?_
    rw [schedEvict, if_pos]
    · rfl
    · simp only [Bool.or_eq_true, decide_eq_true_eq]
      exact .inr hle
  · have hgo : (!x.awake || decide (x.readyQ.length ≤ contexts - x.residents + x.leaving)) = false := by
      simp only [hw.2, Bool.not_true, Bool.false_or, decide_eq_false_iff_not, not_le]
      exact hlt
    obtain ⟨y, hy, honly, -⟩ := beginSuspend_spec (e := s.env i) (x := x) (v := v) (c := { x.vc v with sched := true }) rfl rfl hall
    refine ⟨y, HubRun.of_inst rfl hx ?_, honly⟩
    rw [schedEvict, if_neg (ne_true_of_eq_false hgo), hv]
    exact hy

/-! ### Destruction (R144, R260, R278) -/

/-- No program of the channel runs on the die. -/
theorem running_eq_nil {x : Inst} {v : Nat} :
    x.running v = [] ↔ ∀ n k, k < 4 → ¬((x.slot n k).phase = .running ∧ ownerOf (x.slot n k).launch = v) := by
  constructor
  · rintro h n k hk ⟨hp, ho⟩
    have hlive : n ∈ x.liveCells := by
      by_contra hn
      have hc := cell_not_live hn
      rw [Inst.slot, hc] at hp
      interval_cases k <;> exact absurd hp (by decide)
    have hmem : (n, k) ∈ x.running v := by
      simp only [Inst.running, Inst.programs, List.mem_filter, List.mem_flatMap, List.mem_map, List.mem_range]
      exact ⟨⟨n, hlive, k, ⟨hk, by simp [hp, ho]⟩, rfl⟩, by simp [hp]⟩
    simp [h] at hmem
  · intro h
    rw [List.eq_nil_iff_forall_not_mem]
    rintro ⟨n, k⟩ hmem
    simp only [Inst.running, Inst.programs, List.mem_filter, List.mem_flatMap, List.mem_map, List.mem_range] at hmem
    obtain ⟨⟨m, -, j, ⟨hj, hown⟩, he⟩, hp⟩ := hmem
    obtain ⟨rfl, rfl⟩ := Prod.mk.inj he
    simp only [Bool.and_eq_true, decide_eq_true_eq] at hown hp
    exact h m j hj ⟨hp, hown.2⟩

/-- A die on which slots have only come to rest has no more running programs. -/
theorem running_rest {x y : Inst} {v : Nat} (h : x.running v = []) (hr : ∀ n, SlotsRest (x.cell n) (y.cell n)) : y.running v = [] := by
  rw [running_eq_nil] at h ⊢
  rintro n k hk ⟨hp, ho⟩
  obtain he | he := hr n k
  · rw [Inst.slot, he] at hp ho
    exact h n k hk ⟨hp, ho⟩
  · rw [Inst.slot, he] at hp
    exact absurd hp (by decide)

theorem stopped_rest (x : Inst) (v n : Nat) : SlotsRest (x.cell n) ((stopped x v).cell n) :=
  rel_overCells (R := SlotsRest) (f := stopCell (x.handleOf v) v) (fun _ _ => .inl rfl) (fun _ _ _ => SlotsRest.trans)
    (fun c => (stopCell_spec (x.handleOf v) v c).2.2) x.liveCells x n

theorem stopped_keepsCasks (x : Inst) (v n : Nat) : KeepsCasks (x.cell n) ((stopped x v).cell n) :=
  rel_overCells (R := KeepsCasks) (f := stopCell (x.handleOf v) v) KeepsCasks.refl (fun _ _ _ => KeepsCasks.trans)
    (fun c => (stopCell_spec (x.handleOf v) v c).2.1) x.liveCells x n

/-- A destroy abandons the transfers of its channel that have not committed. -/
theorem abandonXfers_destroy (r : Run) (v : Nat) : ∃ q, r.abandonXfers v false = { r with x := { r.x with
    seReqs := q, xfers := r.x.xfers.filter fun t => !(t.vc == v && !t.committed) } } := by
  have hfold (l : List Xfer) (x : Inst) : ∃ q, l.foldl (fun (x : Inst) t => x.orphanReqs t.id) x = { x with seReqs := q } := by
    induction l generalizing x with
    | nil => exact ⟨x.seReqs, rfl⟩
    | cons t l ih =>
      obtain ⟨q, hq⟩ := ih (x.orphanReqs t.id)
      exact ⟨q, hq⟩
  obtain ⟨q, hq⟩ := hfold (r.x.xfers.filter fun t => t.vc == v && !t.committed) r.x
  refine ⟨q, ?_⟩
  simp only [Run.abandonXfers, Bool.false_eq_true, if_false]
  rw [hq]

/-- The request that writes zeros over lines 4j to 4j + 3 of a cask's range (R144). -/
def scrubWrite (v : Nat) (q : Cask) (j : Nat) : SpWrite :=
  { line := q.base / 64 + 4 * j, outs := List.replicate 4 { data := 0, be := BitVec.allOnes 64, poison := false }
    who := .scrub v, rank := 2, index := 0, iter := 0 }

/-- One cask is released and its range scrubbed. -/
def scrubOne (v : Nat) (c : Cell) (p : Nat × Cask) : Cell :=
  { c.releaseCask p.1 with
    gated := false, spWrites := (c.releaseCask p.1).spWrites ++ (List.range 64).map (scrubWrite v p.2) }

theorem scrubCasks_eq (c : Cell) (v : Nat) : c.scrubCasks v = (c.casks.filter fun p => p.2.owner == v).foldl (scrubOne v) c := rfl

/-- Requests of a scrub stay when a cask is released. -/
theorem releaseCask_scrubs {c : Cell} {e v : Nat} {w : SpWrite} (hw : w.who = .scrub v) (h : w ∈ c.spWrites) :
    w ∈ (c.releaseCask e).spWrites := by
  unfold Cell.releaseCask
  split
  · exact h
  · refine List.mem_map.2 ⟨w, h, if_neg ?_⟩
    rw [hw]
    exact nofun

theorem releaseCask_casks (c : Cell) (e : Nat) : (c.releaseCask e).casks = c.casks.filter fun p => p.1 != e := by
  unfold Cell.releaseCask
  split
  · rename_i h
    rw [eq_comm, List.filter_eq_self]
    intro p hp
    simpa using List.find?_eq_none.1 h p hp
  · rfl

theorem scrubs_stay {v : Nat} {w : SpWrite} (hw : w.who = .scrub v) (l : List (Nat × Cask)) {c : Cell} (h : w ∈ c.spWrites) :
    w ∈ (l.foldl (scrubOne v) c).spWrites := by
  induction l generalizing c with
  | nil => exact h
  | cons p l ih => exact ih (List.mem_append_left _ (releaseCask_scrubs hw h))

/-- Every cask of the channel is scrubbed. -/
theorem scrubs_made {v : Nat} {l : List (Nat × Cask)} {p : Nat × Cask} (hp : p ∈ l) {j : Nat} (hj : j < 64) (c : Cell) :
    scrubWrite v p.2 j ∈ (l.foldl (scrubOne v) c).spWrites := by
  induction l generalizing c with
  | nil => simp at hp
  | cons q l ih =>
    obtain rfl | hp := List.mem_cons.1 hp
    · exact scrubs_stay rfl l (List.mem_append_right _ (List.mem_map.2 ⟨j, List.mem_range.2 hj, rfl⟩))
    · exact ih hp _

/-- What is left of the casks are old ones whose entries were not released. -/
theorem mem_casks_scrubbed {v : Nat} {l : List (Nat × Cask)} {c : Cell} {p : Nat × Cask} (h : p ∈ (l.foldl (scrubOne v) c).casks) :
    p ∈ c.casks ∧ ∀ q ∈ l, p.1 ≠ q.1 := by
  induction l generalizing c with
  | nil => exact ⟨h, by simp⟩
  | cons q l ih =>
    obtain ⟨hp, hl⟩ := ih h
    rw [show (scrubOne v c q).casks = (c.releaseCask q.1).casks from rfl, releaseCask_casks, List.mem_filter] at hp
    refine ⟨hp.1, fun r hr => ?_⟩
    obtain rfl | hr := List.mem_cons.1 hr
    · simpa using hp.2
    · exact hl r hr

theorem scrubCasks_owner {c : Cell} {v : Nat} {p : Nat × Cask} (h : p ∈ (c.scrubCasks v).casks) : p.2.owner ≠ v := fun ho => by
  obtain ⟨hp, hl⟩ := mem_casks_scrubbed (by rwa [scrubCasks_eq] at h)
  exact hl p (List.mem_filter.2 ⟨hp, by simpa using ho⟩) rfl

/-- The channel as its destroy begins. -/
def leavingVc (x : Inst) (v : Nat) (cmd : VcCmd) : Vc :=
  { x.vc v with st := .destroying, cmd := some cmd, sched := false, migrate := false, stopped := false }

/-- A die once the stop of a destroy has ended and the casks are scrubbed; its outstanding transfer requests are `q`. -/
def scrubbedDie (x : Inst) (v : Nat) (cmd : VcCmd) (q : List SeReq) : Inst :=
  let x1 := stopped ({ x with readyQ := x.readyQ.filter (· != v) }.setVc v (leavingVc x v cmd)) v
  let x2 := { x1 with seReqs := q, xfers := x1.xfers.filter fun t => !(t.vc == v && !t.committed) }
  overCells (fun c => c.scrubCasks v) x2.liveCells x2

theorem scrubbedDie_frame (x : Inst) (v : Nat) (cmd : VcCmd) (q : List SeReq) : scrubbedDie x v cmd q = { x with
    readyQ := x.readyQ.filter (· != v), vcs := (x.setVc v (leavingVc x v cmd)).vcs, seReqs := q
    xfers := x.xfers.filter fun t => !(t.vc == v && !t.committed), cells := (scrubbedDie x v cmd q).cells } := by
  simp only [scrubbedDie]
  rw [overCells_frame, stopped_frame]
  rfl

theorem scrubbedDie_vc (x : Inst) (v : Nat) (cmd : VcCmd) (q : List SeReq) (u : Nat) :
    (scrubbedDie x v cmd q).vc u = (x.setVc v (leavingVc x v cmd)).vc u := by
  rw [Inst.vc, scrubbedDie_frame, Inst.vc]

theorem scrubbedDie_key (x : Inst) (v : Nat) (cmd : VcCmd) (q : List SeReq) (k : Nat) : (scrubbedDie x v cmd q).key k = x.key k := by
  rw [Inst.key, scrubbedDie_frame, Inst.key]

/-- The die after a destroy whose stop ends at once: its key slot is scrubbed, and its save area overwritten. -/
def destroyedDie (x : Inst) (v : Nat) (y : Inst) : Inst :=
  let c := x.vc v
  ((if c.keyEn = true ∧ (x.key c.key).owner = some v then y.setKey c.key KeySlot.empty else y).hubWrite
    [{ asid := c.asid, va := c.saveVa, bytes := List.replicate 2048 0 }]).setVc v
      { y.vc v with stopped := true, led := Led.zero, seed := 0 }

/-- The channels do not depend on the key slots and on what the hub writes. -/
theorem scrubbedKey_vc (y : Inst) (p : Prop) [Decidable p] (k : Nat) (ws : List HubWrite) (u : Nat) :
    ((if p then y.setKey k KeySlot.empty else y).hubWrite ws).vc u = y.vc u := by
  split <;> rfl

theorem destroyedDie_frame (x : Inst) (v : Nat) (y : Inst) : destroyedDie x v y = { y with
    keys := if (x.vc v).keyEn = true ∧ (x.key (x.vc v).key).owner = some v then (y.setKey (x.vc v).key KeySlot.empty).keys else y.keys
    hubWrites := y.hubWrites ++ [{ asid := (x.vc v).asid, va := (x.vc v).saveVa, bytes := List.replicate 2048 0 }]
    vcs := (y.setVc v { y.vc v with stopped := true, led := Led.zero, seed := 0 }).vcs } := by
  unfold destroyedDie
  dsimp only
  split <;> rfl

theorem beginDestroy_spec {x : Inst} {v : Nat} (cmd : VcCmd) (hr : x.running v = [])
    (ht : ∀ t ∈ x.xfers, t.vc = v → t.committed = false) :
    ∃ q, (pureRun x).beginDestroy v cmd = pureRun (destroyedDie x v (scrubbedDie x v cmd q)) := by
  let x0 : Inst := { x with readyQ := x.readyQ.filter (· != v) }.setVc v (leavingVc x v cmd)
  let x1 := stopped x0 v
  obtain ⟨q, hq⟩ := abandonXfers_destroy (pureRun x1) v
  let x2 : Inst := { x1 with seReqs := q, xfers := x1.xfers.filter fun t => !(t.vc == v && !t.committed) }
  have hbegin : (pureRun x0).beginStop v false = pureRun x2 := (beginStop_eq _ v false).trans hq
  have hrest : x2.running v = [] := by
    exact running_rest (y := x2) hr (stopped_rest x0 v)
  have hx1 : x1.xfers = x.xfers := by
    simp only [x1]
    rw [stopped_frame]
    rfl
  have hready : x2.stopReady v = true := by
    simp only [Inst.stopReady, hrest, List.all_nil, Bool.true_and, List.all_eq_true, bne_iff_ne, ne_eq]
    intro t hm he
    have hmem : t ∈ x.xfers ∧ (!(t.vc == v && !t.committed)) = true := by
      rw [← hx1]
      exact List.mem_filter.1 hm
    simp [he, ht t hmem.1 he] at hmem
  refine ⟨q, ?_⟩
  have hvc : (scrubbedDie x v cmd q).vc v = leavingVc x v cmd := (scrubbedDie_vc ..).trans (Inst.vc_setVc ..)
  have hstop : (pureRun x2).destroyStop v = pureRun (destroyedDie x v (scrubbedDie x v cmd q)) := by
    have hscrub : x2.liveCells.foldl (fun x n => x.setCell n ((x.cell n).scrubCasks v)) x2 = scrubbedDie x v cmd q := rfl
    rw [Run.destroyStop, stopAll_none (r := pureRun x2) hrest]
    simp only [pureRun, hscrub, destroyedDie, hvc, scrubbedDie_key]
    rfl
  have hgo : (pureRun x).beginDestroy v cmd = if ((pureRun x0).beginStop v false).x.stopReady v
      then ((pureRun x0).beginStop v false).destroyStop v else (pureRun x0).beginStop v false := rfl
  rw [hgo, hbegin]
  exact (if_pos hready).trans hstop

/-- What an entry of a well-kept table is. -/
theorem caskAt_of_mem {c : Cell} {p : Nat × Cask} (h : (c.casks.map Prod.fst).Pairwise (· < ·)) (hp : p ∈ c.casks) :
    Cell.caskAt c p.1 = some p.2 := by
  have hfind : c.casks.find? (fun q => q.1 == p.1) = some p := by
    have hnd : (c.casks.map Prod.fst).Nodup := h.imp Nat.ne_of_lt
    cases hq : c.casks.find? (fun q => q.1 == p.1) with
    | none => exact absurd (List.find?_eq_none.1 hq p hp) (by simp)
    | some q =>
      have hk : q.1 = p.1 := by simpa using List.find?_some hq
      rw [List.inj_on_of_nodup_map hnd (List.mem_of_find?_eq_some hq) hp hk]
  exact caskAt_of_find hfind

theorem mem_of_caskAt {c : Cell} {e : Nat} {r : Cask} (h : Cell.caskAt c e = some r) : (e, r) ∈ c.casks := by
  rw [Cell.caskAt, Option.map_eq_some_iff] at h
  obtain ⟨q, hq, rfl⟩ := h
  have hk : q.1 = e := by simpa using List.find?_some hq
  rw [← hk]
  exact List.mem_of_find?_eq_some hq

/-- The casks of the channel are gone from the cells, and every line of their ranges is being scrubbed. -/
theorem scrubbedDie_cells (x : Inst) (v : Nat) (cmd : VcCmd) (q : List SeReq) (n : Nat) :
    (∀ p ∈ ((scrubbedDie x v cmd q).cell n).casks, p.2.owner ≠ v)
    ∧ (((x.cell n).casks.map Prod.fst).Pairwise (· < ·) → ∀ p ∈ (x.cell n).casks, p.2.owner = v → ∀ j, j < 64 →
      scrubWrite v p.2 j ∈ ((scrubbedDie x v cmd q).cell n).spWrites) := by
  let x0 : Inst := { x with readyQ := x.readyQ.filter (· != v) }.setVc v (leavingVc x v cmd)
  let x1 := stopped x0 v
  have hcell : (scrubbedDie x v cmd q).cell n = (fun c : Cell => c.scrubCasks v)^[x1.liveCells.count n] (x1.cell n) :=
    cell_overCells _ _ _ n
  have hkeep (hs : ((x.cell n).casks.map Prod.fst).Pairwise (· < ·)) (p : Nat × Cask) (hp : p ∈ (x.cell n).casks) :
      ∃ r, (p.1, r) ∈ (x1.cell n).casks ∧ r.base = p.2.base ∧ r.owner = p.2.owner := by
    obtain ⟨r, hr, hb, ho⟩ := stopped_keepsCasks x0 v n p.1 p.2 (caskAt_of_mem hs hp)
    exact ⟨r, mem_of_caskAt hr, hb, ho⟩
  rw [hcell]
  by_cases hn : n ∈ x1.liveCells
  · obtain ⟨k, hk⟩ := Nat.exists_eq_succ_of_ne_zero (List.count_pos_iff.2 hn).ne'
    rw [hk]
    refine ⟨fun p hp => ?_, fun hs p hp ho j hj => ?_⟩
    · rw [Function.iterate_succ_apply'] at hp
      exact scrubCasks_owner hp
    · obtain ⟨r, hr, hb, hor⟩ := hkeep hs p hp
      have hmade : scrubWrite v p.2 j ∈ ((x1.cell n).scrubCasks v).spWrites := by
        have hmem : (p.1, r) ∈ (x1.cell n).casks.filter fun p => p.2.owner == v :=
          List.mem_filter.2 ⟨hr, beq_iff_eq.2 (hor.trans ho)⟩
        have h := scrubs_made (v := v) hmem hj (x1.cell n)
        rwa [← scrubCasks_eq, scrubWrite, hb] at h
      have hstay (m : Nat) (c : Cell) (h : scrubWrite v p.2 j ∈ c.spWrites) :
          scrubWrite v p.2 j ∈ ((fun c : Cell => c.scrubCasks v)^[m] c).spWrites := by
        induction m generalizing c with
        | zero => exact h
        | succ m ih => exact ih _ (scrubs_stay rfl _ h)
      exact hstay k _ hmade
  · rw [List.count_eq_zero.2 hn, cell_not_live hn]
    refine ⟨nofun, fun hs p hp => ?_⟩
    obtain ⟨r, hr, -⟩ := hkeep hs p hp
    rw [cell_not_live hn] at hr
    exact absurd hr (List.not_mem_nil)

theorem destroyScrubDone_of {e : Env} {x : Inst} {v : Nat} {d : VcCmd} (fault : Bool) (hst : (x.vc v).st = .destroying)
    (hc : (x.vc v).cmd = some d) (hs : (x.vc v).stopped = true) (hd : (x.vc v).destroy = [])
    (hw : ∀ n, ∀ q ∈ (x.cell n).spWrites, q.who ≠ .scrub v)
    (hk : ∀ n, ∀ k ∈ (x.cell n).slots, k.phase ≠ .idle → wordAt k.launch 0 ≠ x.handleOf v) :
    destroyScrubDone v fault e x = { x := x.setVc v { Vc.free with gen := nextGen (x.vc v).gen }
                                     effs := [.record (recSimple 2 (if fault then 0x0036 else 0) (x.handleOf v) d.cmdId.toNat)] } := by
  have hscrub : (x.liveCells.any fun n => (x.cell n).spWrites.any fun w => decide (w.who = .scrub v)) = false := by
    simpa using fun n _ => hw n
  have hend : (x.liveCells.any fun n => (x.cell n).slots.any fun s =>
      decide (s.phase ≠ .idle) && decide (wordAt s.launch 0 = x.handleOf v)) = false := by
    simpa using fun n _ => hk n
  unfold destroyScrubDone
  dsimp only
  split
  · rename_i cmd h1 h2
    obtain rfl := Option.some.inj (hc.symm.trans h2)
    simp only [hs, hscrub, hend, Bool.not_true, Bool.or_self, Bool.false_eq_true, if_false, hd]
    exact cmdDone_record _ _ _ rfl
  · rename_i h
    exact absurd hc (h d hst)

/-- Settles O43: the stop ends at once and the scrub begins (`beginDestroy_spec`); the last scrub frees the channel. -/
theorem channelDestruction : Obligations.ChannelDestruction := by
  intro s w x h v c cmd hw
  refine ⟨fun hp hb hr hh hlt hf hst hg hc hrun hall => ?_, fun u d fault => ?_⟩
  · have ho : OwnArgs s w x := ⟨hw, hp, hb, hr, hh, hlt⟩
    have ht (t : Xfer) (hm : t ∈ x.xfers) (hv : t.vc = v) : t.committed = false := by
      have := List.all_eq_true.1 hall t hm
      simpa [hv, Xfer.committed] using this
    obtain ⟨q, hq⟩ := beginDestroy_spec (kept 5 w) hrun ht
    have hacc : Accepts x h 5 := ⟨hf, hg, by simpa [chAccepts] using hst⟩
    have hdone : x.chHandle 5 w h none = .ok (pureRun (destroyedDie x v (scrubbedDie x v (kept 5 w) q))) := by
      rw [chDestroy_done hacc, if_neg (by rw [show (x.vc (handleVc h)).cmd = none from hc]; decide)]
      exact congrArg ChDone.ok hq
    let z := scrubbedDie x v (kept 5 w) q
    have hfr : destroyedDie x v z = _ := destroyedDie_frame x v z
    have hz : z = _ := scrubbedDie_frame x v (kept 5 w) q
    obtain ⟨howner, hscrub⟩ := forall_and.1 (scrubbedDie_cells x v (kept 5 w) q)
    have hvc (u : Nat) : z.vc u = (x.setVc v (leavingVc x v (kept 5 w))).vc u := scrubbedDie_vc ..
    refine ⟨destroyedDie x v z, .of_handle (isRow_destroy w) ho hdone keepsPort_nil, ?_, fun u hu => ?_, ?_, ?_, fun n => ?_, fun n => ?_,
      fun hen hown => ?_, fun hown => ?_, ?_⟩
    · refine (Inst.vc_setVc ..).trans ?_
      rw [hvc, Inst.vc_setVc]
      rfl
    · refine (Inst.vc_setVc_other _ _ _ _ hu).trans ?_
      rw [scrubbedKey_vc, hvc, Inst.vc_setVc_other _ _ _ _ hu]
    · rw [hfr]
      show z.readyQ = _
      rw [hz]
    · rw [hfr]
      show z.xfers = _
      rw [hz]
      refine List.filter_congr fun t hm => ?_
      have hcom := ht t hm
      cases hv : (t.vc == v) with
      | true => simp [bne, hv, hcom (beq_iff_eq.1 hv)]
      | false => simp [bne, hv]
    · rw [hfr]
      exact howner n
    · rw [hfr]
      exact hscrub n
    · rw [hfr, Inst.key]
      exact (congrArg (fun t => Tbl.get KeySlot.empty t c.key) (if_pos ⟨hen, hown⟩)).trans (Inst.key_setKey ..)
    · rw [hfr]
      refine (if_neg fun h => hown h.2).trans ?_
      rw [hz]
    · rw [hfr]
      show z.hubWrites ++ _ = _
      rw [hz]
  · intro e hst hc hs hd hwr hk
    have hgen : nextGen e.gen = if e.gen = 0x1FFF then 1 else e.gen + 1 := rfl
    rw [← hgen]
    exact MendRun.of_alive rfl hw (destroyScrubDone_of fault hst hc hs hd hwr hk)
end Sys2Proof

namespace Sys2Proof

/-! SUPPORT. Accesses of the control port (R14, R341 to R345): errors, forwarding, and what an access of instance 0 does. -/

open Sys2Proof.Machine

/-! ### The port -/

/-- An open port answers an access that `f` answers with r: the answer leaves or waits (R342). -/
theorem access_replied {s t : State} {f : State → State} {r : CtlResp} (hp : PortOpen s)
    (hf : f { s with resp := [] } = { t with resp := [r] }) (hfwd : t.fwd = s.fwd) (hr : t.resp = s.resp) :
    s.access f = replied t r := by
  obtain ⟨hlen, hhd⟩ := hp
  unfold State.access
  rw [if_neg (by omega), hf]
  cases hs : s.fwd with
  | nil => simp [replied, State.flushResp, hfwd, hs]
  | cons a rest =>
    have ha := hhd a rest hs
    simp [replied, State.flushResp, hfwd, hs, ha, hr]

/-- An access that only joins those outstanding leaves the answers to those before it (R342). -/
theorem access_queued {s : State} {f : State → State} {g : Fwd} (hp : PortOpen s) (hg : g.ans = none)
    (hf : f { s with resp := [] } = { s with resp := [], fwd := s.fwd ++ [g] }) : s.access f = { s with fwd := s.fwd ++ [g] } := by
  obtain ⟨hlen, hhd⟩ := hp
  unfold State.access
  rw [if_neg (by omega), hf]
  cases hs : s.fwd with
  | nil => simp [State.flushResp, hg]
  | cons a rest =>
    have ha := hhd a rest hs
    simp [State.flushResp, ha]

/-- The first error since the last clear is recorded (R345). -/
def noted (t : State) (a : CtlAcc) (code : Nat) : State :=
  if t.ctlErr.getLsbD 31 then t
  else { t with
    ctlErr := BitVec.ofNat 32 (2 ^ 31 + a.addr.toNat / 2 ^ 21 * 2 ^ 21 + (if a.we then 2 ^ 20 else 0) + code)
    ctlErrAddr := BitVec.ofNat 32 a.addr.toNat }

theorem addrInst_eq (a : BitVec 24) : addrInst a.toNat = a.toNat / 2 ^ 21 := by
  have := a.isLt
  simp only [addrInst, fld, Nat.shiftRight_eq_div_pow]
  omega

theorem addrOff_eq (n : Nat) : addrOff n = n % 2 ^ 21 := by simp [addrOff, fld]

theorem ctlRecord_noted {s : State} {x : Inst} (hx : s.insts[0]? = some x) (hf : x.flt.failstop = false) (a : CtlAcc) (code : Nat) :
    s.ctlRecord a.addr.toNat a.we code = noted s a code := by
  have hlt : a.addr.toNat % 2 ^ 24 = a.addr.toNat := Nat.mod_eq_of_lt a.addr.isLt
  simp only [State.ctlRecord, hx, hf, Bool.or_false, noted]
  rw [show fld a.addr.toNat 23 21 = a.addr.toNat / 2 ^ 21 from addrInst_eq a.addr, hlt]
  cases a.we <;> rfl

/-- An error at an instance at work: it is recorded and answered. -/
theorem ctlFail_noted {s : State} {x : Inst} (hw : AtWork s 0 x) (a : CtlAcc) (code : Nat) :
    s.ctlFail a.addr.toNat a.we code = { noted s a code with resp := [{ err := true, data := BitVec.ofNat 32 code }] } := by
  rw [State.ctlFail, ctlRecord_noted hw.1 (Inst.awake_parts hw.2).2.1]
  rfl

theorem noted_resp (s : State) (a : CtlAcc) (code : Nat) (r : List CtlResp) :
    noted { s with resp := r } a code = { noted s a code with resp := r } := by
  simp only [noted]
  split <;> rfl

theorem noted_port (s : State) (a : CtlAcc) (code : Nat) : (noted s a code).fwd = s.fwd ∧ (noted s a code).resp = s.resp := by
  simp only [noted]
  split <;> exact ⟨rfl, rfl⟩

/-- An access that ends with an error at an open port. -/
theorem access_fails {s : State} {x : Inst} {f : State → State} {a : CtlAcc} {code : Nat} (hw : AtWork s 0 x) (hp : PortOpen s)
    (hf : f { s with resp := [] } = State.ctlFail { s with resp := [] } a.addr.toNat a.we code) :
    s.access f = replied (noted s a code) { err := true, data := BitVec.ofNat 32 code } := by
  have hw' : AtWork { s with resp := [] } 0 x := hw
  refine access_replied hp ?_ (noted_port s a code).1 (noted_port s a code).2
  rw [hf, ctlFail_noted hw', noted_resp]

theorem not_holds {x : Inst} (h : x.awake = true) (off : Nat) (we : Bool) : x.holds off we = false := by
  simp [Inst.holds, h, (Inst.awake_parts h).1]

/-- What the port of an instance 0 at work does with an access. -/
theorem ctlTake_awake {s : State} {x : Inst} (hw : AtWork s 0 x) (a : CtlAcc) : s.ctlTake a =
    (let addr := a.addr.toNat
    if addr % 4 ≠ 0 then s.ctlFail addr a.we 0x0070
    else if offUndefined (addrOff addr) then s.ctlFail addr a.we 0x0071
    else if addrInst addr = x.id then s.perform 0 a
    else if !x.east.up then
      (if s.hopHeld 0 addr then { s with fwd := s.fwd ++ [{ acc := a, at_ := 0, ans := none }] } else s.ctlFail addr a.we 0x0072)
    else { s with fwd := s.fwd ++ [{ acc := a, at_ := 1, ans := none }] }) := by
  obtain ⟨-, -, hcl, hoff, -⟩ := Inst.awake_parts hw.2
  simp only [State.ctlTake, hw.1, not_holds hw.2, hcl, hoff]
  rfl

/-- A forwarded access of another instance than that of the die at work that holds it. -/
theorem forwardOne_passes {s : State} {f : Fwd} {y : Inst} (rest : List Fwd) (xl : XlAns) (led : Option Line) (hy : AtWork s f.at_ y)
    (hid : f.acc.addr.toNat / 2 ^ 21 ≠ y.id) :
    (y.east.up = false → s.hopHeld f.at_ f.acc.addr.toNat = true → s.forwardOne f rest xl led = s)
    ∧ (y.east.up = false → s.hopHeld f.at_ f.acc.addr.toNat = false →
      s.forwardOne f rest xl led = State.ctlFail { s with fwd := rest } f.acc.addr.toNat f.acc.we 0x0072)
    ∧ (y.east.up = true → f.at_ + 1 < s.insts.length →
      s.forwardOne f rest xl led = { s with fwd := { f with at_ := f.at_ + 1 } :: rest }) := by
  obtain ⟨-, -, hcl, hoff, -⟩ := Inst.awake_parts hy.2
  have hne : ¬addrInst f.acc.addr.toNat = y.id := by rwa [addrInst_eq]
  refine ⟨fun he hh => ?_, fun he hh => ?_, fun he hlt => ?_⟩
  · simp [State.forwardOne, hy.1, hne, hcl, hoff, he, hh]
  · simp [State.forwardOne, hy.1, hne, hcl, hoff, he, hh, errCtlUnreachable]
  · simp [State.forwardOne, hy.1, hne, hcl, hoff, he, not_holds hy.2, hlt]

/-- The step of the oldest forwarded access, and the answers that leave with its own. -/
theorem forward_eq {s t : State} {f : Fwd} {rest : List Fwd} {xl : XlAns} {led : Option Line} (hf : s.fwd = f :: rest)
    (h : State.forwardOne { s with resp := [] } f rest xl led = t) :
    (t.resp = [] → s.forward xl led = { t with resp := s.resp })
    ∧ (t.resp ≠ [] → (∀ g more, t.fwd = g :: more → g.ans = none) → s.forward xl led = t) := by
  have hgo : s.forward xl led =
      (let s2 := if t.resp.isEmpty then t else t.flushResp
      if s2.resp.isEmpty then { s2 with resp := s.resp } else s2) := by
    unfold State.forward
    split
    · next hnil => simp [hf] at hnil
    · next f' rest' hcons =>
      obtain ⟨rfl, rfl⟩ : f = f' ∧ rest = rest' := by simpa [hf] using hcons
      rw [h]
  refine ⟨fun hr => ?_, fun hr hq => ?_⟩
  · simp [hgo, hr]
  · simp [hgo, hr, State.flushResp_unanswered hq]

/-- Settles O51: an access by the port's checks in their order, a forwarded one by the die that holds it. -/
theorem controlErrors : Obligations.ControlErrors := by
  intro s x acc addr off run err notes fails away
  have hrun : run = .next (s.access (State.ctlTake { acc with data := if acc.we then acc.data else 0 })) := by
    obtain ⟨a, we, data⟩ := acc
    cases we <;> rfl
  have haw' : away → offUndefined (addrOff addr) = true := fun h => by
    rw [addrOff_eq]
    simpa [offUndefined, away, off] using h
  have hfar {α : Type} {p q r t : α} (hal : addr % 4 = 0) (haw : ¬away) (hid : addr / 2 ^ 21 ≠ x.id) :
      (if addr % 4 ≠ 0 then p else if offUndefined (addrOff addr) then q else if addrInst addr = x.id then r else t) = t := by
    rw [if_neg (not_not.2 hal), if_neg, if_neg]
    · rwa [show addrInst addr = addr / 2 ^ 21 from addrInst_eq acc.addr]
    · rw [addrOff_eq]
      simpa [offUndefined, away, off] using haw
  refine ⟨fun h8 => ?_, fun hw hp => ⟨fun hal => ?_, fun hal haw => ?_, fun hal haw hid => ⟨fun he hh => ?_, fun he hh => ?_, fun he => ?_⟩,
    fun size hs => ?_, fun hal => ?_⟩, fun f rest y xl led hf hrest hw hy hid => ⟨fun he hlt => ?_, fun he hh => ?_, fun he hh => ?_⟩⟩
  · rw [hrun, State.access, if_pos h8]
  · rw [hrun]
    exact congrArg _ (access_fails (a := acc) (code := 0x0070) hw hp ((ctlTake_awake (s := { s with resp := [] }) hw _).trans (if_pos hal)))
  · rw [hrun]
    refine congrArg _ (access_fails (a := acc) (code := 0x0071) hw hp ((ctlTake_awake (s := { s with resp := [] }) hw _).trans ?_))
    exact (if_neg (not_not.2 hal)).trans (if_pos (haw' haw))
  · rw [hrun]
    refine congrArg _ (access_fails (a := acc) (code := 0x0072) hw hp ((ctlTake_awake (s := { s with resp := [] }) hw _).trans ?_))
    exact (hfar hal haw hid).trans ((if_pos (by simp [he])).trans (if_neg (ne_true_of_eq_false hh)))
  · rw [hrun]
    refine congrArg _ (access_queued hp rfl ((ctlTake_awake (s := { s with resp := [] }) hw _).trans ?_))
    exact (hfar hal haw hid).trans ((if_pos (by simp [he])).trans (if_pos hh))
  · rw [hrun]
    refine congrArg _ (access_queued hp rfl ((ctlTake_awake (s := { s with resp := [] }) hw _).trans ?_))
    exact (hfar hal haw hid).trans (if_neg (by simp [he]))
  · refine congrArg Host.Outcome.next (access_fails (a := acc) (code := 0x0070) hw hp ?_)
    obtain ⟨-, -, hcl, hoff, -⟩ := Inst.awake_parts hw.2
    simp [State.atDie, hw.1, show ¬size = 2#2 from hs, not_holds hw.2, hcl, hoff, errCtlSize]
  · refine congrArg Host.Outcome.next (access_fails (a := acc) (code := 0x0070) hw hp ?_)
    have htake := (ctlTake_awake (s := { s with resp := [] }) hw acc).trans (if_pos hal)
    simpa [State.atDie, hw.1] using htake
  · have hone := (forwardOne_passes (s := { s with resp := [] }) rest xl led hy hid).2.2 he hlt
    exact congrArg Host.Outcome.next ((forward_eq hf hone).1 rfl)
  · have hone := (forwardOne_passes (s := { s with resp := [] }) rest xl led hy hid).2.1 he hh
    rw [ctlFail_noted (s := { s with resp := [], fwd := rest }) hw, noted_resp { s with fwd := rest } f.acc 0x0072 []] at hone
    have hfwd : ∀ g more, (noted { s with fwd := rest } f.acc 0x0072).fwd = g :: more → g.ans = none := by
      rw [(noted_port _ _ _).1]
      exact hrest
    exact congrArg Host.Outcome.next ((forward_eq hf hone).2 (List.cons_ne_nil _ _) hfwd)
  · have hone := (forwardOne_passes (s := { s with resp := [] }) rest xl led hy hid).1 he hh
    exact congrArg Host.Outcome.next ((forward_eq hf hone).1 rfl)
end Sys2Proof

namespace Sys2Proof

/-! SUPPORT. Registers of instance 0 at its control port (R12, R13, R439). -/

open Sys2Proof.Machine

/-- An offset of the address map at which instance 0 answers (R343, R439). -/
abbrev Mapped (off : Nat) : Prop := off < 0x110000 ∧ off % 4 = 0 ∧ ¬(0x5000 ≤ off ∧ off < 0x10000)

section
variable {s t : State} {x : Inst} {off : Nat} {w : Word} (hw : AtWork s 0 x) (hp : PortOpen s) (hid : x.id = 0) (hm : Mapped off)
  (hport : t.fwd = s.fwd ∧ t.resp = s.resp)
include hw hp hid hm hport

/-- An access of instance 0 is performed there. -/
theorem access_performed {a : CtlAcc} (ha : a.addr = BitVec.ofNat 24 off)
    (hf : ∀ r, (if a.we then State.ctlOk (State.writeReg { s with resp := r } 0 x off a.data) 0
      else State.ctlOk (State.readClear { s with resp := r } 0 x off) (State.readReg { s with resp := r } 0 x off))
        = { t with resp := [{ err := false, data := w }] }) : s.access (State.ctlTake a) = granted t w := by
  obtain ⟨hlt, hal, hdef⟩ := hm
  have haddr : a.addr.toNat = off := by rw [ha, BitVec.toNat_ofNat, Nat.mod_eq_of_lt (by omega)]
  have hoff : addrOff off = off := by rw [addrOff_eq, Nat.mod_eq_of_lt (by omega)]
  have hinst : addrInst off = 0 := by simp [addrInst, fld, Nat.shiftRight_eq_div_pow]; omega
  have hund : offUndefined off = false := by simp [offUndefined]; omega
  refine State.access_granted hp (fun r => ?_) hport.1 hport.2
  have hw' : AtWork { s with resp := r } 0 x := hw
  rw [ctlTake_awake hw']
  simp only [haddr, hoff, hinst, hid, hund, hal, ne_eq, not_true_eq_false, if_false, Bool.false_eq_true, if_true, State.perform]
  rw [State.ctlGate_awake off a.we _ hw', ← hf r]

theorem write_performed (hf : ∀ r, State.writeReg { s with resp := r } 0 x off w = { t with resp := r }) :
    exec (.registerWrite (BitVec.ofNat 24 off) w) s = .next (granted t 0) := by
  refine congrArg Host.Outcome.next (access_performed (t := t) (w := 0) hw hp hid hm hport
    (a := { addr := BitVec.ofNat 24 off, we := true, data := w }) rfl fun r => ?_)
  rw [if_pos rfl, hf r]
  rfl

theorem read_performed (hd : s.readReg 0 x off = w) (hf : ∀ r, State.readClear { s with resp := r } 0 x off = { t with resp := r }) :
    exec (.rcRead (BitVec.ofNat 24 off)) s = .next (granted t w) := by
  refine congrArg Host.Outcome.next (access_performed (t := t) (w := w) hw hp hid hm hport
    (a := { addr := BitVec.ofNat 24 off, we := false, data := 0 }) rfl fun r => ?_)
  rw [if_neg Bool.false_ne_true, hf r, ← hd]
  rfl

end

/-- The offset of a register of a cell's window. -/
theorem cellOff_parts {n o : Nat} (ho : o < 0x1000) : 0x10000 ≤ 0x10000 + 0x1000 * n + o
    ∧ (0x10000 + 0x1000 * n + o - 0x10000) / 0x1000 = n ∧ (0x10000 + 0x1000 * n + o) % 0x1000 = o := by omega

theorem readReg_cell (s : State) (i : Nat) {x : Inst} {n o : Nat} (ho : o < 0x1000) (hn : n < x.cellsBuilt) :
    s.readReg i x (0x10000 + 0x1000 * n + o) = (x.cell n).readReg o := by
  obtain ⟨h1, h2, h3⟩ := cellOff_parts (n := n) ho
  simp only [State.readReg, if_pos h1, h2, h3, if_pos hn]

/-- A read of a cell's window clears its stall counter and ungates the cell. -/
theorem readClear_cell (s : State) (i : Nat) {x : Inst} {n o : Nat} (ho : o < 0x1000) (hn : n < x.cellsBuilt) :
    let c : Cell := { x.cell n with gated := false }
    s.readClear i x (0x10000 + 0x1000 * n + o) = s.setInst i (x.setCell n
      (if o = 0xCC then { c with stallFeed := 0 } else if o = 0xD0 then { c with stallDrain := 0 } else c)) := by
  intro c
  obtain ⟨h1, h2, h3⟩ := cellOff_parts (n := n) ho
  simp only [State.readClear, h2, h3, h1, hn, true_and]
  rw [if_neg (by omega), if_neg (by omega), if_neg (by omega), if_neg (by omega), if_neg (by omega)]
  split
  · rfl
  · split
    · rfl
    · rw [if_pos trivial]

theorem writeReg_cell (s : State) (i : Nat) {x : Inst} {n o : Nat} {w : Word} (ho : o < 0x1000) (hn : n < x.cellsBuilt) :
    s.writeReg i x (0x10000 + 0x1000 * n + o) w = s.setInst i (x.setCell n { (x.cell n).writeReg o w with gated := false }) := by
  obtain ⟨h1, h2, h3⟩ := cellOff_parts (n := n) ho
  simp only [State.writeReg, if_pos h1, h2, h3, if_pos hn]

theorem writeReg_hub (s : State) (i : Nat) (x : Inst) {off : Nat} (w : Word) (h1 : off < 0x10000) (h2 : offPackage off = false)
    (h3 : off ∉ [0x400, 0x800, 0x2800, 0x200C, 0x2010]) : s.writeReg i x off w = s.setInst i (x.writeReg off w) := by
  simp only [List.mem_cons, not_or] at h3
  obtain ⟨h4, h5, h6, h7, h8, -⟩ := h3
  simp only [State.writeReg, if_neg (Nat.not_le.2 h1), h2, Bool.false_eq_true, if_false, h4, h5, h6, h7, h8]

/-- A message word takes a write while its mailbox is the management processor's and empty. -/
theorem writeReg_msg (s : State) (i : Nat) (x : Inst) {m k : Nat} (w : Word) (hm : m < 32) (hk : k < 4) :
    s.writeReg i x (0x600 + 16 * m + 4 * k) w = s.setInst i (x.writeMsg m k w) := by
  have hdiv : (0x600 + 16 * m + 4 * k - 0x600) / 16 = m := by omega
  have hmod : (0x600 + 16 * m + 4 * k) % 16 / 4 = k := by omega
  rw [writeReg_hub s i x w (by omega) (by simp [offPackage]; omega) (by simp; omega), Inst.writeReg,
    if_neg (by omega), if_neg (by omega), if_neg (by omega), if_neg (by omega), if_neg (by omega), if_pos (by omega), hdiv, hmod]

theorem writeReg_fence (s : State) (i : Nat) (x : Inst) {k : Nat} (w : Word) (hk : k < 1024) :
    s.writeReg i x (0x3000 + 4 * k) w = s.setInst i (x.setFence k { value := w, err := 0 }) := by
  have hdiv : (0x3000 + 4 * k - 0x3000) / 4 = k := by omega
  rw [writeReg_hub s i x w (by omega) (by simp [offPackage]; omega) (by simp; omega), Inst.writeReg]
  repeat rw [if_neg (by omega)]
  rw [if_pos (by omega), hdiv]

theorem setInst_ite {s : State} {i : Nat} {x y : Inst} (hx : s.insts[i]? = some x) (b : Bool) :
    s.setInst i (if b then y else x) = if b then s.setInst i y else s := by
  cases b
  · exact State.setInst_self s i x hx
  · rfl

theorem setInst_resp (s : State) (i : Nat) (y : Inst) (r : List CtlResp) :
    State.setInst { s with resp := r } i y = { s.setInst i y with resp := r } := rfl

/-- The read-only registers of an instance, and those of the package, at their first words. -/
def hubReadOnly : List Nat := [0x0, 0x4, 0x8, 0x10, 0x2C, 0x30, 0x40C, 0x410, 0x414, 0x820, 0x824, 0x884, 0x8C4, 0x1008, 0x1010, 0x1040,
  0x1060, 0x1080, 0x2040, 0x2044, 0x2808, 0x4080]

def packageReadOnly : List Nat := [0x104, 0x118, 0x89C, 0x8A4, 0x400C, 0x4010, 0x4040]

theorem writeReg_readOnly (s : State) (i : Nat) (x : Inst) {off : Nat} (w : Word) (h : off ∈ hubReadOnly) :
    s.writeReg i x off w = s.setInst i x := by
  simp only [hubReadOnly, List.mem_cons, List.not_mem_nil, or_false] at h
  rcases h with rfl | rfl | rfl | rfl | rfl | rfl | rfl | rfl | rfl | rfl | rfl | rfl | rfl | rfl | rfl | rfl | rfl | rfl | rfl | rfl
    | rfl | rfl <;> rfl

theorem writeReg_package_readOnly (s : State) (x : Inst) {off : Nat} (w : Word) (h : off ∈ packageReadOnly) :
    s.writeReg 0 x off w = s := by
  simp only [packageReadOnly, List.mem_cons, List.not_mem_nil, or_false] at h
  rcases h with rfl | rfl | rfl | rfl | rfl | rfl | rfl <;> rfl

/-- Settles O50: an access is performed at instance 0, and each register is its own branch of the address map. -/
theorem registers : Obligations.Registers := by
  intro s x reads writes hub hw hp hid
  have hx : s.insts[0]? = some x := hw.1
  have rd {off : Nat} {d : Word} {t : State} (hm : Mapped off) (hport : t.fwd = s.fwd ∧ t.resp = s.resp) (hd : s.readReg 0 x off = d)
      (hf : ∀ r, State.readClear { s with resp := r } 0 x off = { t with resp := r }) : reads off d t :=
    read_performed hw hp hid hm hport hd hf
  have wr {off : Nat} {w : Word} {t : State} (hm : Mapped off) (hport : t.fwd = s.fwd ∧ t.resp = s.resp)
      (hf : ∀ r, State.writeReg { s with resp := r } 0 x off w = { t with resp := r }) : writes off w t :=
    write_performed hw hp hid hm hport hf
  -- a write of a hub register that changes the die to `y`, or leaves it
  have wrInst {off : Nat} {w : Word} {y : Inst} (hm : Mapped off) (hf : ∀ t : State, t.writeReg 0 x off w = t.setInst 0 y) :
      writes off w (hub y) := wr hm ⟨rfl, rfl⟩ fun r => hf _
  have wrBit {off : Nat} {w : Word} {y : Inst} (b : Bool) (hm : Mapped off)
      (hf : ∀ t : State, t.writeReg 0 x off w = t.setInst 0 (if b then y else x)) : writes off w (if b then hub y else s) := by
    rw [← setInst_ite hx]
    exact wrInst hm hf
  have cellMapped {n o : Nat} (hn : n < 256) (ho : o < 0x100) (h4 : o % 4 = 0) : Mapped (0x10000 + 0x1000 * n + o) := by
    refine ⟨by omega, by omega, by omega⟩
  refine ⟨⟨rd (by decide) ⟨rfl, rfl⟩ rfl fun _ => rfl, rd (by decide) ⟨rfl, rfl⟩ rfl fun _ => rfl, rd (by decide) ⟨rfl, rfl⟩ rfl fun _ => rfl,
      rd (by decide) ⟨rfl, rfl⟩ rfl fun _ => rfl, rd (by decide) ⟨rfl, rfl⟩ rfl fun _ => rfl, fun n hn h256 => ⟨?_, ?_, ?_⟩⟩,
    fun w => ⟨wrInst (by decide) fun _ => rfl, wrInst (by decide) fun _ => rfl, ?_, wr (by decide) ⟨rfl, rfl⟩ fun _ => rfl,
      wr (by decide) ⟨rfl, rfl⟩ fun _ => rfl, wr (by decide) ⟨rfl, rfl⟩ fun _ => rfl, wr (by decide) ⟨rfl, rfl⟩ fun _ => rfl,
      wrInst (by decide) fun _ => rfl, wrInst (by decide) fun _ => rfl, fun k hk => ?_, wrInst (by decide) fun _ => rfl, fun k hk => ?_,
      fun m k hm hk => ?_, fun h8 => ?_, wrBit (w.getLsbD 1) (by decide) fun _ => rfl, ?_, wrInst (by decide) fun _ => rfl,
      wrBit (w.getLsbD 29) (by decide) fun _ => rfl, wrInst (by decide) fun _ => rfl, wrInst (by decide) fun _ => rfl,
      wrInst (by decide) fun _ => rfl, wrBit (w.getLsbD 29) (by decide) fun _ => rfl, wrInst (by decide) fun _ => rfl, fun hb => ?_,
      fun off hoff => ?_, fun n hn h256 => ?_⟩,
    fun k w hk => ?_, fun i y k w hy hk => ?_⟩
  · exact rd (cellMapped h256 (by decide) (by decide)) ⟨rfl, rfl⟩ (readReg_cell s 0 (by decide) hn)
      fun r => readClear_cell _ 0 (by decide) hn
  · exact rd (cellMapped h256 (by decide) (by decide)) ⟨rfl, rfl⟩ (readReg_cell s 0 (by decide) hn)
      fun r => readClear_cell _ 0 (by decide) hn
  · exact rd (cellMapped h256 (by decide) (by decide)) ⟨rfl, rfl⟩ (readReg_cell s 0 (by decide) hn)
      fun r => readClear_cell _ 0 (by decide) hn
  · have hc : (if w.getLsbD 31 then { s with ctlErr := s.ctlErr &&& 0x7FFFFFFF } else s) = { s with ctlErr := clearTop s.ctlErr w } := by
      rw [clearTop]
      split <;> rfl
    rw [hc]
    exact wr (by decide) ⟨rfl, rfl⟩ fun _ => rfl
  · interval_cases k <;> exact wrInst (by decide) fun _ => rfl
  · interval_cases k <;> exact wrInst (by decide) fun _ => rfl
  · intro b
    have hmsg : x.writeMsg m k w = if b.alloc && decide (b.sender = 0) && !b.pending then x.setMbox m { b with msg := b.msg.set k w } else x := rfl
    have hb : (b.alloc = true ∧ b.sender = 0 ∧ b.pending = false) ↔ (b.alloc && decide (b.sender = 0) && !b.pending) = true := by
      simp [and_assoc]
    rw [if_congr hb rfl rfl]
    refine wrBit _ ⟨by omega, by omega, by omega⟩ fun t => ?_
    rw [writeReg_msg t 0 x w hm hk, hmsg]
  · refine wrInst (by decide) fun t => ?_
    rw [writeReg_hub t 0 x w (by decide) rfl (by decide)]
    show t.setInst 0 (if w.getLsbD 8 then _ else _) = _
    rw [h8]
    rfl
  · have hc : (if w.getLsbD 4 then { s with ss := { s.ss with lost := false } } else s)
        = { s with ss := { s.ss with lost := if w.getLsbD 4 then false else s.ss.lost } } := by
      split <;> rfl
    rw [hc]
    refine wr (by decide) ⟨rfl, rfl⟩ fun r => ?_
    show (if w.getLsbD 4 then _ else _) = _
    split <;> rfl
  · refine wrInst (by decide) fun t => ?_
    rw [writeReg_hub t 0 x w (by decide) rfl (by decide)]
    have hev : x.writeEvent w = { x with pwr := { x.pwr with next := w } } := by simp [Inst.writeEvent, hb]
    rw [← hev]
    rfl
  · have hmap : Mapped off := by
      revert hoff off
      decide
    refine wr hmap ⟨rfl, rfl⟩ fun r => ?_
    have hsplit : off ∈ hubReadOnly ∨ off ∈ packageReadOnly := by
      revert hmap hoff off
      decide
    obtain hhub | hpack := hsplit
    · rw [writeReg_readOnly _ 0 x w hhub]
      exact State.setInst_self _ 0 x hx
    · exact writeReg_package_readOnly _ x w hpack
  · intro c
    refine wrInst (cellMapped h256 (by decide) (by decide)) fun t => ?_
    rw [writeReg_cell t 0 (by decide) hn]
    have hc : (if w.getLsbD 31 then { c with scaleCheck := c.scaleCheck &&& 0x7FFFFFFF } else c)
        = { (x.cell n).writeReg 0xC0 w with gated := false } := by
      show _ = ({ c with scaleCheck := clearTop c.scaleCheck w } : Cell)
      rw [clearTop]
      split <;> rfl
    rw [hc]
  · exact wrInst ⟨by omega, by omega, by omega⟩ fun t => writeReg_fence t 0 x w hk
  · refine CtlRun.of_row rfl rfl hy hp ?_
    rw [Nat.mod_eq_of_lt hk]
end Sys2Proof

namespace Sys2Proof

/-! SUPPORT. The load window and the commits of the structure stream (R353 to R359). -/

open Sys2Proof.Machine

/-! ### Full commits -/

/-- Where no reset waits, none begins with the end of a commit. -/
theorem resetWaiting_none {s : State} (h : ∀ y ∈ s.insts, y.rst.waiting = false) : s.resetWaiting = s := by
  rw [State.resetWaiting]
  generalize List.range s.insts.length = l
  induction l with
  | nil => rfl
  | cons i l ih =>
    rw [List.foldl_cons]
    split
    · rename_i x hx
      rwa [if_neg (by simp [h x (List.mem_of_getElem? hx)])]
    · exact ih

/-- The dies of a list take their parts of a stream. -/
def takeAll (ws : List Word) (digest : List Byte) (l : List Nat) (s : State) : State :=
  l.foldl (fun s i => s.atDie i fun x => s.setInst i (x.takeStream (ssStream ws i digest))) s

theorem applyFull_eq (s : State) (ws : List Word) (digest : List Byte) :
    s.applyFull ws digest = takeAll ws digest (List.range (ssCountM1 ws + 1)) s := by
  rw [State.applyFull, takeAll]
  refine foldl_congr_fun (fun s i => ?_) _ _
  cases hi : s.insts[i]? <;> simp [State.atDie, hi]

theorem takeAll_spec (ws : List Word) (digest : List Byte) {l : List Nat} (hl : l.Nodup) (s : State) :
    takeAll ws digest l s = { s with insts := (takeAll ws digest l s).insts } ∧ (takeAll ws digest l s).insts.length = s.insts.length
    ∧ ∀ i y, s.insts[i]? = some y →
      (takeAll ws digest l s).insts[i]? = some (if i ∈ l then y.takeStream (ssStream ws i digest) else y) := by
  induction l generalizing s with
  | nil => exact ⟨rfl, rfl, fun i y h => by simpa [takeAll] using h⟩
  | cons j l ih =>
    obtain ⟨hj, hl⟩ := List.nodup_cons.1 hl
    cases hs : s.insts[j]? with
    | none =>
      obtain ⟨h1, h2, h3⟩ := ih hl s
      have htake : takeAll ws digest (j :: l) s = takeAll ws digest l s := by simp [takeAll, State.atDie, hs]
      rw [htake]
      refine ⟨h1, h2, fun i y hy => ?_⟩
      have hne : i ≠ j := by rintro rfl; simp [hs] at hy
      rw [h3 i y hy]
      simp [hne]
    | some x =>
      obtain ⟨h1, h2, h3⟩ := ih hl (s.setInst j (x.takeStream (ssStream ws j digest)))
      have htake : takeAll ws digest (j :: l) s = takeAll ws digest l (s.setInst j (x.takeStream (ssStream ws j digest))) := by
        simp [takeAll, State.atDie, hs]
      rw [htake]
      refine ⟨h1, h2.trans (insts_length_setInst ..), fun i y hy => ?_⟩
      by_cases hij : i = j
      · subst hij
        obtain rfl : x = y := Option.some.inj (hs.symm.trans hy)
        rw [h3 i _ (State.getElem_setInst s i x _ hs)]
        simp [hj]
      · rw [h3 i y (by rw [State.getElem_setInst_other _ _ _ _ hij]; exact hy)]
        simp [hij]

/-- A die whose cells have been reset, each at its reset values (R414). -/
theorem takeStream_spec (y : Inst) (st : Stream) :
    y.takeStream st = { y with cells := (y.takeStream st).cells, stream := st, inService := mapCells st.cellMap
                               flt := { y.flt with quiesced := 0 } }
    ∧ ∀ n, ((y.takeStream st).cell n).vits = [] ∧ ((y.takeStream st).cell n).masks = [] ∧ ((y.takeStream st).cell n).casks = []
      ∧ ((y.takeStream st).cell n).launchQ = [] ∧ ((y.takeStream st).cell n).drain = [] ∧ ∀ k, (y.takeStream st).slot n k = Slot.idle := by
  have hframe : y.resetCells = { y with cells := y.resetCells.cells } := overCells_frame Cell.resetCell y.liveCells y
  have hcell (n : Nat) : (y.takeStream st).cell n = y.resetCells.cell n := rfl
  constructor
  · rw [Inst.takeStream]
    rw [hframe]
  · intro n
    have hsix := proj_overCells (fun c : Cell => (c.vits, c.masks, c.casks, c.launchQ, c.drain, c.slots))
      (fun _ => ([], [], [], [], [], List.replicate 4 Slot.idle)) (f := Cell.resetCell) (fun _ => rfl) (fun _ => rfl) rfl y n
    simp only [Prod.mk.injEq] at hsix
    obtain ⟨h1, h2, h3, h4, h5, h6⟩ := hsix
    refine ⟨h1, h2, h3, h4, h5, fun k => (congrArg (fun l : List Slot => l.getD k Slot.idle) h6).trans ?_⟩
    rw [List.getD_eq_getElem?_getD, List.getElem?_replicate]
    split <;> rfl

theorem commitDone_full {s : State} (hst : s.ss.st = 4) (hsl : s.copySleeper s.ss.words = none) (hf : s.copyFails s.ss.words = false) :
    s.commitDone = { s.applyFull s.ss.words s.ss.digest with ss := { s.ss with st := 0, code := 0, digest := [], patches := 0 } } := by
  simp [State.commitDone, hst, hsl, hf]

/-- A full commit that ends, where no reset waits. -/
theorem commitEnds_full {s : State} (hst : s.ss.st = 4) (hsl : s.copySleeper s.ss.words = none) (hf : s.copyFails s.ss.words = false)
    (hw : ∀ y ∈ s.insts, y.rst.waiting = false) :
    exec .ssCommitDone s = .next { takeAll s.ss.words s.ss.digest (List.range (ssCountM1 s.ss.words + 1)) s with
      ss := { s.ss with st := 0, code := 0, digest := [], patches := 0 } } := by
  have hdone := commitDone_full hst hsl hf
  rw [applyFull_eq] at hdone
  obtain ⟨-, hlen, htake⟩ := takeAll_spec s.ss.words s.ss.digest (List.nodup_range (n := ssCountM1 s.ss.words + 1)) s
  have hwait : ∀ y ∈ s.commitDone.insts, y.rst.waiting = false := by
    intro y hy
    obtain ⟨i, hi⟩ := List.mem_iff_getElem?.1 hy
    rw [hdone] at hi
    have hlt : i < s.insts.length := by
      rw [← hlen]
      exact (List.getElem?_eq_some_iff.1 hi).1
    have hz := htake i s.insts[i] (List.getElem?_eq_getElem hlt)
    obtain rfl := Option.some.inj (hi.symm.trans hz)
    have hxi := hw s.insts[i] (List.getElem_mem hlt)
    split
    · rw [(takeStream_spec ..).1]
      exact hxi
    · exact hxi
  have hend : s.commitEnds = s.commitDone := by
    rw [State.commitEnds, if_neg (not_not.2 hst), if_neg (by rw [hdone]; exact nofun), resetWaiting_none hwait]
  rw [← hdone, ← hend]
  rfl

/-! ### Patches (R359) -/

/-- A die that a patch reaches takes it at once, unless one sleeps on the way. -/
theorem reaches_linked {s : State} {j : Nat} (h : s.reaches j = true) : ∃ y, s.insts[j]? = some y ∧ y.rst.phase = 0
    ∧ y.pwr.offTaken = false ∧ s.linked 0 j = true := by
  simp only [State.reaches, List.all_eq_true, List.mem_range] at h
  have hj := h j (Nat.lt_succ_self j)
  cases hy : s.insts[j]? with
  | none => simp [hy] at hj
  | some y =>
    rw [hy] at hj
    simp only [Bool.and_eq_true, Bool.not_eq_true', decide_eq_true_eq] at hj
    refine ⟨y, rfl, hj.1.2, hj.1.1.2, ?_⟩
    have hlt : j < s.insts.length := (List.getElem?_eq_some_iff.1 hy).1
    have heast : s.linkedEast 0 j = true := by
      simp only [State.linkedEast, List.all_eq_true, List.mem_range]
      intro k hk
      have hkj : k < j := by
        rw [show j + s.insts.length - 0 = j + s.insts.length by omega, Nat.add_mod_right, Nat.mod_eq_of_lt hlt] at hk
        exact hk
      rw [Nat.zero_add, Nat.mod_eq_of_lt (by omega)]
      have hk := h k (by omega)
      cases hx : s.insts[k]? with
      | none => simp [hx] at hk
      | some x =>
        rw [hx] at hk
        simp only [Bool.and_eq_true, if_neg (Nat.ne_of_lt hkj)] at hk
        exact hk.2
    simp [State.linked, heast]
/-- Two packages whose dies agree in what carries messages: faults, power, resets, test state and links. -/
def SameWays (s t : State) : Prop := ∀ i : Nat, (s.insts[i]? = none ∧ t.insts[i]? = none) ∨ ∃ x y : Inst, s.insts[i]? = some x ∧ t.insts[i]? = some y
  ∧ y.flt = x.flt ∧ y.pwr = x.pwr ∧ y.rst = x.rst ∧ y.test = x.test ∧ y.east = x.east ∧ y.west = x.west

theorem SameWays.length {s t : State} (h : SameWays s t) : t.insts.length = s.insts.length := by
  have hlt (i : Nat) : i < t.insts.length ↔ i < s.insts.length := by
    obtain ⟨h1, h2⟩ | ⟨x, y, h1, h2, -⟩ := h i
    · rw [List.getElem?_eq_none_iff] at h1 h2
      omega
    · exact ⟨fun _ => (List.getElem?_eq_some_iff.1 h1).1, fun _ => (List.getElem?_eq_some_iff.1 h2).1⟩
  have h1 := hlt t.insts.length
  have h2 := hlt s.insts.length
  omega

theorem SameWays.linked {s t : State} (h : SameWays s t) (i j : Nat) : t.linkedEast i j = s.linkedEast i j ∧ t.linked i j = s.linked i j := by
  have heast : t.linkedEast i j = s.linkedEast i j := by
    simp only [State.linkedEast, h.length]
    congr 1
    funext k
    obtain ⟨h1, h2⟩ | ⟨x, y, h1, h2, -, -, -, -, he, -⟩ := h ((i + k) % s.insts.length)
    · simp [h1, h2]
    · simp [h1, h2, he]
  have hwest : t.linkedWest i j = s.linkedWest i j := by
    simp only [State.linkedWest, h.length]
    congr 1
    funext k
    obtain ⟨h1, h2⟩ | ⟨x, y, h1, h2, -, -, -, -, -, hw⟩ := h ((i + s.insts.length - k) % s.insts.length)
    · simp [h1, h2]
    · simp [h1, h2, hw]
  exact ⟨heast, by rw [State.linked, State.linked, heast, hwest]⟩

theorem SameWays.sleepers {s t : State} (h : SameWays s t) (i j : Nat) : t.sleepers i j = s.sleepers i j := by
  have hpath : t.path i j = s.path i j := by simp only [State.path, h.length, (h.linked i j).1]
  rw [State.sleepers, State.sleepers, hpath]
  congr 1
  funext k
  obtain ⟨h1, h2⟩ | ⟨x, y, h1, h2, hf, hp, hr, ht, -, -⟩ := h k
  · simp [h1, h2]
  · simp [h1, h2, Inst.asleep, Inst.awake, Inst.alive, hf, hp, hr, ht]

/-- A die after a patch of its cell map (R359). -/
def patchedInst (x : Inst) (m : List Byte) : Inst :=
  { x with inService := x.inService &&& mapCells m, stream := { x.stream with cellMap := m } }

theorem sameWays_patched {s : State} {j : Nat} {x : Inst} (hx : s.insts[j]? = some x) (m : List Byte) :
    SameWays s (s.setInst j (patchedInst x m)) := fun i => by
  by_cases hij : i = j
  · subst hij
    exact .inr ⟨x, patchedInst x m, hx, State.getElem_setInst s i x _ hx, rfl, rfl, rfl, rfl, rfl, rfl⟩
  · cases hi : s.insts[i]? with
    | none => exact .inl ⟨rfl, by rw [State.getElem_setInst_other _ _ _ _ hij, hi]⟩
    | some y => exact .inr ⟨y, y, rfl, by rw [State.getElem_setInst_other _ _ _ _ hij, hi], rfl, rfl, rfl, rfl, rfl, rfl⟩

/-- A patch reaches die j at once. -/
def PatchArrives (s : State) (j : Nat) : Prop :=
  ∃ y, s.insts[j]? = some y ∧ y.rst.phase = 0 ∧ y.pwr.offTaken = false ∧ s.linked 0 j = true ∧ s.sleepers 0 j = []

theorem PatchArrives.congr {s t : State} {j : Nat} (h : SameWays s t) (ha : PatchArrives s j) : PatchArrives t j := by
  obtain ⟨y, hy, hph, hoff, hl, hs⟩ := ha
  obtain ⟨h1, -⟩ | ⟨x, z, h1, h2, -, hp, hr, -⟩ := h j
  · exact absurd (h1.symm.trans hy) nofun
  · obtain rfl : x = y := Option.some.inj (h1.symm.trans hy)
    exact ⟨z, h2, by rw [hr, hph], by rw [hp, hoff], by rw [(h.linked 0 j).2, hl], by rw [h.sleepers, hs]⟩

theorem eff_patch {s : State} {j : Nat} {y : Inst} (m : List Byte) (hy : s.insts[j]? = some y) (ha : PatchArrives s j) :
    State.eff 0 s (.patch j m) = s.setInst j (patchedInst y m) := by
  obtain ⟨z, hz, hph, hoff, hl, hs⟩ := ha
  obtain rfl : y = z := Option.some.inj (hy.symm.trans hz)
  have hact : s.act (.patch j m) = s.setInst j (patchedInst y m) := by simp [State.act, State.atDie, hy, patchedInst]
  simp only [State.eff, Eff.die, hact]
  split
  · rfl
  · simp [hy, hph, hoff, hl, hs]

/-- The patches of a list, each at its die. -/
theorem effs_patches {l : List (Nat × List Byte)} {s : State} (ha : ∀ p ∈ l, PatchArrives s p.1) :
    let t := s.effs 0 (l.map fun p => .patch p.1 p.2)
    t = { s with insts := t.insts } ∧ t.insts.length = s.insts.length
    ∧ ∀ i y, s.insts[i]? = some y → t.insts[i]? = some ((l.filter fun p => p.1 == i).foldl (fun y p => patchedInst y p.2) y) := by
  induction l generalizing s with
  | nil => exact ⟨rfl, rfl, fun i y h => h⟩
  | cons p l ih =>
    obtain ⟨j, m⟩ := p
    have hj := ha (j, m) List.mem_cons_self
    obtain ⟨x, hx, -⟩ := hj
    have hways := sameWays_patched hx m
    obtain ⟨h1, h2, h3⟩ := ih (s := s.setInst j (patchedInst x m)) fun q hq => (ha q (List.mem_cons_of_mem _ hq)).congr hways
    have hstep : s.effs 0 (((j, m) :: l).map fun p => .patch p.1 p.2)
        = (s.setInst j (patchedInst x m)).effs 0 (l.map fun p => .patch p.1 p.2) := by
      rw [List.map_cons, State.effs_cons, eff_patch m hx (ha (j, m) List.mem_cons_self)]
    rw [hstep]
    refine ⟨h1, h2.trans (insts_length_setInst ..), fun i y hy => ?_⟩
    by_cases hij : i = j
    · subst hij
      obtain rfl : x = y := Option.some.inj (hx.symm.trans hy)
      rw [h3 i _ (State.getElem_setInst s i x _ hx)]
      simp
    · rw [h3 i y (by rw [State.getElem_setInst_other _ _ _ _ hij]; exact hy)]
      simp [Ne.symm hij]

/-- A commit of a patch that the checks accept. -/
theorem ssCommit_patch {s : State} (hst : s.ss.st = 3) (hk : ssKind s.ss.words = 1) (hc : s.patchCheck s.ss.words = 0) :
    let maps := (sections s.ss.words).filter fun q => q.typ == 1
    s.ssCommit = if maps.any fun q => !s.reaches q.inst then { s with ss := { s.ss with code := 0x0084 } }
      else { s.effs 0 ((maps.map fun q => (q.inst, ssMap s.ss.words q)).map fun p => .patch p.1 p.2) with
        ss := { s.ss with st := 0, code := 0, digest := [], patches := min (s.ss.patches + 1) 255 } } := by
  intro maps
  have hany : ((s.mapSections s.ss.words).any fun p => !s.reaches p.1.inst) = maps.any fun q => !s.reaches q.inst := by
    rw [State.mapSections, List.any_map]
    rfl
  have happ : s.applyPatch s.ss.words = s.effs 0 ((maps.map fun q => (q.inst, ssMap s.ss.words q)).map fun p => .patch p.1 p.2) := by
    rw [State.applyPatch, State.mapSections, List.map_map, List.map_map]
    rfl
  simp only [State.ssCommit, hst, hk, hc, hany, happ]
  rfl

/-- Settles O48: a full commit by `takeAll_spec`, a patch by `effs_patches`. -/
theorem streamCommits : Obligations.StreamCommits := by
  intro s x l hw
  refine ⟨fun hst hsl hf hwait => ?_, fun hp hst hk hc => ?_⟩
  · obtain ⟨-, hlen, htake⟩ := takeAll_spec l.words l.digest (List.nodup_range (n := ssCountM1 l.words + 1)) s
    exact ⟨_, commitEnds_full hst hsl hf hwait, hlen,
      fun i y hi hy => (htake i y hy).trans (congrArg some (if_neg (by rw [List.mem_range]; omega))),
      fun i y hi hy => ⟨y.takeStream (ssStream l.words i l.digest),
        (htake i y hy).trans (congrArg some (if_pos (by rw [List.mem_range]; omega))), takeStream_spec ..⟩⟩
  · intro maps done
    have hrun (t : State) (ht : s.ssCommit = t) (hfwd : t.fwd = s.fwd) (hr : t.resp = s.resp) :
        exec .ssCommit s = .next (served .ssCommit s t) := served_of_row (f := fun _ => s.ssCommit) rfl rfl hw hp ht hfwd hr
    have hcommit := ssCommit_patch hst hk hc
    refine ⟨fun hno => ?_, fun hall => ⟨fun hsl => ?_, fun q k rest z hm hsl hz => ?_⟩⟩
    · obtain ⟨q, hq, hr⟩ := hno
      exact hrun _ (hcommit.trans (if_pos (List.any_eq_true.2 ⟨q, hq, by simp [hr]⟩))) rfl rfl
    · have harr : ∀ p ∈ maps.map fun q => (q.inst, ssMap l.words q), PatchArrives s p.1 := by
        intro p hp
        obtain ⟨q, hq, rfl⟩ := List.mem_map.1 hp
        obtain ⟨y, hy, hph, hoff, hl⟩ := reaches_linked (hall q hq)
        exact ⟨y, hy, hph, hoff, hl, hsl q hq⟩
      obtain ⟨hfr, hlen, hpatch⟩ := effs_patches harr
      have hno : ¬(maps.any fun q => !s.reaches q.inst) = true := by simpa using hall
      have hof (i : Nat) : (maps.map fun q => (q.inst, ssMap l.words q)).filter (fun p => p.1 == i)
          = (maps.filter fun q => q.inst == i).map fun q => (q.inst, ssMap l.words q) := List.filter_map ..
      have hfwd := congrArg State.fwd hfr
      have hresp := congrArg State.resp hfr
      refine ⟨_, hrun _ (hcommit.trans (if_neg hno)) hfwd hresp, ?_, hlen, fun i y hne hy => ?_,
        fun i y q hq hy => ?_⟩
      · exact congrArg (fun t : State => { t with ss := done }) hfr
      · refine (hpatch i y hy).trans ?_
        rw [hof, List.filter_eq_nil_iff.2 fun q hq => by simpa using hne q hq]
        rfl
      · refine (hpatch i y hy).trans ?_
        rw [hof, hq]
        rfl
    · have hmem : q ∈ maps := by rw [hm]; exact List.mem_singleton_self q
      obtain ⟨y, hy, hph, hoff, hl⟩ := reaches_linked (hall q hmem)
      have hno : ¬(maps.any fun q => !s.reaches q.inst) = true := by simpa using hall
      have hq0 : q.inst ≠ 0 := by
        intro h0
        rw [h0, State.sleepers, State.path, if_pos (.inr rfl)] at hsl
        exact absurd hsl nofun
      have heff : State.eff 0 s (.patch q.inst (ssMap l.words q))
          = s.setInst k { z.wakeBy 4 with linkIn := z.linkIn ++ [Eff.patch q.inst (ssMap l.words q)] } := by
        simp only [State.eff, Eff.die, if_neg hq0, hy, hph, hoff, hl, hsl, State.atDie, hz]
        rfl
      refine hrun _ ((hcommit.trans (if_neg hno)).trans ?_) rfl rfl
      have hmaps : (sections s.ss.words).filter (fun q => q.typ == 1) = [q] := hm
      rw [hmaps, List.map_singleton, List.map_singleton, State.effs_cons, State.effs_nil]
      exact congrArg (fun t : State => { t with ss := done }) heff

/-! ### The table of the load window (R353) -/

/-- A refused write of the load window. -/
theorem ssCommit_lost {s : State} (h : s.ss.st ≠ 3) : s.ssCommit = { s with ss := { s.ss with lost := true } } := by
  simp [State.ssCommit, h, LoadWin.lose]

/-- A full commit that the checks accept begins, and wakes the next die that sleeps. -/
theorem ssCommit_full {s : State} (hst : s.ss.st = 3) (hk : ssKind s.ss.words = 0) (hc : s.fullCheck s.ss.words = 0) :
    s.ssCommit = { s.copySleeper s.ss.words |>.elim s (s.wakeNext 0) with ss := { s.ss with st := 4 } } := by
  simp only [State.ssCommit, hst, hk, hc]
  cases s.copySleeper s.ss.words <;> rfl

/-- A commit that a check refuses. -/
theorem ssCommit_refused {s : State} {code : Nat} (hst : s.ss.st = 3) (hne : code ≠ 0)
    (h : ssKind s.ss.words = 0 ∧ s.fullCheck s.ss.words = code ∨ ssKind s.ss.words = 1 ∧ s.patchCheck s.ss.words = code) :
    s.ssCommit = { s with ss := { s.ss with code := code } } := by
  obtain ⟨hk, hc⟩ | ⟨hk, hc⟩ := h <;> simp [State.ssCommit, hst, hk, hc, hne]

theorem ssCloseDone_runs {s : State} {x : Inst} (hw : AtWork s 0 x) :
    exec .ssCloseDone s = .next { s with ss := s.ss.closeDone } := by
  have hdone : exec .ssCloseDone s = .next (s.atDie 0 fun x => if x.alive then { s with ss := s.ss.closeDone } else s) := rfl
  rw [hdone, State.atDie, hw.1]
  exact congrArg Host.Outcome.next (if_pos (Inst.alive_of_awake hw.2))

/-- Settles O47: each row of the table, by the state of the window. -/
theorem loadWindow : Obligations.LoadWindow := by
  intro s x l goes lost hw hp
  have hput (c : Instr) (f : State) (off : Nat) (w : Word) (he : exec c s = s.ctlRow 0 off w fun _ => f) (hi : rowWrite c = (0, off, w))
      (m : LoadWin) (hf : f = { s with ss := m }) : goes c m := served_of_row he hi hw hp hf rfl rfl
  have hcommit (m : LoadWin) (hf : s.ssCommit = { s with ss := m }) : goes .ssCommit m :=
    hput .ssCommit s.ssCommit 0x4000 3 rfl rfl m hf
  have hss {m n : LoadWin} (h : m = n) : ({ s with ss := m } : State) = { s with ss := n } := congrArg (fun m => { s with ss := m }) h
  have hopen (m : LoadWin) (h : s.ss.open_ = m) : goes .ssOpen m := hput .ssOpen _ 0x4000 1 rfl rfl m (hss h)
  have hclose (m : LoadWin) (h : s.ss.close = m) : goes .ssClose m := hput .ssClose _ 0x4000 2 rfl rfl m (hss h)
  have hdata (w : Word) (m : LoadWin) (h : s.ss.data w = m) : goes (.ssDataWrite w) m := hput (.ssDataWrite w) _ 0x4004 w rfl rfl m (hss h)
  refine ⟨rfl, fun h => hopen _ (if_neg ?_), fun h => hopen _ (if_pos ?_), fun h => hclose _ (if_pos h), fun h => hclose _ (if_neg ?_),
    fun w => ⟨fun h hn => hdata w _ ((if_neg (not_not.2 h)).trans (if_neg (Nat.not_le.2 hn))),
      fun h hn => hdata w _ ((if_neg (not_not.2 h)).trans (if_pos hn)), fun h => hdata w _ (if_pos ?_)⟩,
    fun h => hcommit _ (ssCommit_lost ?_), fun hst hk hc => ⟨fun hs => hcommit _ ?_, fun i hs => ?_⟩,
    fun code hst hne hc => hcommit _ (ssCommit_refused hst hne hc), fun hst => ⟨fun o ho => ?_, fun ho => ?_, fun ho => ?_⟩,
    fun hst hsl hf hwait => ⟨_, commitEnds_full hst hsl hf hwait, rfl⟩⟩
  case refine_6 =>
    rw [ssCommit_full hst hk hc, show s.copySleeper s.ss.words = none from hs]
    rfl
  case refine_7 =>
    have hfull := ssCommit_full hst hk hc
    rw [show s.copySleeper s.ss.words = some i from hs] at hfull
    have hfwd := congrArg State.fwd (State.wakeNext_frame s 0 i)
    have hresp := congrArg State.resp (State.wakeNext_frame s 0 i)
    exact served_of_row (f := fun _ => s.ssCommit) rfl rfl hw hp hfull hfwd hresp
  case refine_8 =>
    rw [ssCloseDone_runs hw]
    simp [LoadWin.closeDone, show s.ss.st = 2 from hst, show ssCheck s.ss.words s.ss.overrun = some o from ho, l, errSsFormat]
  case refine_9 =>
    rw [ssCloseDone_runs hw]
    simp [LoadWin.closeDone, show s.ss.st = 2 from hst, show ssCheck s.ss.words s.ss.overrun = none from ho, l]
  case refine_10 =>
    simp [ssCheck, ssCheck1, show l.overrun = true from ho, firstOff, offIf]
  all_goals
    simp only [List.mem_cons, List.not_mem_nil, or_false, l] at h
    omega
end Sys2Proof

namespace Sys2Proof

/-! SUPPORT. The mailbox commands of a window (R361, R362, R364). -/

open Sys2Proof.Machine

theorem mbCmd_busy {s : State} {i : Nat} {x : Inst} {op : Nat} (h : (x.mbFreeing.isSome || x.mbWait.isSome) = true) : s.mbCmd i x op = s :=
  if_pos (by simpa using h)

theorem mbCmd_alloc {s : State} {i : Nat} {x : Inst} (h : (x.mbFreeing.isSome || x.mbWait.isSome) = false) :
    s.mbCmd i x 1 = s.mbAlloc i x := by
  simp only [Bool.or_eq_false_iff, Option.isSome_eq_false_iff, Option.isNone_iff_eq_none] at h
  simp [State.mbCmd, h]

theorem mbCmd_op {s : State} {i : Nat} {x : Inst} {op : Nat} (h : (x.mbFreeing.isSome || x.mbWait.isSome) = false) (h2 : 2 ≤ op) (h4 : op ≤ 4) :
    s.mbCmd i x op = s.mbRun i op x.mbArg0 := by
  simp only [Bool.or_eq_false_iff, Option.isSome_eq_false_iff, Option.isNone_iff_eq_none] at h
  have h0 : ¬(op = 0 ∨ 4 < op) := by omega
  have h1 : ¬op = 1 := by omega
  simp [State.mbCmd, h, h0, h1]

theorem mbEnd_some {s : State} {i : Nat} {x : Inst} (h : s.insts[i]? = some x) (code : Nat) :
    s.mbEnd i code = s.setInst i { x with mbCode := code, mbWait := none } := by
  simp [State.mbEnd, h]

theorem mbEnd_setInst {s : State} {i : Nat} {x : Inst} (h : s.insts[i]? = some x) (y : Inst) (code : Nat) :
    (s.setInst i y).mbEnd i code = s.setInst i { y with mbCode := code, mbWait := none } := by
  rw [mbEnd_some (State.getElem_setInst s i x y h), State.setInst_setInst]

theorem recall_frame (s : State) (r : Nat) (h : Word) : (s.recall r h).fwd = s.fwd ∧ (s.recall r h).resp = s.resp := by
  rw [State.recall]
  split
  · exact ⟨rfl, rfl⟩
  · rw [State.onCellAt]
    split <;> exact ⟨rfl, rfl⟩

theorem mbEnd_frame (s : State) (i code : Nat) : (s.mbEnd i code).fwd = s.fwd ∧ (s.mbEnd i code).resp = s.resp := by
  rw [State.mbEnd]
  split <;> exact ⟨rfl, rfl⟩

/-- The mailbox that a handle names. -/
theorem mbFind_some {x : Inst} {h : Word} {m : Nat} (hm : handleVc h = m) (h32 : m < 32) (ha : (x.mbox m).alloc = true)
    (hg : (x.mbox m).gen = handleGen h) : x.mbFind h = some m := by
  simp [Inst.mbFind, hm, h32, ha, hg]

theorem mbFind_stale {x : Inst} {h : Word} {m : Nat} (hm : handleVc h = m) (hs : (x.mbox m).alloc = false ∨ (x.mbox m).gen ≠ handleGen h) :
    x.mbFind h = none := by
  obtain hs | hs := hs <;> simp [Inst.mbFind, hm, hs]

/-- A command on a mailbox of the window's own instance that a stale handle names. -/
theorem mbRun_stale {s : State} {i op : Nat} {x : Inst} {h : Word} (hw : AtWork s i x) (hi : handleInst h = i) (hf : x.mbFind h = none) :
    s.mbRun i op h = s.mbEnd i 0x007A := by
  subst hi
  simp [State.mbRun, hw.1, reach_self hw, hf, errMbStale]

/-- A command on a mailbox of the window's own instance. -/
theorem mbRun_own {s : State} {i op m : Nat} {x : Inst} {h : Word} (hw : AtWork s i x) (hi : handleInst h = i) (hf : x.mbFind h = some m) :
    s.mbRun i op h = if op = 2 ∧ 0 < s.wordsLeft (x.mbox m).receiver h ∧ s.wordsLeft (x.mbox m).receiver h < 6 then
        s.setInst i { x with mbFreeing := some (32 * i + m), mbWait := none }
      else (if op = 2 then (s.setInst i (x.mbOp op m).2).recall (x.mbox m).receiver h else s.setInst i (x.mbOp op m).2).mbEnd i (x.mbOp op m).1 := by
  subst hi
  simp [State.mbRun, hw.1, reach_self hw, hf, State.atDie]

/-- Of the dies on a way to another one, that one is the last: asleep, it is among the sleepers. -/
theorem mem_path {s : State} {i j : Nat} (hi : i < s.insts.length) (hj : j < s.insts.length) (hne : i ≠ j) : j ∈ s.path i j := by
  simp only [State.path]
  rw [if_neg (by omega)]
  split
  · refine List.mem_map.2 ⟨(j + s.insts.length - i) % s.insts.length - 1, ?_, ?_⟩
    · rw [List.mem_range]
      obtain h | h := Nat.lt_or_gt_of_ne hne
      · rw [show j + s.insts.length - i = (j - i) + s.insts.length by omega, Nat.add_mod_right, Nat.mod_eq_of_lt (by omega)]
        omega
      · rw [Nat.mod_eq_of_lt (by omega)]
        omega
    · obtain h | h := Nat.lt_or_gt_of_ne hne
      · rw [show j + s.insts.length - i = (j - i) + s.insts.length by omega, Nat.add_mod_right, Nat.mod_eq_of_lt (a := j - i) (by omega),
          show i + (j - i - 1) + 1 = j by omega, Nat.mod_eq_of_lt hj]
      · rw [Nat.mod_eq_of_lt (a := j + s.insts.length - i) (by omega), show i + (j + s.insts.length - i - 1) + 1 = j + s.insts.length by omega,
          Nat.add_mod_right, Nat.mod_eq_of_lt hj]
  · refine List.mem_map.2 ⟨(i + s.insts.length - j) % s.insts.length - 1, ?_, ?_⟩
    · rw [List.mem_range]
      obtain h | h := Nat.lt_or_gt_of_ne hne
      · rw [Nat.mod_eq_of_lt (by omega)]
        omega
      · rw [show i + s.insts.length - j = (i - j) + s.insts.length by omega, Nat.add_mod_right, Nat.mod_eq_of_lt (by omega)]
        omega
    · obtain h | h := Nat.lt_or_gt_of_ne hne
      · rw [Nat.mod_eq_of_lt (a := i + s.insts.length - j) (by omega),
          show i + s.insts.length - (i + s.insts.length - j - 1 + 1) = j by omega, Nat.mod_eq_of_lt hj]
      · rw [show i + s.insts.length - j = (i - j) + s.insts.length by omega, Nat.add_mod_right, Nat.mod_eq_of_lt (a := i - j) (by omega),
          show i + s.insts.length - (i - j - 1 + 1) = j + s.insts.length by omega, Nat.add_mod_right, Nat.mod_eq_of_lt hj]

/-- A die is asleep when it is among the sleepers of a way. -/
theorem asleep_of_sleepers {s : State} {i j k : Nat} {z : Inst} (h : k ∈ s.sleepers i j) (hz : s.insts[k]? = some z) : z.asleep = true := by
  have hk := (List.mem_filter.1 h).2
  simpa [hz] using hk

/-- A command on a mailbox behind a die that sleeps waits, and wakes that die (R365, R405). -/
theorem mbRun_waits {s : State} {i op k : Nat} {rest : List Nat} {x y z : Inst} {h : Word} (hw : AtWork s i x)
    (hy : s.insts[handleInst h]? = some y) (hl : s.linked i (handleInst h) = true) (hs : s.sleepers i (handleInst h) = k :: rest)
    (hz : s.insts[k]? = some z) :
    s.mbRun i op h = (s.setInst k (z.wakeBy 4)).setInst i { x with mbWait := some (op, h) } := by
  have hki : i ≠ k := by
    rintro rfl
    obtain rfl : x = z := Option.some.inj (hw.1.symm.trans hz)
    have hsl := asleep_of_sleepers (hs ▸ List.mem_cons_self) hz
    simp [Inst.asleep, hw.2] at hsl
  have hreach : s.reach i (handleInst h) y = none := by simp [State.reach, hl, hs]
  have hx : (s.setInst k (z.wakeBy 4)).insts[i]? = some x := by rw [State.getElem_setInst_other _ _ _ _ hki, hw.1]
  have hwake : s.wakeNext i (handleInst h) = s.setInst k (z.wakeBy 4) := by simp [State.wakeNext, hs, hz]
  simp only [State.mbRun, hy, hreach, hwake, State.atDie, hx]

/-- The agents of an MB_ALLOC are two, both there and in service. -/
def agentsOk (s : State) (x : Inst) : Bool :=
  agentOk x.mbArg0.toNat && agentOk x.mbArg1.toNat && decide (x.mbArg0.toNat ≠ x.mbArg1.toNat)
    && decide (agentInst x.mbArg0.toNat < x.instCount) && decide (agentInst x.mbArg1.toNat < x.instCount)
    && s.agentServed x.mbArg0.toNat && s.agentServed x.mbArg1.toNat

theorem mbAlloc_eq (s : State) (i : Nat) (x : Inst) : s.mbAlloc i x = if agentsOk s x then
    match (List.range 32).find? fun m => !(x.mbox m).alloc with
    | none => s.mbEnd i errMbFull
    | some m =>
      let x1 := x.setMbox m { Mbox.free with alloc := true, gen := (x.mbox m).gen, sender := x.mbArg0.toNat, receiver := x.mbArg1.toNat }
      s.setInst i { x1 with mbCode := 0, mbHandle := x1.mbHandleOf m }
    else s.mbEnd i errMbArg := by
  have hcond : (!agentOk x.mbArg0.toNat || !agentOk x.mbArg1.toNat || decide (x.mbArg0.toNat = x.mbArg1.toNat)
      || decide (x.instCount ≤ agentInst x.mbArg0.toNat) || decide (x.instCount ≤ agentInst x.mbArg1.toNat)
      || !s.agentServed x.mbArg0.toNat || !s.agentServed x.mbArg1.toNat) = !agentsOk s x := by
    simp only [agentsOk, Bool.not_and, ← decide_not, not_not, Nat.not_lt, ne_eq]
  simp only [State.mbAlloc, hcond]
  cases agentsOk s x <;> simp <;> rfl

theorem mbAlloc_refused {s : State} {i : Nat} {x : Inst} (h : agentsOk s x = false) : s.mbAlloc i x = s.mbEnd i 0x0078 := by
  rw [mbAlloc_eq, if_neg (by rw [h]; nofun), errMbArg]

theorem mbAlloc_full {s : State} {i : Nat} {x : Inst} (h : agentsOk s x = true) (hf : ∀ k, k < 32 → (x.mbox k).alloc = true) :
    s.mbAlloc i x = s.mbEnd i 0x0079 := by
  have hnone : ((List.range 32).find? fun m => !(x.mbox m).alloc) = none :=
    List.find?_eq_none.2 fun k hk => by simp [hf k (List.mem_range.1 hk)]
  rw [mbAlloc_eq, if_pos h, hnone]
  rfl

theorem mbAlloc_takes {s : State} {i m : Nat} {x : Inst} (hm : m < 32) (h : agentsOk s x = true) (hf : (x.mbox m).alloc = false)
    (hl : ∀ k, k < m → (x.mbox k).alloc = true) : s.mbAlloc i x = s.setInst i
      { x.setMbox m { Mbox.free with alloc := true, gen := (x.mbox m).gen, sender := x.mbArg0.toNat, receiver := x.mbArg1.toNat } with
        mbCode := 0, mbHandle := mkHandle x.id (x.mbox m).gen m } := by
  have hsome : ((List.range 32).find? fun m => !(x.mbox m).alloc) = some m := by
    rw [List.find?_range_eq_some]
    exact ⟨by simp [hf], List.mem_range.2 hm, fun k hk => by simp [hl k hk]⟩
  have hgen (b : Mbox) : ((x.setMbox m b).mbox m) = b := by simp
  rw [mbAlloc_eq, if_pos h, hsome]
  simp only [Inst.mbHandleOf, hgen]
  rfl

/-- Settles O35: check after check of `State.mbAlloc` and `State.mbRun`. -/
theorem mailboxCommands : Obligations.MailboxCommands := by
  intro s i x m h b from_ to_ ends agents busy hw hp
  have hrow (t : State) (hfwd : t.fwd = s.fwd) (hr : t.resp = s.resp) :
      (s.mbCmd i x 1 = t → exec (.mbAlloc i) s = .next (served (.mbAlloc i) s t))
      ∧ (s.mbCmd i x 2 = t → exec (.mbFree i) s = .next (served (.mbFree i) s t))
      ∧ (s.mbCmd i x 3 = t → exec (.mbSend i) s = .next (served (.mbSend i) s t))
      ∧ (s.mbCmd i x 4 = t → exec (.mbTake i) s = .next (served (.mbTake i) s t)) :=
    ⟨fun ht => served_of_row (f := fun x => s.mbCmd i x 1) rfl rfl hw hp ht hfwd hr,
      fun ht => served_of_row (f := fun x => s.mbCmd i x 2) rfl rfl hw hp ht hfwd hr,
      fun ht => served_of_row (f := fun x => s.mbCmd i x 3) rfl rfl hw hp ht hfwd hr,
      fun ht => served_of_row (f := fun x => s.mbCmd i x 4) rfl rfl hw hp ht hfwd hr⟩
  have hdie (y : Inst) := hrow (s.setInst i y) rfl rfl
  refine ⟨fun hb => ?_, fun hb h32 => ?_⟩
  · have hself : s.setInst i x = s := State.setInst_self s i x hw.1
    obtain ⟨h1, h2, h3, h4⟩ := hdie x
    rw [hself] at h1 h2 h3 h4
    rw [CtlRun, CtlRun, CtlRun, CtlRun, hself]
    exact ⟨h1 (mbCmd_busy hb), h2 (mbCmd_busy hb), h3 (mbCmd_busy hb), h4 (mbCmd_busy hb)⟩
  have hcmd (op : Nat) (h2 : 2 ≤ op) (h4 : op ≤ 4) : s.mbCmd i x op = s.mbRun i op h := mbCmd_op hb h2 h4
  have halloc : s.mbCmd i x 1 = s.mbAlloc i x := mbCmd_alloc hb
  refine ⟨fun ha => ?_, fun ha hfull => ?_, fun ha hfree hlow => ?_, fun hi hm hs => ?_, fun y hne hy hl => ⟨fun hsl => ?_, fun k rest z hs hz => ?_⟩,
    fun hi hm hal hg => ?_⟩
  · exact (hdie _).1 (halloc.trans ((mbAlloc_refused ha).trans (mbEnd_some hw.1 _)))
  · exact (hdie _).1 (halloc.trans ((mbAlloc_full ha hfull).trans (mbEnd_some hw.1 _)))
  · exact (hdie _).1 (halloc.trans (mbAlloc_takes h32 ha hfree hlow))
  · have hstale (op : Nat) (h2 : 2 ≤ op) (h4 : op ≤ 4) : s.mbCmd i x op = s.setInst i { x with mbCode := 0x007A, mbWait := none } := by
      rw [hcmd op h2 h4, mbRun_stale hw hi (mbFind_stale hm hs), mbEnd_some hw.1]
    obtain ⟨-, h2, h3, h4⟩ := hdie { x with mbCode := 0x007A, mbWait := none }
    exact ⟨h2 (hstale 2 (by decide) (by decide)), h3 (hstale 3 (by decide) (by decide)), h4 (hstale 4 (by decide) (by decide))⟩
  · refine List.mem_filter.2 ⟨mem_path (List.getElem?_eq_some_iff.1 hw.1).1 (List.getElem?_eq_some_iff.1 hy).1 (Ne.symm hne), ?_⟩
    rw [hy]
    exact hsl
  · have hwaits := mbRun_waits (op := 4) hw hy hl hs hz
    exact (hrow ((s.setInst k (z.wakeBy 4)).setInst i { x with mbWait := some (4, h) }) rfl rfl).2.2.2
      ((hcmd 4 (by decide) (by decide)).trans hwaits)
  · intro left free
    have hown (op : Nat) (h2 : 2 ≤ op) (h4 : op ≤ 4) := (hcmd op h2 h4).trans (mbRun_own hw hi (mbFind_some hm h32 hal hg))
    have hfree : x.mbOp 2 m = (0, free) := rfl
    have hcode (op : Nat) (h2 : 2 < op) (h4 : op ≤ 4) (y : Inst) (code : Nat) (ho : x.mbOp op m = (code, y)) :
        s.mbCmd i x op = s.setInst i { y with mbCode := code, mbWait := none } := by
      rw [hown op (by omega) h4, if_neg (by omega), if_neg (by omega), ho, mbEnd_setInst hw.1]
    have hsend (y : Inst) (code : Nat) (ho : x.mbOp 3 m = (code, y)) : ends (.mbSend i) y code :=
      (hdie _).2.2.1 (hcode 3 (by decide) (by decide) y code ho)
    have htake (y : Inst) (code : Nat) (ho : x.mbOp 4 m = (code, y)) : ends (.mbTake i) y code :=
      (hdie _).2.2.2 (hcode 4 (by decide) (by decide) y code ho)
    refine ⟨fun hmp => (hdie _).2.1 ((hown 2 (by decide) (by decide)).trans ?_), fun hl => (hrow _ ?_ ?_).2.1 ((hown 2 (by decide) (by decide)).trans ?_),
      fun h0 h6 => (hdie _).2.1 ((hown 2 (by decide) (by decide)).trans (if_pos ⟨rfl, h0, h6⟩)),
      fun hs => hsend _ _ ?_, fun hs hpd => hsend _ _ ?_, fun hs hpd => hsend _ _ ?_,
      fun hr => htake _ _ ?_, fun hr hpd => htake _ _ ?_, fun hr hpd => htake _ _ ?_⟩
    · have hmp' : agentCell (x.mbox m).receiver = none := hmp
      rw [if_neg (by simp [State.wordsLeft, hmp']), if_pos rfl, State.recall, hmp', hfree]
      exact mbEnd_setInst hw.1 free 0
    · rw [(mbEnd_frame ..).1, (recall_frame ..).1]
      rfl
    · rw [(mbEnd_frame ..).2, (recall_frame ..).2]
      rfl
    · have hl' : s.wordsLeft (x.mbox m).receiver h = 0 ∨ 6 ≤ s.wordsLeft (x.mbox m).receiver h := hl
      rw [if_neg (by omega), if_pos rfl, hfree]
    · exact if_pos hs
    · exact (if_neg (not_not.2 hs)).trans (if_pos hpd)
    · exact (if_neg (not_not.2 hs)).trans (if_neg (by rw [show (x.mbox m).pending = false from hpd]; nofun))
    · exact if_pos hr
    · exact (if_neg (not_not.2 hr)).trans (if_pos (by rw [show (x.mbox m).pending = false from hpd]; rfl))
    · exact (if_neg (not_not.2 hr)).trans (if_neg (by rw [show (x.mbox m).pending = true from hpd]; nofun))
end Sys2Proof

namespace Sys2Proof

/-! SUPPORT. A mismatch in a cell, its pause, self-test and retirement (R381 to R383). -/

open Sys2Proof.Machine

/-! ### The re-runs of a pause -/

/-- Of a cell, the re-runs change slots, requests, cask tile slots and operand vectors. -/
def Reruns (c d : Cell) : Prop :=
  d = { c with slots := d.slots, spReads := d.spReads, spWrites := d.spWrites, caskSlots := d.caskSlots, feedQ := d.feedQ }
    ∧ d.slots.length = c.slots.length

theorem Reruns.refl (c : Cell) : Reruns c c := ⟨rfl, rfl⟩

theorem Reruns.trans {c d e : Cell} (h1 : Reruns c d) (h2 : Reruns d e) : Reruns c e := by
  obtain ⟨h2, hl⟩ := h2
  refine ⟨?_, hl.trans h1.2⟩
  rw [h2, h1.1]

theorem drainAgain_frame (c : Cell) (k : Nat) : c.drainAgain k = { c with caskSlots := (c.drainAgain k).caskSlots } := by
  rw [Cell.drainAgain]
  split
  · split <;> rfl
  · rfl

/-- The slot of a tile that is abandoned and starts again. -/
def again (s : Slot) (c : Cell) (k : Nat) : Slot :=
  { s with
    idx := s.tile.start, loop := s.tile.loop0, mash := s.tile.mash0, readBuf := [], fills := [], wait := .ready
    feedOld := s.tile.feed0, feedNew := []
    tile := { TileBuf.at s.tile.start s.tile.loop0 s.tile.mash0 s.tile.feed0 with
      kept := (s.tile.kept ++ s.tile.bound ++ s.fills.map Fill.id).eraseDups, fed := s.tile.fed
      fedOld := s.tile.fed + (match c.feedQ with
        | f :: _ => if f.slot = k then 1 else 0
        | [] => 0)
      given := s.tile.given } }

theorem rerun_spec (r : Run) (n k : Nat) : r.rerun n k = { r with x := (r.rerun n k).x }
    ∧ (r.rerun n k).x = { r.x with cells := (r.rerun n k).x.cells, xreqs := (r.rerun n k).x.xreqs }
    ∧ (∀ m, m ≠ n → (r.rerun n k).cell m = r.cell m) ∧ Reruns (r.cell n) ((r.rerun n k).cell n)
    ∧ ((r.rerun n k).cell n).slots = (r.cell n).slots.set k (again ((r.cell n).slot k) (r.cell n) k) := by
  have hcell (m : Nat) : (r.rerun n k).cell m
      = (r.x.setCell n (((((r.cell n).orphan (.slot k)).drainAgain k).dropFeeds k k).setSlot k
        (again ((((r.cell n).orphan (.slot k)).drainAgain k).slot k) (((r.cell n).orphan (.slot k)).drainAgain k) k))).cell m := rfl
  have hsl : (((r.cell n).orphan (.slot k)).drainAgain k).slots = (r.cell n).slots := by
    rw [drainAgain_frame]
    rfl
  have hfq : (((r.cell n).orphan (.slot k)).drainAgain k).feedQ = (r.cell n).feedQ := by
    rw [drainAgain_frame]
    rfl
  have hslot : (((r.cell n).orphan (.slot k)).drainAgain k).slot k = (r.cell n).slot k := by rw [Cell.slot, Cell.slot, hsl]
  have hagain : again ((((r.cell n).orphan (.slot k)).drainAgain k).slot k) (((r.cell n).orphan (.slot k)).drainAgain k) k
      = again ((r.cell n).slot k) (r.cell n) k := by rw [hslot, again, again, hfq]
  have hslots : ((r.rerun n k).cell n).slots = (r.cell n).slots.set k (again ((r.cell n).slot k) (r.cell n) k) := by
    rw [hcell, Inst.cell_setCell, ← hagain, ← hsl]
    rfl
  refine ⟨rfl, rfl, fun m hm => (hcell m).trans (Inst.cell_setCell_other _ _ _ _ hm), ⟨?_, by rw [hslots, List.length_set]⟩, hslots⟩
  rw [hcell, Inst.cell_setCell]
  generalize again _ _ _ = s
  rw [Cell.dropFeeds_frame, drainAgain_frame]
  rfl

/-- The reruns of the slots of a list, for those that do not wait for a re-run or an end already. -/
theorem reruns_spec {n : Nat} {f : Run → Nat → Run} (hf : ∀ r k, f r k = r ∨ f r k = r.rerun n k)
    (hready : ∀ r k, (r.slot n k).wait = .ready → f r k = r.rerun n k) {l : List Nat} (hl : l.Nodup) (r : Run) :
    (l.foldl f r).effs = r.effs ∧ (l.foldl f r).x = { r.x with cells := (l.foldl f r).x.cells, xreqs := (l.foldl f r).x.xreqs }
    ∧ (∀ m, m ≠ n → (l.foldl f r).cell m = r.cell m) ∧ Reruns (r.cell n) ((l.foldl f r).cell n)
    ∧ (∀ k, k ∉ l → (l.foldl f r).slot n k = r.slot n k)
    ∧ ∀ k, k ∈ l → k < (r.cell n).slots.length → (r.slot n k).wait = .ready →
      ∃ c, (l.foldl f r).slot n k = again (r.slot n k) c k := by
  induction l generalizing r with
  | nil => exact ⟨rfl, rfl, fun _ _ => rfl, Reruns.refl _, fun _ _ => rfl, fun _ h => absurd h List.not_mem_nil⟩
  | cons j l ih =>
    obtain ⟨hj, hl⟩ := List.nodup_cons.1 hl
    have hstep : (f r j).effs = r.effs ∧ (f r j).x = { r.x with cells := (f r j).x.cells, xreqs := (f r j).x.xreqs }
        ∧ (∀ m, m ≠ n → (f r j).cell m = r.cell m) ∧ Reruns (r.cell n) ((f r j).cell n)
        ∧ (∀ k, k ≠ j → (f r j).slot n k = r.slot n k) := by
      obtain he | he := hf r j <;> rw [he]
      · exact ⟨rfl, rfl, fun _ _ => rfl, Reruns.refl _, fun _ _ => rfl⟩
      · obtain ⟨-, h2, h3, h4, h5⟩ := rerun_spec r n j
        refine ⟨rfl, h2, h3, h4, fun k hk => ?_⟩
        show ((r.rerun n j).cell n).slot k = (r.cell n).slot k
        rw [Cell.slot, Cell.slot, h5, List.getD_eq_getElem?_getD, List.getD_eq_getElem?_getD, List.getElem?_set_ne (Ne.symm hk)]
    obtain ⟨h1, h2, h3, h4, h5⟩ := hstep
    obtain ⟨i1, i2, i3, i4, i5, i6⟩ := ih hl (f r j)
    rw [List.foldl_cons]
    refine ⟨i1.trans h1, ?_, fun m hm => (i3 m hm).trans (h3 m hm), h4.trans i4, fun k hk => ?_, fun k hk hlt hw => ?_⟩
    · rw [i2, h2]
    · rw [List.mem_cons, not_or] at hk
      rw [i5 k hk.2, h5 k hk.1]
    · by_cases hkj : k = j
      · subst hkj
        refine ⟨r.cell n, (i5 k hj).trans ?_⟩
        rw [hready r k hw]
        show ((r.rerun n k).cell n).slot k = _
        rw [Cell.slot, (rerun_spec r n k).2.2.2.2, List.getD_eq_getElem?_getD, List.getElem?_set_self hlt]
        rfl
      · obtain ⟨c, hc⟩ := i6 k ((List.mem_cons.1 hk).resolve_left hkj) (by rw [h4.2]; exact hlt) (by rw [h5 k hkj]; exact hw)
        exact ⟨c, hc.trans (by rw [h5 k hkj])⟩

theorem resetAdds_frame (c : Cell) :
    c.resetAdds = { c with spReads := c.resetAdds.spReads, spWrites := c.resetAdds.spWrites, casks := c.resetAdds.casks } := by
  have hfold (f : Cell → Nat → Cell) (hf : ∀ c e, f c e = { c with
      spReads := (f c e).spReads, spWrites := (f c e).spWrites, casks := (f c e).casks }) (l : List Nat) (c : Cell) :
      l.foldl f c = { c with spReads := (l.foldl f c).spReads, spWrites := (l.foldl f c).spWrites, casks := (l.foldl f c).casks } := by
    induction l generalizing c with
    | nil => rfl
    | cons e l ih => rw [List.foldl_cons, ih, hf]
  refine hfold _ (fun c e => ?_) _ c
  split <;> rfl

/-- A pause starts the tiles of its slots again, but those that do or end already. -/
theorem pause_eq (n : Nat) : ∃ g : Run → Nat → Run, (∀ (r : Run) (f : CellFault), r.pause n f =
    let r1 := (r.cell n).openSlots.foldl g (r.setCell n (r.cell n).resetAdds)
    r1.setCell n { r1.cell n with paused := true, fault := some f, recov := (r.cell n).openSlots })
    ∧ (∀ (r : Run) (k : Nat), g r k = r ∨ g r k = r.rerun n k)
    ∧ ∀ (r : Run) (k : Nat), (r.slot n k).wait = .ready → g r k = r.rerun n k := by
  refine ⟨_, fun r f => rfl, fun r k => ?_, fun r k hw => ?_⟩
  · split
    · exact .inl rfl
    · exact .inl rfl
    · exact .inr rfl
  · rw [hw]

theorem lt_of_running {c : Cell} {k : Nat} (h : (c.slot k).phase = .running) : k < c.slots.length := by
  by_contra hk
  rw [Cell.slot, List.getD_eq_getElem?_getD, List.getElem?_eq_none (by omega)] at h
  exact absurd h nofun

/-- A cell that a mismatch pauses (R381). -/
theorem pause_spec (x : Inst) (n : Nat) (f : CellFault) : ∃ y, (pureRun x).pause n f = { x := y, effs := [] }
    ∧ (y.cell n).paused = true ∧ (y.cell n).recov = (x.cell n).openSlots ∧ (y.cell n).fault = some f
    ∧ (∀ m, m ≠ n → y.cell m = x.cell m) ∧ (y.cell n).vits = (x.cell n).vits ∧ (y.cell n).masks = (x.cell n).masks
    ∧ ∀ k, k ∈ (x.cell n).openSlots → ((x.cell n).slot k).wait = .ready → ∃ c, y.slot n k = again ((x.cell n).slot k) c k := by
  have hc (m : Nat) (hm : m ≠ n) : (x.setCell n (x.cell n).resetAdds).cell m = x.cell m := Inst.cell_setCell_other _ _ _ _ hm
  have hn : (x.setCell n (x.cell n).resetAdds).cell n = (x.cell n).resetAdds := Inst.cell_setCell ..
  have hslots : (x.cell n).resetAdds.slots = (x.cell n).slots := by rw [resetAdds_frame]
  have hslot (k : Nat) : (x.cell n).resetAdds.slot k = (x.cell n).slot k := by rw [Cell.slot, Cell.slot, hslots]
  obtain ⟨g, hpause, hg, hready⟩ := pause_eq n
  have hnodup : (x.cell n).openSlots.Nodup := List.nodup_range.filter _
  obtain ⟨h1, h2, h3, h4, h5, h6⟩ := reruns_spec hg hready hnodup (pureRun (x.setCell n (x.cell n).resetAdds))
  have hcell : ((pureRun (x.setCell n (x.cell n).resetAdds)).cell n) = (x.cell n).resetAdds := hn
  have hvit : ((x.cell n).resetAdds).vits = (x.cell n).vits ∧ ((x.cell n).resetAdds).masks = (x.cell n).masks := by
    rw [resetAdds_frame]
    exact ⟨rfl, rfl⟩
  rw [hcell] at h4 h6
  obtain ⟨r1, hr1⟩ : ∃ r1, r1 = (x.cell n).openSlots.foldl g (pureRun (x.setCell n (x.cell n).resetAdds)) := ⟨_, rfl⟩
  have hp : (pureRun x).pause n f = r1.setCell n { r1.cell n with paused := true, fault := some f, recov := (x.cell n).openSlots } := by
    rw [hr1]
    exact hpause _ f
  rw [← hr1] at h1 h3 h4 h6
  rw [hp]
  have hy := Inst.cell_setCell r1.x n { r1.cell n with paused := true, fault := some f, recov := (x.cell n).openSlots }
  refine ⟨r1.x.setCell n { r1.cell n with paused := true, fault := some f, recov := (x.cell n).openSlots }, ?_, by rw [hy], by rw [hy], by rw [hy],
    fun m hm => ?_, ?_, ?_, fun k hk hw => ?_⟩
  · rw [Run.setCell, h1]
    rfl
  · rw [Inst.cell_setCell_other _ _ _ _ hm]
    exact (h3 m hm).trans (hc m hm)
  · rw [hy, ← hvit.1, h4.1]
  · rw [hy, ← hvit.2, h4.1]
  · have hrun : ((x.cell n).slot k).phase = .running := by
      have hk := (List.mem_filter.1 hk).2
      simp only [Bool.and_eq_true, decide_eq_true_eq] at hk
      exact hk.1.1
    have hsl : (pureRun (x.setCell n (x.cell n).resetAdds)).slot n k = (x.cell n).slot k :=
      (congrArg (fun c : Cell => c.slot k) hcell).trans (hslot k)
    obtain ⟨c, hc⟩ := h6 k hk (by rw [hslots]; exact lt_of_running hrun) (by rw [hsl]; exact hw)
    refine ⟨c, ?_⟩
    rw [hsl] at hc
    rw [← hc, Inst.slot, hy]
    rfl

theorem inWindow_of_fault {x : Inst} {n : Nat} {f : CellFault} (h : (x.cell n).fault = some f) : x.inWindow = true := by
  have hmem : n ∈ x.liveCells := by
    by_contra hn
    rw [cell_not_live hn] at h
    exact absurd h nofun
  have hany : (x.liveCells.any fun n => (x.cell n).fault.isSome || (x.cell n).recov.any (x.cell n).rerunDue) = true :=
    List.any_eq_true.2 ⟨n, hmem, by rw [h]; rfl⟩
  rw [Inst.inWindow]
  simp only [hany, Bool.or_true]

/-! ### Retirement -/

theorem retiredFault_eq (x : Inst) (n : Nat) (f : CellFault) (hcode : f.code = 0) (ht : f.time = x.ticks) :
    (pureRun x).retiredFault n f = { x := logged x 0x0039 (faultRecord x 0x0039 f.handle x.ticks (f.info n 3 true 0))
                                     effs := [.fault (faultRecord x 0x0039 f.handle x.ticks (f.info n 3 true 0)) (!x.flt.logValid)] } := by
  rw [Run.retiredFault, hcode, ht]
  rfl

/-- A queued program of a cell is refused only while one is queued. -/
theorem refuseQueued_nil {c : Cell} (h : c.launchQ = []) (code : Nat) : c.refuseQueued code = c := by
  rw [Cell.refuseQueued, h]
  rfl

theorem selfTest_passes {x : Inst} {n : Nat} {f : CellFault} {e : Env} (hf : (x.cell n).fault = some f) (hr : (x.cell n).retire = none)
    (hal : x.alive = true) (hp : f.prog = none) :
    selfTestDone n true e x = (pureRun { x.setCell n ({ x.cell n with paused := false, fault := none } : Cell).runAdds with
        flt := { x.flt with reruns := satAdd 16 x.flt.reruns 1 } }).faultAt f.code f.handle f.time (f.info n 2 false 0) := by
  unfold selfTestDone
  dsimp only
  rw [hf]
  dsimp only
  rw [if_neg (by rw [hr, hal]; nofun), if_neg nofun, hp]

theorem selfTest_fails {x : Inst} {n : Nat} {f : CellFault} {e : Env} (hf : (x.cell n).fault = some f) (hr : (x.cell n).retire = none)
    (hal : x.alive = true) : selfTestDone n false e x = (pureRun x).retire n f := by
  unfold selfTestDone
  dsimp only
  rw [hf]
  dsimp only
  rw [if_neg (by rw [hr, hal]; nofun)]
  exact if_pos rfl

/-- A paused cell that no channel uses retires at once (R382, R383). -/
theorem retire_unused {x : Inst} {n : Nat} {f : CellFault} (hp : (x.cell n).paused = true) (how : x.ownersOn n = [])
    (hlq : (x.cell n).launchQ = []) (hf : (x.cell n).fault = some f) (hcode : f.code = 0) (hfs : (x.cell n).faults = []) :
    let x1 : Inst := { x with flt := { x.flt with quiesced := x.flt.quiesced ||| BitVec.ofNat 256 (2 ^ n) } }
    let c : Cell := { (x.cell n).flushUnbound with paused := true, fault := some f, faults := [], recov := [], retire := some ([], 0) }
    (pureRun x).retire n f = (pureRun ((x1.setCell n c).setCell n
      { c.releaseAll with paused := false, fault := none, faults := [], recov := [], retire := none })).faultAt errCellRetired f.handle f.time
        (f.info n 3 true 0) := by
  intro x1 c
  have hflush := discardTiles_parts (((x.cell n).drain.filter fun t => t.bound.isNone).map (·.id)) (x.cell n)
  have hfl : (x.cell n).flushUnbound.fault = some f ∧ (x.cell n).flushUnbound.faults = [] := by
    rw [Cell.flushUnbound, hflush]
    exact ⟨hf, hfs⟩
  have hown : x1.ownersOn n = [] := how
  have hcell : (x1.setCell n c).cell n = c := Inst.cell_setCell ..
  unfold Run.retire
  dsimp only
  rw [if_pos (show ((pureRun x).cell n).paused = true from hp)]
  rw [show ({ (pureRun x).x with flt := { (pureRun x).x.flt with quiesced := (pureRun x).x.flt.quiesced ||| BitVec.ofNat 256 (2 ^ n) } } : Inst)
    = x1 from rfl, hown, List.foldl_nil]
  dsimp only
  have hq : (({ x := x1, effs := (pureRun x).effs } : Run).cell n).refuseQueued errCellRetired = x.cell n := refuseQueued_nil hlq _
  have hfilter : ([f].filter fun g => g != f) = [] := by simp
  rw [hq, hfl.1, hfl.2, Option.toList_some, hfilter, List.nil_append]
  have hfin : ({ x := x1.setCell n c, effs := [] } : Run).finishRetire n = (pureRun ((x1.setCell n c).setCell n
      { c.releaseAll with paused := false, fault := none, faults := [], recov := [], retire := none })).faultAt errCellRetired f.handle f.time
        (f.info n 3 true 0) := by
    unfold Run.finishRetire
    rw [hcell]
    have hothers : (c.faults ++ if f.code = 0 then [] else [f]) = [] := if_pos hcode
    exact congrArg (fun l => Run.faultAt (List.foldl (fun r g => Run.retiredFault r n g) (({ x := x1.setCell n c, effs := [] } : Run).setCell n
      { c.releaseAll with paused := false, fault := none, faults := [], recov := [], retire := none }) l) errCellRetired f.handle f.time
      (f.info n 3 true 0)) hothers
  exact hfin

/-- Settles O56: pauses by `pause_spec`, ends of a self-test by the fields of its fault. -/
theorem cellFaults : Obligations.CellFaults := by
  intro s a x n c hal hlt
  have hrun (i : Instr) (f : Env → Inst → Run) (y : Inst) (es : List Eff) (he : exec i s = onCell s a f)
      (hf : f (s.env a.inst) x = { x := y, effs := es }) : HubRun i s a.inst y es := HubRun.of_cell he hal.1 hlt hf
  have hlock (k : Option Nat) (y : Inst) (es : List Eff) (hm : (pureRun x).cellMismatch n (x.cellFault n 4 0 k) = { x := y, effs := es }) :
      HubRun (.lockstepMismatch a k) s a.inst y es :=
    hrun _ (lockstepMismatch a.cell k) y es rfl (by rw [lockstepMismatch, hal.2]; exact hm)
  have hres (cask : Bool) (k : Option Nat) (index : BitVec 16) (y : Inst) (es : List Eff)
      (hm : (pureRun x).cellMismatch n (x.cellFault n (if cask then 3 else 2) index.toNat k) = { x := y, effs := es }) :
      HubRun (.residueMismatch a cask k index) s a.inst y es :=
    hrun _ (residueMismatch a.cell cask k index.toNat) y es rfl (by rw [residueMismatch, hal.2]; exact hm)
  refine ⟨fun hr k => ?_, fun hr hq k => ?_, fun hr hq hl => ⟨fun hp hrec => ?_, fun f hp hf => ⟨fun hprog => ?_, fun how hlq hcode hfs => ?_⟩⟩⟩
  · exact hlock k _ _ (if_pos hr)
  · refine hlock k _ _ ?_
    rw [Run.cellMismatch, if_neg (by rw [show ((pureRun x).cell n).retire = none from hr]; nofun), if_pos (by simp [pureRun, hq]),
      retiredFault_eq x n _ rfl rfl]
    rfl
  · intro paused
    have hpause (i : Instr) (cls index : Nat) (k : Option Nat)
        (hi : ∀ y es, (pureRun x).cellMismatch n (x.cellFault n cls index k) = { x := y, effs := es } → HubRun i s a.inst y es) :
        paused i cls index k := by
      obtain ⟨y, he, h1, h2, h3, h4, h5, h6, h7⟩ := pause_spec x n (x.cellFault n cls index k)
      have hmis : (pureRun x).cellMismatch n (x.cellFault n cls index k) = (pureRun x).pause n (x.cellFault n cls index k) := by
        rw [Run.cellMismatch, if_neg (by rw [show ((pureRun x).cell n).retire = none from hr]; nofun), if_neg (by simp [pureRun, hq, hl]),
          if_neg (by simp [show ((pureRun x).cell n).paused = false from hp, show ((pureRun x).cell n).recov = [] from hrec])]
      refine ⟨y, hi y [] (hmis.trans he), h1, h2, h3, h4, h5, h6, inWindow_of_fault h3, fun k hk hw => ?_⟩
      obtain ⟨d, hd⟩ := h7 k hk hw
      rw [hd]
      exact ⟨rfl, rfl, rfl⟩
    exact ⟨fun cask k index => hpause _ _ _ _ (hres cask k index), fun k => hpause _ _ _ _ (hlock k)⟩
  · have hself : selfTestDone n true (s.env a.inst) x = (pureRun { x.setCell n ({ c with paused := false, fault := none } : Cell).runAdds with
        flt := { x.flt with reruns := satAdd 16 x.flt.reruns 1 } }).faultAt f.code f.handle f.time (f.info n 2 false 0) := by
      exact selfTest_passes hf hr hal.2 hprog
    refine ⟨_, hrun _ (selfTestDone a.cell true) _ _ rfl (hself.trans rfl), ?_⟩
    have hcell := Inst.cell_setCell x n ({ c with paused := false, fault := none } : Cell).runAdds
    refine ⟨hcell, (congrArg Cell.paused hcell).trans ?_, (congrArg Cell.fault hcell).trans ?_, (congrArg Cell.recov hcell).trans ?_,
      (congrArg Cell.slots hcell).trans ?_, ?_, rfl, rfl⟩
    · rw [Cell.runAdds_frame]
    · rw [Cell.runAdds_frame]
    · rw [Cell.runAdds_frame]
    · rw [Cell.runAdds_frame]
    · show (if x.flt.logValid then _ else _ : Flt).reruns = _
      split <;> rfl
  · refine ⟨_, hrun _ (selfTestDone a.cell false) _ _ rfl ((selfTest_fails hf hr hal.2).trans ((retire_unused hp how hlq hf hcode hfs).trans rfl)), ?_⟩
    refine ⟨?_, ?_⟩
    · show (if x.flt.logValid then _ else _ : Flt).quiesced = _
      split <;> rfl
    · have hcasks : (x.cell n).casks = [] := by
        have hown : ∀ l : List Nat, l.eraseDups = [] → l = [] := fun l h => by
          cases l with
          | nil => rfl
          | cons v l => exact absurd (List.eraseDups_cons.symm.trans h) nofun
        exact List.map_eq_nil_iff.1 (List.append_eq_nil_iff.1 (hown _ how)).2
      have hfl : (x.cell n).flushUnbound.casks = [] := by
        rw [Cell.flushUnbound, discardTiles_parts]
        exact hcasks
      generalize hd : ({ (x.cell n).flushUnbound with paused := true, fault := some f, faults := [], recov := [], retire := some ([], 0) } : Cell) = d
      have hdc : d.casks = [] := by rw [← hd]; exact hfl
      have hall : d.releaseAll = d := by rw [Cell.releaseAll, hdc]; rfl
      have hcell := Inst.cell_setCell ({ x with flt := { x.flt with quiesced := x.flt.quiesced ||| BitVec.ofNat 256 (2 ^ n) } }.setCell n d : Inst) n
        ({ d.releaseAll with paused := false, fault := none, faults := [], recov := [], retire := none } : Cell)
      exact ⟨(congrArg Cell.casks hcell).trans (by rw [hall]; exact hdc), congrArg Cell.paused hcell, congrArg Cell.fault hcell,
        congrArg Cell.retire hcell⟩
end Sys2Proof

namespace Sys2Proof

/-! SUPPORT. The faults of the hub (R372, R375, R380, R385, R390, R394). -/

open Sys2Proof.Machine

/-! ### A fail-stopped instance stays so while its work ends (R389) -/

theorem foldl_keeps {α β : Type} {P : β → Prop} {f : β → α → β} (hf : ∀ b a, P b → P (f b a)) (l : List α) {b : β} (h : P b) :
    P (l.foldl f b) := by
  induction l generalizing b with
  | nil => exact h
  | cons a l ih => exact ih (hf b a h)

theorem faultAt_failstop (r : Run) (code : Nat) (h : Word) (t : Nat) (f : FaultInfo) :
    (r.faultAt code h t f).x.flt.failstop = r.x.flt.failstop := by
  rw [Run.faultAt]
  split
  · rfl
  · show (if r.x.flt.logValid then _ else _ : Flt).failstop = _
    split <;> rfl

theorem endProgram_flt (r : Run) (n k code : Nat) (pre : Bool) (index : Nat) (cs : List Nat) :
    (r.endProgram n k code pre index cs).x.flt = r.x.flt := by
  rw [Run.endProgram]
  split <;> rfl

theorem endPrograms_flt (r : Run) (n code : Nat) (later : Bool) : (r.endPrograms n code later).x.flt = r.x.flt := by
  refine foldl_keeps (P := fun q : Run => q.x.flt = r.x.flt) (fun q k hq => ?_) _ rfl
  dsimp only
  split
  · exact hq
  · exact hq
  · split
    · exact hq
    · rw [endProgram_flt, hq]
  · exact hq

theorem xferFail_flt (r : Run) (t : Xfer) (code bytes : Nat) : (r.xferFail t code bytes).x.flt = r.x.flt := by
  rw [Run.xferFail]
  split <;> rfl

theorem foldl_emit_x {α : Type} (f : α → Eff) (l : List α) (r : Run) : (l.foldl (fun (r : Run) a => r.emit (f a)) r).x = r.x := by
  refine foldl_keeps (P := fun q : Run => q.x = r.x) (fun q a hq => ?_) l rfl
  exact hq

theorem setCell_flt (r : Run) (n : Nat) (c : Cell) : (r.setCell n c).x.flt = r.x.flt := rfl

theorem endWork_flt (r : Run) (code : Nat) (later : Bool) : (r.endWork code later).x.flt = r.x.flt := by
  unfold Run.endWork
  extract_lets r1 r2 r3
  have e1 : r1.x.flt = r.x.flt := by
    have h0 : r.x.flt = r.x.flt := rfl
    refine foldl_keeps (P := fun q : Run => q.x.flt = r.x.flt) (fun q n hq => ?_) r.x.liveCells h0
    dsimp only
    rw [setCell_flt, endPrograms_flt, hq]
  have e2 : r2.x.flt = r.x.flt := by
    refine foldl_keeps (P := fun q : Run => q.x.flt = r.x.flt) (fun q t hq => ?_) _ e1
    split
    · exact hq
    · rw [xferFail_flt, hq]
  have e3 : r3.x.flt = r.x.flt := by
    refine foldl_keeps (P := fun q : Run => q.x.flt = r.x.flt) (fun q p hq => ?_) _ e2
    dsimp only
    rw [foldl_emit_x]
    exact hq
  split
  · exact e3
  · exact e3

/-- A fail-stop leaves the instance stopped (R389). -/
theorem failStop_stops (r : Run) (cls : Nat) (h : Word) (second : Bool) (index : Nat) (addr : Word) :
    (r.failStop cls h second index addr).x.flt.failstop = true := by
  rw [Run.failStop]
  split
  · assumption
  · dsimp only
    rw [Run.fault, faultAt_failstop]
    refine foldl_keeps (P := fun q : Run => q.x.flt.failstop = true) (fun q m hq => ?_) _ ?_
    · rw [Run.mendRecord, faultAt_failstop]
      exact hq
    · show (Run.endWork _ _ _).x.flt.failstop = true
      rw [endWork_flt]
theorem stops_of {c : Instr} {s : State} {i : Nat} {x : Inst} {f : Env → Inst → Run} (he : exec c s = onInst s i f)
    (hx : s.insts[i]? = some x) (hf : (f (s.env i) x).x.flt.failstop = true) : ∃ y es, HubRun c s i y es ∧ y.flt.failstop = true :=
  ⟨_, _, HubRun.of_inst he hx rfl, hf⟩

/-! ### What the ports' rounds leave (R272) -/

theorem issueReqs_frame (id : Nat) (l : List SeReq) (x : Inst) :
    (Inst.issueReqs id l x).1 = { x with seReqs := (Inst.issueReqs id l x).1.seReqs, seWrites := (Inst.issueReqs id l x).1.seWrites } := by
  induction l generalizing x with
  | nil => rfl
  | cons q l ih =>
    rw [Inst.issueReqs]
    split
    · rfl
    · rw [ih]

/-- Of an instance, the rounds of its ports change transfers, requests and the round. -/
def PortsOnly (x y : Inst) : Prop :=
  y = { x with xfers := y.xfers, seReqs := y.seReqs, seWrites := y.seWrites, seRound := y.seRound }

theorem PortsOnly.trans {x y z : Inst} (h1 : PortsOnly x y) (h2 : PortsOnly y z) : PortsOnly x z := by
  rw [PortsOnly] at *
  rw [h2, h1]

theorem portsOnly_round (x : Inst) (l : List (Nat × Nat)) : PortsOnly x { x with seRound := l } := rfl

theorem issueTile_portsOnly (x : Inst) (v : Nat) : PortsOnly x (x.issueTile v).1 := by
  rw [Inst.issueTile]
  split
  · rfl
  · split
    · rfl
    · dsimp only [PortsOnly, Inst.setXfer]
      rw [issueReqs_frame]

theorem rounds_portsOnly (n : Nat) (x : Inst) : PortsOnly x (Inst.rounds n x) := by
  induction n generalizing x with
  | zero => rfl
  | succ n ih =>
    rw [Inst.rounds]
    split
    · split
      · rfl
      · exact (portsOnly_round x _).trans (ih _)
    · split
      · exact (portsOnly_round x _).trans (ih _)
      · dsimp only
        split
        · exact (issueTile_portsOnly x _).trans ((portsOnly_round _ _).trans (ih _))
        · exact issueTile_portsOnly x _

theorem serve_portsOnly (x : Inst) : PortsOnly x x.serve := by
  rw [Inst.serve]
  split
  · rfl
  · exact rounds_portsOnly _ x

theorem serve_flt (x : Inst) : x.serve.flt = x.flt := by rw [serve_portsOnly x]

theorem serve_none {x : Inst} (h : ∀ t ∈ x.xfers, t.tiles = []) : x.serve = x := by
  refine if_pos ?_
  rw [List.sum_eq_zero_iff]
  intro n hn
  obtain ⟨t, ht, rfl⟩ := List.mem_map.1 hn
  rw [h t ht]
  rfl

/-! ### Masked faults (R380, R394) -/

/-- A masked fault is recorded only while report_corrected is 1. -/
theorem fault_masked {r : Run} {code : Nat} {h : Word} {f : FaultInfo} (ha : f.action = 0) (hc : r.x.flt.ctrl % 2 = 0) :
    r.fault code h f = r := if_pos ⟨ha, hc⟩

/-- Any other fault is. -/
theorem fault_logged {x : Inst} {code : Nat} {h : Word} {f : FaultInfo} (ha : f.action ≠ 0) : (pureRun x).fault code h f =
    { x := logged x code (faultRecord x code h x.ticks f), effs := [.fault (faultRecord x code h x.ticks f) (!x.flt.logValid)] } :=
  if_neg fun hc => ha hc.1

theorem inject_eq (x : Inst) (w : Word) : x.inject w =
    if w.getLsbD 31 ∧ w.toNat / 2 ^ 24 % 2 ^ 4 ≠ 5 ∧ w.toNat / 2 ^ 24 % 2 ^ 4 < 9 then
      { x with flt := { x.flt with injected := some w } } else x := by
  rw [Inst.inject]
  simp only [fld, Nat.shiftRight_eq_div_pow, Bool.and_eq_true, decide_eq_true_eq, and_assoc]

/-- A vote that disagrees, while the hub is whole (R372). -/
theorem voteMismatch_whole {x : Inst} {copy index : Nat} {e : Env} (hal : x.alive = true) (hd : x.flt.degraded = false)
    (hc : x.flt.ctrl % 2 = 0) : voteMismatch copy index e x = pureRun { x with
      flt := if x.flt.suspects.contains copy then { x.countCorr.flt with degraded := true }
        else { x.countCorr.flt with suspects := x.countCorr.flt.suspects ++ [copy] } } := by
  rw [voteMismatch, hal, hd]
  refine fault_masked rfl ?_
  show (if x.flt.suspects.contains copy then { x.countCorr.flt with degraded := true }
    else { x.countCorr.flt with suspects := x.countCorr.flt.suspects ++ [copy] } : Flt).ctrl % 2 = 0
  split <;> exact hc

/-- A lost word of the staging buffer, before the commit point (R390). -/
theorem stagingLost {x : Inst} {t : Xfer} {index : Nat} {address : Word} {e : Env} (hal : x.alive = true) (hc : x.flt.ctrl % 2 = 0)
    (ht : x.xfer t.id = some t) (hph : t.phase = .reading) :
    uncorrectable false 2 (.staging t.id) index address e x = (pureRun x).readAgain t := by
  rw [uncorrectable, hal]
  show (pureRun x).wordLost 0 (.staging t.id) index address = _
  unfold Run.wordLost
  dsimp only
  rw [show (pureRun x).x.xfer t.id = some t from ht]
  dsimp only
  rw [if_neg (by rw [hph]; nofun)]
  refine fault_masked rfl ?_
  rw [Run.readAgain]
  dsimp only
  rw [if_pos hph]
  show (Inst.serve _).flt.ctrl % 2 = 0
  rw [serve_flt]
  exact hc

/-- The docent at a word whose unit no injection waits for (R378). -/
theorem docentAccess_plain {x : Inst} {errs index : Nat} {u : UncAt} {address : Word} {last : Bool} {e : Env} (hw : x.awake = true)
    (hinj : x.flt.injected = none) (hctrl : x.flt.ctrl = 2) (hu : uncOk x u = true) :
    docentAccess errs u index address last e x = (pureRun (x.sweep last)).badWord 8 errs u index address := by
  have hnone : (uncAtCell u).bind ((x.sweep last).injection 8) = none := by
    cases uncAtCell u with
    | none => rfl
    | some n => simp [Inst.injection, Inst.sweep, hinj]
  rw [docentAccess, hw, hu, hctrl]
  dsimp only
  rw [hnone]
  rfl

/-- A repeat that has ended, the only one, is recorded (R393). -/
theorem mended_single {y : Inst} {m : PortFault} (hm : y.flt.mends = [m]) (hr : y.repeating m = false) :
    let z : Inst := { y with flt := { y.flt with mends := [] } }
    let ws := faultRecord z 0 m.handle m.time { cell := none, port := m.port, cls := m.cls, action := if m.perm then 3 else 1
                                                second := m.second, perm := m.perm, index := m.index, address := 0, moved := 0 }
    ({ x := y, effs := [] } : Run).mended = { x := logged z 0 ws, effs := [.fault ws (!y.flt.logValid)] } := by
  intro z ws
  have hkeep : y.flt.mends.filter y.repeating = [] := by rw [hm, List.filter_cons_of_neg (by rw [hr]; nofun), List.filter_nil]
  have hdone : (y.flt.mends.filter fun m => !y.repeating m) = [m] := by rw [hm, List.filter_cons_of_pos (by rw [hr]; rfl), List.filter_nil]
  have hmended : ({ x := y, effs := [] } : Run).mended = Run.mendRecord { x := z, effs := [] } m := by
    rw [Run.mended]
    dsimp only
    rw [hdone, hkeep]
    rfl
  rw [hmended, Run.mendRecord, Run.faultAt]
  refine if_neg fun h => ?_
  have ha := h.1
  cases hp : m.perm <;> simp [hp] at ha

/-- A mismatch at a port that strikes no save of a migration (R385, R388). -/
theorem portMismatch_eq {x : Inst} {port index : Nat} {enc perm : Bool} {t : Option Nat} {e : Env} (hal : x.alive = true)
    (h : t.isNone = true → x.savesMigration = false) : portMismatch port enc t index perm e x =
      x.portFault port (if enc then 6 else 7) index (x.xferHandle t) perm (x.struckReqs port t perm)
        (if t.isNone then (x.vcs.map Prod.fst).filter x.atArea else []) := by
  rw [portMismatch, hal]
  refine if_neg fun hc : t.isNone = true ∧ x.savesMigration = true => ?_
  exact absurd hc.2 (by rw [h hc.1]; nofun)

/-- A mismatch that names no transfer strikes no request of a port whose requests nobody waits for. -/
theorem struckReqs_none {x : Inst} {port : Nat} {perm : Bool} (h : ∀ q ∈ x.seReqs, q.port = port → q.xfer = none) :
    x.struckReqs port none perm = [] := by
  have hmine : (x.seReqs.filter fun q => q.port == port && q.xfer.isSome) = [] := by
    refine List.filter_eq_nil_iff.2 fun q hq => ?_
    by_cases hp : q.port = port
    · simp [h q hq hp]
    · simp [hp]
  rw [Inst.struckReqs, hmine]
  cases perm <;> rfl

/-- A mismatch that names a transfer strikes its oldest request at the port. -/
theorem struckReqs_head {x : Inst} {port id : Nat} {q : SeReq}
    (h : (x.seReqs.filter fun r => r.port == port && decide (r.xfer = some id)).head? = some q) :
    x.struckReqs port (some id) false = [q] := by
  have hfilter : ((x.seReqs.filter fun q => q.port == port && q.xfer.isSome).filter fun q => decide (q.xfer = some id))
      = x.seReqs.filter fun r => r.port == port && decide (r.xfer = some id) := by
    rw [List.filter_filter]
    refine List.filter_congr fun r _ => ?_
    by_cases hr : r.xfer = some id <;> simp [hr]
  rw [Inst.struckReqs, if_neg nofun, hfilter]
  cases hl : x.seReqs.filter fun r => r.port == port && decide (r.xfer = some id) with
  | nil => rw [hl] at h; exact absurd h nofun
  | cons r l =>
    rw [hl] at h
    obtain rfl : r = q := Option.some.inj h
    rfl

/-- Settles O57: fault by fault. -/
theorem hubFaults : Obligations.HubFaults := by
  intro s i x bump stops
  refine ⟨fun hw hp w => ?_, fun hal hinj => ⟨fun copy index hd => ?_, fun copy index hd hc => ?_, fun port enc index perm => ?_,
    fun m y hm hr => ?_, fun t index address hc ht hph => ?_, fun bus u index address hu hc => ?_, fun k index address => ?_,
    fun e index address hc => ?_, fun index address => ?_, ?_⟩, fun hw hinj hctrl u index address hu => ⟨fun last => ?_, ?_⟩⟩
  · exact served_of_row (f := fun x => s.setInst i (x.inject w)) rfl rfl hw hp (congrArg (s.setInst i) (inject_eq x w)) rfl rfl
  · refine stops_of rfl hal.1 ?_
    rw [voteMismatch, hal.2, hd]
    exact failStop_stops ..
  · exact HubRun.of_inst rfl hal.1 ((voteMismatch_whole hal.2 hd hc).trans rfl)
  · intro hit y areas
    refine ⟨fun hsave hq => ?_, fun t q hperm ht hqs => ?_⟩
    · have hrun (es : List Nat) (ha : areas = es) :
          portMismatch port enc none index.toNat perm (s.env i) x
            = x.portFault port (if enc then 6 else 7) index.toNat 0 perm [] es := by
        rw [portMismatch_eq hal.2 fun _ => hsave, struckReqs_none hq]
        exact congrArg (Inst.portFault x port (if enc then 6 else 7) index.toNat 0 perm []) ha
      refine ⟨fun ha => ?_, fun ha htiles hmends => ?_, fun v ha hv => ?_⟩
      · exact MendRun.of_inst rfl hal.1 ((hrun [] ha).trans rfl)
      · have hserve : (y [hit 0 [] []]).serve = y [hit 0 [] []] := serve_none htiles
        have hmend := mended_single (y := y [hit 0 [] []]) (m := hit 0 [] []) (congrArg (· ++ [hit 0 [] []]) hmends) rfl
        have hz : ({ y [hit 0 [] []] with flt := { (y [hit 0 [] []]).flt with mends := [] } } : Inst) = y [] :=
          congrArg (fun l : List PortFault => ({ y [] with flt := { (y []).flt with mends := l } } : Inst)) (by rw [hmends]; rfl)
        refine HubRun.of_inst (f := mending (portMismatch port enc none index.toNat perm)) rfl hal.1 ?_
        refine (congrArg Run.mended ((hrun [] ha).trans (congrArg pureRun hserve))).trans (hmend.trans ?_)
        rw [hz]
      · refine MendRun.of_inst rfl hal.1 ((hrun [v] ha).trans ?_)
        have harea : (y [hit 0 [] [v]]).repeatArea v = (y [hit 0 [] [v]]).hubWrite ((y [hit 0 [] [v]]).saveWrites v) := by
          rw [Inst.repeatArea, show ((y [hit 0 [] [v]]).vc v).st = .suspending from hv]
        exact congrArg (fun z : Inst => ({ x := z.serve, effs := [] } : Run)) harea
    · subst hperm
      have hq : q.xfer = some t.id := by
        have hmem := (List.mem_filter.1 (List.mem_of_mem_head? (Option.mem_def.2 hqs))).2
        rw [Bool.and_eq_true, decide_eq_true_eq] at hmem
        exact hmem.2
      refine MendRun.of_inst rfl hal.1 ((portMismatch_eq (t := some t.id) hal.2 nofun).trans ?_)
      have hh : x.xferHandle (some t.id) = wordAt t.words 0 := by
        rw [Inst.xferHandle, Option.bind_some, ht]
      have hxs : ([q].filterMap SeReq.xfer).eraseDups = [t.id] := by
        rw [List.filterMap_cons_some hq]
        rfl
      have hrep (z : Inst) (hz : z.xfer t.id = some t) : z.repeatReq q =
          { z.setXfer { t with tiles := [{ q with port := 0, ident := 0, xfer := none, again := true }] :: t.tiles } with
            seReqs := z.seReqs.map fun p => if p = q then { q with xfer := none } else p } := by
        rw [Inst.repeatReq, hq, Option.bind_some, hz]
      rw [struckReqs_head hqs, hh, Inst.portFault, hxs]
      exact congrArg (fun z : Inst => ({ x := z.serve, effs := [] } : Run)) (hrep _ ht)
  · exact mended_single hm hr
  · refine HubRun.of_inst rfl hal.1 ((stagingLost hal.2 hc ht hph).trans ?_)
    rw [Run.readAgain]
    exact if_pos hph
  · refine HubRun.of_inst rfl hal.1 ?_
    rw [uncorrectable, hal.2, hu]
    exact fault_masked rfl hc
  · refine HubRun.of_inst rfl hal.1 ?_
    rw [uncorrectable, hal.2]
    rfl
  · refine HubRun.of_inst rfl hal.1 ?_
    rw [uncorrectable, hal.2]
    exact fault_masked rfl hc
  · refine stops_of rfl hal.1 ?_
    rw [uncorrectable, hal.2]
    exact failStop_stops ..
  · refine stops_of rfl hal.1 ?_
    have hparts : (x.flt.clockLost || x.pwr.offTaken) = false := by
      have h := hal.2
      simp only [Inst.alive, Bool.and_eq_true, Bool.not_eq_true'] at h
      simp [h]
    rw [clockLoss, hparts]
    exact failStop_stops ..
  · refine HubRun.of_inst rfl hw.1 ((docentAccess_plain hw.2 hinj hctrl hu).trans ?_)
    cases last <;> rfl
  · refine HubRun.of_inst rfl hw.1 ((docentAccess_plain hw.2 hinj hctrl hu).trans ?_)
    refine (fault_masked rfl ?_).trans rfl
    exact (congrArg (· % 2) hctrl).trans rfl
end Sys2Proof

namespace Sys2Proof

/-! SUPPORT. Flits received, links lost and trained (R26, R374, R391, R430, R431). -/

open Sys2Proof.Machine

/-! ### What the end of a message leaves of the dies -/

/-- Of a die, the ports and a waiting reset stay, and a fence in its error state stays in one. -/
def Settled (x y : Inst) : Prop :=
  y.east = x.east ∧ y.west = x.west ∧ y.rst = x.rst ∧ ∀ k, (x.fence k).err ≠ 0 → (y.fence k).err ≠ 0

theorem Settled.refl (x : Inst) : Settled x x := ⟨rfl, rfl, rfl, fun _ h => h⟩

theorem Settled.trans {x y z : Inst} (h1 : Settled x y) (h2 : Settled y z) : Settled x z := by
  obtain ⟨a1, a2, a3, a4⟩ := h1
  obtain ⟨b1, b2, b3, b4⟩ := h2
  exact ⟨b1.trans a1, b2.trans a2, b3.trans a3, fun k h => b4 k (a4 k h)⟩

/-- Every die of a package stays in a relation to what it was, and the ring is read as far as before. -/
def Across (R : Inst → Inst → Prop) (s t : State) : Prop := t.ring.tail = s.ring.tail ∧ ∀ i : Nat,
  (s.insts[i]? = none → t.insts[i]? = none) ∧ ∀ x, s.insts[i]? = some x → ∃ y, t.insts[i]? = some y ∧ R x y

section
variable {R : Inst → Inst → Prop}

theorem Across.refl (hR : ∀ x, R x x) (s : State) : Across R s s := ⟨rfl, fun _ => ⟨id, fun x h => ⟨x, h, hR x⟩⟩⟩

theorem Across.trans (hR : ∀ {x y z}, R x y → R y z → R x z) {s t u : State} (h1 : Across R s t) (h2 : Across R t u) : Across R s u :=
  ⟨h2.1.trans h1.1, fun i => ⟨fun h => (h2.2 i).1 ((h1.2 i).1 h), fun x h => by
    obtain ⟨y, hy, hxy⟩ := (h1.2 i).2 x h
    obtain ⟨z, hz, hyz⟩ := (h2.2 i).2 y hy
    exact ⟨z, hz, hR hxy hyz⟩⟩⟩

theorem Across.mono {Q : Inst → Inst → Prop} (hRQ : ∀ {x y}, R x y → Q x y) {s t : State} (h : Across R s t) : Across Q s t :=
  ⟨h.1, fun i => ⟨(h.2 i).1, fun x hx => by
    obtain ⟨y, hy, hxy⟩ := (h.2 i).2 x hx
    exact ⟨y, hy, hRQ hxy⟩⟩⟩

theorem Across.of_insts (hR : ∀ x, R x x) {s t : State} (h : t.insts = s.insts) (hr : t.ring.tail = s.ring.tail) : Across R s t :=
  ⟨hr, fun i => by
    rw [h]
    exact (Across.refl hR s).2 i⟩

/-- One die changes. -/
theorem Across.of_set (hR : ∀ x, R x x) {s t : State} {j : Nat} {x y : Inst} (hx : s.insts[j]? = some x) (ht : t.insts = s.insts.set j y)
    (hr : t.ring.tail = s.ring.tail) (h : R x y) : Across R s t := ⟨hr, fun i => by
  rw [ht, List.getElem?_set]
  by_cases hij : j = i
  · subst hij
    rw [if_pos rfl, if_pos (List.getElem?_eq_some_iff.1 hx).1]
    refine ⟨fun hn => absurd (hn.symm.trans hx) nofun, fun z hz => ⟨y, rfl, ?_⟩⟩
    obtain rfl : x = z := Option.some.inj (hx.symm.trans hz)
    exact h
  · rw [if_neg hij]
    exact (Across.refl hR s).2 i⟩

/-- Each die changes by one function. -/
theorem Across.of_map {s t : State} {f : Inst → Inst} (ht : t.insts = s.insts.map f) (hr : t.ring.tail = s.ring.tail)
    (h : ∀ x, R x (f x)) : Across R s t := ⟨hr, fun i => by
  rw [ht, List.getElem?_map]
  exact ⟨fun hn => by rw [hn]; rfl, fun x hx => ⟨f x, by rw [hx]; rfl, h x⟩⟩⟩

theorem Across.length {s t : State} (h : Across R s t) : t.insts.length = s.insts.length := by
  have hlt (i : Nat) : i < t.insts.length ↔ i < s.insts.length := by
    obtain ⟨hn, hx⟩ := h.2 i
    constructor
    · intro hi
      by_contra hc
      have hnone := hn (List.getElem?_eq_none (Nat.not_lt.1 hc))
      rw [List.getElem?_eq_getElem hi] at hnone
      exact absurd hnone nofun
    · intro hi
      obtain ⟨y, hy, -⟩ := hx _ (List.getElem?_eq_getElem hi)
      exact (List.getElem?_eq_some_iff.1 hy).1
  have h1 := hlt t.insts.length
  have h2 := hlt s.insts.length
  omega

end

/-- Every die of a package stays settled. -/
def AllSettled (s t : State) : Prop := Across Settled s t

theorem AllSettled.refl (s : State) : AllSettled s s := Across.refl Settled.refl s

theorem AllSettled.trans {s t u : State} (h1 : AllSettled s t) (h2 : AllSettled t u) : AllSettled s u := Across.trans (R := Settled) Settled.trans h1 h2

theorem allSettled_of_insts {s t : State} (h : t.insts = s.insts) (hr : t.ring.tail = s.ring.tail) : AllSettled s t :=
  Across.of_insts Settled.refl h hr

theorem allSettled_set {s t : State} {j : Nat} {x y : Inst} (hx : s.insts[j]? = some x) (ht : t.insts = s.insts.set j y)
    (hr : t.ring.tail = s.ring.tail) (h : Settled x y) : AllSettled s t := Across.of_set Settled.refl hx ht hr h

theorem allSettled_setInst {s : State} {j : Nat} {x y : Inst} (hx : s.insts[j]? = some x) (h : Settled x y) :
    AllSettled s (s.setInst j y) := allSettled_set hx rfl rfl h

theorem allSettled_atDie {s : State} {j : Nat} {f : Inst → State} (h : ∀ x, s.insts[j]? = some x → AllSettled s (f x)) :
    AllSettled s (s.atDie j f) := by
  rw [State.atDie]
  split
  · exact AllSettled.refl s
  · exact h _ (by assumption)

theorem allSettled_foldl {α : Type} {f : State → α → State} (h : ∀ s a, AllSettled s (f s a)) (l : List α) (s : State) :
    AllSettled s (l.foldl f s) := by
  induction l generalizing s with
  | nil => exact AllSettled.refl s
  | cons a l ih => exact (h s a).trans (ih _)

/-- A fence that fails, or is incremented. -/
theorem settled_setFence {x : Inst} {k : Nat} {f : Fence} (h : (x.fence k).err ≠ 0 → f.err ≠ 0) : Settled x (x.setFence k f) :=
  ⟨rfl, rfl, rfl, fun j hj => by
    by_cases hjk : j = k
    · subst hjk
      simpa using h hj
    · rwa [Inst.fence_setFence_other _ _ _ _ hjk]⟩

theorem allSettled_onFence {s : State} {f : Nat} {g : Fence → Fence} (h : ∀ u : Fence, u.err ≠ 0 → (g u).err ≠ 0) :
    AllSettled s (s.onFence f g) := by
  rw [State.onFence]
  split
  · exact AllSettled.refl s
  · rename_i x hx
    exact allSettled_setInst hx (settled_setFence (h _))

theorem fail_err (u : Fence) (code : Nat) (h : u.err ≠ 0) : (u.fail code).err ≠ 0 := by rwa [Fence.fail, if_neg h]

theorem settled_setMbox (x : Inst) (m : Nat) (b : Mbox) : Settled x (x.setMbox m b) := ⟨rfl, rfl, rfl, fun _ h => h⟩

theorem settled_wakeBy (x : Inst) (c : Nat) : Settled x (x.wakeBy c) := by
  rw [Inst.wakeBy]
  split
  · exact Settled.refl x
  · split
    · exact ⟨rfl, rfl, rfl, fun _ h => h⟩
    · split <;> exact ⟨rfl, rfl, rfl, fun _ h => h⟩

theorem allSettled_map {s t : State} {f : Inst → Inst} (ht : t.insts = s.insts.map f) (hr : t.ring.tail = s.ring.tail)
    (h : ∀ x, Settled x (f x)) : AllSettled s t := Across.of_map ht hr h

theorem allSettled_mbFreed (s : State) (j m : Nat) : AllSettled s (s.mbFreed j m) := by
  rw [State.mbFreed]
  split
  · exact AllSettled.refl s
  · extract_lets s1 s2
    have h1 : AllSettled s s1 := allSettled_atDie fun x hx => allSettled_setInst hx (settled_setMbox ..)
    have h2 : AllSettled s1 s2 := allSettled_map rfl rfl fun x => by split <;> exact ⟨rfl, rfl, rfl, fun _ h => h⟩
    exact (h1.trans h2).trans (allSettled_atDie fun x hx => allSettled_setInst hx ⟨rfl, rfl, rfl, fun _ h => h⟩)

theorem ringPost_tail (r : Ring) (ws : List Word) : (r.post ws).tail = r.tail := by
  rw [Ring.post]
  split
  · split <;> rfl
  · rfl

theorem allSettled_post (s : State) (ws : List Word) : AllSettled s (s.post ws) := by
  rw [State.post]
  split
  · exact AllSettled.refl s
  · split
    · exact AllSettled.refl s
    · split
      · exact AllSettled.refl s
      · rename_i x hx _
        exact allSettled_set hx rfl (ringPost_tail s.ring ws) ⟨rfl, rfl, rfl, fun _ h => h⟩

theorem allSettled_logSeq (s : State) (ws : List Word) (seq : BitVec 16) : AllSettled s (s.logSeq ws seq) := by
  rw [State.logSeq]
  split
  · exact AllSettled.refl s
  · rename_i x hx
    exact allSettled_set hx rfl rfl ⟨rfl, rfl, rfl, fun _ h => h⟩

theorem allSettled_delivered (s : State) (h : Word) : AllSettled s (s.delivered h) := by
  refine allSettled_atDie fun y hy => ?_
  split
  · exact AllSettled.refl s
  · split
    · exact (allSettled_setInst hy (settled_setMbox ..)).trans (allSettled_mbFreed _ _ _)
    · exact AllSettled.refl s

theorem allSettled_act (s : State) (e : Eff) : AllSettled s (s.act e) := by
  cases e with
  | record ws => exact allSettled_post s ws
  | fault ws logged =>
    rw [State.act]
    split
    · exact (allSettled_post s ws).trans (allSettled_logSeq _ _ _)
    · exact allSettled_post s ws
  | fenceAdd f inc => exact allSettled_onFence fun _ h => h
  | fenceErr f code => exact allSettled_onFence fun u h => fail_err u code h
  | patch i m => exact allSettled_atDie fun x hx => allSettled_setInst hx ⟨rfl, rfl, rfl, fun _ h => h⟩
  | taken h => exact allSettled_delivered s h
  | ask i => exact AllSettled.refl s

theorem allSettled_eff (i : Nat) (s : State) (e : Eff) : AllSettled s (State.eff i s e) := by
  rw [State.eff]
  split
  · exact allSettled_act s e
  · split
    · exact AllSettled.refl s
    · split
      · exact AllSettled.refl s
      · split
        · exact allSettled_atDie fun x hx => allSettled_setInst hx ((settled_wakeBy x 4).trans ⟨rfl, rfl, rfl, fun _ h => h⟩)
        · exact allSettled_act s e

theorem allSettled_effs (s : State) (i : Nat) (es : List Eff) : AllSettled s (s.effs i es) := allSettled_foldl (allSettled_eff i) es s

/-- A step of one die, with its effects. -/
theorem allSettled_run {s : State} {i : Nat} {f : Env → Inst → Run} (h : ∀ x, s.insts[i]? = some x → Settled x (f (s.env i) x).x) :
    AllSettled s (s.run i f) := by
  rw [State.run]
  split
  · exact AllSettled.refl s
  · rename_i x hx
    exact (allSettled_setInst hx (h x hx)).trans (allSettled_effs _ _ _)

theorem settled_xferFail (r : Run) (t : Xfer) (code bytes : Nat) : Settled r.x (r.xferFail t code bytes).x := by
  rw [Run.xferFail]
  split <;> exact ⟨rfl, rfl, rfl, fun _ h => h⟩

theorem settled_requestLost (x : Inst) (q : ReqBy) : Settled x (x.requestLost q) := by
  cases q with
  | cell n =>
    rw [Inst.requestLost]
    split <;> exact ⟨rfl, rfl, rfl, fun _ h => h⟩
  | channelWindow =>
    rw [Inst.requestLost]
    split <;> exact ⟨rfl, rfl, rfl, fun _ h => h⟩
  | keyWindow => exact ⟨rfl, rfl, rfl, fun _ h => h⟩
  | mailboxWindow => exact ⟨rfl, rfl, rfl, fun _ h => h⟩

theorem ctlRecord_insts (s : State) (addr : Nat) (we : Bool) (code : Nat) :
    (s.ctlRecord addr we code).insts = s.insts ∧ (s.ctlRecord addr we code).ring.tail = s.ring.tail := by
  rw [State.ctlRecord]
  split <;> split <;> exact ⟨rfl, rfl⟩

theorem allSettled_onCellAt (s : State) (i n : Nat) (f : Cell → Cell) : AllSettled s (s.onCellAt i n f) := by
  rw [State.onCellAt]
  split
  · exact AllSettled.refl s
  · rename_i x hx
    exact allSettled_setInst hx ⟨rfl, rfl, rfl, fun _ h => h⟩

theorem allSettled_recall (s : State) (r : Nat) (h : Word) : AllSettled s (s.recall r h) := by
  rw [State.recall]
  split
  · exact AllSettled.refl s
  · exact allSettled_onCellAt _ _ _ _

theorem allSettled_abandon (s : State) (i k : Nat) (m : LinkMsg) : AllSettled s (s.abandon i k m) := by
  cases m with
  | control acc =>
    show AllSettled s (s.controlLost acc)
    rw [State.controlLost]
    split
    · exact allSettled_of_insts (ctlRecord_insts ..).1 (ctlRecord_insts ..).2
    · exact AllSettled.refl s
  | fenceAdd f _ => exact allSettled_onFence fun u h => fail_err u _ h
  | fenceSet f _ => exact allSettled_onFence fun u h => fail_err u _ h
  | fenceErr f => exact allSettled_onFence fun u h => fail_err u _ h
  | request q answer => exact allSettled_atDie fun x hx => allSettled_setInst hx (settled_requestLost x q)
  | post n _ _ =>
    refine allSettled_atDie fun x hx => ?_
    split
    · exact allSettled_setInst hx ⟨rfl, rfl, rfl, fun _ h => h⟩
    · exact AllSettled.refl s
  | delivery m =>
    refine allSettled_atDie fun x hx => ?_
    dsimp only
    split
    · exact (allSettled_recall _ _ _).trans (allSettled_atDie fun y hy => allSettled_setInst hy (settled_setMbox ..))
    · exact AllSettled.refl s
  | xferData id =>
    refine allSettled_run fun x hx => ?_
    split
    · exact settled_xferFail ..
    · exact Settled.refl x
  | packet bs =>
    refine allSettled_run fun x hx => ?_
    split
    · exact settled_xferFail ..
    · exact Settled.refl x
  | stream =>
    rw [State.abandon]
    split
    · exact allSettled_of_insts rfl rfl
    · exact AllSettled.refl s
  | record ws =>
    show AllSettled s s.dropRecord
    rw [State.dropRecord]
    split
    · exact AllSettled.refl s
    · rename_i x hx
      exact allSettled_set hx rfl rfl ⟨rfl, rfl, rfl, fun _ h => h⟩
  | stateUpdate => exact AllSettled.refl s

theorem allSettled_endFlit (s : State) (f : Flit) : AllSettled s (s.endFlit f) :=
  allSettled_foldl (fun s m => allSettled_abandon s _ _ m) _ s

theorem allSettled_cutForwards (s : State) (k : Nat) : AllSettled s (s.cutForwards k) := by
  rw [State.cutForwards]
  refine AllSettled.trans ?_ (allSettled_foldl (fun s f => allSettled_of_insts (ctlRecord_insts ..).1 (ctlRecord_insts ..).2) _ _)
  exact allSettled_of_insts rfl rfl

theorem allSettled_cutRequests (s : State) (i : Nat) : AllSettled s (s.cutRequests i) := by
  refine allSettled_atDie fun x hx => ?_
  extract_lets x1 x2 x3 x4 x5 lost x6
  have hquiet (y z : Inst) (h : z.east = y.east ∧ z.west = y.west ∧ z.rst = y.rst ∧ z.fences = y.fences) : Settled y z := by
    obtain ⟨he, hw, hr, hf⟩ := h
    exact ⟨he, hw, hr, fun k hk => by rwa [Inst.fence, hf]⟩
  have h1 : Settled x x1 := by
    simp only [x1]
    split
    · split
      · exact hquiet _ _ ⟨rfl, rfl, rfl, rfl⟩
      · exact Settled.refl x
    · exact Settled.refl x
  have h2 : Settled x1 x2 := by
    simp only [x2]
    split
    · split
      · exact hquiet _ _ ⟨rfl, rfl, rfl, rfl⟩
      · exact Settled.refl x1
    · exact Settled.refl x1
  have h3 : Settled x2 x3 := by
    simp only [x3]
    split
    · split
      · exact hquiet _ _ ⟨rfl, rfl, rfl, rfl⟩
      · exact Settled.refl x2
    · exact Settled.refl x2
  have h4 : Settled x3 x4 := by
    simp only [x4]
    split
    · split
      · exact hquiet _ _ ⟨rfl, rfl, rfl, rfl⟩
      · exact Settled.refl x3
    · exact Settled.refl x3
  have h5 : Settled x4 x5 := by
    refine foldl_keeps (P := fun y : Inst => Settled x4 y) (fun y n hy => hy.trans ?_) _ (Settled.refl x4)
    dsimp only
    split
    · split
      · exact hquiet _ _ ⟨rfl, rfl, rfl, rfl⟩
      · exact Settled.refl y
    · exact Settled.refl y
  have h6 : Settled x x6 := ((((h1.trans h2).trans h3).trans h4).trans h5).trans (hquiet _ _ ⟨rfl, rfl, rfl, rfl⟩)
  refine (allSettled_setInst hx h6).trans (allSettled_foldl (fun s q => allSettled_run fun x hx => ?_) _ _)
  split
  · exact settled_xferFail _ _ _ _
  · exact Settled.refl x
/-! ### A port that leaves the active state (R431) -/

theorem portDown_spec (x : Inst) (east : Bool) (h : (x.port east).up = true) :
    let y := ((pureRun x).portDown east).x
    (y.port east).up = false ∧ (y.port east).training = (x.port east).training ∧ (y.port east).replay = []
      ∧ y.port (!east) = x.port (!east) ∧ y.rst = x.rst := by
  have hdown : (pureRun x).portDown east = (pureRun (x.setPort east { Port.down with
      training := (x.port east).training, sent := (x.port east).sent })).fault errHwUncorrectable 0 (hubFault 1 5 x.inWindow 0) := by
    exact if_neg (by simp [pureRun, h])
  rw [hdown, fault_logged (f := hubFault 1 5 x.inWindow 0) nofun]
  cases east <;> exact ⟨rfl, rfl, rfl, rfl, rfl⟩

theorem released_insts (s : State) : s.released.insts = s.insts ∧ s.released.ring.tail = s.ring.tail := by
  rw [State.released]
  split <;> exact ⟨rfl, rfl⟩

theorem released_open {s : State} (h : ∀ f rest, s.fwd = f :: rest → f.ans = none) : s.released = s := by
  refine if_pos ?_
  cases hf : s.fwd with
  | nil => simp [State.flushResp]
  | cons f rest => simp [State.flushResp, h f rest hf]

/-- Where no reset waits, the end of messages leaves every die settled. -/
theorem allSettled_afterLoss {s : State} (st : Nat) (h : ∀ w ∈ s.insts, w.rst.waiting = false) : AllSettled s (s.afterLoss st) := by
  rw [State.afterLoss]
  split
  · rw [resetWaiting_none h]
    exact allSettled_of_insts (released_insts s).1 (released_insts s).2
  · exact allSettled_of_insts (released_insts s).1 (released_insts s).2

theorem AllSettled.waiting {s t : State} (h : AllSettled s t) (hs : ∀ w ∈ s.insts, w.rst.waiting = false) :
    ∀ w ∈ t.insts, w.rst.waiting = false := by
  intro w hw
  obtain ⟨i, hi⟩ := List.mem_iff_getElem?.1 hw
  cases hx : s.insts[i]? with
  | none => exact absurd (hi.symm.trans ((h.2 i).1 hx)) nofun
  | some x =>
    obtain ⟨y, hy, -, -, hr, -⟩ := (h.2 i).2 x hx
    obtain rfl := Option.some.inj (hy.symm.trans hi)
    rw [hr]
    exact hs x (List.mem_of_getElem? hx)

/-- A fence that an abandoned increment has failed (R391). -/
theorem endFlit_fails {s t : State} {g : Flit} {k : Nat} {inc : Word} (hc : g.cls = 1) (hu : g.used ≠ 0) (hm : g.msgs = [.fenceAdd k inc])
    (hk : k < 1024) (ht : AllSettled (s.endFlit g) t) : (t.fence (1024 * g.dst.toNat + k)).err ≠ 0 := by
  have hmsgs : flitMessages g = [.fenceAdd k inc] := by
    rw [flitMessages, if_neg hu, hm, List.filter_cons_of_pos (by rw [hc]; rfl), List.filter_nil]
  have hend : s.endFlit g = s.onFence (1024 * g.dst.toNat + k) fun u => u.fail errInstFailed := by
    rw [State.endFlit, hmsgs, List.foldl_cons, List.foldl_nil, State.abandon, Nat.mod_eq_of_lt hk]
  have hdiv : (1024 * g.dst.toNat + k) / 1024 = g.dst.toNat := by omega
  have hmod : (1024 * g.dst.toNat + k) % 1024 = k := by omega
  rw [hend, State.onFence, hdiv, hmod] at ht
  rw [State.fence, hdiv, hmod]
  cases hz : s.insts[g.dst.toNat]? with
  | none =>
    rw [hz] at ht
    rw [(ht.2 _).1 hz]
    exact nofun
  | some z =>
    rw [hz] at ht
    obtain ⟨y, hy, -, -, -, hf⟩ := (ht.2 _).2 _ (State.getElem_setInst s _ z _ hz)
    rw [hy]
    have herr : (y.fence k).err ≠ 0 := by
      refine hf k ?_
      rw [Inst.fence_setFence, Fence.fail]
      split
      · exact nofun
      · assumption
    dsimp only
    split
    · exact nofun
    · exact herr

/-- A link that falls. -/
theorem linkFalls_spec {s : State} {i : Nat} {east : Bool} {x : Inst} (hx : s.insts[i]? = some x) (hp : (x.port east).up = true) :
    ∃ u, AllSettled (s.setInst i ((pureRun x).portDown east).x) u
      ∧ AllSettled ((x.port east).replay.foldl State.endFlit u) (s.linkFalls i east) := by
  refine ⟨s.run i fun _ x => (pureRun x).portDown east, ?_, ?_⟩
  · rw [State.run, hx]
    exact allSettled_effs _ _ _
  · rw [State.linkFalls, State.atDie, hx]
    dsimp only
    rw [if_neg (by rw [hp]; nofun)]
    exact (allSettled_cutForwards _ _).trans (allSettled_foldl allSettled_cutRequests _ _)

/-! ### Flits -/

theorem eff_fault_port (i : Nat) (s : State) (ws : List Word) (b : Bool) :
    (State.eff i s (.fault ws b)).fwd = s.fwd ∧ (State.eff i s (.fault ws b)).resp = s.resp := by
  have hpost (t : State) : (t.post ws).fwd = t.fwd ∧ (t.post ws).resp = t.resp := by
    simp only [State.post]
    repeat' split
    all_goals exact ⟨rfl, rfl⟩
  have hlog (t : State) (q : BitVec 16) : (t.logSeq ws q).fwd = t.fwd ∧ (t.logSeq ws q).resp = t.resp := by
    simp only [State.logSeq]
    split <;> exact ⟨rfl, rfl⟩
  simp only [State.eff, State.act, State.atDie]
  repeat' split
  all_goals simp [hpost, hlog]


/-- A flit at a port that is up, on a die at work without an armed fault. -/
theorem flitReceive_eq {s : State} {i : Nat} {x : Inst} {east : Bool} {f : Flit} {bad : Nat} (hw : AtWork s i x)
    (hp : (x.port east).up = true) (hn : 2 ≤ s.insts.length) (hinj : x.flt.injected = none) :
    ∃ k, s.peer i east = some k ∧ (bad = 0 → exec (.flitReceive i east f bad) s = .next (s.flitGood i east x f))
      ∧ (2 ≤ bad → exec (.flitReceive i east f bad) s = .next (s.flitBad i k east x f)) := by
  have hpeer : ∃ k, s.peer i east = some k := ⟨_, if_neg (by omega)⟩
  obtain ⟨k, hk⟩ := hpeer
  have hsym : x.flitSymbols bad = bad := by rw [Inst.flitSymbols, hinj]
  have hex : exec (.flitReceive i east f bad) s = .next (if 2 ≤ bad then s.flitBad i k east x f else if bad = 1 then
      (let s1 := (s.setInst i x).run i fun _ z => (pureRun z.countCorr).fault 0 0 (hubFault 1 0 z.inWindow 0)
       s1.atDie i fun z => s1.flitGood i east z f) else s.flitGood i east x f) := by
    show Host.Outcome.next (s.atDie i (s.flitReceive i east f bad)) = _
    rw [State.atDie, hw.1]
    dsimp only
    rw [State.flitReceive, hk]
    dsimp only
    rw [hp, hw.2, hsym, if_pos rfl]
    rfl
  refine ⟨k, hk, fun h0 => ?_, fun h2 => ?_⟩
  · subst h0
    exact hex
  · rw [hex, if_pos h2]

/-- The port after a flit whose acknowledgement it has taken. -/
def ackedPort (p : Port) (f : Flit) : Port := { p with replay := p.replay.filter fun g => !acked g.seq f.ack }

theorem flitGood_resend {s : State} {i : Nat} {east : Bool} {x : Inst} {f : Flit} (h : f.typ = 3) :
    s.flitGood i east x f = s.setInst i (x.setPort east ((ackedPort (x.port east) f).resend f.seq)) := if_pos h

theorem flitGood_skips {s : State} {i : Nat} {east : Bool} {x : Inst} {f : Flit} (h3 : f.typ ≠ 3)
    (h : f.typ ≠ 1 ∨ f.seq ≠ (x.port east).rxSeq ∨ x.flitRoom east f = false) :
    s.flitGood i east x f = s.setInst i (x.setPort east (ackedPort (x.port east) f)) :=
  (if_neg h3).trans (if_pos (by
    obtain h | h | h := h
    · exact .inl h
    · exact .inr (.inl h)
    · exact .inr (.inr (by rw [h]; rfl))))

theorem flitGood_takes {s : State} {i : Nat} {east : Bool} {x : Inst} {f : Flit} (h1 : f.typ = 1) (hseq : f.seq = (x.port east).rxSeq)
    (hroom : x.flitRoom east f = true) : s.flitGood i east x f =
      let s1 := s.setInst i (x.setPort east
        (({ ackedPort (x.port east) f with rxSeq := (x.port east).rxSeq + 1, resends := 0 } : Port).notice 2 x))
      if f.dst.toNat = x.id then (flitMessages f).foldl (fun s m => s.deliver i f.src.toNat m) s1 else s1.passOn i east f :=
  (if_neg (by rw [h1]; exact nofun)).trans (if_neg (by
    rintro (h | h | h)
    · exact h h1
    · exact h hseq
    · rw [hroom] at h
      exact absurd h nofun))

theorem port_setPort_other (x : Inst) (east : Bool) (p : Port) : (x.setPort east p).port (!east) = x.port (!east) := by cases east <;> rfl

theorem fence_setPort (x : Inst) (east : Bool) (p : Port) (k : Nat) : (x.setPort east p).fence k = x.fence k := by cases east <;> rfl

/-- Settles O58. -/
theorem dieLinks : Obligations.DieLinks := by
  intro s i x east p o
  refine ⟨fun hw hp hn hinj f => ?_, fun hx => ⟨fun hp hport => ?_, fun hp hwait => ?_, fun peer ht hn => ?_, fun peer hn => ?_⟩⟩
  · intro note to_ gives q z
    have hgood (t : State) (ht : s.flitGood i east x f = t) : gives 0 t := by
      obtain ⟨k, -, h0, -⟩ := flitReceive_eq (f := f) (bad := 0) hw hp hn hinj
      exact (h0 rfl).trans (congrArg _ ht)
    have hlocal (hdst : f.dst.toNat = x.id) {k : Nat} {inc : Word} (hm : f.msgs = [.fenceAdd k inc]) : x.flitRoom east f = true := by
      rw [Inst.flitRoom, if_pos hdst, List.all_eq_true]
      intro m hmem
      rw [flitMessages, hm] at hmem
      split at hmem
      · exact absurd hmem List.not_mem_nil
      · obtain rfl := List.mem_singleton.1 (List.mem_filter.1 hmem).1
        rfl
    refine ⟨fun h3 => hgood _ (flitGood_resend h3), fun h3 h => hgood _ (flitGood_skips h3 (h.imp_right .inl)), fun h1 hseq =>
      ⟨fun k inc hdst hm hk => ⟨fun hc hu => ?_, fun h => ?_⟩, fun hdst hup hroom => ?_, fun hdst hroom => ?_⟩, fun bad h2 hr => ?_,
      fun bad h2 hr hm hport => ?_⟩
    · have hmsgs : flitMessages f = [.fenceAdd k inc] := by
        rw [flitMessages, if_neg hu, hm, List.filter_cons_of_pos (by rw [hc]; rfl), List.filter_nil]
      refine hgood _ ((flitGood_takes h1 hseq (hlocal hdst hm)).trans ((if_pos hdst).trans ?_))
      have hdiv : (1024 * i + k) / 1024 = i := by omega
      have hmod : (1024 * i + k) % 1024 = k := by omega
      rw [hmsgs, List.foldl_cons, List.foldl_nil, State.deliver, State.onFence, Nat.mod_eq_of_lt hk, hdiv, hmod,
        State.getElem_setInst s i x _ hw.1]
      dsimp only
      rw [State.setInst_setInst, fence_setPort]
      rfl
    · have hmsgs : flitMessages f = [] := by
        rw [flitMessages]
        split
        · rfl
        · rename_i hu
          have hc : f.cls.toNat ≠ 1 := fun hc => h.elim (fun h => h (BitVec.eq_of_toNat_eq hc)) hu
          rw [hm, List.filter_cons_of_neg (fun h => hc (of_decide_eq_true h).symm), List.filter_nil]
      refine hgood _ ((flitGood_takes h1 hseq (hlocal hdst hm)).trans ((if_pos hdst).trans ?_))
      rw [hmsgs]
      rfl
    · have hr : x.flitRoom east f = true := by
        rw [Inst.flitRoom, if_neg hdst]
        exact decide_eq_true hroom
      refine hgood _ ((flitGood_takes h1 hseq hr).trans ((if_neg hdst).trans ?_))
      rw [State.passOn, State.atDie, State.getElem_setInst s i x _ hw.1]
      dsimp only
      rw [port_setPort_other, if_pos hup, State.setInst_setInst]
      rfl
    · have hr : x.flitRoom east f = false := by
        rw [Inst.flitRoom, if_neg hdst]
        exact decide_eq_false (Nat.not_lt.2 hroom)
      by_cases h3 : f.typ = 3
      · exact absurd (h3.symm.trans h1) nofun
      · exact hgood _ (flitGood_skips h3 (.inr (.inr hr)))
    · obtain ⟨k, -, -, hb⟩ := flitReceive_eq (f := f) (bad := bad) hw hp hn hinj
      exact (hb h2).trans (congrArg _ (if_pos hr))
    · obtain ⟨k, -, -, hb⟩ := flitReceive_eq (f := f) (bad := bad) hw hp hn hinj
      refine ⟨k, (hb h2).trans (congrArg _ ((if_neg (Nat.not_lt.2 hr)).trans ?_))⟩
      have hnone (t : State) : t.endFlit f = t := by
        have hmsgs : flitMessages f = [] := by
          rw [flitMessages, hm]
          split <;> rfl
        rw [State.endFlit, hmsgs]
        rfl
      rw [State.abandonAll, hnone, State.afterLoss, if_neg fun h => h.2 h.1, State.run, State.getElem_setInst s i x _ hw.1]
      have hwin (b : Port) : (x.setPort east b).inWindow = x.inWindow := by cases east <;> rfl
      have hrun := State.runAt_eq (s := s.setInst i (x.setPort east { p with resends := 0, rxSeq := p.rxSeq + 1 })) (i := i)
        (x := x.setPort east { p with resends := 0, rxSeq := p.rxSeq + 1 }) (f := fun _ (y : Inst) =>
          (pureRun y).fault errHwUncorrectable 0 (hubFault 1 5 y.inWindow k)) (fault_logged (by exact nofun))
      refine (congrArg State.released hrun).trans ?_
      rw [State.setInst_setInst, hwin, State.effs_cons, State.effs_nil, released_open]
      · rfl
      · rw [(eff_fault_port ..).1]
        exact hport.2
  · show Host.Outcome.next ((s.linkFalls i east).afterLoss s.ss.st) = _
    have hfalls : s.linkFalls i east = s := by
      rw [State.linkFalls, State.atDie, hx]
      exact if_pos (by rw [show (x.port east).up = false from hp]; rfl)
    rw [hfalls, State.afterLoss, if_neg fun h => h.2 h.1, released_open hport.2]
  · obtain ⟨u, h1, h2⟩ := linkFalls_spec hx hp
    have hends := allSettled_foldl allSettled_endFlit p.replay u
    have hfell := h1.trans (hends.trans h2)
    obtain ⟨d1, d2, d3, d4, d5⟩ := portDown_spec x east hp
    have hwaits : ∀ w ∈ (s.linkFalls i east).insts, w.rst.waiting = false := by
      refine hfell.waiting fun w hw => ?_
      obtain hw | rfl := List.mem_or_eq_of_mem_set hw
      · exact hwait w hw
      · rw [d5]
        exact hwait x (List.mem_of_getElem? hx)
    have hloss := allSettled_afterLoss s.ss.st hwaits
    obtain ⟨y, hy, he, hwst, -⟩ := ((hfell.trans hloss).2 i).2 _ (State.getElem_setInst s i x _ hx)
    have hport (b : Bool) : y.port b = (((pureRun x).portDown east).x).port b := by cases b <;> assumption
    refine ⟨_, y, rfl, hy, by rw [hport, d1], by rw [hport, d2], by rw [hport, d3], by rw [hport, d4], fun g k inc hg hc hu hm hk => ?_⟩
    refine endFlit_fails hc hu hm hk (s := u) ?_
    rw [show (x.port east).replay = [g] from hg] at h2
    exact h2.trans hloss
  · have hex : exec (.linkTrainDone i east peer) s = .next (s.trainDone i east peer) := rfl
    have hpeer : ∃ k, s.peer i east = some k := ⟨_, if_neg (by omega)⟩
    obtain ⟨k, hk⟩ := hpeer
    rw [HubRun, hex, State.trainDone, hk, State.effs_nil]
    dsimp only
    rw [State.atDie, hx]
    exact congrArg Host.Outcome.next (if_pos ht)
  · have hex : exec (.linkTrainDone i east peer) s = .next (s.trainDone i east peer) := rfl
    have hpeer : s.peer i east = none := if_pos hn
    rw [hex, State.trainDone, hpeer]
end Sys2Proof

namespace Sys2Proof

/-! SUPPORT. Resets and test state (R411 to R416, R435, R436). -/

open Sys2Proof.Machine

/-! ### What the beginning of a reset leaves of the dies -/

/-- A die with its resets as they were. -/
def SameRst (x y : Inst) : Prop := y.rst = x.rst

theorem SameRst.refl (x : Inst) : SameRst x x := rfl

theorem SameRst.trans {x y z : Inst} (h1 : SameRst x y) (h2 : SameRst y z) : SameRst x z := Eq.trans h2 h1

/-- Every die of a package has its resets as they were. -/
def KeepsRst (s t : State) : Prop := Across SameRst s t

theorem KeepsRst.refl (s : State) : KeepsRst s s := Across.refl SameRst.refl s

theorem KeepsRst.trans {s t u : State} (h1 : KeepsRst s t) (h2 : KeepsRst t u) : KeepsRst s u :=
  Across.trans (R := SameRst) SameRst.trans h1 h2

theorem AllSettled.keepsRst {s t : State} (h : AllSettled s t) : KeepsRst s t := Across.mono (fun h => h.2.2.1) h

theorem keepsRst_setInst {s : State} {j : Nat} {x y : Inst} (hx : s.insts[j]? = some x) (h : SameRst x y) : KeepsRst s (s.setInst j y) :=
  Across.of_set SameRst.refl hx rfl rfl h

theorem keepsRst_foldl {α : Type} {f : State → α → State} (h : ∀ s a, KeepsRst s (f s a)) (l : List α) (s : State) :
    KeepsRst s (l.foldl f s) :=
  foldl_keeps (P := fun t => KeepsRst s t) (fun t a ht => ht.trans (h t a)) l (KeepsRst.refl s)

theorem keepsRst_joins (s : State) (i : Nat) (east : Bool) : KeepsRst s (s.joins i east) := by
  rw [State.joins]
  split
  · rename_i x hx
    exact keepsRst_setInst hx (by cases east <;> rfl)
  · exact KeepsRst.refl s

theorem keepsRst_linkFalls (s : State) (i : Nat) (east : Bool) : KeepsRst s (s.linkFalls i east) := by
  cases hx : s.insts[i]? with
  | none =>
    rw [State.linkFalls, State.atDie, hx]
    exact KeepsRst.refl s
  | some x =>
    cases hp : (x.port east).up with
    | false =>
      have hself : s.linkFalls i east = s := by
        rw [State.linkFalls, State.atDie, hx]
        exact if_pos (by rw [hp]; rfl)
      rw [hself]
      exact KeepsRst.refl s
    | true =>
      obtain ⟨u, h1, h2⟩ := linkFalls_spec hx hp
      have hdown : KeepsRst s (s.setInst i ((pureRun x).portDown east).x) :=
        keepsRst_setInst hx (portDown_spec x east hp).2.2.2.2
      exact hdown.trans (h1.trans ((allSettled_foldl allSettled_endFlit _ u).trans h2)).keepsRst

theorem keepsRst_linksReset (s : State) (i : Nat) : KeepsRst s (s.linksReset i) := by
  have hdown (s : State) (east : Bool) : KeepsRst s (match s.peer i east with
      | some k => (s.linkFalls k !east).joins k !east
      | none => s) := by
    split
    · exact (keepsRst_linkFalls ..).trans (keepsRst_joins ..)
    · exact KeepsRst.refl s
  exact (hdown s true).trans (hdown _ false)

theorem keepsRst_dropDeliveries (s : State) (i : Nat) : KeepsRst s (s.dropDeliveries i) := by
  unfold State.dropDeliveries
  extract_lets fix_ s1
  have hfix (x : Inst) : SameRst x (fix_ x) := by
    simp only [fix_]
    have h1 : SameRst x (x.mboxes.foldl (fun (x : Inst) p =>
        if p.2.sending ∧ agentCell p.2.receiver ≠ none ∧ agentInst p.2.receiver = i then
          x.setMbox p.1 { p.2 with sending := false }
        else x) x) := by
      refine foldl_keeps (P := fun y : Inst => SameRst x y) (fun y p hy => ?_) _ (SameRst.refl x)
      dsimp only
      split
      · exact hy
      · exact hy
    split
    · split
      · exact h1
      · exact h1
    · exact h1
  have h1 : KeepsRst s s1 := Across.of_map rfl rfl hfix
  refine h1.trans (keepsRst_foldl (fun s j => keepsRst_foldl (fun s m => ?_) _ s) _ s1)
  split
  · split
    · exact KeepsRst.refl s
    · exact (allSettled_mbFreed s j m).keepsRst
  · exact KeepsRst.refl s

/-! ### Instance resets -/

/-- Every die of a package is still there. -/
def StillThere (s t : State) : Prop := Across (fun _ _ => True) s t

theorem StillThere.trans {s t u : State} (h1 : StillThere s t) (h2 : StillThere t u) : StillThere s u :=
  Across.trans (R := fun _ _ => True) (fun _ _ => trivial) h1 h2

theorem KeepsRst.stillThere {s t : State} (h : KeepsRst s t) : StillThere s t := Across.mono (fun _ => trivial) h

theorem stillThere_setInst {s : State} {j : Nat} {x : Inst} (hx : s.insts[j]? = some x) (y : Inst) : StillThere s (s.setInst j y) :=
  Across.of_set (fun _ => trivial) hx rfl rfl trivial

theorem stillThere_run {s : State} {i : Nat} {x : Inst} (hx : s.insts[i]? = some x) (f : Env → Inst → Run) : StillThere s (s.run i f) := by
  rw [State.run, hx]
  exact (stillThere_setInst hx _).trans (allSettled_effs _ _ _).keepsRst.stillThere

/-- A reset that begins (R413). -/
theorem resetBegin_spec {s : State} {i : Nat} {x : Inst} (hx : s.insts[i]? = some x) :
    ∃ y, (s.resetBegin i).insts[i]? = some y ∧ y.rst.phase = 1 ∧ y.pwr = Power.reset ∧ y.east.up = false ∧ y.west.up = false
      ∧ (2 ≤ s.insts.length ↔ y.east.training = true) ∧ (2 ≤ s.insts.length ↔ y.west.training = true)
      ∧ (s.resetBegin i).insts.length = s.insts.length ∧ (s.resetBegin i).ring.tail = s.ring.tail := by
  have hthere := ((stillThere_run hx stopReset).trans (keepsRst_dropDeliveries _ i).stillThere).trans (keepsRst_linksReset _ i).stillThere
  obtain ⟨z, hz, -⟩ := (hthere.2 i).2 x hx
  have hbegin : s.resetBegin i = (((s.run i stopReset).dropDeliveries i).linksReset i).setInst i
      { z.portsReset (decide (1 < s.insts.length)) with rst := { z.rst with phase := 1, waiting := false }, pwr := Power.reset } := by
    rw [State.resetBegin]
    simp only [hz]
  have hset := (stillThere_setInst hz { z.portsReset (decide (1 < s.insts.length)) with
    rst := { z.rst with phase := 1, waiting := false }, pwr := Power.reset })
  rw [hbegin]
  refine ⟨_, State.getElem_setInst _ i z _ hz, rfl, rfl, rfl, rfl, ?_, ?_, (hthere.trans hset).length, (hthere.trans hset).1⟩
  · exact (decide_eq_true_iff (p := 1 < s.insts.length)).symm
  · exact (decide_eq_true_iff (p := 1 < s.insts.length)).symm

/-- An INST_RESET of an instance at work (R413). -/
theorem instReset_awake {s : State} {i : Nat} {x : Inst} (hw : AtWork s i x) : s.instReset i x =
    if s.ss.st = 4 then s.setInst i { x with rst := { x.rst with waiting := true } } else s.resetBegin i := by
  obtain ⟨hph, -, -, hoff, htest⟩ := Inst.awake_parts hw.2
  exact if_neg (by rw [hph, hoff, htest]; nofun)

/-- Of what an access leaves, the dies, the load window and the ring are those of the access. -/
theorem access_same {s : State} {f : State → State} (h : s.fwd.length < 8) :
    let t := f { s with resp := [] }
    (s.access f).insts = t.insts ∧ (s.access f).ss = t.ss ∧ (s.access f).ring = t.ring := by
  rw [State.access, if_neg (Nat.not_le.2 h)]
  dsimp only
  split <;> split <;> exact ⟨rfl, rfl, rfl⟩

/-- INST_RESET by the pin, or by its register when no older access to the instance is outstanding. -/
theorem instReset_runs {s : State} {i : Nat} {x : Inst} {byPin : Bool} (hw : AtWork s i x)
    (h : byPin = true ∨ s.fwd.length < 8 ∧ s.behind i = false) : ∃ t, exec (.instReset i byPin) s = .next t
      ∧ t.insts = (s.instReset i x).insts ∧ t.ss = (s.instReset i x).ss ∧ t.ring = (s.instReset i x).ring := by
  cases byPin with
  | true =>
    refine ⟨(s.instReset i x).released, ?_, (released_insts _).1, ?_, ?_⟩
    · show Host.Outcome.next (s.atDie i (s.instReset i)).released = _
      rw [State.atDie, hw.1]
    · rw [State.released]
      split <;> rfl
    · rw [State.released]
      split <;> rfl
  | false =>
    obtain ⟨hlen, hb⟩ := h.resolve_left nofun
    have hgate : ({ s with resp := [] } : State).ctlGate i 0x2010 true (fun x => (s.instReset i x).ctlOk 0) = (s.instReset i x).ctlOk 0 :=
      State.ctlGate_awake _ _ _ hw
    have hrow : ∃ f : State → State, s.ctlRow i 0x2010 0x80000000 (s.instReset i) = .next (s.access f)
        ∧ f { s with resp := [] } = (s.instReset i x).ctlOk 0 := by
      refine ⟨_, rfl, ?_⟩
      dsimp only
      rw [hw.1]
      exact (if_neg (by rw [show ({ s with resp := [] } : State).behind i = s.behind i from rfl, hb]; nofun)).trans hgate
    obtain ⟨f, hf, hres⟩ := hrow
    obtain ⟨h1, h2, h3⟩ := access_same (f := f) hlen
    rw [hres] at h1 h2 h3
    exact ⟨s.access f, hf, h1, h2, h3⟩

/-! ### Test state and power-on resets -/

theorem testState_spec {s : State} {i : Nat} {x : Inst} (hx : s.insts[i]? = some x) : ∃ y, (s.testState i).insts[i]? = some y ∧ y.test = true
    ∧ y.cells = [] ∧ y.keys = [] ∧ y.tlb = [] ∧ y.instKey = none ∧ y.stream.tabs = [] ∧ y.stream.mcode = [] := by
  have hthere := (stillThere_run hx stopReset).trans (keepsRst_dropDeliveries _ i).stillThere
  obtain ⟨z, hz, -⟩ := (hthere.2 i).2 x hx
  refine ⟨{ z.zeroAll with test := true }, ?_, rfl, rfl, rfl, rfl, rfl, rfl, rfl⟩
  rw [State.testState]
  simp only [hz]
  split <;> exact State.getElem_setInst _ i z _ hz

theorem Tbl.get_map_self {α : Type} (d : α) (g : Nat → α) {l : List Nat} {k : Nat} (hk : k ∈ l) :
    Tbl.get d (l.map fun k => (k, g k)) k = g k := by
  induction l with
  | nil => exact absurd hk List.not_mem_nil
  | cons j l ih =>
    rw [List.map_cons, Tbl.get]
    split
    · rename_i h
      rw [h]
    · rename_i h
      exact ih ((List.mem_cons.1 hk).resolve_left (Ne.symm h))

/-- After an instance reset every fence is in its error state, with its first code (R413 step 6). -/
theorem fencesFailed_get (x : Inst) {k : Nat} (hk : k < 1024) : Tbl.get Fence.zero x.fencesFailed k =
    { value := (x.fence k).value, err := if (x.fence k).err = 0 then 0x00F1 else (x.fence k).err } := by
  rw [Inst.fencesFailed, Tbl.get_map_self Fence.zero (fun k => (x.fence k).fail errInstFailed) (List.mem_range.2 hk), Fence.fail]
  split <;> rfl

theorem KeepsRst.waiting {s t : State} (h : KeepsRst s t) (hs : ∀ w ∈ s.insts, w.rst.waiting = false) : ∀ w ∈ t.insts, w.rst.waiting = false := by
  intro w hw
  obtain ⟨i, hi⟩ := List.mem_iff_getElem?.1 hw
  cases hx : s.insts[i]? with
  | none => exact absurd (hi.symm.trans ((h.2 i).1 hx)) nofun
  | some x =>
    obtain ⟨y, hy, hr⟩ := (h.2 i).2 x hx
    obtain rfl := Option.some.inj (hy.symm.trans hi)
    rw [show y.rst = x.rst from hr]
    exact hs x (List.mem_of_getElem? hx)

theorem waiting_setInst {s : State} {i : Nat} {y : Inst} (hs : ∀ w ∈ s.insts, w.rst.waiting = false) (hy : y.rst.waiting = false) :
    ∀ w ∈ (s.setInst i y).insts, w.rst.waiting = false := fun w hw =>
  (List.mem_or_eq_of_mem_set hw).elim (hs w) fun h => h ▸ hy

theorem powerOnReset_spec {s : State} {i : Nat} {x : Inst} (pos : BitVec 3) (hx : s.insts[i]? = some x)
    (hwait : ∀ z ∈ s.insts, z.rst.waiting = false) :
    (s.powerOnReset i x pos).released.insts[i]? = some (x.powerOn (decide (1 < s.insts.length)) pos) := by
  obtain ⟨y, hy⟩ : ∃ y, y = x.powerOn (decide (1 < s.insts.length)) pos := ⟨_, rfl⟩
  have hyw : y.rst.waiting = false := by rw [hy]; rfl
  have hkeeps := (keepsRst_dropDeliveries (s.setInst i y) i).trans (keepsRst_linksReset _ i)
  obtain ⟨z, hz, -⟩ := (hkeeps.2 i).2 y (State.getElem_setInst s i x y hx)
  obtain ⟨u, hu⟩ : ∃ u, u = ((s.setInst i y).dropDeliveries i).linksReset i := ⟨_, rfl⟩
  rw [← hu] at hkeeps hz
  have hnone : ∀ w ∈ (u.setInst i y).insts, w.rst.waiting = false := waiting_setInst (hkeeps.waiting (waiting_setInst hwait hyw)) hyw
  have hreset : s.powerOnReset i x pos = if i = 0 then
      ({ (u.setInst i y).resetPackage 0 with fwd := [], resp := [] } : State).resetWaiting else (u.setInst i y).afterLoss s.ss.st := by
    rw [hu, hy]
    rfl
  have hinsts : (s.powerOnReset i x pos).insts = (u.setInst i y).insts := by
    rw [hreset]
    split
    · rw [resetWaiting_none (s := { (u.setInst i y).resetPackage 0 with fwd := [], resp := [] }) hnone]
      rfl
    · rw [State.afterLoss]
      split
      · rw [resetWaiting_none hnone, (released_insts _).1]
      · rw [(released_insts _).1]
  rw [(released_insts _).1, hinsts, ← hy]
  exact State.getElem_setInst u i z y hz

theorem tapSelect_wir {ir : BitVec 8} (h : ir ≠ 0x20) : tapSelect ir ≠ 3 := by
  rw [tapSelect, if_neg h]
  repeat' split
  all_goals exact nofun

theorem tapSelect_jtag {ir : BitVec 8} (h : ir ≠ 0x10) : tapSelect ir ≠ 2 := by
  rw [tapSelect, if_neg h]
  repeat' split
  all_goals exact nofun

/-- Settles O54. -/
theorem resets : Obligations.Resets := by
  intro s i x nobodyWaits
  refine ⟨fun hw hp hb => ?_, fun hw byPin h => ⟨fun hst => ?_, fun hst => ?_⟩, fun failed hx hph hnob => ?_, fun pos hx hwait => ?_,
    fun failed hx hph hnob => ?_, fun hx => ?_⟩
  · have hrow : ∃ f : State → State, s.ctlRow i 0x2010 0x80000000 (s.instReset i) = .next (s.access f)
        ∧ ∀ r, f { s with resp := r } = forwarded { s with resp := r } (i, 0x2010, 0x80000000) := by
      refine ⟨_, rfl, fun r => ?_⟩
      dsimp only
      rw [hw.1]
      exact if_pos hb
    obtain ⟨f, hf, hres⟩ := hrow
    have hne : s.fwd ≠ [] := by
      rintro h0
      rw [State.behind, h0] at hb
      exact absurd hb nofun
    exact hf.trans (congrArg _ (State.access_forwarded hp hne hres))
  · obtain ⟨t, hex, ht, -, htr⟩ := instReset_runs hw h
    rw [instReset_awake hw, if_neg hst] at ht htr
    obtain ⟨y, hy, h1, h2, h3, h4, h5, h6, h7, h8⟩ := resetBegin_spec hw.1
    exact ⟨t, y, hex, ht ▸ hy, h1, h2, h3, h4, h5, h6, ht ▸ h7, (congrArg Ring.tail htr).trans h8⟩
  · obtain ⟨t, hex, ht, hts, htr⟩ := instReset_runs hw h
    rw [instReset_awake hw, if_pos hst] at ht hts htr
    exact ⟨t, hex, ht, hts, htr⟩
  · have hidle : NobodyWaits (s.setInst i (x.afterReset failed)) := NobodyWaits.setInst hnob i ⟨rfl, rfl, rfl⟩
    have hdone : exec (.instResetDone i failed false) s = .next (if i = 0 then
        (s.setInst i (x.afterReset failed)).resetPackage s.ss.patches else s.setInst i (x.afterReset failed)) := by
      show Host.Outcome.next (s.atDie i fun x => s.instResetDone i x failed false) = _
      rw [State.atDie, hx]
      dsimp only
      rw [State.instResetDone, if_neg (not_not.2 hph)]
      dsimp only
      rw [State.hubTest, if_neg nofun]
      split
      · rw [resumeWaits_idle (s := (s.setInst i (x.afterReset failed)).resetPackage s.ss.patches) hidle]
      · rw [resumeWaits_idle hidle]
    refine ⟨x.afterReset failed, hdone.trans rfl, rfl, rfl, rfl, rfl, rfl, rfl, rfl, rfl, rfl, rfl, rfl, rfl, rfl, rfl, rfl, rfl, rfl, rfl, rfl,
      rfl, rfl, rfl, rfl, rfl, rfl, fun n => ?_, fun k hk => ?_⟩
    rotate_left
    · have hf : (x.afterReset failed).fences = x.fencesFailed := by rw [Inst.afterReset]
      rw [Inst.fence, hf]
      exact fencesFailed_get x hk
    show (failed &&& cellsBelow x.cellsBuilt).getLsbD n = _
    rw [BitVec.getLsbD_and]
    by_cases hn : n < 256
    · rw [decide_eq_true hn, Bool.and_true]
    · rw [BitVec.getLsbD_of_ge failed n (by omega)]
      rfl
  · have hex : exec (.powerOnReset i pos) s = .next (s.powerOnReset i x pos).released := by
      show Host.Outcome.next (s.atDie i fun x => s.powerOnReset i x pos).released = _
      rw [State.atDie, hx]
    exact ⟨_, _, hex, powerOnReset_spec pos hx hwait, rfl, rfl, rfl, rfl, rfl, rfl, rfl, rfl, rfl, rfl, rfl⟩
  · obtain ⟨hm, hk, hb⟩ := hnob x (List.mem_of_getElem? hx)
    show Host.Outcome.next (s.atDie i fun x => s.powerOnDone i x failed false) = _
    rw [State.atDie, hx]
    dsimp only
    rw [State.powerOnDone, if_neg (not_not.2 hph), State.hubTest, if_neg nofun, resumeWaits_idle]
    exact NobodyWaits.setInst hnob i ⟨hm, hk, hb⟩
  · intro test
    have hex (op : TapOp) : exec (.testStateEnter i op) s = .next (s.testEnter i op x) := by
      show Host.Outcome.next (s.atDie i (s.testEnter i op)) = _
      rw [State.atDie, hx]
    have hsel (b : Nat) (w : Wrapper) (hir : x.tapIr = 0x20) (hb : b ≤ x.cellsBuilt) : s.testEnter i (.wir b w) x =
        let s1 := s.setInst i { x with wir := Tbl.set .bypass x.wir b w }
        if w = .bypass ∨ x.test then s1 else s1.testState i := by
      refine if_neg ?_
      rw [tapSelect, hir]
      exact fun h => h.elim (fun h => h rfl) (Nat.not_lt.2 hb)
    refine ⟨fun code => hex _, fun b w hir => (hex _).trans ?_, fun k hk => (hex _).trans ?_, fun b hir hb => (hex _).trans ?_,
      fun b w hir hb hne ht => ?_, fun k hir h1 h2 ht => ?_⟩
    · exact congrArg _ (if_pos (.inl (tapSelect_wir hir)))
    · refine congrArg _ (if_pos ?_)
      obtain hir | rfl | rfl := hk
      · exact .inl (tapSelect_jtag hir)
      · exact .inr (.inl rfl)
      · exact .inr (.inl rfl)
    · rw [hsel b .bypass hir hb]
      exact congrArg _ (if_pos (.inl rfl))
    · obtain ⟨y, hy⟩ := testState_spec (State.getElem_setInst s i x { x with wir := Tbl.set .bypass x.wir b w } hx)
      refine ⟨_, y, (hex _).trans (congrArg _ ((hsel b w hir hb).trans (if_neg ?_))), hy⟩
      rw [ht]
      exact fun h => h.elim hne nofun
    · obtain ⟨y, hy⟩ := testState_spec hx
      refine ⟨_, y, (hex _).trans (congrArg _ (if_neg ?_)), hy⟩
      rw [hir, ht]
      cases k with
      | clockMonitor => exact absurd rfl h1
      | selfTestResults => exact absurd rfl h2
      | cellSelfTest n => exact nofun
      | sramTest => exact nofun
      | linkMargin => exact nofun
end Sys2Proof

namespace Sys2Proof

/-! SUPPORT. Beats at the drain port (R150 to R155, R177). -/

open Sys2Proof.Machine

/-! ### The beat at the port -/

/-- The cell after a beat that it takes as one owed. -/
def owedTaken (c : Cell) (tag : BitVec 16) (n : Nat) : Cell := { c with
  owed := if n ≤ 1 then c.owed.filter (fun p => p.1 != tag) else c.owed.map fun p => if p.1 == tag then (tag, n - 1) else p }

/-- The cell after a beat that joins a tile. -/
def joinedCell (c : Cell) (t : DrainTile) (beat : List Word) : Cell :=
  { c with drain := c.drain.map fun u => if u.id = t.id then { u with beats := t.beats ++ [beat] } else u }

/-- The cell after a beat that begins a tile. -/
def begunCell (c : Cell) (tag : BitVec 16) (beat : List Word) : Cell :=
  { c with drain := c.drain ++ [{ id := c.freshTile, tag := tag, beats := [beat], bound := none }] }

theorem owed_none {c : Cell} {tag : BitVec 16} (h : c.owed.all (fun p => p.1 != tag) = true) : (c.owed.find? fun p => p.1 == tag) = none := by
  refine List.find?_eq_none.2 fun p hp => ?_
  have h1 := List.all_eq_true.1 h p hp
  simpa using h1

theorem takeBeat_owed {c : Cell} {tag : BitVec 16} {n : Nat} {beat : List Word} (h : c.owed.find? (fun p => p.1 == tag) = some (tag, n)) :
    c.takeBeat tag beat = some (owedTaken c tag n, none) := by
  rw [Cell.takeBeat, h]
  dsimp only
  rw [owedTaken]
  by_cases hn : n ≤ 1
  · rw [if_pos hn, if_pos (by omega)]
  · rw [if_neg hn, if_neg (by omega)]

theorem takeBeat_begins {c : Cell} {tag : BitVec 16} {beat : List Word} (ho : (c.owed.find? fun p => p.1 == tag) = none)
    (h64 : c.heldBeats < 64) (ht : c.beatTile tag = none) (h16 : c.counted < 16) :
    c.takeBeat tag beat = some (begunCell c tag beat, none) := by
  rw [Cell.takeBeat, ho]
  dsimp only
  rw [if_neg (by omega), ht]
  dsimp only
  rw [if_neg (by omega)]
  rfl

theorem takeBeat_joins {c : Cell} {tag : BitVec 16} {beat : List Word} {t : DrainTile} (ho : (c.owed.find? fun p => p.1 == tag) = none)
    (h64 : c.heldBeats < 64) (ht : c.beatTile tag = some t) (h16 : t.beats ≠ [] ∨ c.counted < 16) :
    c.takeBeat tag beat = some (joinedCell c t beat, if t.beats.length = 3 then some t.id else none) := by
  have hroom : (t.beats.isEmpty && decide (16 ≤ c.counted)) = false := by
    obtain h | h := h16
    · simp [h]
    · simp [h]
  rw [Cell.takeBeat, ho]
  dsimp only
  rw [if_neg (by omega), ht]
  dsimp only
  rw [hroom, if_neg nofun, List.length_append, List.length_singleton]
  simp only [Nat.reduceEqDiff]
  rfl

theorem takeBeat_none {c : Cell} {tag : BitVec 16} {beat : List Word} (ho : (c.owed.find? fun p => p.1 == tag) = none)
    (h : 64 ≤ c.heldBeats ∨ 16 ≤ c.counted ∧ ∀ t, c.beatTile tag = some t → t.beats = []) : c.takeBeat tag beat = none := by
  rw [Cell.takeBeat, ho]
  dsimp only
  by_cases h64 : 64 ≤ c.heldBeats
  · rw [if_pos h64]
  · obtain ⟨h16, ht⟩ := h.resolve_left h64
    rw [if_neg h64]
    cases hb : c.beatTile tag with
    | none => exact if_pos h16
    | some t =>
      dsimp only
      rw [ht t hb, if_pos (by simp [h16])]

/-- Every beat is owed, begins a tile, joins one, or is not taken. -/
theorem takeBeat_cases (c : Cell) (tag : BitVec 16) (beat : List Word) :
    (∃ n, c.takeBeat tag beat = some (owedTaken c tag n, none))
    ∨ (c.heldBeats < 64 ∧ c.counted < 16 ∧ c.takeBeat tag beat = some (begunCell c tag beat, none))
    ∨ (∃ t, t ∈ c.drain ∧ c.heldBeats < 64 ∧ (t.beats ≠ [] ∨ c.counted < 16)
      ∧ c.takeBeat tag beat = some (joinedCell c t beat, if t.beats.length = 3 then some t.id else none))
    ∨ c.takeBeat tag beat = none := by
  cases ho : c.owed.find? fun p => p.1 == tag with
  | some p =>
    obtain ⟨g, n⟩ := p
    have hg := List.find?_some ho
    obtain rfl : g = tag := by simpa using hg
    exact .inl ⟨n, takeBeat_owed ho⟩
  | none =>
    by_cases h64 : c.heldBeats < 64
    · cases ht : c.beatTile tag with
      | none =>
        by_cases h16 : c.counted < 16
        · exact .inr (.inl ⟨h64, h16, takeBeat_begins ho h64 ht h16⟩)
        · exact .inr (.inr (.inr (takeBeat_none ho (.inr ⟨Nat.not_lt.1 h16, fun t h => absurd (h.symm.trans ht) nofun⟩))))
      | some t =>
        have hmem : t ∈ c.drain := by
          rw [Cell.beatTile] at ht
          split at ht
          · rename_i u hu
            obtain rfl := Option.some.inj ht
            exact List.mem_of_find?_eq_some hu
          · exact List.mem_of_find?_eq_some ht
        by_cases h16 : t.beats ≠ [] ∨ c.counted < 16
        · exact .inr (.inr (.inl ⟨t, hmem, h64, h16, takeBeat_joins ho h64 ht h16⟩))
        · rw [not_or, not_not] at h16
          exact .inr (.inr (.inr (takeBeat_none ho (.inr ⟨Nat.not_lt.1 h16.2, fun u h => by
            obtain rfl := Option.some.inj (h.symm.trans ht)
            exact h16.1⟩))))
    · exact .inr (.inr (.inr (takeBeat_none ho (.inl (Nat.not_lt.1 h64)))))
/-! ### The step -/

theorem drainBeat_refused {x : Inst} {n : Nat} {tag : BitVec 16} {beat : List Word} {e : Env} (hw : x.awake = true) (hu : CellUp x n)
    (h : ({ x.cell n with gated := false } : Cell).takeBeat tag beat = none) : drainBeatStep n tag beat e x =
      pureRun (x.setCell n { x.cell n with gated := false, stallDrain := satInc (x.cell n).stallDrain }) := by
  rw [drainBeatStep, atPort_awake _ _ hw]
  dsimp only
  rw [if_pos (CellUp.cellRuns hw hu), h]

theorem drainBeat_taken {x : Inst} {n : Nat} {tag : BitVec 16} {beat : List Word} {e : Env} {c1 : Cell} {done : Option Nat}
    (hw : x.awake = true) (hu : CellUp x n) (h : ({ x.cell n with gated := false } : Cell).takeBeat tag beat = some (c1, done)) :
    drainBeatStep n tag beat e x = done.elim (pureRun (x.setCell n c1)) ((pureRun (x.setCell n c1)).tileComplete n) := by
  rw [drainBeatStep, atPort_awake _ _ hw]
  dsimp only
  rw [if_pos (CellUp.cellRuns hw hu), h]
  cases done <;> dsimp only [Option.elim]

/-! ### The last beat of a tile -/

theorem fills_lt {c : Cell} {k : Nat} {p : Fill → Bool} {f : Fill} (h : (c.slot k).fills.find? p = some f) : k < c.slots.length := by
  by_contra hk
  rw [Cell.slot, List.getD_eq_getElem?_getD, List.getElem?_eq_none (by omega)] at h
  exact absurd h nofun

/-- The slots of a cell wait for the same tiles. -/
def SameFills (c d : Cell) : Prop := ∀ k, (d.slot k).fills = (c.slot k).fills

/-- What slot k of cell n takes of a complete tile. -/
def takeAt (n id : Nat) (r : Run) (k : Nat) : Run := ((r.slot n k).fills.find? fun f => f.id == id).elim r (r.fill n k)

theorem takeAt_none {n id : Nat} {r : Run} {k : Nat} (h : ((r.slot n k).fills.find? fun f => f.id == id) = none) : takeAt n id r k = r := by
  rw [takeAt, h]
  rfl

theorem takeAt_some {n id : Nat} {r : Run} {k : Nat} {f : Fill} (h : ((r.slot n k).fills.find? fun f => f.id == id) = some f) :
    takeAt n id r k = r.fill n k f := by
  rw [takeAt, h]
  rfl

/-- A complete tile goes to the add that has bound it, then to the slots that wait for it. -/
theorem tileComplete_eq (r : Run) (n id : Nat) : ∃ r0 : Run,
    (∀ e, ((r.cell n).drain.find? (fun t => t.id == id)).bind DrainTile.bound = some (.add e) →
      r0 = r.setCell n ((r.cell n).addTakes e id).startStores)
    ∧ ((∀ e, ((r.cell n).drain.find? (fun t => t.id == id)).bind DrainTile.bound ≠ some (.add e)) → r0 = r)
    ∧ r.tileComplete n id = (List.range 4).foldl (takeAt n id) r0 := by
  unfold Run.tileComplete
  refine ⟨_, fun e h => ?_, fun h => ?_, foldl_congr_fun (fun r k => ?_) _ _⟩
  · rw [h]
  · split
    · rename_i e he
      exact absurd he (h e)
    · rfl
  · rw [takeAt]
    cases (r.slot n k).fills.find? fun f => f.id == id <;> rfl

theorem setSlot_fills {c : Cell} {j : Nat} {z : Slot} (h : z.fills = (c.slot j).fills) : SameFills c (c.setSlot j z) := fun k => by
  by_cases hk : k = j
  · subst hk
    by_cases hlt : k < c.slots.length
    · rw [Cell.slot_setSlot _ _ _ hlt, h]
    · rw [Cell.setSlot, List.set_eq_of_length_le (Nat.not_lt.1 hlt)]
  · rw [Cell.slot_setSlot_other _ _ _ _ hk]

/-- The ledger events that an add takes leave what the slots wait for. -/
theorem addTakes_spec (c : Cell) (e id : Nat) : SameFills c (c.addTakes e id) ∧ (c.addTakes e id).drain = c.drain
    ∧ (c.addTakes e id).owed = c.owed := by
  rw [Cell.addTakes]
  split
  · exact ⟨fun _ => rfl, rfl, rfl⟩
  · split
    · exact ⟨fun _ => rfl, rfl, rfl⟩
    · refine ⟨fun k => ?_, rfl, rfl⟩
      rename_i a _
      dsimp only
      refine setSlot_fills (z := (c.slot a.slot).giveFeeds) ?_ k
      rfl

theorem startStores_sameFills (c : Cell) : SameFills c c.startStores ∧ c.startStores.drain = c.drain ∧ c.startStores.owed = c.owed := by
  rw [Cell.startStores_frame]
  exact ⟨fun _ => rfl, rfl, rfl⟩

/-- A run that changes one cell, but for its drain queue and the beats owed. -/
def KeepsDrain (n : Nat) (r q : Run) : Prop := q.effs = r.effs ∧ OnlyCell r.x q.x n ∧ (q.cell n).drain = (r.cell n).drain
  ∧ (q.cell n).owed = (r.cell n).owed

theorem KeepsDrain.refl (n : Nat) (r : Run) : KeepsDrain n r r := ⟨rfl, ⟨rfl, fun _ _ => rfl⟩, rfl, rfl⟩

theorem KeepsDrain.trans {n : Nat} {r q p : Run} (h1 : KeepsDrain n r q) (h2 : KeepsDrain n q p) : KeepsDrain n r p := by
  obtain ⟨a1, ⟨a2, a3⟩, a4, a5⟩ := h1
  obtain ⟨b1, ⟨b2, b3⟩, b4, b5⟩ := h2
  refine ⟨b1.trans a1, ⟨?_, fun m hm => (b3 m hm).trans (a3 m hm)⟩, b4.trans a4, b5.trans a5⟩
  rw [b2, a2]

theorem keepsDrain_setCell {n : Nat} {r : Run} {d : Cell} (h1 : d.drain = (r.cell n).drain) (h2 : d.owed = (r.cell n).owed) :
    KeepsDrain n r (r.setCell n d) := by
  refine ⟨rfl, ⟨rfl, fun m hm => Inst.cell_setCell_other _ _ _ _ hm⟩, ?_, ?_⟩
  · rw [Run.cell_setCell, h1]
  · rw [Run.cell_setCell, h2]

theorem keepsDrain_mashStep (r : Run) (n k dst : Nat) (en : Mask) (input : Option (List Word)) :
    KeepsDrain n r (r.mashStep n k dst en input) := by
  unfold Run.mashStep
  dsimp only
  split <;> split <;> exact keepsDrain_setCell rfl rfl

theorem keepsDrain_fill (r : Run) (n k : Nat) (f : Fill) : KeepsDrain n r (r.fill n k f) := by
  rw [Run.fill]
  split
  · exact keepsDrain_setCell rfl rfl
  · refine KeepsDrain.trans ?_ (keepsDrain_mashStep _ n k _ _ _)
    exact keepsDrain_setCell rfl rfl

theorem keepsDrain_complete (r : Run) (n id : Nat) : KeepsDrain n r (r.tileComplete n id) := by
  obtain ⟨r0, hadd, hno, heq⟩ := tileComplete_eq r n id
  rw [heq]
  refine foldl_keeps (P := fun q => KeepsDrain n r q) (fun q k hq => hq.trans ?_) _ ?_
  · cases hf : (q.slot n k).fills.find? fun f => f.id == id with
    | none =>
      rw [takeAt_none hf]
      exact KeepsDrain.refl n q
    | some f =>
      rw [takeAt_some hf]
      exact keepsDrain_fill q n k f
  · by_cases he : ∃ e, ((r.cell n).drain.find? (fun t => t.id == id)).bind DrainTile.bound = some (.add e)
    · obtain ⟨e, he⟩ := he
      obtain ⟨-, h1, h2⟩ := addTakes_spec (r.cell n) e id
      obtain ⟨-, h3, h4⟩ := startStores_sameFills ((r.cell n).addTakes e id)
      rw [hadd e he]
      exact keepsDrain_setCell (h3.trans h1) (h4.trans h2)
    · rw [hno fun e h => he ⟨e, h⟩]
      exact KeepsDrain.refl n r
/-! ### The bounds of the drain queue (R150, R155) -/

/-- A beat that joins a tile changes that tile alone. -/
theorem joined_split {l : List DrainTile} {t : DrainTile} (ht : t ∈ l) (hn : (l.map DrainTile.id).Nodup) (bs : List (List Word)) :
    ∃ as cs, l = as ++ t :: cs
      ∧ (l.map fun u => if u.id = t.id then { u with beats := bs } else u) = as ++ { t with beats := bs } :: cs := by
  obtain ⟨as, cs, rfl⟩ := List.append_of_mem ht
  refine ⟨as, cs, rfl, ?_⟩
  rw [List.map_append, List.map_cons, List.nodup_append, List.nodup_cons] at hn
  obtain ⟨-, ⟨hc, -⟩, hd⟩ := hn
  have hkeep (us : List DrainTile) (h : ∀ u ∈ us, u.id ≠ t.id) :
      (us.map fun u => if u.id = t.id then { u with beats := bs } else u) = us := by
    refine (List.map_congr_left fun u hu => ?_).trans (List.map_id us)
    rw [if_neg (h u hu)]
    rfl
  rw [List.map_append, List.map_cons, if_pos rfl,
    hkeep as fun u hu he => hd _ (List.mem_map_of_mem hu) _ List.mem_cons_self he,
    hkeep cs fun u hu he => hc (he ▸ List.mem_map_of_mem hu)]

/-- The drain queue of a cell is within its bounds. -/
def DrainOk (c : Cell) : Prop := (c.drain.map DrainTile.id).Nodup ∧ c.heldBeats ≤ 64 ∧ c.counted ≤ 16

theorem drainOk_congr {c d : Cell} (h : DrainOk c) (h1 : d.drain = c.drain) (h2 : d.owed = c.owed) : DrainOk d := by
  obtain ⟨ha, hb, hc⟩ := h
  refine ⟨by rw [h1]; exact ha, ?_, ?_⟩
  · rw [Cell.heldBeats, h1]
    exact hb
  · rw [Cell.counted, h1, h2]
    exact hc

theorem drainOk_owed {c : Cell} (h : DrainOk c) (tag : BitVec 16) (n : Nat) : DrainOk (owedTaken c tag n) := by
  obtain ⟨ha, hb, hc⟩ := h
  refine ⟨ha, hb, le_trans (Nat.add_le_add_left ?_ _) hc⟩
  rw [owedTaken]
  dsimp only
  split
  · exact List.length_filter_le ..
  · rw [List.length_map]

theorem drainOk_joined {c : Cell} {t : DrainTile} {beat : List Word} (h : DrainOk c) (ht : t ∈ c.drain) (h64 : c.heldBeats < 64)
    (h16 : t.beats ≠ [] ∨ c.counted < 16) : DrainOk (joinedCell c t beat) := by
  obtain ⟨ha, hb, hc⟩ := h
  obtain ⟨as, cs, hl, hj⟩ := joined_split ht ha (t.beats ++ [beat])
  have hdrain : (joinedCell c t beat).drain = as ++ { t with beats := t.beats ++ [beat] } :: cs := hj
  refine ⟨?_, ?_, ?_⟩
  · rw [hdrain]
    rw [hl] at ha
    simpa using ha
  · rw [Cell.heldBeats, hl] at h64
    rw [Cell.heldBeats, hdrain]
    simp only [List.map_append, List.map_cons, List.sum_append, List.sum_cons, List.length_append, List.length_singleton] at h64 ⊢
    omega
  · rw [Cell.counted, hl] at hc h16
    rw [Cell.counted, hdrain]
    have howed : (joinedCell c t beat).owed = c.owed := rfl
    rw [howed]
    have hfull : (!(t.beats ++ [beat]).isEmpty) = true := by simp
    simp only [List.filter_append, List.length_append, List.filter_cons, hfull, if_true, List.length_cons] at hc h16 ⊢
    cases hbs : t.beats with
    | nil =>
      simp only [hbs, List.isEmpty_nil, Bool.not_true, Bool.false_eq_true, if_false, ne_eq, not_true_eq_false, false_or] at hc h16
      omega
    | cons b bs =>
      simp only [hbs, List.isEmpty_cons, Bool.not_false, if_true, List.length_cons] at hc
      omega

/-- A number of a new tile is no other tile's. -/
theorem freshTile_new (c : Cell) : c.freshTile ∉ c.drain.map DrainTile.id := by
  have hex : ∃ i ∈ List.range (c.drain.length + 1), (c.drain.all fun t => decide (t.id ≠ i)) = true := by
    by_contra hno
    have hsub : List.range (c.drain.length + 1) ⊆ c.drain.map DrainTile.id := fun i hi => by
      by_contra hc
      refine hno ⟨i, hi, List.all_eq_true.2 fun t ht => decide_eq_true fun he => hc ?_⟩
      exact he ▸ List.mem_map_of_mem ht
    have hlen := (List.nodup_range (n := c.drain.length + 1)).length_le_of_subset hsub
    rw [List.length_range, List.length_map] at hlen
    omega
  obtain ⟨i, hi, ha⟩ := hex
  have hsome : ∃ j, ((List.range (c.drain.length + 1)).find? fun i => c.drain.all fun t => decide (t.id ≠ i)) = some j := by
    cases hf : (List.range (c.drain.length + 1)).find? fun i => c.drain.all fun t => decide (t.id ≠ i) with
    | some j => exact ⟨j, rfl⟩
    | none => exact absurd ha (by simpa using List.find?_eq_none.1 hf i hi)
  obtain ⟨j, hj⟩ := hsome
  have hall := List.find?_some hj
  rw [Cell.freshTile, hj]
  intro hmem
  obtain ⟨t, ht, hid⟩ := List.mem_map.1 hmem
  exact absurd hid (by simpa using List.all_eq_true.1 hall t ht)

theorem drainOk_begun {c : Cell} {tag : BitVec 16} {beat : List Word} (h : DrainOk c) (h64 : c.heldBeats < 64) (h16 : c.counted < 16) :
    DrainOk (begunCell c tag beat) := by
  obtain ⟨ha, -, -⟩ := h
  refine ⟨?_, ?_, ?_⟩
  · rw [begunCell, List.map_append, List.nodup_append]
    refine ⟨ha, List.nodup_singleton _, fun i hi j hj => ?_⟩
    rw [List.map_singleton, List.mem_singleton] at hj
    intro hij
    have hfresh : i = c.freshTile := hij.trans hj
    exact freshTile_new c (hfresh ▸ hi)
  · rw [Cell.heldBeats] at h64 ⊢
    rw [begunCell, List.map_append, List.sum_append]
    exact h64
  · rw [Cell.counted] at h16 ⊢
    rw [begunCell]
    simp only [List.filter_append, List.length_append]
    have hone : ([{ id := c.freshTile, tag := tag, beats := [beat], bound := none }].filter fun t : DrainTile => !t.beats.isEmpty).length = 1 := rfl
    omega

theorem keepsDrain_pure {x : Inst} {n : Nat} {d : Cell} {r : Run} (h : KeepsDrain n (pureRun (x.setCell n d)) r) (hd : DrainOk d) :
    ∃ y, r = pureRun y ∧ OnlyCell x y n ∧ DrainOk (y.cell n) := by
  obtain ⟨k1, ⟨k2, k3⟩, k4, k5⟩ := h
  have hcell : (pureRun (x.setCell n d)).cell n = d := Inst.cell_setCell ..
  rw [hcell] at k4 k5
  obtain ⟨y, es⟩ := r
  obtain rfl : es = [] := k1
  refine ⟨y, rfl, ⟨?_, fun m hm => (k3 m hm).trans (Inst.cell_setCell_other _ _ _ _ hm)⟩, drainOk_congr hd k4 k5⟩
  exact k2

/-- No beat breaks the bounds of the drain queue. -/
theorem drainBeat_ok {x : Inst} {n : Nat} {tag : BitVec 16} {beat : List Word} {e : Env} (hw : x.awake = true) (hu : CellUp x n)
    (h : DrainOk (x.cell n)) : ∃ y, drainBeatStep n tag beat e x = pureRun y ∧ OnlyCell x y n ∧ DrainOk (y.cell n) := by
  have hset (d : Cell) : OnlyCell x (x.setCell n d) n := ⟨rfl, fun m hm => Inst.cell_setCell_other _ _ _ _ hm⟩
  have hc : DrainOk ({ x.cell n with gated := false } : Cell) := drainOk_congr h rfl rfl
  have hplain (d : Cell) (hr : drainBeatStep n tag beat e x = pureRun (x.setCell n d)) (hd : DrainOk d) :
      ∃ y, drainBeatStep n tag beat e x = pureRun y ∧ OnlyCell x y n ∧ DrainOk (y.cell n) :=
    ⟨_, hr, hset d, by rw [Inst.cell_setCell]; exact hd⟩
  obtain ⟨m, ht⟩ | ⟨h64, h16, ht⟩ | ⟨t, hmem, h64, h16, ht⟩ | ht := takeBeat_cases { x.cell n with gated := false } tag beat
  · exact hplain _ (drainBeat_taken hw hu ht) (drainOk_owed hc tag m)
  · exact hplain _ (drainBeat_taken hw hu ht) (drainOk_begun hc h64 h16)
  · have hj := drainOk_joined (beat := beat) hc hmem h64 h16
    have hr := drainBeat_taken (e := e) hw hu ht
    split at hr
    · rw [Option.elim_some] at hr
      obtain ⟨y, hy, hok⟩ := keepsDrain_pure (keepsDrain_complete (pureRun (x.setCell n (joinedCell _ t beat))) n t.id) hj
      exact ⟨y, hr.trans hy, hok⟩
    · exact hplain _ hr hj
  · exact hplain _ (drainBeat_refused hw hu ht) (drainOk_congr hc rfl rfl)
/-! ### The consumer of a complete tile -/

theorem foldl_takeAt_none {n id : Nat} {r : Run} {l : List Nat} (h : ∀ m ∈ l, ((r.slot n m).fills.find? fun f => f.id == id) = none) :
    l.foldl (takeAt n id) r = r := by
  induction l with
  | nil => rfl
  | cons m l ih =>
    rw [List.foldl_cons, takeAt_none (h m List.mem_cons_self)]
    exact ih fun j hj => h j (List.mem_cons_of_mem _ hj)

/-- The one slot that waits for a tile takes it. -/
theorem foldl_takeAt_one {n id k : Nat} {f : Fill} {r : Run} {l : List Nat} (hl : l.Nodup) (hk : k ∈ l)
    (hf : ((r.slot n k).fills.find? fun f => f.id == id) = some f)
    (h0 : ∀ m, m ≠ k → ((r.slot n m).fills.find? fun f => f.id == id) = none)
    (h1 : ∀ m, m ≠ k → (((r.fill n k f).slot n m).fills.find? fun f => f.id == id) = none) :
    l.foldl (takeAt n id) r = r.fill n k f := by
  induction l with
  | nil => exact absurd hk List.not_mem_nil
  | cons m l ih =>
    obtain ⟨hm, hl⟩ := List.nodup_cons.1 hl
    rw [List.foldl_cons]
    by_cases hmk : m = k
    · subst hmk
      rw [takeAt_some hf]
      exact foldl_takeAt_none fun j hj => h1 j fun he => hm (he ▸ hj)
    · rw [takeAt_none (h0 m hmk)]
      exact ih hl ((List.mem_cons.1 hk).resolve_left (Ne.symm hmk))

/-- The tile that a beat joins, found by its number. -/
theorem joined_find {c : Cell} {t : DrainTile} {beat : List Word} (h : (c.drain.find? fun u => u.id == t.id) = some t) :
    ((joinedCell c t beat).drain.find? fun u => u.id == t.id) = some { t with beats := t.beats ++ [beat] } := by
  have hcomp : ((fun u : DrainTile => u.id == t.id) ∘ fun u => if u.id = t.id then { u with beats := t.beats ++ [beat] } else u)
      = fun u => u.id == t.id := by
    funext u
    by_cases hu : u.id = t.id <;> simp [hu]
  rw [joinedCell, List.find?_map, hcomp, h, Option.map_some, if_pos rfl]

/-- A tile whose beats join it, bound by nothing that waits. -/
theorem joined_bound {c : Cell} {t : DrainTile} {beat : List Word} (h : ∀ u ∈ c.drain, u.id = t.id → ∀ e, u.bound ≠ some (.add e)) (e : Nat) :
    ((joinedCell c t beat).drain.find? fun u => u.id == t.id).bind DrainTile.bound ≠ some (.add e) := by
  cases hf : (joinedCell c t beat).drain.find? fun u => u.id == t.id with
  | none => exact nofun
  | some v =>
    obtain ⟨u, hu, rfl⟩ := List.mem_map.1 (List.mem_of_find?_eq_some hf)
    have hid := List.find?_some hf
    rw [Option.bind_some]
    split
    · rename_i he
      exact h u hu he e
    · rename_i hne
      rw [if_neg hne] at hid
      exact absurd (by simpa using hid) hne

/-- A slot takes a complete tile into its vitrine: what its cell becomes (R151, R159). -/
theorem fill_vit {x : Inst} {n k i id : Nat} {en : Mask} {d : Cell} : (pureRun (x.setCell n d)).fill n k { id := id, kind := .vit i en } =
    pureRun (x.setCell n ((d.setSlot k { (d.slot k).takeFeeds with
      fills := (d.slot k).fills.filter fun g => g.id != id
      tile := { (d.slot k).takeFeeds.tile with bound := (d.slot k).tile.bound ++ [id] } }).setVit i
        (pickLanes en (d.vit i) (d.tileWords id)))) := by
  have hcell : (pureRun (x.setCell n d)).cell n = d := Inst.cell_setCell ..
  rw [Run.fill, hcell]
  exact congrArg pureRun (Inst.setCell_setCell ..)

theorem slot_setCell (x : Inst) (n k : Nat) (d : Cell) : (pureRun (x.setCell n d)).slot n k = d.slot k :=
  congrArg (fun c : Cell => c.slot k) (Inst.cell_setCell ..)

theorem complete_none {x : Inst} {n id : Nat} {d : Cell} (h : ∀ k, ((d.slot k).fills.find? fun f => f.id == id) = none)
    (hb : ∀ e, (d.drain.find? fun t => t.id == id).bind DrainTile.bound ≠ some (.add e)) :
    (pureRun (x.setCell n d)).tileComplete n id = pureRun (x.setCell n d) := by
  have hcell : (pureRun (x.setCell n d)).cell n = d := Inst.cell_setCell ..
  refine Run.tileComplete_none _ n id (fun k => ?_) fun e => ?_
  · rw [slot_setCell]
    exact h k
  · rw [hcell]
    exact hb e

/-- An add that has bound a complete tile lets the stores that may begin do so (R129). -/
theorem complete_add {x : Inst} {n id e : Nat} {d : Cell} (h : ∀ k, ((d.slot k).fills.find? fun f => f.id == id) = none)
    (hb : (d.drain.find? fun t => t.id == id).bind DrainTile.bound = some (.add e)) :
    (pureRun (x.setCell n d)).tileComplete n id = pureRun (x.setCell n (d.addTakes e id).startStores) := by
  have hcell : (pureRun (x.setCell n d)).cell n = d := Inst.cell_setCell ..
  obtain ⟨r0, hadd, -, heq⟩ := tileComplete_eq (pureRun (x.setCell n d)) n id
  rw [hcell] at hadd
  have hr0 : r0 = pureRun (x.setCell n (d.addTakes e id).startStores) := (hadd e hb).trans (congrArg pureRun (Inst.setCell_setCell ..))
  rw [heq, hr0]
  refine foldl_takeAt_none fun k _ => ?_
  rw [slot_setCell, (startStores_sameFills _).1 k, (addTakes_spec d e id).1 k]
  exact h k

/-- A slot that waits for a complete tile takes it. -/
theorem complete_vit {x : Inst} {n id k i : Nat} {en : Mask} {d : Cell} (hk : k < 4)
    (hf : ((d.slot k).fills.find? fun f => f.id == id) = some { id := id, kind := .vit i en })
    (h : ∀ m, m ≠ k → ((d.slot m).fills.find? fun f => f.id == id) = none)
    (hb : ∀ e, (d.drain.find? fun t => t.id == id).bind DrainTile.bound ≠ some (.add e)) :
    (pureRun (x.setCell n d)).tileComplete n id = pureRun (x.setCell n ((d.setSlot k { (d.slot k).takeFeeds with
      fills := (d.slot k).fills.filter fun g => g.id != id
      tile := { (d.slot k).takeFeeds.tile with bound := (d.slot k).tile.bound ++ [id] } }).setVit i
        (pickLanes en (d.vit i) (d.tileWords id)))) := by
  have hcell : (pureRun (x.setCell n d)).cell n = d := Inst.cell_setCell ..
  obtain ⟨r0, -, hno, heq⟩ := tileComplete_eq (pureRun (x.setCell n d)) n id
  rw [hcell] at hno
  rw [heq, hno hb, foldl_takeAt_one List.nodup_range (List.mem_range.2 hk) (by rw [slot_setCell]; exact hf)
    (fun m hm => by rw [slot_setCell]; exact h m hm), fill_vit]
  intro m hm
  rw [fill_vit, slot_setCell]
  refine Eq.trans (congrArg (fun z : Slot => z.fills.find? _) ?_) (h m hm)
  exact Cell.slot_setSlot_other _ _ _ _ hm

/-- Settles O29: the beats by `takeBeat_cases`, their bounds by `drainBeat_ok`, the flush by `Cell.discardTiles_spec`. -/
theorem drainPort : Obligations.DrainPort := by
  refine ⟨fun s a x tag beat => ?_, fun s a x => ?_⟩
  · intro c hw hlt hu
    have hrun (d : Cell) (hd : drainBeatStep a.cell tag beat (s.env a.inst) x = pureRun (x.setCell a.cell d)) :
        CellRun (.drainBeat a tag beat) s a x d := CellRun.of_cell rfl hw.1 hlt hd
    refine ⟨fun n hn => hrun _ (drainBeat_taken hw.2 hu (takeBeat_owed hn)),
      fun ho h64 ht h16 => hrun _ (drainBeat_taken hw.2 hu (takeBeat_begins (owed_none ho) h64 ht h16)),
      fun t ho h64 ht h16 => ?_, fun ho h => hrun _ (drainBeat_refused hw.2 hu (takeBeat_none (owed_none ho) h)), fun hn h64 h16 => ?_⟩
    · intro joined waits
      have hstep := drainBeat_taken (e := s.env a.inst) hw.2 hu (takeBeat_joins (beat := beat) (owed_none ho) h64 ht h16)
      have hjoined : joinedCell ({ x.cell a.cell with gated := false } : Cell) t beat = joined := rfl
      rw [hjoined] at hstep
      have hnone (k : Nat) (h : ∀ f, ¬waits k f) : ((joined.slot k).fills.find? fun f => f.id == t.id) = none :=
        Option.eq_none_iff_forall_ne_some.2 h
      have hdone (d : Cell) (h3 : t.beats.length = 3) (hd : (pureRun (x.setCell a.cell joined)).tileComplete a.cell t.id
          = pureRun (x.setCell a.cell d)) : CellRun (.drainBeat a tag beat) s a x d := by
        rw [if_pos h3, Option.elim_some] at hstep
        exact hrun d (hstep.trans hd)
      refine ⟨fun hno => ?_, fun h3 hfind => ⟨fun e hb hno => ?_, fun k j i en hb hk hno h4 => ?_⟩⟩
      · by_cases h3 : t.beats.length = 3
        · obtain ⟨h1, h2⟩ := hno h3
          exact hdone _ h3 (complete_none (fun k => hnone k (h1 k)) (joined_bound (beat := beat) h2))
        · rw [if_neg h3] at hstep
          exact hrun _ hstep
      · refine hdone _ h3 (complete_add (fun k => hnone k (hno k)) ?_)
        rw [show (joined.drain.find? fun u => u.id == t.id) = _ from joined_find hfind]
        exact hb
      · have hjf : (joined.drain.find? fun u => u.id == t.id) = some { t with beats := t.beats ++ [beat] } := joined_find hfind
        have hwords : joined.tileWords t.id = (t.beats ++ [beat]).flatten := by
          rw [Cell.tileWords, Cell.tileBeats, hjf]
        have hbound (e : Nat) : (joined.drain.find? fun u => u.id == t.id).bind DrainTile.bound ≠ some (.add e) := by
          rw [hjf]
          exact fun he => absurd (hb.symm.trans he) nofun
        have hv := complete_vit (x := x) (n := a.cell) (d := joined) (id := t.id) h4 hk (fun m hm => hnone m fun f => hno m f hm) hbound
        rw [hwords] at hv
        exact hdone _ h3 hv
    · obtain ⟨y, hy, hone, hok⟩ := drainBeat_ok (e := s.env a.inst) (tag := tag) (beat := beat) hw.2 hu ⟨hn, h64, h16⟩
      refine ⟨y, ?_, hone, hok⟩
      exact (onCell_some (a := a) _ hw.1 hlt).trans (congrArg _ (State.runAt_pure hy))
  · intro c hw hp hlt hn
    let d0 : Cell := { c with gated := false }
    let ids := (d0.drain.filter fun t => t.bound.isNone).map (·.id)
    have hids : ids.Nodup := hn.sublist (List.filter_sublist.map _)
    obtain ⟨d, hd, hframe, hdrain, -, howed⟩ := Cell.discardTiles_spec ids d0 hids
    have hkeep : d.drain = c.drain.filter fun t => t.bound.isSome := by
      rw [hdrain]
      refine List.filter_congr fun t ht => ?_
      have hmem : t.id ∈ ids ↔ t.bound = none := by
        constructor
        · intro h
          obtain ⟨u, hu, he⟩ := List.mem_map.1 h
          obtain ⟨hu, hub⟩ := List.mem_filter.1 hu
          obtain rfl : u = t := List.inj_on_of_nodup_map hn hu ht he
          simpa using hub
        · exact fun h => List.mem_map_of_mem (List.mem_filter.2 ⟨ht, by rw [h]; rfl⟩)
      cases hb : t.bound with
      | none => simp [hmem.2 hb]
      | some b => simp [show t.id ∉ ids from fun h => absurd ((hmem.1 h).symm.trans hb) nofun]
    refine ⟨d, ?_, ?_, fun t ht hb h1 h4 => howed hn t ht (List.mem_map_of_mem (List.mem_filter.2 ⟨ht, by rw [hb]; rfl⟩)) h1 h4⟩
    · refine CtlRun.of_row rfl rfl hw hp ((if_pos hlt).trans (congrArg (s.setInst a.inst) ?_))
      have hcell : (x.ungate a.cell).cell a.cell = d0 := Inst.cell_setCell ..
      rw [hcell, Cell.flushUnbound, hd]
      exact Inst.setCell_setCell ..
    · rw [hframe, hkeep]
end Sys2Proof


/-! SUPPORT. Transfer requests (R305, R306). -/
namespace Sys2Proof
open Sys2Proof.Machine

theorem ungate_awake (x : Inst) (n : Nat) : (x.ungate n).awake = x.awake := rfl

/-- At an instance at work with a cell a request is what `transferRequest` makes of it. -/
theorem transferRequest_exec {s : State} {a : CellAt} {x : Inst} (ws : List Word) (lines : List SpLine)
    (hw : AtWork s a.inst x) (hlt : a.cell < x.cellsBuilt) :
    exec (.transferRequest a ws lines) s = .next (transferRequest s a ws lines x) := by
  have h : s.atCell a (transferRequest s a ws lines) = transferRequest s a ws lines x := by
    simp only [State.atCell, State.atDie, hw.1]
    exact if_pos hlt
  exact congrArg Host.Outcome.next h

theorem queueFull_iff {s : State} {j : Nat} :
    s.queueFull j = true ↔ ∃ y, s.insts[j]? = some y ∧ y.awake = true ∧ 2048 ≤ y.queuedXfers := by
  unfold State.queueFull
  cases s.insts[j]? <;> simp

section
variable {s : State} {a : CellAt} {x : Inst} {ws : List Word} {lines : List SpLine} (haw : x.awake = true)
  (hpost : (x.cell a.cell).heldPost = none)
include haw

theorem request_full (h : (s.setInst a.inst (x.ungate a.cell)).queueFull (handleInst (wordAt ws 0)) = true) :
    transferRequest s a ws lines x = s.setInst a.inst (x.ungate a.cell) := by
  unfold transferRequest
  rw [if_neg (by simp [haw])]
  exact if_pos (by simp [h])

include hpost

theorem request_refused (h : ¬(s.setInst a.inst (x.ungate a.cell)).queueFull (handleInst (wordAt ws 0)) = true) {code : Nat}
    (hc : (x.ungate a.cell).portCheck a.cell ws = code) (h0 : code ≠ 0) :
    transferRequest s a ws lines x = s.setInst a.inst ((x.ungate a.cell).respond a.cell code) := by
  have hp : ((x.ungate a.cell).cell a.cell).heldPost = none := by
    rw [Inst.ungate, Inst.cell_setCell]; exact hpost
  unfold transferRequest
  rw [if_neg (by simp [haw])]
  dsimp only
  rw [if_neg (by simp [hp, h]), hc]
  exact if_pos h0

/-- A request with a handle of the instance itself ends as its acceptance says. -/
theorem request_own (h : ¬(s.setInst a.inst (x.ungate a.cell)).queueFull (handleInst (wordAt ws 0)) = true)
    (hw : AtWork s a.inst x) (hi : handleInst (wordAt ws 0) = a.inst)
    (hc : (x.ungate a.cell).portCheck a.cell ws = 0) {code : Nat} {y : Inst}
    (hy : (x.ungate a.cell).acceptXfer ((s.setInst a.inst (x.ungate a.cell)).env a.inst) a.cell ws lines = some (code, y)) :
    transferRequest s a ws lines x = s.setInst a.inst (y.respond a.cell code) := by
  have hp : ((x.ungate a.cell).cell a.cell).heldPost = none := by
    rw [Inst.ungate, Inst.cell_setCell]; exact hpost
  have hget : (s.setInst a.inst (x.ungate a.cell)).insts[a.inst]? = some (x.ungate a.cell) := State.getElem_setInst s _ x _ hw.1
  have hget' : (s.setInst a.inst y).insts[a.inst]? = some y := State.getElem_setInst _ _ _ _ hw.1
  have hs : (s.setInst a.inst (x.ungate a.cell)).sleepers a.inst a.inst = [] := by simp [State.sleepers, State.path]
  unfold transferRequest
  rw [if_neg (by simp [haw])]
  dsimp only
  rw [if_neg (by simp [hp, h]), hc]
  simp only [hi, hget, hs, hy, hget', ungate_awake, haw, State.setInst_setInst, State.linked]
  simp only [decide_true, Bool.true_or, Bool.not_true, Bool.and_false, ne_eq, not_true_eq_false, Bool.false_and, Bool.false_eq_true,
    if_false]
end

/-- A check of R306 that the handle's instance makes has no place while it holds requests only at 2,048. -/
theorem acceptXfer_check {e : Env} {x : Inst} {n : Nat} {ws : List Word} {lines : List SpLine} (hq : x.queuedXfers < 2048)
    {code : Nat} (hc : x.requestCheck (wordAt ws 0) = code) (h0 : code ≠ 0) : x.acceptXfer e n ws lines = some (code, x) := by
  unfold Inst.acceptXfer
  dsimp only
  rw [if_neg (by simp; omega), hc]
  exact if_pos h0

theorem acceptXfer_range {e : Env} {x : Inst} {n : Nat} {ws : List Word} {lines : List SpLine} (hq : x.queuedXfers < 2048)
    (hc : x.requestCheck (wordAt ws 0) = 0) (h : requestRange ws = false) : x.acceptXfer e n ws lines = some (errSpRange, x) := by
  unfold Inst.acceptXfer
  dsimp only
  rw [if_neg (by simp; omega), hc, h]
  rfl

/-- The lines of a request are all there, without an error response. -/
def LinesHere (ws : List Word) (lines : List SpLine) : Prop := ∀ l ∈ requestLines ws, ∃ q, lineIn lines l = some q ∧ q.resp = 0

theorem acceptXfer_shape {e : Env} {x : Inst} {n : Nat} {ws : List Word} {lines : List SpLine} (hq : x.queuedXfers < 2048)
    (hc : x.requestCheck (wordAt ws 0) = 0) (h : requestRange ws = true) (hl : LinesHere ws lines) :
    x.acceptXfer e n ws lines =
      (let c2 := shapeCheck ws (Desc.of (dataIn lines (xSrc ws / 64))) (Desc.of (dataIn lines (xDst ws / 64)))
        (dataIn lines (xSrc ws / 64 + 1))
      if c2 ≠ 0 then some (c2, x)
      else some (0, { x with xfers := x.xfers ++ [newXfer e x n ws lines], xferSeq := x.xferSeq + 1 }.claimHeld
        (newXfer e x n ws lines))) := by
  have h1 : ((requestLines ws).any fun l => (lineIn lines l).isNone) = false := by
    rw [List.any_eq_false]
    intro l hm
    obtain ⟨q, hq, -⟩ := hl l hm
    simp [hq]
  have h2 : ((requestLines ws).findSome? fun l => match lineIn lines l with
      | some q => if q.resp = 0 then none else some (respErr q.resp)
      | none => none) = none := by
    rw [List.findSome?_eq_none_iff]
    intro l hm
    obtain ⟨q, hq, h0⟩ := hl l hm
    simp [hq, h0]
  unfold Inst.acceptXfer
  dsimp only
  rw [if_neg (by simp; omega), hc, h, h1]
  simp only [ne_eq, not_true_eq_false, if_false, Bool.not_true, Bool.false_eq_true]
  split
  · rename_i code hcode
    exact absurd (hcode.symm.trans h2) nofun
  · rfl

/-- Settles O34: the checks of R306, one after another, then the new transfer. -/
theorem transferRequests : Obligations.TransferRequests := by
  unfold Obligations.TransferRequests
  intro s a x ws lines x0 h v mine desc shape refuse full t hw hlt hpost
  have hfull : full ↔ (s.setInst a.inst x0).queueFull (handleInst (wordAt ws 0)) = true := queueFull_iff.symm
  have hrun := transferRequest_exec ws lines hw hlt
  have hrefuse (hn : ¬full) {code : Nat} (hc : x0.portCheck a.cell ws = code) (h0 : code ≠ 0) : refuse code :=
    hrun.trans (congrArg _ (request_refused hw.2 hpost (hfull.not.1 hn) hc h0))
  refine ⟨fun hf => hrun.trans (congrArg _ (request_full hw.2 (hfull.1 hf))), fun hn hout => hrefuse hn (if_pos hout) nofun,
    fun hn hout => ?_⟩
  have hin : ¬x0.cellOut a.cell = true := fun h => absurd (hout.symm.trans h) nofun
  refine ⟨fun hbad => hrefuse hn ((if_neg hin).trans (if_pos ?_)) nofun, fun hlen hwords hi hcount => ?_⟩
  · exact (by simpa only [Bool.not_eq_true'] using hbad : ws.length ≠ 8 ∨ (!xWordsOk ws) = true ∨ x.instCount ≤ handleInst h)
  have hgood : ¬(ws.length ≠ 8 ∨ (!xWordsOk ws) = true ∨ x0.instCount ≤ handleInst (wordAt ws 0)) := by
    have : handleInst (wordAt ws 0) < x0.instCount := hi ▸ hcount
    simp [hlen, hwords, this]
  refine ⟨fun hs => hrefuse hn ((if_neg hin).trans ((if_neg hgood).trans (if_pos (by rw [show x0.stream = x.stream from rfl, hs]; rfl)))) nofun, fun hs => ?_⟩
  have hport : x0.portCheck a.cell ws = 0 :=
    (if_neg hin).trans ((if_neg hgood).trans (if_neg (by rw [show x0.stream = x.stream from rfl, hs]; nofun)))
  have hq : x0.queuedXfers < 2048 := by
    by_contra hge
    exact hn ⟨x0, by rw [show h = wordAt ws 0 from rfl, hi]; exact State.getElem_setInst s _ x _ hw.1, hw.2, Nat.le_of_not_lt hge⟩
  have hown {code : Nat} {y : Inst} (hy : x0.acceptXfer ((s.setInst a.inst x0).env a.inst) a.cell ws lines = some (code, y)) :
      exec (.transferRequest a ws lines) s = .next (s.setInst a.inst (y.respond a.cell code)) :=
    hrun.trans (congrArg _ (request_own hw.2 hpost (hfull.not.1 hn) hw hi hport hy))
  have hfs : ¬x0.flt.failstop = true := by
    rw [show x0.flt = x.flt from rfl, (Inst.awake_parts hw.2).2.1]; nofun
  refine ⟨fun hst => hown (acceptXfer_check hq ((if_neg hfs).trans (if_pos hst)) nofun), fun hg hf hr => ?_, fun hg hr hm => ?_,
    fun hg hr hm => ?_⟩
  · exact hown (acceptXfer_check hq
      ((if_neg hfs).trans ((if_neg (not_or.2 ⟨hf, not_not.2 hg⟩)).trans (if_pos hr))) nofun)
  · have hf : v.st ≠ .free := by rw [hr]; nofun
    exact hown (acceptXfer_check hq ((if_neg hfs).trans ((if_neg (not_or.2 ⟨hf, not_not.2 hg⟩)).trans
      ((if_neg (not_not.2 hr)).trans (if_pos hm)))) nofun)
  · have hf : v.st ≠ .free := by rw [hr]; nofun
    have hc : x0.requestCheck (wordAt ws 0) = 0 := (if_neg hfs).trans ((if_neg (not_or.2 ⟨hf, not_not.2 hg⟩)).trans
      ((if_neg (not_not.2 hr)).trans (if_neg (Nat.not_le.2 hm))))
    refine ⟨fun hrange => hown (acceptXfer_range hq hc hrange), fun hrange hl => ⟨fun hshape => ?_, fun hshape => ?_⟩⟩
    · exact hown ((acceptXfer_shape hq hc hrange hl).trans (if_pos hshape))
    · exact hown ((acceptXfer_shape hq hc hrange hl).trans (if_neg (not_not.2 hshape)))
end Sys2Proof


/-! SUPPORT. The mailbox commands of a cell's port (R244, R363, R364, R422). -/
namespace Sys2Proof
open Sys2Proof.Machine

/-! ### Posts (R363) -/

theorem onPort_cell {s : State} {a : CellAt} {x : Inst} (f : Inst → State) (hx : s.insts[a.inst]? = some x)
    (hlt : a.cell < x.cellsBuilt) : onPort s a f = .next (f x) := by
  have h : s.atCell a f = f x := by
    simp only [State.atCell, State.atDie, hx]
    exact if_pos hlt
  exact congrArg Host.Outcome.next h

theorem onCellAt_setInst {s : State} {i n : Nat} {x y : Inst} (f : Cell → Cell) (hx : s.insts[i]? = some x) :
    (s.setInst i y).onCellAt i n f = s.setInst i (y.setCell n (f (y.cell n))) := by
  simp only [State.onCellAt, State.getElem_setInst s i x y hx, State.setInst_setInst]

/-- What a post comes to at the instance's own mailbox that the handle finds. -/
theorem post?_own {s : State} {i n : Nat} {x : Inst} {h : Word} {msg : List Word} (hw : AtWork s i x) (hi : handleInst h = i)
    (hm : handleVc h < 32) (ha : (x.mbox (handleVc h)).alloc = true) (hg : (x.mbox (handleVc h)).gen = handleGen h) :
    s.post? i x n h msg =
      if (x.mbox (handleVc h)).sender ≠ coreAgent x.id n then .refused errMbSender
      else if (x.mbox (handleVc h)).pending then .held
      else .posted (x.mbPost (handleVc h) msg) i := by
  have hf : x.mbFind h = some (handleVc h) := if_pos ⟨hm, ha, hg⟩
  unfold State.post?
  simp only [hi, hw.1, reach_self hw, hf, ne_eq, not_true_eq_false, if_false]

/-- A record of a core in service, with nothing held, goes to its mailbox. -/
theorem mailboxRecord_posts {s : State} {a : CellAt} {x : Inst} {ws : List Word} (haw : x.awake = true)
    (hp : (x.cell a.cell).heldPost = none) (hout : x.cellOut a.cell = false) (hlen : ws.length = 5) :
    s.mailboxRecord a x ws =
      match (s.setInst a.inst (x.ungate a.cell)).post? a.inst (x.ungate a.cell) a.cell (wordAt ws 0) (ws.drop 1) with
      | .waits => (s.setInst a.inst (x.ungate a.cell)).wakeNext a.inst (handleInst (wordAt ws 0))
      | .refused code => (s.setInst a.inst (x.ungate a.cell)).setInst a.inst ((x.ungate a.cell).respond a.cell code)
      | .held => (s.setInst a.inst (x.ungate a.cell)).onCellAt a.inst a.cell fun c => { c with heldPost := some ws }.respond .held
      | .posted y j => ((s.setInst a.inst (x.ungate a.cell)).setInst j y).onCellAt a.inst a.cell fun c => c.respond (.done 0) := by
  have hp' : ((x.ungate a.cell).cell a.cell).heldPost = none := by
    rw [Inst.ungate, Inst.cell_setCell]; exact hp
  unfold State.mailboxRecord
  rw [if_neg (by rw [haw]; nofun)]
  dsimp only
  rw [if_neg (by rw [hp']; nofun), if_neg (by rw [show (x.ungate a.cell).cellOut a.cell = x.cellOut a.cell from rfl, hout]; nofun),
    if_neg (not_not.2 hlen)] <;> rfl

theorem setMbox_setCell (x : Inst) (m n : Nat) (b : Mbox) (c : Cell) :
    (x.setCell n c).setMbox m b = (x.setMbox m b).setCell n c := rfl

theorem cell_setMbox (x : Inst) (m n : Nat) (b : Mbox) : (x.setMbox m b).cell n = x.cell n := rfl

/-- A held post whose mailbox is empty leaves with its response. -/
theorem heldRelease_posts {s : State} {a : CellAt} {x y : Inst} {ws : List Word} (haw : x.awake = true)
    (hx : s.insts[a.inst]? = some x) (hp : (x.cell a.cell).heldPost = some ws)
    (h : s.post? a.inst x a.cell (wordAt ws 0) (ws.drop 1) = .posted y a.inst) :
    s.heldRelease a x = s.setInst a.inst (y.setCell a.cell ({ y.cell a.cell with heldPost := none }.answer .held (.done 0))) := by
  unfold State.heldRelease
  simp only [hp, haw, h, Bool.not_true, Bool.false_eq_true, if_false]
  exact onCellAt_setInst (fun c => { c with heldPost := none }.answer .held (.done 0)) hx

/-! ### Outbound words (R422) -/

/-- A slot that waits for the place of its end summary. -/
def Ending (s : Slot) : Prop := ∃ code pre index cs, s.phase = .ending code pre index cs

/-- One slot's place in `endSummaries`. -/
def endSummary (n : Nat) (r : Run) (k : Nat) : Run :=
  match (r.slot n k).phase with
  | .ending code pre index cs => if (r.cell n).summaries + (r.cell n).reserved < 16 then r.release n k code pre index cs else r
  | _ => r

theorem endSummary_none {r : Run} {n k : Nat} (h : ¬Ending (r.slot n k)) : endSummary n r k = r := by
  unfold endSummary
  split
  · rename_i code pre index cs hp
    exact absurd ⟨code, pre, index, cs, hp⟩ h
  · rfl

theorem endSummary_room {r : Run} {n k code index : Nat} {pre : Bool} {cs : List Nat}
    (hp : (r.slot n k).phase = .ending code pre index cs) (h : (r.cell n).summaries + (r.cell n).reserved < 16) :
    endSummary n r k = r.release n k code pre index cs := by
  unfold endSummary
  simp only [hp]
  exact if_pos h

theorem endSummaries_eq (r : Run) (n : Nat) : r.endSummaries n = [0, 1, 2, 3].foldl (endSummary n) r := by
  unfold Run.endSummaries
  rw [show List.range 4 = [0, 1, 2, 3] from rfl]
  rfl

theorem endSummaries_none {r : Run} {n : Nat} (h : ∀ k, k < 4 → ¬Ending (r.slot n k)) : r.endSummaries n = r := by
  rw [endSummaries_eq]
  simp only [List.foldl_cons, List.foldl_nil]
  rw [endSummary_none (h 0 (by omega)), endSummary_none (h 1 (by omega)), endSummary_none (h 2 (by omega)),
    endSummary_none (h 3 (by omega))]

/-- An ended program leaves its slot idle and the other slots as they were (R206, R244, R289). -/
theorem release_spec {r : Run} {n k code index : Nat} {pre : Bool} {cs : List Nat} (hk : k < (r.cell n).slots.length) :
    ∃ d : Cell, r.release n k code pre index cs = (r.setCell n d).emit (.record (recProgram (r.slot n k).empty pre code
        (wordAt (r.slot n k).launch 0) (launchTag (r.slot n k).launch) n k index cs))
      ∧ d.slot k = Slot.idle ∧ ∀ j, j ≠ k → d.slot j = (r.cell n).slot j := by
  refine ⟨_, rfl, ?_, fun j hj => ?_⟩
  · exact Cell.slot_setSlot _ _ _ (by simpa [Cell.postSummary, Cell.zeroClaims, Cell.settled] using hk)
  · rw [Cell.slot_setSlot_other _ _ _ _ hj]
    rfl

theorem run_slot_setCell (r : Run) (n k : Nat) (d : Cell) : (r.setCell n d).slot n k = d.slot k :=
  congrArg (fun c : Cell => c.slot k) (Inst.cell_setCell r.x n d)

/-- One ending slot, with place for its summary, ends when the summaries are looked at. -/
theorem endSummaries_one {r : Run} {n k code index : Nat} {pre : Bool} {cs : List Nat} (h4 : k < 4)
    (hp : (r.slot n k).phase = .ending code pre index cs) (ho : ∀ j, j < 4 → j ≠ k → ¬Ending (r.slot n j))
    (hroom : (r.cell n).summaries + (r.cell n).reserved < 16) :
    ∃ d : Cell, r.endSummaries n = (r.setCell n d).emit (.record (recProgram (r.slot n k).empty pre code
        (wordAt (r.slot n k).launch 0) (launchTag (r.slot n k).launch) n k index cs))
      ∧ d.slot k = Slot.idle := by
  have hk : k < (r.cell n).slots.length := by
    refine Cell.slot_lt _ _ fun he => ?_
    rw [show r.slot n k = Slot.idle from he] at hp
    exact absurd hp nofun
  obtain ⟨d, hd, hidle, hother⟩ := release_spec (code := code) (index := index) (pre := pre) (cs := cs) hk
  have hrel := (endSummary_room hp hroom).trans hd
  have hafter (j : Nat) (hj : j < 4) : ∀ e : Eff, endSummary n ((r.setCell n d).emit e) j = (r.setCell n d).emit e := by
    refine fun e => endSummary_none fun hend => ?_
    rw [show ((r.setCell n d).emit e).slot n j = (r.setCell n d).slot n j from rfl, run_slot_setCell] at hend
    by_cases hjk : j = k
    · subst hjk
      rw [hidle] at hend
      obtain ⟨_, _, _, _, h⟩ := hend
      exact absurd h nofun
    · rw [hother j hjk] at hend
      exact ho j hj hjk hend
  refine ⟨d, ?_, hidle⟩
  rw [endSummaries_eq]
  simp only [List.foldl_cons, List.foldl_nil]
  have hbefore (j : Nat) (hj : j < 4) (hjk : j ≠ k) : endSummary n r j = r := endSummary_none (ho j hj hjk)
  interval_cases k
  · rw [hrel, hafter 1 (by omega), hafter 2 (by omega), hafter 3 (by omega)]
  · rw [hbefore 0 (by omega) (by omega), hrel, hafter 2 (by omega), hafter 3 (by omega)]
  · rw [hbefore 0 (by omega) (by omega), hbefore 1 (by omega) (by omega), hrel, hafter 3 (by omega)]
  · rw [hbefore 0 (by omega) (by omega), hbefore 1 (by omega) (by omega), hbefore 2 (by omega) (by omega), hrel]

theorem holdMasked_none {s : State} {a : CellAt} {x : Inst} (hx : s.insts[a.inst]? = some x)
    (h : s.maskedOut (x.cell a.cell).outQ = []) : s.holdMasked a = s := by
  simp only [State.holdMasked, State.atDie, hx, h, List.foldl_nil]

/-- With no delivery to hold back the core takes the oldest word. -/
theorem outAccept_exec {s : State} {a : CellAt} {x : Inst} (hx : s.insts[a.inst]? = some x) (hlt : a.cell < x.cellsBuilt)
    (h : s.maskedOut (x.cell a.cell).outQ = []) : exec (.outboundWordAccept a) s = .next (s.outAccept a x) := by
  refine Eq.trans (b := onPort (s.holdMasked a) a ((s.holdMasked a).outAccept a)) rfl ?_
  rw [holdMasked_none hx h]
  exact onPort_cell _ hx hlt

/-- The instance whose core has taken the oldest word. -/
def wordTaken (x : Inst) (n : Nat) (rest : List OutWord) : Inst := x.setCell n { x.cell n with outQ := rest }

theorem outAccept_takes {s : State} {a : CellAt} {x : Inst} {w : OutWord} {rest : List OutWord} (haw : x.awake = true)
    (hq : (x.cell a.cell).outQ = w :: rest) {r : Run} (hr : (pureRun (wordTaken x a.cell rest)).endSummaries a.cell = r) :
    s.outAccept a x = match w.box with
      | some h => if w.last then ((s.setInst a.inst r.x).effs a.inst r.effs).effs a.inst [.taken h] else (s.setInst a.inst r.x).effs a.inst r.effs
      | none => (s.setInst a.inst r.x).effs a.inst r.effs := by
  have hrun : s.runAt a.inst (x.setCell a.cell { x.cell a.cell with outQ := rest }) (fun _ x => (pureRun x).endSummaries a.cell)
      = (s.setInst a.inst r.x).effs a.inst r.effs := State.runAt_eq (i := a.inst) hr
  unfold State.outAccept
  simp only [hq]
  rw [if_neg (by rw [haw]; nofun), hrun] <;> rfl

/-- The last word of a delivery of the die's own mailbox takes the message (R364). -/
theorem taken_own {s : State} {i : Nat} {y : Inst} {h : Word} (hx : s.insts[i]? = some y) (hi : handleInst h = i)
    (hm : handleVc h < 32) (ha : (y.mbox (handleVc h)).alloc = true) (hg : (y.mbox (handleVc h)).gen = handleGen h)
    (hs : (y.mbox (handleVc h)).sending = true)
    (hn : ∀ z ∈ (s.setInst i (y.mbTaken (handleVc h))).insts, z.mbFreeing ≠ some (32 * i + handleVc h)) :
    s.effs i [.taken h] = s.setInst i (y.mbTaken (handleVc h)) := by
  have hf : y.mbFind h = some (handleVc h) := if_pos ⟨hm, ha, hg⟩
  have hnone : (s.setInst i (y.mbTaken (handleVc h))).insts.findIdx?
      (fun x => decide (x.mbFreeing = some (32 * i + handleVc h))) = none := by
    rw [List.findIdx?_eq_none_iff]
    intro z hz
    simpa using hn z hz
  have hd : s.delivered h = s.setInst i (y.mbTaken (handleVc h)) := by
    simp only [State.delivered, State.atDie, hi, hx, hf, hs, if_true, State.mbFreed, hnone]
  refine Eq.trans (if_pos hi) hd

/-! ### Deliveries held back (R364) -/

/-- A delivery that is put back leaves the cell's queue without its words and every doorbell mask as it was. -/
theorem putBack_spec {s : State} {a : CellAt} {x : Inst} (h : Word) (hx : s.insts[a.inst]? = some x) :
    (∃ y, (s.putBack a h).insts[a.inst]? = some y
        ∧ (y.cell a.cell).outQ = (x.cell a.cell).outQ.filter fun w => decide (w.box ≠ some h))
      ∧ ∀ j : Nat, ((s.putBack a h).insts[j]?).map Inst.dbMask = (s.insts[j]?).map Inst.dbMask := by
  let x1 : Inst := x.setCell a.cell { x.cell a.cell with outQ := (x.cell a.cell).outQ.filter fun w => decide (w.box ≠ some h) }
  let s1 : State := s.setInst a.inst x1
  have hs1 : (s.onCellAt a.inst a.cell fun c => { c with outQ := c.outQ.filter fun w => decide (w.box ≠ some h) }) = s1 := by
    simp only [State.onCellAt, hx]; rfl
  have hx1 : s1.insts[a.inst]? = some x1 := State.getElem_setInst s _ x _ hx
  have hq1 : (x1.cell a.cell).outQ = (x.cell a.cell).outQ.filter fun w => decide (w.box ≠ some h) := by
    rw [show x1.cell a.cell = _ from Inst.cell_setCell ..]
  have hmask1 (j : Nat) : (s1.insts[j]?).map Inst.dbMask = (s.insts[j]?).map Inst.dbMask := by
    by_cases hj : j = a.inst
    · subst hj; rw [hx1, hx]; rfl
    · rw [State.getElem_setInst_other _ _ _ _ hj]
  have hput : s.putBack a h = s1.atDie (handleInst h) fun y => match y.mbFind h with
      | some m => s1.setInst (handleInst h) (y.setMbox m { y.mbox m with sending := false })
      | none => s1 := by
    rw [State.putBack, hs1] <;> rfl
  rw [hput]
  cases hy : s1.insts[handleInst h]? with
  | none =>
    simp only [State.atDie, hy]
    exact ⟨⟨x1, hx1, hq1⟩, hmask1⟩
  | some y =>
    simp only [State.atDie, hy]
    cases y.mbFind h with
    | none => exact ⟨⟨x1, hx1, hq1⟩, hmask1⟩
    | some m =>
      let z : Inst := y.setMbox m { y.mbox m with sending := false }
      have hz : (s1.setInst (handleInst h) z).insts[handleInst h]? = some z := State.getElem_setInst _ _ _ _ hy
      refine ⟨?_, fun j => Eq.trans ?_ (hmask1 j)⟩
      · by_cases hi : a.inst = handleInst h
        · obtain rfl : y = x1 := Option.some.inj (hy.symm.trans (hi ▸ hx1))
          exact ⟨z, hi ▸ hz, hq1⟩
        · exact ⟨x1, (State.getElem_setInst_other _ _ _ _ hi).trans hx1, hq1⟩
      · by_cases hj : j = handleInst h
        · subst hj
          exact (congrArg (Option.map Inst.dbMask) hz).trans (congrArg (Option.map Inst.dbMask) hy).symm
        · exact congrArg (Option.map Inst.dbMask) (State.getElem_setInst_other _ _ _ _ hj)

theorem maskedOut_mem {s : State} {q : List OutWord} {h : Word} : h ∈ s.maskedOut q ↔ some h ∈ q.map OutWord.box
    ∧ (q.filter fun w => decide (w.box = some h)).length = 6
    ∧ ((s.insts[handleInst h]?).map Inst.dbMask).any (fun m => m.getLsbD (handleVc h)) = true := by
  unfold State.maskedOut
  rw [List.mem_filter, List.mem_eraseDups, Bool.and_eq_true, decide_eq_true_iff]
  refine and_congr (by simp [List.mem_filterMap, List.mem_map]) (and_congr Iff.rfl ?_)
  cases s.insts[handleInst h]? <;> rfl

/-- Once the one delivery to hold back is put back, none is left. -/
theorem maskedOut_putBack {s : State} {a : CellAt} {x y : Inst} {h : Word} (hx : s.insts[a.inst]? = some x)
    (hm : s.maskedOut (x.cell a.cell).outQ = [h])
    (hq : (y.cell a.cell).outQ = (x.cell a.cell).outQ.filter fun w => decide (w.box ≠ some h)) :
    (s.putBack a h).maskedOut (y.cell a.cell).outQ = [] := by
  obtain ⟨-, hmask⟩ := putBack_spec (a := a) h hx
  rw [List.eq_nil_iff_forall_not_mem]
  intro g hg
  rw [maskedOut_mem, hq, hmask] at hg
  obtain ⟨hin, hsix, hon⟩ := hg
  obtain ⟨w, hw, hbox⟩ := List.mem_map.1 hin
  obtain ⟨hw, hne⟩ := List.mem_filter.1 hw
  have hgh : g ≠ h := fun he => by simp [hbox, he] at hne
  have hmem : g ∈ s.maskedOut (x.cell a.cell).outQ := by
    refine maskedOut_mem.2 ⟨List.mem_map.2 ⟨w, hw, hbox⟩, ?_, hon⟩
    rw [List.filter_filter] at hsix
    rw [← hsix]
    refine congrArg _ (List.filter_congr fun v _ => ?_)
    by_cases hv : v.box = some g <;> simp [hv, hgh]
  rw [hm] at hmem
  exact hgh (List.mem_singleton.1 hmem)

/-- Settles O36. -/
theorem mailboxPort : Obligations.MailboxPort := by
  unfold Obligations.MailboxPort
  refine ⟨?_, fun s x => ⟨?_, ?_, ?_⟩⟩
  · intro s a x ws c m b resp posted hw hlt hi hm ha hg
    have hrec : exec (.mailboxRecord a ws) s = .next (s.mailboxRecord a x ws) := onPort_cell _ hw.1 hlt
    let x0 : Inst := x.ungate a.cell
    have hw0 : AtWork (s.setInst a.inst x0) a.inst x0 := ⟨State.getElem_setInst _ _ _ _ hw.1, hw.2⟩
    have hc0 : x0.cell a.cell = c := Inst.cell_setCell ..
    refine ⟨fun hp hr hout hlen => ?_, fun rest hp hr hrest hs hpend => ?_⟩
    · have hpost : ∀ msg, (s.setInst a.inst x0).post? a.inst x0 a.cell (wordAt ws 0) msg = _ := fun msg =>
        post?_own hw0 hi hm ha hg
      have hrun := mailboxRecord_posts (s := s) hw.2 hp hout hlen
      have hnot (hpend : b.pending = false) : ¬b.pending = true := fun h => absurd (hpend.symm.trans h) nofun
      refine ⟨fun hs hpend => ?_, fun hs hpend => ?_, fun hs => ?_⟩
      · rw [(hpost (ws.drop 1)).trans ((if_neg (not_not.2 hs)).trans (if_neg (hnot hpend)))] at hrun
        refine hrec.trans (congrArg _ (hrun.trans ?_))
        dsimp only
        rw [State.setInst_setInst, onCellAt_setInst _ hw.1]
        have hc : (x0.mbPost (handleVc (wordAt ws 0)) (ws.drop 1)).cell a.cell = c := hc0
        rw [hc, Cell.respond_done c 0 hr]
        exact congrArg (s.setInst a.inst) (Inst.setCell_setCell posted a.cell _ _)
      · rw [(hpost (ws.drop 1)).trans ((if_neg (not_not.2 hs)).trans (if_pos hpend))] at hrun
        refine hrec.trans (congrArg _ (hrun.trans ?_))
        dsimp only
        rw [onCellAt_setInst _ hw.1, show (x.ungate a.cell).cell a.cell = c from hc0,
          Cell.respond_wait _ _ (by rw [show ({ c with heldPost := some ws } : Cell).respQ = [] from hr]; nofun) rfl]
        refine congrArg (s.setInst a.inst) ((Inst.setCell_setCell x a.cell _ _).trans (congrArg (x.setCell a.cell) ?_))
        rw [show ({ c with heldPost := some ws } : Cell).respQ = [] from hr]
        rfl
      · rw [(hpost (ws.drop 1)).trans (if_pos hs)] at hrun
        refine hrec.trans (congrArg _ (hrun.trans ?_))
        dsimp only
        rw [State.setInst_setInst, Inst.respond, show (x.ungate a.cell).cell a.cell = c from hc0, Cell.respond_done c _ hr]
        exact congrArg (s.setInst a.inst) (Inst.setCell_setCell x a.cell _ _)
    · have hpost : s.post? a.inst x a.cell (wordAt ws 0) (ws.drop 1) = .posted (x.mbPost m (ws.drop 1)) a.inst := by
        rw [post?_own hw hi hm ha hg, if_neg (not_not.2 hs), if_neg (by rw [show (x.mbox (handleVc (wordAt ws 0))).pending = false from hpend]; nofun)]
      have hknown : ∀ w ∈ rest, w.known = false := by
        intro w hw
        cases w with
        | done code => exact absurd rfl (hrest _ hw code)
        | _ => rfl
      have hex : exec (.mbHeldPostRelease a) s = .next (s.heldRelease a x) := onPort_cell _ hw.1 hlt
      refine hex.trans (congrArg _ ((heldRelease_posts hw.2 hw.1 hp hpost).trans ?_))
      have hans := Cell.answer_front { x.cell a.cell with heldPost := none } .held 0 rest hr hknown
      exact congrArg (fun e => s.setInst a.inst (posted.setCell a.cell e)) hans
  · intro a w rest c ending d hw hlt hq hmask
    let y0 : Inst := wordTaken x a.cell rest
    have hcell : (pureRun y0).cell a.cell = d := Inst.cell_setCell ..
    have hslot (k : Nat) : (pureRun y0).slot a.cell k = c.slot k :=
      (congrArg (fun e : Cell => e.slot k) hcell : ((pureRun y0).cell a.cell).slot k = d.slot k)
    have hex := outAccept_exec hw.1 hlt hmask
    refine ⟨fun hno => ?_, fun k code pre index cs h4 ho hp hbox hroom => ?_⟩
    · have hnone : (pureRun y0).endSummaries a.cell = pureRun y0 := endSummaries_none fun k hk hend => by
        rw [hslot] at hend
        exact hno k hk hend
      have hout := outAccept_takes (s := s) hw.2 hq hnone
      refine ⟨fun hbox => ?_, fun h hbox hlast hi hm ha hg hs hfree => ?_⟩
      · rw [hbox] at hout
        exact hex.trans (congrArg _ hout)
      · rw [hbox] at hout
        dsimp only at hout
        rw [if_pos hlast] at hout
        have hy0 : (s.setInst a.inst y0).insts[a.inst]? = some y0 := State.getElem_setInst _ _ _ _ hw.1
        have hset : (s.setInst a.inst y0).setInst a.inst (y0.mbTaken (handleVc h)) = s.setInst a.inst (y0.mbTaken (handleVc h)) :=
          State.setInst_setInst ..
        have htake := taken_own (s := s.setInst a.inst y0) hy0 hi hm ha hg hs fun z hz => by
          rw [hset] at hz
          rcases List.mem_or_eq_of_mem_set hz with hz | rfl
          · exact hfree z hz
          · exact hfree x (List.mem_of_getElem? hw.1)
        exact hex.trans (congrArg _ (hout.trans (htake.trans hset)))
    · obtain ⟨e, he, hidle⟩ := endSummaries_one (r := pureRun y0) h4 ((congrArg Slot.phase (hslot k)).trans hp)
        (fun j hj hjk => by rw [hslot]; exact ho j hj hjk) (by rw [hcell]; exact hroom)
      have hout := outAccept_takes (s := s) hw.2 hq he
      rw [hbox, hslot k] at hout
      refine ⟨y0.setCell a.cell e, hex.trans (congrArg _ hout), ?_, rfl⟩
      exact (congrArg (fun c : Cell => c.slot k) (Inst.cell_setCell y0 a.cell e)).trans hidle
  · intro a h hw hlt hm
    obtain ⟨⟨y, hy, hq⟩, -⟩ := putBack_spec (a := a) h hw.1
    have hhold : s.holdMasked a = s.putBack a h := by
      simp only [State.holdMasked, State.atDie, hw.1, hm, List.foldl_cons, List.foldl_nil]
    have hagain : (s.putBack a h).holdMasked a = s.putBack a h := holdMasked_none hy (maskedOut_putBack hw.1 hm hq)
    refine Eq.trans (b := onPort (s.holdMasked a) a ((s.holdMasked a).outAccept a)) rfl ?_
    refine Eq.trans ?_ (Eq.symm (Eq.trans (b := onPort ((s.putBack a h).holdMasked a) a (((s.putBack a h).holdMasked a).outAccept a)) rfl rfl))
    rw [hhold, hagain]
  · intro i m n b c hw hag hp hs hmask hlt hout
    have hdel : s.delivery i m x = (s.setInst i (x.setMbox m { b with sending := true })).onCellAt i n fun c =>
        { c with outQ := c.outQ ++ deliveryWords (x.mbHandleOf m) b, gated := false } := by
      have halive := Inst.alive_of_awake hw.2
      have hsl : s.sleepers i i = [] := by simp [State.sleepers, State.path]
      unfold State.delivery
      dsimp only
      simp only [show agentCell (x.mbox m).receiver = some (i, n) from hag, hw.2, show (x.mbox m).pending = true from hp,
        show (x.mbox m).sending = false from hs, hmask, hw.1, halive, hout, hsl, State.linked]
      simp [Nat.not_le.2 hlt, b, show (x.mbox m).pending = true from hp]
    have hex : exec (.mbDelivery i m) s = .next (s.delivery i m x) := by
      refine congrArg Host.Outcome.next (?_ : s.atDie i (s.delivery i m) = _)
      simp only [State.atDie, hw.1]
    refine hex.trans (congrArg _ (hdel.trans ?_))
    rw [onCellAt_setInst _ hw.1]
    rfl
end Sys2Proof


/-! SUPPORT. The translation request port (R296 to R298, R301, R426). -/
namespace Sys2Proof
open Sys2Proof.Machine

/-! ### Requests that go on -/

/-- No slot of the die waits for a translation request. -/
def NoneAsks (x : Inst) : Prop := ∀ n k, (x.slot n k).wait ≠ .xlate

theorem kickXfers_none {e : Env} {r : Run} (h : r.x.xfers = []) : r.kickXfers e = r := by
  rw [Run.kickXfers, h]
  rfl

theorem kickSlots_none {e : Env} {r : Run} (h : NoneAsks r.x) : r.kickSlots e = r := by
  refine foldl_keeps (P := fun q : Run => q = r) (fun q n hq => ?_) _ rfl
  subst hq
  refine foldl_keeps (P := fun p : Run => p = q) (fun p k hp => ?_) _ rfl
  subst hp
  exact if_neg fun hc => h n k hc.1

theorem xlate_runs {s : State} {i : Nat} {x : Inst} {tag : BitVec 10} {ans : XlAns} {r : Run} (hw : AtWork s i x)
    (h : xlateAnswer tag.toNat ans (s.env i) x = r) : HubRun (.xlateAnswer i tag ans) s i r.x r.effs := by
  refine HubRun.of_inst (f := whenAlive (xlateAnswer tag.toNat ans)) rfl hw.1 ?_
  exact (whenAlive_alive _ (Inst.alive_of_awake hw.2)).trans h

/-! ### Tiles that start again (R298) -/

theorem slot_rerun (r : Run) (n k m j : Nat) : (r.rerun n k).slot m j = r.slot m j
    ∨ (m = n ∧ j = k ∧ (r.rerun n k).slot n k = again (r.slot n k) (r.cell n) k) := by
  obtain ⟨-, -, hother, -, hslots⟩ := rerun_spec r n k
  by_cases hm : m = n
  · subst hm
    have hget (j : Nat) : (r.rerun m k).slot m j
        = ((r.cell m).slots.set k (again ((r.cell m).slot k) (r.cell m) k)).getD j Slot.idle := by rw [← hslots]; rfl
    by_cases hj : j = k
    · subst hj
      by_cases hlt : j < (r.cell m).slots.length
      · refine Or.inr ⟨rfl, rfl, ?_⟩
        rw [hget, List.getD_eq_getElem?_getD, List.getElem?_set_self hlt]
        rfl
      · refine Or.inl ((hget j).trans ?_)
        rw [List.set_eq_of_length_le (Nat.le_of_not_lt hlt)]
        rfl
    · refine Or.inl ((hget j).trans ?_)
      rw [List.getD_eq_getElem?_getD, List.getElem?_set_ne (Ne.symm hj), ← List.getD_eq_getElem?_getD]
      rfl
  · exact Or.inl (congrArg (fun c : Cell => c.slot j) (hother m hm))

theorem slot_rerun_self (r : Run) {n k : Nat} (h : (r.slot n k) ≠ Slot.idle) :
    (r.rerun n k).slot n k = again (r.slot n k) (r.cell n) k := by
  obtain ⟨-, -, -, -, hslots⟩ := rerun_spec r n k
  have hlt : k < (r.cell n).slots.length := Cell.slot_lt _ _ h
  have : (r.rerun n k).slot n k = ((r.cell n).slots.set k (again ((r.cell n).slot k) (r.cell n) k)).getD k Slot.idle := by
    rw [← hslots]; rfl
  rw [this, List.getD_eq_getElem?_getD, List.getElem?_set_self hlt]
  rfl

/-- The tiles of a die from x to r: those of slots for which p holds may have started again, and nothing else changed but
cells and translation requests. -/
structure Restarted (p : Slot → Bool) (x : Inst) (r : Run) : Prop where
  effs : r.effs = []
  frame : r.x = { x with cells := r.x.cells, xreqs := r.x.xreqs }
  slot (n k : Nat) : r.slot n k = x.slot n k ∨ p (x.slot n k) = true ∧ ∃ c, r.slot n k = again (x.slot n k) c k

theorem Restarted.refl (p : Slot → Bool) (x : Inst) : Restarted p x (pureRun x) := ⟨rfl, rfl, fun _ _ => Or.inl rfl⟩

section
variable {p : Slot → Bool} (hp : ∀ (s : Slot) (c : Cell) (k : Nat), p (again s c k) = false)
include hp

theorem Restarted.step {x : Inst} {r : Run} (h : Restarted p x r) {n k : Nat} (hk : p (r.slot n k) = true) :
    Restarted p x (r.rerun n k) := by
  obtain ⟨-, hf, -, -, -⟩ := rerun_spec r n k
  have horig : r.slot n k = x.slot n k := by
    obtain he | ⟨-, c, he⟩ := h.slot n k
    · exact he
    · rw [he, hp] at hk
      exact absurd hk nofun
  refine ⟨h.effs, ?_, fun m j => ?_⟩
  · rw [hf, h.frame]
  · obtain he | ⟨rfl, rfl, he⟩ := slot_rerun r n k m j
    · rw [he]; exact h.slot m j
    · exact Or.inr ⟨horig ▸ hk, r.cell m, by rw [he, horig]⟩

/-- One slot's place in a sweep. -/
theorem Restarted.visit {x : Inst} {r : Run} (h : Restarted p x r) {f : Run → Nat → Nat → Run} (n k : Nat)
    (hf : f r n k = if p (r.slot n k) then r.rerun n k else r) : Restarted p x (f r n k) := by
  rw [hf]
  split
  · exact h.step hp (by assumption)
  · exact h

/-- A sweep over slots starts again every tile of the listed slots for which p holds. -/
theorem Restarted.sweep {x : Inst} {f : Run → Nat → Nat → Run} (hidle : p Slot.idle = false)
    (hf : ∀ r n k, Restarted p x r → f r n k = if p (r.slot n k) then r.rerun n k else r) (ks : List Nat) :
    ∀ (ns : List Nat) (r : Run), Restarted p x r →
      Restarted p x (ns.foldl (fun r n => ks.foldl (fun r k => f r n k) r) r)
      ∧ ∀ n k, (p (r.slot n k) = false ∨ n ∈ ns ∧ k ∈ ks) →
        p ((ns.foldl (fun r n => ks.foldl (fun r k => f r n k) r) r).slot n k) = false := by
  have hvisit (r : Run) (n k : Nat) (h : Restarted p x r) : Restarted p x (f r n k) ∧ p ((f r n k).slot n k) = false
      ∧ ∀ m j, p (r.slot m j) = false → p ((f r n k).slot m j) = false := by
    refine ⟨h.visit hp n k (hf r n k h), ?_, fun m j hm => ?_⟩
    · rw [hf r n k h]
      split
      · rename_i ht
        rw [slot_rerun_self r fun he => by rw [he, hidle] at ht; exact absurd ht nofun]
        exact hp ..
      · rename_i ht
        exact eq_false_of_ne_true ht
    · rw [hf r n k h]
      split
      · obtain he | ⟨rfl, rfl, he⟩ := slot_rerun r n k m j
        · rw [he]; exact hm
        · rw [he]; exact hp ..
      · exact hm
  have hrow (n : Nat) : ∀ (ks : List Nat) (r : Run), Restarted p x r → Restarted p x (ks.foldl (fun r k => f r n k) r)
      ∧ ∀ m j, (p (r.slot m j) = false ∨ m = n ∧ j ∈ ks) → p ((ks.foldl (fun r k => f r n k) r).slot m j) = false := by
    intro ks
    induction ks with
    | nil => exact fun r h => ⟨h, fun m j hm => hm.elim id fun hm => absurd hm.2 List.not_mem_nil⟩
    | cons k ks ih =>
      intro r h
      obtain ⟨h1, h2, h3⟩ := hvisit r n k h
      obtain ⟨i1, i2⟩ := ih _ h1
      refine ⟨i1, fun m j hm => i2 m j ?_⟩
      rcases hm with hm | ⟨rfl, hj⟩
      · exact Or.inl (h3 m j hm)
      · rcases List.mem_cons.1 hj with rfl | hj
        · exact Or.inl h2
        · exact Or.inr ⟨rfl, hj⟩
  intro ns
  induction ns with
  | nil => exact fun r h => ⟨h, fun n k hm => hm.elim id fun hm => absurd hm.1 List.not_mem_nil⟩
  | cons n ns ih =>
    intro r h
    obtain ⟨h1, h2⟩ := hrow n ks r h
    obtain ⟨i1, i2⟩ := ih _ h1
    refine ⟨i1, fun m j hm => i2 m j ?_⟩
    rcases hm with hm | ⟨hm, hj⟩
    · exact Or.inl (h2 m j (Or.inl hm))
    · rcases List.mem_cons.1 hm with rfl | hm
      · exact Or.inl (h2 _ j (Or.inr ⟨rfl, hj⟩))
      · exact Or.inr ⟨hm, hj⟩
end

theorem usesHit_again (hit : Nat → Nat → Bool) (s : Slot) (c : Cell) (k : Nat) : (again s c k).usesHit hit = false := by
  simp [Slot.usesHit, again, TileBuf.at]

/-- The slots whose tile an invalidation starts again: they run, are not past their commit point, and used a translation that the
invalidation drops, under the owner's ID. -/
def droppedBy (x : Inst) (kind : Nat) (asid : BitVec 16) (vpn pages : Nat) (s : Slot) : Bool :=
  s.usesHit (invHits kind asid vpn pages (x.vc (ownerOf s.launch)).asid)

theorem ackInvalidations_free {x : Inst} (hx : x.xfers = []) (h : ∀ n k left err, (x.slot n k).wait ≠ .commit left err) :
    x.ackInvalidations = { x with invAcks := x.invAcks + x.invOwed, invOwed := 0 } := by
  have hfree : (x.xfers.any (fun t => decide (t.phase = .writing)) || x.liveCells.any fun n =>
      (x.cell n).slots.any fun s => match s.wait with
        | .commit .. => true
        | _ => false) = false := by
    rw [hx, List.any_nil, Bool.false_or, List.any_eq_false]
    intro n hn
    simp only [Bool.not_eq_true, List.any_eq_false]
    intro s hs
    obtain ⟨k, hk, rfl⟩ := List.getElem_of_mem hs
    have hs : ((x.cell n).slots[k]).wait = (x.slot n k).wait := congrArg Slot.wait (List.getD_eq_getElem _ _ hk).symm
    rw [hs]
    split
    · rename_i left err hc
      exact absurd hc (h n k left err)
    · rfl
  unfold Inst.ackInvalidations
  dsimp only
  split
  · rename_i hb
    exact absurd (hb.symm.trans hfree) nofun
  · rfl

/-- An invalidation once its tiles have started again: its transfers start again, and it is acknowledged (R298). -/
def afterReruns (kind : Nat) (asid : BitVec 16) (vpn pages : Nat) (e : Env) (r : Run) : Run :=
  let gone := r.x.xfers.filter fun t => t.usesHit (invHits kind asid vpn pages (r.x.vc t.vc).asid)
  (({ r with x := gone.foldl Inst.restartXfer r.x } : Run).kickXfers e).ackInvalidations

/-- An invalidation at a die without transfers and without write-outs (R298). -/
theorem invalidation_spec {e : Env} {x : Inst} {kind : Nat} {asid : BitVec 16} {vpn pages : Nat} (haw : x.awake = true)
    (hx : x.xfers = []) (hc : ∀ n k left err, (x.slot n k).wait ≠ .commit left err) :
    ∃ r : Run, Restarted (droppedBy x kind asid vpn pages)
        { x with tlb := x.tlb.filter fun t => !invHits kind asid vpn pages t.asid t.vpn t.pages, invOwed := x.invOwed + 1 } r
      ∧ (∀ n k, k < 4 → droppedBy x kind asid vpn pages (r.slot n k) = false)
      ∧ invalidation kind asid vpn pages e x = pureRun { r.x with invAcks := x.invAcks + x.invOwed + 1, invOwed := 0 } := by
  let x1 : Inst := { x with tlb := x.tlb.filter fun t => !invHits kind asid vpn pages t.asid t.vpn t.pages, invOwed := x.invOwed + 1 }
  let p := droppedBy x kind asid vpn pages
  have hidle : p Slot.idle = false := rfl
  obtain ⟨h1, h2⟩ := Restarted.sweep (p := p) (x := x1) (fun s c k => usesHit_again _ s c k) hidle
    (f := fun r n k =>
      let s := r.slot n k
      if s.usesHit (invHits kind asid vpn pages (r.x.vc (ownerOf s.launch)).asid) then r.rerun n k else r)
    (fun r n k h => by
      have hvc : r.x.vc = x.vc := by rw [h.frame]; rfl
      simp only [hvc]
      rfl) (List.range 4) x1.liveCells (pureRun x1) (Restarted.refl p x1)
  refine ⟨_, h1, fun n k hk => h2 n k ?_, ?_⟩
  · by_cases hn : n ∈ x1.liveCells
    · exact Or.inr ⟨hn, List.mem_range.2 hk⟩
    · refine Or.inl ?_
      have hcell : (pureRun x1).cell n = Cell.reset := cell_not_live hn
      have hslot : (pureRun x1).slot n k = Slot.idle := by
        show ((pureRun x1).cell n).slot k = Slot.idle
        rw [hcell]
        interval_cases k <;> rfl
      rw [hslot]
      exact hidle
  · generalize hr : x1.liveCells.foldl _ (pureRun x1) = r at h1 h2
    have hxf : r.x.xfers = [] := by rw [h1.frame]; exact hx
    have hwait : ∀ n k left err, (r.x.slot n k).wait ≠ .commit left err := by
      intro n k left err hcm
      obtain he | ⟨-, c, he⟩ := h1.slot n k
      · exact hc n k left err ((congrArg Slot.wait he).symm.trans hcm)
      · exact absurd ((congrArg Slot.wait he).symm.trans hcm) nofun
    have hack : r.x.ackInvalidations = { r.x with invAcks := x.invAcks + x.invOwed + 1, invOwed := 0 } := by
      rw [ackInvalidations_free hxf hwait, show r.x.invAcks = x.invAcks by rw [h1.frame],
        show r.x.invOwed = x.invOwed + 1 by rw [h1.frame]]
      rfl
    let gone := r.x.xfers.filter fun t => t.usesHit (invHits kind asid vpn pages (r.x.vc t.vc).asid)
    have hfold : ({ r with x := gone.foldl Inst.restartXfer r.x } : Run) = r := by
      rw [show gone = [] from congrArg (List.filter _) hxf]
      rfl
    have hinv : invalidation kind asid vpn pages e x
        = (({ r with x := gone.foldl Inst.restartXfer r.x } : Run).kickXfers e).ackInvalidations :=
      (atPort_awake _ _ haw).trans (congrArg (afterReruns kind asid vpn pages e) hr)
    rw [hinv, hfold, kickXfers_none hxf, Run.ackInvalidations, hack, h1.effs]
    rfl

/-! ### Resolve notices (R296, R301) -/

theorem resolve_one {e : Env} {x : Inst} {asid : BitVec 16} {vpn : Nat} {all : Bool} {q : XlReq} {n k : Nat}
    (hq : x.xreqs.filter (fun q => q.pending && decide (q.asid = asid) && (all || q.vpn == vpn)) = [q])
    (hwho : q.who = .slot n k) (hw : (x.slot n k).wait = .resolve) (hx : x.xfers = []) (hno : NoneAsks x) :
    resolve asid vpn all e x = (pureRun { x with xreqs := x.xreqs.filter fun q =>
      !(q.pending && decide (q.asid = asid) && (all || q.vpn == vpn)) }).rerun n k := by
  let r0 := pureRun { x with xreqs := x.xreqs.filter fun q => !(q.pending && decide (q.asid = asid) && (all || q.vpn == vpn)) }
  have hnone : NoneAsks (r0.rerun n k).x := fun m j hc => by
    obtain he | ⟨rfl, rfl, he⟩ := slot_rerun r0 n k m j
    · exact hno m j ((congrArg Slot.wait he).symm.trans hc)
    · exact absurd ((congrArg Slot.wait he).symm.trans hc) nofun
  have hxf : (r0.rerun n k).x.xfers = [] := hx
  unfold resolve
  dsimp only
  rw [hq, List.foldl_cons, List.foldl_nil, hwho]
  dsimp only
  rw [if_pos (show (r0.slot n k).wait = .resolve from hw)]
  exact (congrArg (Run.kickSlots e) (kickXfers_none hxf)).trans (kickSlots_none hnone)

/-- Settles O37. -/
theorem translationPort : Obligations.TranslationPort := by
  unfold Obligations.TranslationPort
  intro s i x restarted
  refine ⟨fun hal haw asid vpn all => ?_, fun hw => ⟨?_, ?_, ?_⟩⟩
  · refine HubRun.of_inst (f := resolveNotice asid vpn.toNat all) rfl hal.1 ?_
    refine (if_neg (by rw [haw]; nofun)).trans (if_pos ?_)
    rw [Inst.asleep, hal.2, haw]
    rfl
  · intro tag ans q hq left
    refine ⟨?_, ?_, ?_⟩
    · intro hst hwho hx hno pages e others
      refine xlate_runs (r := pureRun _) hw ?_
      unfold xlateAnswer
      simp only [hq, hst, hwho]
      have hpages : sizePages ans.size = pages := by
        have : ∀ z : BitVec 2, sizePages z = if z = 0 then 1 else if z = 1 then 16 else if z = 2 then 512 else 262144 := by decide
        exact this _
      have hroom (l : List TlbEntry) : (if 8192 ≤ l.length then l.drop 1 else l) = if l.length < 8192 then l else l.drop 1 := by
        by_cases h : l.length < 8192
        · rw [if_pos h, if_neg (Nat.not_le.2 h)]
        · rw [if_neg h, if_pos (Nat.le_of_not_lt h)]
      let y : Inst := { x with tlb := (if others.length < 8192 then others else others.drop 1) ++ [e], xreqs := left }
      have hy : (x.dropXlReq tag.toNat).cacheAnswer q ans = y := by
        unfold Inst.cacheAnswer
        simp only [hpages, hroom]
        rfl
      rw [hy]
      exact (congrArg (Run.kickSlots _) (kickXfers_none (r := pureRun y) hx)).trans (kickSlots_none (r := pureRun y) hno)
    · intro n k hst hwho hwait
      refine xlate_runs (r := pureRun _) hw ?_
      unfold xlateAnswer
      simp only [hq, hst, hwho]
      exact congrArg pureRun (if_pos hwait)
    · intro t h0 h1 hwho hx hph hno
      refine xlate_runs (r := { x := without { x with xreqs := left } t, effs := xferErrs t 0x0050 0 }) hw ?_
      have hfind : ({ x with xreqs := left } : Inst).xfer t.id = some t := by simp [Inst.xfer, hx]
      have hfault : (pureRun { x with xreqs := left }).xlateFault q.who
          = { x := without { x with xreqs := left } t, effs := xferErrs t 0x0050 0 } := by
        rw [hwho]
        unfold Run.xlateFault
        simp only [show (pureRun { x with xreqs := left }).x.xfer t.id = some t from hfind, hph, if_true]
        unfold Run.xferFail
        dsimp only
        split <;> rename_i hs <;> simp [xferErrs, hs, Run.emit, Run.dropXfer, pureRun, without, errXlate]
      have hnil : (without { x with xreqs := left } t).xfers = [] := by
        show x.xfers.filter _ = []
        simp [hx]
      unfold xlateAnswer
      simp only [hq]
      split
      · rename_i he; exact absurd he h0
      · rename_i he; exact absurd he h1
      · refine (congrArg (fun r : Run => (r.kickXfers (s.env i)).kickSlots (s.env i)) hfault).trans ?_
        exact (congrArg (Run.kickSlots _) (kickXfers_none hnil)).trans (kickSlots_none hno)
  · intro asid vpn all q n k hq hwho hwait hx hno
    let x0 : Inst := { x with xreqs := x.xreqs.filter fun q => !(q.pending && decide (q.asid = asid) && (all || q.vpn == vpn.toNat)) }
    obtain ⟨heffs, hframe, hother, -, -⟩ := rerun_spec (pureRun x0) n k
    have hne : x.slot n k ≠ Slot.idle := fun he => by rw [he] at hwait; exact absurd hwait nofun
    have hslot : ((pureRun x0).rerun n k).slot n k = again (x.slot n k) (x.cell n) k := slot_rerun_self (pureRun x0) hne
    refine ⟨((pureRun x0).rerun n k).x, ?_, ?_, hother, ?_, fun hm => ?_⟩
    · refine HubRun.of_inst (f := resolveNotice asid vpn.toNat all) rfl hw.1 ?_
      exact (if_pos hw.2).trans (resolve_one hq hwho hwait hx hno)
    · have hslot' : ((pureRun x0).rerun n k).x.slot n k = again (x.slot n k) (x.cell n) k := hslot
      refine ⟨?_, ?_, ?_, ?_, ?_⟩ <;> rw [hslot'] <;> rfl
    · rw [hframe]; rfl
    · have hmap : ((pureRun x0).rerun n k).x.xreqs
          = x0.xreqs.map fun q => if q.who = .slot n k then { q with who := .nobody } else q := rfl
      rw [hmap] at hm
      obtain ⟨p, hp, he⟩ := List.mem_map.1 hm
      have hhit : (q.pending && decide (q.asid = asid) && (all || q.vpn == vpn.toNat)) = true := by
        have : q ∈ x.xreqs.filter (fun q => q.pending && decide (q.asid = asid) && (all || q.vpn == vpn.toNat)) := by
          rw [hq]; exact List.mem_singleton_self q
        exact (List.mem_filter.1 this).2
      split at he
      · rw [← he] at hwho
        exact absurd hwho nofun
      · have := (List.mem_filter.1 hp).2
        rw [he, hhit] at this
        exact absurd this nofun
  · intro kind asid vpn pages hit hx hc
    obtain ⟨r, hr, hdone, hinv⟩ := invalidation_spec (e := s.env i) (kind := kind.toNat) (asid := asid) (vpn := vpn.toNat)
      (pages := pages.toNat) hw.2 hx hc
    refine ⟨{ r.x with invAcks := x.invAcks + x.invOwed + 1, invOwed := 0 }, ?_, ?_, rfl, rfl, ?_⟩
    · exact HubRun.of_inst (f := invalidation kind.toNat asid vpn.toNat pages.toNat) rfl hw.1 hinv
    · show r.x.tlb = _
      rw [hr.frame]
    · intro n k h4 hph hrd named
      refine ⟨?_, ?_⟩
      · intro u hu hn
        have hp : droppedBy x kind.toNat asid vpn.toNat pages.toNat (x.slot n k) = true := by
          unfold droppedBy Slot.usesHit
          rw [hph, hrd]
          exact List.any_eq_true.2 ⟨u, hu, hn⟩
        obtain he | ⟨-, c, he⟩ := hr.slot n k
        · have := hdone n k h4
          rw [he] at this
          exact absurd (hp.symm.trans this) nofun
        · have he' : ({ r.x with invAcks := x.invAcks + x.invOwed + 1, invOwed := 0 } : Inst).slot n k = again (x.slot n k) c k := he
          refine ⟨?_, ?_, ?_, ?_, ?_⟩ <;> rw [he'] <;> rfl
      · intro hn
        obtain he | ⟨hp, -⟩ := hr.slot n k
        · exact he
        · have hp : droppedBy x kind.toNat asid vpn.toNat pages.toNat (x.slot n k) = true := hp
          unfold droppedBy Slot.usesHit at hp
          rw [hph, hrd] at hp
          obtain ⟨u, hu, hun⟩ := List.any_eq_true.1 hp
          exact absurd (hun.symm.trans (hn u hu)) nofun
end Sys2Proof


/-! SUPPORT. The steps of a transfer (R307, R308, R314, R317, R320, R425). -/
namespace Sys2Proof
open Sys2Proof.Machine

/-! ### The transfers of a die -/

theorem xfer_spec {x : Inst} {id : Nat} {t : Xfer} (h : x.xfer id = some t) : t ∈ x.xfers ∧ t.id = id := by
  refine ⟨List.mem_of_find?_eq_some h, ?_⟩
  simpa using List.find?_some h

theorem xfer_eq_none {x : Inst} {id : Nat} : x.xfer id = none ↔ ∀ t ∈ x.xfers, t.id ≠ id := by
  simp [Inst.xfer]

theorem mem_setXfer {x : Inst} {t u : Xfer} (h : u ∈ (x.setXfer t).xfers) : u = t ∨ u ∈ x.xfers ∧ u.id ≠ t.id := by
  obtain ⟨v, hv, he⟩ := List.mem_map.1 h
  split at he
  · exact Or.inl he.symm
  · subst he
    exact Or.inr ⟨hv, by assumption⟩

/-- A transfer of the die in a new state is found under its number. -/
theorem xfer_setXfer {x : Inst} {id : Nat} {t u : Xfer} (h : x.xfer id = some u) (ht : t.id = id) : (x.setXfer t).xfer id = some t := by
  subst ht
  unfold Inst.xfer Inst.setXfer at *
  revert h
  generalize x.xfers = l
  induction l with
  | nil => exact nofun
  | cons v l ih =>
    intro h
    rw [List.map_cons, List.find?_cons]
    by_cases hv : v.id = t.id
    · simp [hv]
    · rw [List.find?_cons] at h
      simp only [hv, beq_eq_false_iff_ne.2 hv, if_false] at h ⊢
      exact ih h

theorem setXfer_setXfer (x : Inst) {t u : Xfer} (h : t.id = u.id) : (x.setXfer t).setXfer u = x.setXfer u := by
  unfold Inst.setXfer
  dsimp only
  rw [List.map_map]
  refine congrArg (fun l => { x with xfers := l }) (List.map_congr_left fun v _ => ?_)
  by_cases hv : v.id = t.id <;> simp [hv, ← h]

/-- A transfer that leaves after it has changed leaves as it would have before. -/
theorem filter_setXfer (x : Inst) {t u : Xfer} (h : u.id = t.id) :
    ((x.setXfer u).xfers.filter fun v => v.id != t.id) = x.xfers.filter fun v => v.id != t.id := by
  unfold Inst.setXfer
  dsimp only
  generalize x.xfers = l
  induction l with
  | nil => rfl
  | cons v l ih =>
    rw [List.map_cons, List.filter_cons, List.filter_cons, ih]
    by_cases hv : v.id = t.id <;> simp [hv, h]

theorem xferFail_eq (r : Run) (t : Xfer) (code bytes : Nat) :
    r.xferFail t code bytes = { x := without r.x t, effs := r.effs ++ xferErrs t code bytes } := by
  unfold Run.xferFail xferErrs
  dsimp only
  split <;> simp [Run.emit, Run.dropXfer, without]

theorem xferFinish_eq (r : Run) (t : Xfer) (empty : Bool) :
    r.xferFinish t empty = { x := without r.x t, effs := r.effs ++ xferEnds t empty } := by
  unfold Run.xferFinish xferEnds
  dsimp only
  split <;> simp [Run.emit, Run.dropXfer, without]

theorem without_xfer (x : Inst) (t : Xfer) : (without x t).xfer t.id = none := by
  rw [xfer_eq_none]
  intro u hu
  simpa using (List.mem_filter.1 hu).2

theorem mem_without {x : Inst} {t u : Xfer} (h : u ∈ (without x t).xfers) : u ∈ x.xfers ∧ u.id ≠ t.id := by
  simpa using List.mem_filter.1 h

/-! ### Empty transfers (R320) -/

/-- A transfer that completes as it starts. -/
def EmptyStart (x : Inst) (t : Xfer) : Prop := t.isEmpty = true ∧ x.eligible t = true

theorem startEmpty_none {r : Run} {id : Nat} (h : ∀ t ∈ r.x.xfers, t.id = id → ¬EmptyStart r.x t) : r.startEmpty id = r := by
  unfold Run.startEmpty
  split
  · rfl
  · rename_i t ht
    obtain ⟨hm, hi⟩ := xfer_spec ht
    exact if_neg (h t hm hi)

theorem startEmpties_none {r : Run} (h : ∀ t ∈ r.x.xfers, ¬EmptyStart r.x t) : r.startEmpties = r := by
  refine foldl_keeps (P := fun q : Run => q = r) (fun q id hq => ?_) _ rfl
  subst hq
  exact startEmpty_none fun t ht _ => h t ht

theorem foldl_once {α β : Type} [DecidableEq α] {f : β → α → β} {a b : β} {k : α} (hother : ∀ j, j ≠ k → f a j = a) (hk : f a k = b)
    (hb : ∀ j, f b j = b) : ∀ l : List α, k ∈ l → l.foldl f a = b
  | [], h => absurd h List.not_mem_nil
  | j :: l, h => by
    rw [List.foldl_cons]
    by_cases hj : j = k
    · subst hj
      rw [hk]
      exact foldl_keeps (P := fun c => c = b) (fun c i hc => by subst hc; exact hb i) l rfl
    · rw [hother j hj]
      exact foldl_once hother hk hb l ((List.mem_cons.1 h).resolve_left fun he => hj he.symm)

theorem startEmpty_starts {r : Run} {id : Nat} {t : Xfer} (ht : r.x.xfer id = some t) (h : EmptyStart r.x t) :
    r.startEmpty id = { x := without (r.x.book t.vc t.waitsLed) t, effs := r.effs ++ xferEnds t true } := by
  unfold Run.startEmpty
  rw [ht]
  dsimp only
  exact (if_pos h).trans (xferFinish_eq ..)

/-- The one empty transfer of the die that may start completes. -/
theorem startEmpties_one {r : Run} {t : Xfer} (ht : r.x.xfer t.id = some t) (h : EmptyStart r.x t)
    (ho : ∀ u ∈ r.x.xfers, u.id ≠ t.id → u.isEmpty = false) :
    r.startEmpties = { x := without (r.x.book t.vc t.waitsLed) t, effs := r.effs ++ xferEnds t true } := by
  refine foldl_once (k := t.id) (fun j hj => startEmpty_none fun u hu hi he => ?_) (startEmpty_starts ht h)
    (fun j => startEmpty_none fun u hu _ he => ?_) _ (List.mem_map_of_mem (xfer_spec ht).1)
  · exact absurd (he.1.symm.trans (ho u hu (hi ▸ hj))) nofun
  · obtain ⟨hm, hi⟩ := mem_without hu
    exact absurd (he.1.symm.trans (ho u hm hi)) nofun

/-! ### The fence wait (R307, R314) -/

theorem reached_iff {v w : Word} : reached v w = true ↔ 0 ≤ (v - w).toInt := by simp [reached]

theorem eligible_iff {x : Inst} {t : Xfer} : x.eligible t = true ↔ t.phase = .ready
    ∧ ∀ u ∈ x.xfers, u.vc = t.vc → u.id < t.id → u.phase ≠ .waiting ∧ u.phase ≠ .ready := by
  simp only [Inst.eligible, Bool.and_eq_true, decide_eq_true_iff, List.all_eq_true, Bool.not_eq_true', Bool.and_eq_false_iff,
    decide_eq_false_iff_not, beq_eq_false_iff_ne, not_or]
  refine and_congr Iff.rfl (forall₂_congr fun u _ => ⟨fun h hv hlt => ?_, fun h => ?_⟩)
  · rcases h with (h | h) | h
    · exact absurd hv h
    · exact absurd hlt h
    · exact h
  · by_cases hv : u.vc = t.vc
    · by_cases hlt : u.id < t.id
      · exact Or.inr (h hv hlt)
      · exact Or.inl (Or.inr hlt)
    · exact Or.inl (Or.inl hv)

/-- A transfer that has passed its fence wait. -/
def passed (x : Inst) (t : Xfer) : Xfer := { t with phase := .ready, ticks := if t.waited then x.ticks - t.since else 0 }

theorem eligible_passed {x : Inst} {t : Xfer} : (x.setXfer (passed x t)).eligible (passed x t) = true
    ↔ ∀ u ∈ x.xfers, u.vc = t.vc → u.id < t.id → u.phase ≠ .waiting ∧ u.phase ≠ .ready := by
  rw [eligible_iff]
  refine (and_iff_right rfl).trans ⟨fun h u hu hv hlt => h u ?_ hv hlt, fun h u hu hv hlt => ?_⟩
  · refine List.mem_map.2 ⟨u, hu, if_neg ?_⟩
    exact Nat.ne_of_lt hlt
  · rcases mem_setXfer hu with rfl | ⟨hm, -⟩
    · exact absurd hlt (Nat.lt_irrefl _)
    · exact h u hm hv hlt

theorem fencePass_looks {e : Env} {x : Inst} {t : Xfer} (hx : x.xfer t.id = some t) (haw : x.awake = true) (hp : t.phase = .waiting) :
    fencePass t.id e x =
      if xWaitEn t.words ∧ e.away (xWaitFence t.words / 1024) then (pureRun x).emit (.ask (xWaitFence t.words / 1024))
      else if xWaitEn t.words ∧ (e.fence (xWaitFence t.words)).err ≠ 0 then
        ((pureRun x).xferFail t (e.fence (xWaitFence t.words)).err 0).startEmpties
      else if xWaitEn t.words ∧ !reached (e.fence (xWaitFence t.words)).value (xTarget t.words) then pureRun x
      else ((pureRun x).setXfer (passed x t)).startEmpties := by
  unfold fencePass
  simp only [hx]
  rw [if_neg (by simp [hp, haw])]
  rfl

/-! ### Staging (R308) -/

theorem askXlate_frame (x : Inst) (asid : BitVec 16) (vpn : Nat) (w : Bool) (who : XlWho) :
    x.askXlate asid vpn w who = { x with xreqs := (x.askXlate asid vpn w who).xreqs } := by
  unfold Inst.askXlate
  split <;> rfl

/-- With nothing cached every unknown page is asked for, and stays unknown. -/
theorem xlatePages_misses (asid : BitVec 16) (id : Nat) (ps : List XPage) (hps : ∀ p ∈ ps, p.ppn = none) : ∀ x : Inst, x.tlb = [] →
    ∃ y : Inst, x.xlatePages asid id ps = some (y, ps) ∧ y = { x with xreqs := y.xreqs } := by
  induction ps with
  | nil => exact fun x _ => ⟨x, rfl, rfl⟩
  | cons p ps ih =>
    intro x hx
    have hlook : x.pageLook asid p = .ok none := by simp [Inst.pageLook, Inst.tlbFind, hx]
    rw [Inst.xlatePages, hps p List.mem_cons_self, hlook]
    dsimp only
    let x1 : Inst := if x.xreqs.any fun q => decide (q.who = .xfer id) && q.vpn == p.vpn && q.write == p.write then x
      else x.askXlate asid p.vpn p.write (.xfer id)
    have hx1 : x1 = { x with xreqs := x1.xreqs } := by
      simp only [x1]
      split
      · rfl
      · exact askXlate_frame ..
    obtain ⟨y, hy, hf⟩ := ih (fun q hq => hps q (List.mem_cons_of_mem _ hq)) x1 (by rw [hx1]; exact hx)
    refine ⟨y, ?_, ?_⟩
    · exact congrArg (Option.map _) hy
    · rw [hf, hx1]

theorem pagesOf_ppn {side : XSide} {w : Bool} {as : List Nat} {p : XPage} (h : p ∈ pagesOf side w as) : p.ppn = none := by
  obtain ⟨v, -, rfl⟩ := List.mem_map.1 h
  rfl

theorem pagesSpan_ppn {side : XSide} {w : Bool} {a n : Nat} {p : XPage} (h : p ∈ pagesSpan side w a n) : p.ppn = none := by
  unfold pagesSpan at h
  split at h
  · exact absurd h List.not_mem_nil
  · obtain ⟨v, -, rfl⟩ := List.mem_map.1 h
    rfl

theorem firstPages_ppn (t : Xfer) : ∀ p ∈ t.firstPages, p.ppn = none := by
  intro p hp
  unfold Xfer.firstPages at hp
  dsimp only at hp
  split at hp
  · simp only [List.mem_append] at hp
    rcases hp with ((((hp | hp) | hp) | hp) | hp) | hp
    · exact pagesOf_ppn hp
    · exact pagesOf_ppn hp
    all_goals exact pagesSpan_ppn hp
  · simp only [List.mem_append] at hp
    rcases hp with (hp | hp) | hp
    · exact pagesOf_ppn hp
    · exact pagesOf_ppn hp
    · split at hp
      · exact pagesOf_ppn hp
      · exact absurd hp List.not_mem_nil

/-- A transfer whose pages are all unknown, with nothing cached, asks for them. -/
theorem xlateXfer_asks {e : Env} {r : Run} {t : Xfer} (hx : r.x.xfers = [t]) (hp : t.phase = .translating) (htlb : r.x.tlb = [])
    (hps : ∀ p ∈ t.pages, p.ppn = none) (hne : t.pages ≠ []) :
    ∃ y : Inst, r.xlateXfer e t.id = { r with x := y } ∧ y = { r.x with xreqs := y.xreqs } := by
  have hfind : r.x.xfer t.id = some t := by simp [Inst.xfer, hx]
  obtain ⟨y, hy, hf⟩ := xlatePages_misses (r.x.vc t.vc).asid t.id t.pages hps r.x htlb
  refine ⟨y, ?_, hf⟩
  have hset : y.setXfer t = y := by
    have hyx : y.xfers = [t] := by rw [hf]; exact hx
    unfold Inst.setXfer
    rw [hyx, List.map_singleton, if_pos rfl, ← hyx]
  have hany : (t.pages.any fun p => p.ppn.isNone) = true := by
    obtain ⟨p, hp⟩ := List.exists_mem_of_ne_nil _ hne
    exact List.any_eq_true.2 ⟨p, hp, by rw [hps p hp]; rfl⟩
  unfold Run.xlateXfer
  simp only [hfind, hy]
  rw [if_neg (not_not.2 hp), if_pos hany]
  exact congrArg (fun z : Inst => ({ r with x := z } : Run)) hset

theorem kickXfers_asks {e : Env} {r : Run} {t : Xfer} (hx : r.x.xfers = [t]) (hp : t.phase = .translating) (htlb : r.x.tlb = [])
    (hps : ∀ p ∈ t.pages, p.ppn = none) (hne : t.pages ≠ []) :
    ∃ y : Inst, r.kickXfers e = { r with x := y } ∧ y = { r.x with xreqs := y.xreqs } := by
  obtain ⟨y, hy, hf⟩ := xlateXfer_asks (e := e) hx hp htlb hps hne
  obtain ⟨z, hz, hg⟩ := xlateXfer_asks (e := e) (r := { r with x := y }) (by rw [hf]; exact hx) hp (by rw [hf]; exact htlb) hps hne
  refine ⟨z, ?_, by rw [hg]; dsimp only; rw [hf]⟩
  unfold Run.kickXfers
  rw [hx]
  simp only [List.map_cons, List.map_nil, List.cons_append, List.nil_append, List.foldl_cons, List.foldl_nil]
  rw [hy, hz]

/-! ### Read returns (R317, R425) -/

theorem portUse_none {port ident : Nat} {f : Env → Inst → Run} {e : Env} {x : Inst} (h : x.flt.injected = none) :
    portUse port ident f e x = f e x := by
  have hn (k n : Nat) : x.injection k n = none := by simp [Inst.injection, h]
  unfold portUse
  rw [hn, hn]
  rfl

/-- The lines that a read request still awaits after a beat. -/
def readsLeft (x : Inst) (q : SeReq) : List SeReq :=
  if q.reads.drop 2 = [] then x.seReqs.erase q
  else x.seReqs.map fun p => if p = q then { q with reads := q.reads.drop 2 } else p

theorem seReadReturn_lines {port ident : Nat} {lower upper : BitVec 2 × Line} {e : Env} {x : Inst} {q : SeReq} {id : Nat}
    (hq : x.seReqs.find? (fun q => q.port == port && q.ident == ident && !q.reads.isEmpty) = some q) (hx : q.xfer = some id) :
    seReadReturn port ident lower upper e x = ((q.reads.zip [lower, upper]).foldl (fun (r : Run) p =>
      r.lineReturn e id p.1 p.2.1 p.2.2) (pureRun { x with seReqs := readsLeft x q })).serve.beginExchange e id := by
  unfold seReadReturn readsLeft
  simp only [hq, hx, List.isEmpty_iff]

theorem beginExchange_none {e : Env} {r : Run} {id : Nat} (h : r.x.xfer id = none) : r.beginExchange e id = r := by
  unfold Run.beginExchange
  rw [h]

theorem beginExchange_move {e : Env} {r : Run} {id : Nat} {t : Xfer} (h : r.x.xfer id = some t) (hk : xKind t.words = 0) :
    r.beginExchange e id = r := by
  unfold Run.beginExchange
  rw [h]
  exact if_neg fun hc => Nat.zero_ne_one (hk.symm.trans hc.2)

section
variable {e : Env} {r : Run} {id : Nat} {t : Xfer} {p : SeRead} (hx : r.x.xfer id = some t) (hp : p.poll = none)
include hx hp

/-- Transfer t of the die with one more line. -/
def keepLine (r : Run) (t : Xfer) (l : SeLine) : Run := r.setXfer { t with got := t.got ++ [l] }

/-- What one line of a transfer's read comes to. -/
theorem lineReturn_eq (status : BitVec 2) (data : Line) : r.lineReturn e id p status data =
    if status = 0 then keepLine r t { va := p.va, data := data, bad := false }
    else if status = 2 then r.xferFail t errPoison 0
    else if p.again then
      (if t.poisons r.x then keepLine r t { va := p.va, data := 0, bad := true } else r.xferFail t errMemRead 0)
    else if status = 3 ∧ (p.tier = 1 ∨ p.tier = 2) then
      r.setXfer { t with tiles := [SeReq.waiting [{ p with again := true }] []] :: t.tiles }
    else r.xferFail t errMemRead 0 := by
  unfold Run.lineReturn
  rw [hx, hp]
  rfl
end

/-- A transfer with one more list of lines goes no further in the same step. -/
theorem kept_settles {e : Env} {x : Inst} {t u : Xfer} (hx : x.xfer t.id = some t) (hk : xKind t.words = 0)
    (htiles : ∀ u ∈ x.xfers, u.tiles = []) (hi : u.id = t.id) (hu : u.tiles = []) (hw : u.words = t.words) :
    (pureRun (x.setXfer u)).serve.beginExchange e t.id = pureRun (x.setXfer u) := by
  have hs : (pureRun (x.setXfer u)).serve = pureRun (x.setXfer u) := congrArg pureRun (serve_none fun v hv => by
    rcases mem_setXfer hv with rfl | ⟨hm, -⟩
    · exact hu
    · exact htiles v hm)
  rw [hs]
  exact beginExchange_move (xfer_setXfer hx hi) (by rw [hw]; exact hk)

theorem fails_settles {e : Env} {x : Inst} {t : Xfer} (htiles : ∀ u ∈ x.xfers, u.tiles = []) (es : List Eff) :
    Run.beginExchange e (Run.serve { x := without x t, effs := es }) t.id = { x := without x t, effs := es } := by
  have hs : Run.serve { x := without x t, effs := es } = { x := without x t, effs := es } :=
    congrArg (fun y : Inst => (⟨y, es⟩ : Run)) (serve_none fun v hv => htiles v (mem_without hv).1)
  rw [hs]
  exact beginExchange_none (without_xfer x t)

/-! ### A repeated line (R272, R317) -/

theorem rounds_idle (n : Nat) : ∀ x : Inst, (∀ t ∈ x.xfers, t.tiles = []) → ∃ l, Inst.rounds n x = { x with seRound := l } := by
  have hno (x : Inst) (h : ∀ t ∈ x.xfers, t.tiles = []) (v : Nat) : x.hasTiles v = false := by
    rw [Inst.hasTiles, List.any_eq_false]
    intro t ht
    simp [h t ht]
  induction n with
  | zero => exact fun x _ => ⟨x.seRound, rfl⟩
  | succ n ih =>
    intro x h
    have hnew : x.newRound = [] := by
      have : (x.vcs.filterMap fun p => match p.2.ctx with
          | some k => if x.hasTiles p.1 then some (k, p.1, max 1 p.2.weight) else none
          | none => none) = [] := by
        rw [List.filterMap_eq_nil_iff]
        intro p _
        split
        · exact if_neg (by rw [hno x h]; nofun)
        · rfl
      exact congrArg (fun l : List (Nat × Nat × Nat) => (l.foldr insertCtx []).map Prod.snd) this
    rw [Inst.rounds]
    split
    · rw [hnew]
      exact ⟨x.seRound, rfl⟩
    · rename_i v k rest he
      rw [if_pos (Or.inr (by rw [hno x h]; rfl))]
      obtain ⟨l, hl⟩ := ih { x with seRound := rest } h
      exact ⟨l, hl⟩

theorem mem_insertCtx {p q : Nat × Nat × Nat} {l : List (Nat × Nat × Nat)} : p ∈ insertCtx q l ↔ p = q ∨ p ∈ l := by
  induction l with
  | nil => simp [insertCtx]
  | cons r l ih =>
    rw [insertCtx]
    split
    · simp
    · simp only [List.mem_cons, ih]
      tauto

theorem mem_foldr_insertCtx {p : Nat × Nat × Nat} {l : List (Nat × Nat × Nat)} : p ∈ l.foldr insertCtx [] ↔ p ∈ l := by
  induction l with
  | nil => rfl
  | cons q l ih => rw [List.foldr_cons, mem_insertCtx, ih, List.mem_cons]

theorem Tbl.mem_of_get {α : Type} {d : α} {t : Tbl α} {k : Nat} (h : Tbl.get d t k ≠ d) : (k, Tbl.get d t k) ∈ t := by
  induction t with
  | nil => exact absurd rfl h
  | cons p t ih =>
    obtain ⟨i, v⟩ := p
    unfold Tbl.get at h ⊢
    split
    · rename_i hi
      subst hi
      exact List.mem_cons_self
    · rename_i hi
      rw [if_neg hi] at h
      exact List.mem_cons_of_mem _ (ih h)

/-- The rounds with one transfer, of a resident channel, that has one tile. -/
theorem newRound_one {x : Inst} {t : Xfer} (hx : x.xfers = [t]) (ht : t.tiles ≠ []) (hres : (x.vc t.vc).resident = true) :
    ∃ k rest, x.newRound = (t.vc, k + 1) :: rest := by
  have hhas (v : Nat) : x.hasTiles v = true ↔ v = t.vc := by
    unfold Inst.hasTiles
    rw [hx]
    have hne : t.tiles.isEmpty = false := by simpa using ht
    simp only [List.any_cons, List.any_nil, hne, Bool.not_false, Bool.and_true, Bool.or_false, beq_iff_eq]
    exact eq_comm
  obtain ⟨k, hk⟩ := Option.isSome_iff_exists.1 hres
  have hmem : (t.vc, x.vc t.vc) ∈ x.vcs := by
    refine Tbl.mem_of_get (d := Vc.free) fun he => ?_
    rw [show x.vc t.vc = Vc.free from he] at hk
    exact absurd hk nofun
  let l := x.vcs.filterMap fun p => match p.2.ctx with
    | some k => if x.hasTiles p.1 then some (k, p.1, max 1 p.2.weight) else none
    | none => none
  have hround : x.newRound = (l.foldr insertCtx []).map Prod.snd := rfl
  have hall : ∀ q ∈ x.newRound, ∃ n, q = (t.vc, n + 1) := by
    intro q hq
    rw [hround] at hq
    obtain ⟨p, hp, rfl⟩ := List.mem_map.1 hq
    obtain ⟨c, -, hc⟩ := List.mem_filterMap.1 (mem_foldr_insertCtx.1 hp)
    split at hc
    · split at hc
      · rename_i hv
        obtain rfl := Option.some.inj hc
        have hv := (hhas c.1).1 hv
        exact ⟨max 1 c.2.weight - 1, by rw [hv]; exact congrArg (Prod.mk t.vc) (by omega)⟩
      · exact absurd hc nofun
    · exact absurd hc nofun
  have hin : (t.vc, max 1 (x.vc t.vc).weight) ∈ x.newRound := by
    rw [hround]
    refine List.mem_map.2 ⟨(k, t.vc, max 1 (x.vc t.vc).weight), mem_foldr_insertCtx.2 (List.mem_filterMap.2 ⟨_, hmem, ?_⟩), rfl⟩
    simp only [hk]
    exact if_pos ((hhas t.vc).2 rfl)
  cases hn : x.newRound with
  | nil =>
    rw [hn] at hin
    exact absurd hin List.not_mem_nil
  | cons q rest =>
    obtain ⟨n, rfl⟩ := hall q (by rw [hn]; exact List.mem_cons_self)
    exact ⟨n, rest, rfl⟩

theorem issueReqs_one {x : Inst} {id : Nat} {q : SeReq} {pt : Nat × Nat} (hpt : x.nextPort = some pt) (hq : q.writes = []) :
    Inst.issueReqs id [q] x
      = ({ x with seReqs := x.seReqs ++ [{ q with port := pt.1, ident := pt.2, xfer := some id }] }, []) := by
  simp only [Inst.issueReqs, hpt, hq, List.map_nil, List.append_nil]

/-- One request of one transfer, of a resident channel, leaves at the next port. -/
theorem rounds_one {t : Xfer} {q : SeReq} {pt : Nat × Nat} (ht : t.tiles = [[q]]) (hq : q.writes = []) (n : Nat) :
    ∀ x : Inst, x.xfers = [t] → (x.vc t.vc).resident = true → x.nextPort = some pt → x.seRound.length + 2 ≤ n →
      ∃ l, Inst.rounds n x = { x with
        xfers := [{ t with tiles := [] }], seRound := l
        seReqs := x.seReqs ++ [{ q with port := pt.1, ident := pt.2, xfer := some t.id }] } := by
  have hissue (x : Inst) (hx : x.xfers = [t]) (hpt : x.nextPort = some pt) : x.issueTile t.vc = ({ x with
      xfers := [{ t with tiles := [] }]
      seReqs := x.seReqs ++ [{ q with port := pt.1, ident := pt.2, xfer := some t.id }] }, true) := by
    have hfind : (x.xfers.find? fun u => u.vc == t.vc && !u.tiles.isEmpty) = some t := by simp [hx, ht]
    unfold Inst.issueTile
    rw [hfind]
    dsimp only
    rw [ht]
    dsimp only
    rw [issueReqs_one hpt hq]
    refine Prod.ext ?_ rfl
    dsimp only [Inst.setXfer]
    rw [hx, List.map_singleton, if_pos rfl]
    rfl
  have hlast (m k : Nat) (rest : List (Nat × Nat)) (x : Inst) (hx : x.xfers = [t]) (hpt : x.nextPort = some pt)
      (hr : x.seRound = (t.vc, k + 1) :: rest) : ∃ l, Inst.rounds (m + 1) x = { x with
        xfers := [{ t with tiles := [] }], seRound := l
        seReqs := x.seReqs ++ [{ q with port := pt.1, ident := pt.2, xfer := some t.id }] } := by
    have hhas : x.hasTiles t.vc = true := by simp [Inst.hasTiles, hx, ht]
    rw [Inst.rounds, hr]
    dsimp only
    rw [if_neg (by simp [hhas]), hissue x hx hpt]
    dsimp only
    rw [if_pos rfl]
    obtain ⟨l, hl⟩ := rounds_idle m { x with
      xfers := [{ t with tiles := [] }]
      seReqs := x.seReqs ++ [{ q with port := pt.1, ident := pt.2, xfer := some t.id }], seRound := (t.vc, k + 1 - 1) :: rest }
      (by simp)
    exact ⟨l, hl⟩
  induction n with
  | zero => exact fun x _ _ _ hn => absurd hn (by omega)
  | succ n ih =>
    intro x hx hres hpt hn
    cases hr : x.seRound with
    | nil =>
      obtain ⟨k, rest, hnew⟩ := newRound_one hx (by rw [ht]; nofun) hres
      rw [Inst.rounds, hr]
      dsimp only
      rw [hnew]
      obtain ⟨m, rfl⟩ : ∃ m, n = m + 1 := ⟨n - 1, by omega⟩
      obtain ⟨l, hl⟩ := hlast m k rest { x with seRound := (t.vc, k + 1) :: rest } hx hpt rfl
      exact ⟨l, hl⟩
    | cons p rest =>
      obtain ⟨v, k⟩ := p
      by_cases hgo : k = 0 ∨ (!x.hasTiles v) = true
      · rw [Inst.rounds, hr]
        dsimp only
        rw [if_pos hgo]
        rw [hr, List.length_cons] at hn
        obtain ⟨l, hl⟩ := ih { x with seRound := rest } hx hres hpt (by dsimp only; omega)
        exact ⟨l, hl⟩
      · rw [not_or] at hgo
        obtain ⟨hk, hv⟩ := hgo
        obtain ⟨k, rfl⟩ := Nat.exists_eq_succ_of_ne_zero hk
        have hv : v = t.vc := by
          have : x.hasTiles v = true := by simpa using hv
          unfold Inst.hasTiles at this
          rw [hx] at this
          simp only [List.any_cons, List.any_nil, ht, List.isEmpty_cons, Bool.not_false, Bool.and_true, Bool.or_false,
            beq_iff_eq] at this
          exact this.symm
        subst hv
        exact hlast n k rest x hx hpt hr

/-- Settles O38. -/
theorem transferSteps : Obligations.TransferSteps := by
  unfold Obligations.TransferSteps
  intro s i x t f passes waited turn away hw hx
  obtain ⟨hmem, -⟩ := xfer_spec hx
  have hrun {c : Instr} {g : Env → Inst → Run} {r : Run} (he : exec c s = onInst s i g) (hr : g (s.env i) x = r) :
      HubRun c s i r.x r.effs := HubRun.of_inst he hw.1 hr
  refine ⟨?_, ?_, ?_, ?_, ?_⟩
  · intro hp ha
    exact hrun (g := fencePass t.id) rfl ((fencePass_looks hx hw.2 hp).trans (if_pos ha))
  · intro hp ha ho
    have hlook := (fencePass_looks (e := s.env i) hx hw.2 hp).trans (if_neg ha)
    have hpass (hr : passes) : fencePass t.id (s.env i) x = ((pureRun x).setXfer (passed x t)).startEmpties := by
      refine hlook.trans ((if_neg fun hc => ?_).trans (if_neg fun hc => ?_))
      · rcases hr with hr | hr
        · exact absurd (hr.symm.trans hc.1) nofun
        · exact hc.2 hr.1
      · rcases hr with hr | hr
        · exact absurd (hr.symm.trans hc.1) nofun
        · have : reached f.value (xTarget t.words) = true := reached_iff.2 hr.2
          rw [show (s.env i).fence (xWaitFence t.words) = f from rfl, this] at hc
          exact absurd hc.2 nofun
    have hothers : ∀ u ∈ ((pureRun x).setXfer (passed x t)).x.xfers, u.id ≠ t.id → u.isEmpty = false := by
      intro u hu hne
      rcases mem_setXfer hu with rfl | ⟨hm, hi⟩
      · exact absurd rfl hne
      · exact ho u hm hi
    refine ⟨fun hen herr => ?_, fun hen h0 hneg => ?_, fun hr hnot => ?_, fun hr hempty hturn => ?_⟩
    · refine hrun (g := fencePass t.id) (r := { x := without x t, effs := xferErrs t f.err 0 }) rfl
        (hlook.trans ((if_pos ⟨hen, herr⟩).trans ?_))
      rw [xferFail_eq]
      refine startEmpties_none fun u hu he => ?_
      obtain ⟨hm, hi⟩ := mem_without hu
      exact absurd (he.1.symm.trans (ho u hm hi)) nofun
    · refine hrun (g := fencePass t.id) (r := pureRun x) rfl (hlook.trans ((if_neg fun hc => hc.2 h0).trans (if_pos ⟨hen, ?_⟩)))
      have : ¬reached f.value (xTarget t.words) = true := fun h => absurd (reached_iff.1 h) (Int.not_le.2 hneg)
      rw [show (s.env i).fence (xWaitFence t.words) = f from rfl, eq_false_of_ne_true this]
      rfl
    · refine hrun (g := fencePass t.id) (r := (pureRun x).setXfer (passed x t)) rfl ((hpass hr).trans ?_)
      refine startEmpties_none fun u hu he => ?_
      rcases mem_setXfer hu with rfl | ⟨hm, hi⟩
      · rcases hnot with hn | hn
        · exact absurd (he.1.symm.trans hn) nofun
        · exact hn (eligible_passed.1 he.2)
      · exact absurd (he.1.symm.trans (ho u hm hi)) nofun
    · have hone := startEmpties_one (r := (pureRun x).setXfer (passed x t)) (t := passed x t) (xfer_setXfer hx rfl)
        ⟨hempty, eligible_passed.2 hturn⟩ hothers
      refine hrun (g := fencePass t.id) (r := { x := without (x.book t.vc waited) t, effs := xferEnds t true }) rfl
        ((hpass hr).trans (hone.trans ?_))
      have hled : (passed x t).waitsLed = waited := by
        by_cases hwt : t.waited = true <;> simp [Xfer.waitsLed, passed, waited, hwt]
      rw [hled]
      refine congrArg (fun l => ({ x := { (x.book t.vc waited).orphanReqs t.id with xfers := l }, effs := xferEnds t true } : Run)) ?_
      exact filter_setXfer x (u := passed x t) rfl
  · intro hfind hfull
    refine hrun (g := stagingReserve) (r := pureRun x) rfl ?_
    unfold stagingReserve
    simp only [hfind]
    refine if_pos ?_
    rcases hfull with h | h
    · rw [decide_eq_true h, Bool.or_true, Bool.true_or]
    · exact Bool.or_eq_true_iff.2 (Or.inr (decide_eq_true h))
  · intro hxs hp hfit htlb hne
    let t1 : Xfer := { t with phase := .translating, space := t.need, pages := t.firstPages }
    have hel : x.xfers.find? x.eligible = some t := by
      have : x.eligible t = true := eligible_iff.2 ⟨hp, fun u hu _ hlt => by
        rw [hxs, List.mem_singleton] at hu
        subst hu
        exact absurd hlt (Nat.lt_irrefl _)⟩
      simp [hxs, this]
    have hset : (x.setXfer t1).xfers = [t1] := by simp [Inst.setXfer, hxs, t1]
    obtain ⟨y, hy, hf⟩ := kickXfers_asks (e := s.env i) (r := pureRun (x.setXfer t1)) hset rfl htlb (firstPages_ppn t) hne
    have hyx : y.xfers = [t1] := by rw [hf]; exact hset
    refine ⟨y, hrun (g := stagingReserve) (r := pureRun y) rfl ?_, by rw [hf]; rfl, hyx⟩
    have hbad : ¬(!x.awake || decide (2 ^ 23 < (x.xfers.map Xfer.space).sum + t.need)
        || decide (32 ≤ (x.xfers.filter fun u => decide (u.space ≠ 0)).length)) = true := by
      have h1 : (x.xfers.map Xfer.space).sum = t.space := by simp [hxs]
      have h2 : (x.xfers.filter fun u => decide (u.space ≠ 0)).length ≤ 1 := by
        rw [hxs]; exact List.length_filter_le _ _
      rw [hw.2, h1]
      simp only [Bool.not_true, Bool.false_or, Bool.or_eq_true, decide_eq_true_iff, not_or]
      omega
    unfold stagingReserve
    simp only [hel]
    rw [if_neg hbad, hy]
    refine startEmpties_none fun u hu he => ?_
    have hu : u ∈ y.xfers := hu
    rw [hyx, List.mem_singleton] at hu
    subst hu
    exact absurd (eligible_iff.1 he.2).1 nofun
  · intro q port ident lower upper hq hqx hk htiles hpoll hinj left x1 c ends kept
    have hx1 : x1 = { x with seReqs := readsLeft x q } := rfl
    have hex : exec c s = onInst s i (mending (portUse port ident (seReadReturn port ident lower upper))) := rfl
    have hlines : seReadReturn port ident lower upper (s.env i) x
        = ((q.reads.zip [lower, upper]).foldl (fun (r : Run) p => r.lineReturn (s.env i) t.id p.1 p.2.1 p.2.2)
          (pureRun x1)).serve.beginExchange (s.env i) t.id := seReadReturn_lines hq hqx
    have hmend {y : Inst} {es : List Eff} (h : ((q.reads.zip [lower, upper]).foldl (fun (r : Run) p =>
        r.lineReturn (s.env i) t.id p.1 p.2.1 p.2.2) (pureRun x1)).serve.beginExchange (s.env i) t.id = { x := y, effs := es }) :
        MendRun c s i y es := MendRun.of_inst hex hw.1 ((portUse_none hinj).trans (hlines.trans h))
    have hfind : x1.xfer t.id = some t := hx
    have hline {p : SeRead} (hp : p ∈ q.reads) := lineReturn_eq (e := s.env i) (r := pureRun x1) hfind (hpoll p hp)
    have hreads : q.reads ≠ [] := by
      have := List.find?_some hq
      intro h0
      simp [h0] at this
    refine ⟨fun h0 hup => ?_, ?_⟩
    · match hr : q.reads, hreads with
      | [p], _ =>
        refine hmend ?_
        have hp : p ∈ q.reads := by rw [hr]; exact List.mem_singleton_self p
        rw [hr]
        simp only [List.zip_cons_cons, List.zip_nil_left, List.foldl_cons, List.foldl_nil]
        rw [hline hp, if_pos h0]
        exact kept_settles hfind hk htiles rfl (htiles t hmem) rfl
      | p :: p' :: rest, _ =>
        refine hmend ?_
        have hp : p ∈ q.reads := by rw [hr]; exact List.mem_cons_self
        have hp' : p' ∈ q.reads := by rw [hr]; exact List.mem_cons_of_mem _ List.mem_cons_self
        have hu0 : upper.1 = 0 := hup.resolve_right (by simp [hr])
        rw [hr]
        simp only [List.zip_cons_cons, List.zip_nil_right, List.foldl_cons, List.foldl_nil]
        rw [hline hp, if_pos h0]
        let t1 : Xfer := { t with got := t.got ++ [{ va := p.va, data := lower.2, bad := false }] }
        have h1 : (keepLine (pureRun x1) t { va := p.va, data := lower.2, bad := false }).x.xfer t.id = some t1 :=
          xfer_setXfer hfind rfl
        rw [lineReturn_eq h1 (hpoll p' hp'), if_pos hu0]
        have h2 : keepLine (keepLine (pureRun x1) t { va := p.va, data := lower.2, bad := false }) t1
            { va := p'.va, data := upper.2, bad := false } = pureRun (x1.setXfer { t with
              got := t.got ++ [{ va := p.va, data := lower.2, bad := false }] ++ [{ va := p'.va, data := upper.2, bad := false }] }) :=
          congrArg pureRun (setXfer_setXfer x1 (t := t1) rfl)
        rw [List.append_assoc] at h2
        rw [h2]
        exact kept_settles hfind hk htiles rfl (htiles t hmem) rfl
    · intro p hp slow
      have hpm : p ∈ q.reads := by rw [hp]; exact List.mem_singleton_self p
      have hone : (q.reads.zip [lower, upper]).foldl (fun (r : Run) p => r.lineReturn (s.env i) t.id p.1 p.2.1 p.2.2) (pureRun x1)
          = (pureRun x1).lineReturn (s.env i) t.id p lower.1 lower.2 := by rw [hp]; rfl
      have hend (code : Nat) (h : (pureRun x1).lineReturn (s.env i) t.id p lower.1 lower.2 = (pureRun x1).xferFail t code 0) :
          ends code := by
        refine hmend ?_
        rw [hone, h, xferFail_eq]
        exact fails_settles (x := x1) htiles _
      have hbad {st : BitVec 2} (h : st = 1 ∨ st = 3) : st ≠ 0 ∧ st ≠ 2 := by
        rcases h with rfl | rfl <;> decide
      have hlate (h : lower.1 = 1 ∨ lower.1 = 3) := (hline hpm lower.1 lower.2).trans ((if_neg (hbad h).1).trans (if_neg (hbad h).2))
      refine ⟨fun h2 => ?_, fun h1 ha => ?_, fun h3 hs ha => ?_, fun h ha hpo => ?_, fun h ha hpo => ?_,
        fun pt h3 hs ha hxs hres hpt => ?_⟩
      · exact hend _ ((hline hpm _ _).trans ((if_neg (by rw [h2]; decide)).trans (if_pos h2)))
      · exact hend _ ((hlate (Or.inl h1)).trans ((if_neg (by rw [ha]; nofun)).trans (if_neg fun hc => by
          rw [h1] at hc; exact absurd hc.1 (by decide))))
      · exact hend _ ((hlate (Or.inr h3)).trans ((if_neg (by rw [ha]; nofun)).trans (if_neg fun hc => hs hc.2)))
      · have hpo : ¬t.poisons (pureRun x1).x = true := fun h => absurd (hpo.symm.trans h) nofun
        exact hend _ ((hlate h).trans ((if_pos ha).trans (if_neg hpo)))
      · refine hmend ?_
        rw [hone, (hlate h).trans ((if_pos ha).trans (if_pos hpo))]
        exact kept_settles hfind hk htiles rfl (htiles t hmem) rfl
      · let r : SeReq := SeReq.waiting [{ p with again := true }] []
        let t1 : Xfer := { t with tiles := [r] :: t.tiles }
        have hrep := (hlate (Or.inr h3)).trans ((if_neg (by rw [ha]; nofun)).trans (if_pos ⟨h3, hs⟩))
        have ht : t.tiles = [] := htiles t hmem
        have hset : (x1.setXfer t1).xfers = [t1] := by simp [Inst.setXfer, x1, hxs, t1]
        have hsum : ((x1.setXfer t1).xfers.map fun t => t.tiles.length).sum = 1 := by
          rw [hset]
          simp [t1, ht]
        obtain ⟨l, hl⟩ := rounds_one (t := t1) (q := r) (pt := pt) (by simp [t1, ht]) rfl
          (3 * 1 + (x1.setXfer t1).seRound.length + 3) (x1.setXfer t1) hset hres hpt (by omega)
        have hserve : (x1.setXfer t1).serve = { x1 with seRound := l, seReqs := x1.seReqs ++ [{
            port := pt.1, ident := pt.2, xfer := some t.id, reads := [{ p with again := true }], writes := [], again := false }] } := by
          have hxf : [{ t1 with tiles := [] }] = x1.xfers := by
            rw [show x1.xfers = [t] from hxs]
            refine congrArg (fun u : Xfer => [u]) ?_
            show ({ t with tiles := [] } : Xfer) = t
            rw [← ht]
          unfold Inst.serve
          rw [hsum]
          dsimp only
          rw [if_neg (by omega), hl, hxf]
          rfl
        refine ⟨_, hmend (y := (x1.setXfer t1).serve) (es := []) ?_, ?_⟩
        · rw [hone, hrep]
          refine beginExchange_move (r := pureRun (x1.setXfer t1).serve) (t := t) ?_ hk
          rw [hserve]
          exact hx
        · rw [hserve]
end Sys2Proof


/-! SUPPORT. Instructions on memory: what they wait for, and how they end (R22, R218, R295 to R301, R421). -/
namespace Sys2Proof
open Sys2Proof.Machine

/-! ### Where an instruction on memory begins to read -/

/-- The cell of an instruction on memory when it begins to read: the windows of a feed request have opened (R229). -/
def askCell (c : Cell) (k : Nat) (feed : Bool) : Cell := if feed then c.openWins k else c

theorem askCell_slots (c : Cell) (k : Nat) (feed : Bool) : (askCell c k feed).slots = c.slots := by
  unfold askCell
  split <;> rfl

theorem askCell_slot (c : Cell) (k j : Nat) (feed : Bool) : (askCell c k feed).slot j = c.slot j := by
  rw [Cell.slot, Cell.slot, askCell_slots]

/-- The ranges and the adds of a cask table do not change while windows open. -/
theorem openWins_any (c : Cell) (k : Nat) (p : Cask → Bool) (hp : ∀ (q : Cask) w, p { q with wins := w } = p q) :
    ((c.openWins k).casks.any fun q => p q.2) = c.casks.any fun q => p q.2 := by
  unfold Cell.openWins
  dsimp only
  rw [List.any_map]
  refine congrArg (List.any c.casks) (funext fun q => ?_)
  simp only [Function.comp]
  split
  · exact hp ..
  · rfl

theorem askCell_caskHit (c : Cell) (k : Nat) (feed : Bool) (r : Option Nat) (offs : List Nat) :
    (askCell c k feed).caskHit r offs = c.caskHit r offs := by
  unfold askCell
  split
  · exact openWins_any c k (fun q => decide (r ≠ some q.owner) && offs.any fun o => decide (q.base ≤ o) && decide (o < q.base + 0x4000))
      fun _ _ => rfl
  · rfl

theorem askCell_addsWrite (c : Cell) (k : Nat) (feed : Bool) (offs : List Nat) :
    (askCell c k feed).addsWrite k offs = c.addsWrite k offs := by
  unfold askCell
  split
  · exact openWins_any c k (fun q => q.adds.any (fun a => a.slot == k)
      && offs.any fun o => decide (q.base ≤ o) && decide (o < q.base + 0x4000)) fun _ _ => rfl
  · rfl

/-- The instance of an instruction on memory when it begins to read. -/
def askInst (x : Inst) (n k : Nat) (feed : Bool) : Inst := if feed then x.setCell n ((x.cell n).openWins k) else x

theorem askInst_cell (x : Inst) (n k : Nat) (feed : Bool) : (askInst x n k feed).cell n = askCell (x.cell n) k feed := by
  unfold askInst askCell
  split
  · exact Inst.cell_setCell ..
  · rfl

theorem askInst_setCell (x : Inst) (n k : Nat) (feed : Bool) (c : Cell) : (askInst x n k feed).setCell n c = x.setCell n c := by
  unfold askInst
  split
  · exact Inst.setCell_setCell ..
  · rfl

theorem askInst_slot (x : Inst) (n k j : Nat) (feed : Bool) : ((askInst x n k feed).cell n).slot j = (x.cell n).slot j := by
  rw [askInst_cell, askCell_slot]

theorem askInst_trans (x : Inst) (n k : Nat) (feed : Bool) (asid : BitVec 16) (w : Bool) (l : List Adr) :
    (askInst x n k feed).trans n asid w l = x.trans n asid w l := by
  unfold askInst
  split
  · exact Inst.trans_congr x (x.setCell n ((x.cell n).openWins k)) rfl rfl ..
  · rfl

theorem askInst_vc (x : Inst) (n k : Nat) (feed : Bool) (v : Nat) : (askInst x n k feed).vc v = x.vc v := by
  unfold askInst
  split <;> rfl

/-- The step of an instruction on memory that begins to read at `askInst`. -/
def memStep (e : Env) (x : Inst) (n k : Nat) (feed : Bool) (q : MemPlan) (r : Run) : Prop :=
  match (pureRun (askInst x n k feed)).fetch e n k [] with
  | .error p => r = p
  | .ok (r1, _) =>
    match r1.fetch e n k q.reads with
    | .error p => r = p
    | .ok (r2, rd) =>
      match firstFail q.checks rd with
      | some f => r = r2.streamFail n k feed f.1 f.2
      | none =>
        match q.fin rd with
        | .error code => r = r2.failHere n k code
        | .ok o =>
          match r2.place e n k o.writes with
          | .error p => r = p
          | .ok (r3, ws) => match o.gather with
            | some g => r = r3.applyGather n k g
            | none => r = if feed then r3.applyFeed n k o else r3.applyOut n k o ws

theorem memIssue_step {e : Env} {x z : Inst} {n k : Nat} {feed : Bool} {q : MemPlan}
    (hz : (if feed then z.setCell n ((z.cell n).openWins k) else z) = askInst x n k feed) :
    memStep e x n k feed q ((pureRun z).memIssue e n k feed (.ok (MemAsk.now q))) := by
  have hr : (if feed then (pureRun z).setCell n (((pureRun z).cell n).openWins k) else pureRun z) = pureRun (askInst x n k feed) := by
    rw [← hz]
    split <;> rfl
  unfold memStep Run.memIssue MemAsk.now
  dsimp only
  rw [hr]
  cases (pureRun (askInst x n k feed)).fetch e n k [] with
  | error p => rfl
  | ok p =>
    dsimp only
    cases p.1.fetch e n k q.reads with
    | error p => rfl
    | ok p =>
      dsimp only
      cases firstFail q.checks p.2 with
      | some f => rfl
      | none =>
        dsimp only
        cases q.fin p.2 with
        | error c => rfl
        | ok o =>
          dsimp only
          cases p.1.place e n k o.writes with
          | error p => rfl
          | ok w =>
            dsimp only
            cases o.gather <;> rfl

/-- A ready instruction on memory issues with the prologue that its slot holds. -/
theorem Ready.exec_mem {s : State} {a : Site} {x : Inst} {o : TileOp} {q : MemPlan} (h : Ready s a x o)
    (hm : memAsk ((pureRun x).memEnv a.cell a.slot) o = some (.ok (MemAsk.now q))) :
    ∃ r, Machine.exec (cmdOf o a (x.slot a.cell a.slot).prologue) s = .next ((s.setInst a.inst r.x).effs a.inst r.effs)
      ∧ memStep (s.env a.inst) x a.cell a.slot o.isFeed q r := by
  have hissue (z : Inst) (hz : (pureRun z).memEnv a.cell a.slot = (pureRun x).memEnv a.cell a.slot) :
      (pureRun z).issue (s.env a.inst) a.cell a.slot o
        = (pureRun z).memIssue (s.env a.inst) a.cell a.slot o.isFeed (.ok (MemAsk.now q)) := by
    simp only [Run.issue, hz, hm]
  by_cases ho : o.isFeed = true
  · have hc : (x.cell a.cell).setSlot a.slot (x.slot a.cell a.slot) = x.cell a.cell := Cell.setSlot_slot ..
    let z : Inst := x.setSlot a.cell a.slot (x.slot a.cell a.slot)
    have hz : z = x.setCell a.cell (x.cell a.cell) := congrArg (x.setCell a.cell) hc
    have hcell : z.cell a.cell = x.cell a.cell := by rw [hz, Inst.cell_setCell]
    have henv : (pureRun z).memEnv a.cell a.slot = (pureRun x).memEnv a.cell a.slot := by
      simp only [Run.memEnv, Run.cell, pureRun, hcell]
      rfl
    refine ⟨_, (h.exec_feed ho).trans (congrArg Host.Outcome.next (State.runAt_eq (hissue z henv))), memIssue_step ?_⟩
    simp only [ho, if_true, askInst, hcell]
    rw [hz, Inst.setCell_setCell]
  · have ho : o.isFeed = false := eq_false_of_ne_true ho
    refine ⟨_, (h.exec ho).trans (congrArg Host.Outcome.next (State.runAt_eq (hissue x rfl))), memIssue_step ?_⟩
    simp only [ho, askInst]

/-! ### Lines that are missing (R22, R421) -/

section
variable {e : Env} {x z : Inst} {n k : Nat} {u us ps : List (Nat × Nat)} {as : List Adr} (l : UsedLike x z n k u)
  (hk : k < (x.cell n).slots.length)
  (ht : x.trans n (x.vc (ownerOf ((x.cell n).slot k).launch)).asid false as = .ok ps us)
  (hc : (x.cell n).caskHit ((x.cell n).slot k).reader (as.map (offOf ps)) = false)
include l hk ht hc

/-- Slot k of cell n that waits, with the translations u. -/
def waitSlot (x : Inst) (n k : Nat) (u : List (Nat × Nat)) (w : Wait) : Slot := { x.usedSlot n k u with wait := w }

theorem fetch_adds (ha : (x.cell n).addsWrite k (as.map (offOf ps)) = true) :
    (pureRun z).fetch e n k as
      = .error (pureRun (x.setCell n ((x.cell n).setSlot k (waitSlot x n k (u ++ us).eraseDups .adds)))) := by
  have h2 : ((pureRun (x.usedAt n k (u ++ us).eraseDups)).cell n).slot k = x.usedSlot n k (u ++ us).eraseDups :=
    (UsedLike.usedAt ..).slot hk
  have hcell : (pureRun (x.usedAt n k (u ++ us).eraseDups)).cell n = (x.cell n).setSlot k (x.usedSlot n k (u ++ us).eraseDups) :=
    (UsedLike.usedAt ..).cell
  have h3 : ((pureRun (x.usedAt n k (u ++ us).eraseDups)).cell n).caskHit (x.usedSlot n k (u ++ us).eraseDups).reader
      (as.map (offOf ps)) = false := (Cell.caskHit_congr _ _ (UsedLike.usedAt ..).casks _ _).trans hc
  have h6 : ((pureRun (x.usedAt n k (u ++ us).eraseDups)).cell n).addsWrite k (as.map (offOf ps)) = true :=
    (Cell.addsWrite_congr _ _ (UsedLike.usedAt ..).casks _ _).trans ha
  simp only [Run.fetch, Run.resolve_ok l hk ht, h2, h6, if_true]
  refine (if_neg (Bool.eq_false_iff.mp h3)).trans (congrArg Except.error ?_)
  rw [hcell, Cell.setSlot_setSlot]
  exact congrArg pureRun ((UsedLike.usedAt x n k (u ++ us).eraseDups).set_cell _)

theorem fetch_lines {o : TileOp} (ho : ((x.cell n).slot k).nextOp = some o) (ha : (x.cell n).addsWrite k (as.map (offOf ps)) = false)
    (hn : missing ((x.cell n).slot k).readBuf (((as.map (offOf ps)).map (· / 64)).eraseDups) ≠ []) :
    (pureRun z).fetch e n k as = .error (pureRun (x.setCell n (((x.cell n).request (.slot k) o.readRank
      (missing ((x.cell n).slot k).readBuf (((as.map (offOf ps)).map (· / 64)).eraseDups))).setSlot k
        (waitSlot x n k (u ++ us).eraseDups .lines)))) := by
  have h2 : ((pureRun (x.usedAt n k (u ++ us).eraseDups)).cell n).slot k = x.usedSlot n k (u ++ us).eraseDups :=
    (UsedLike.usedAt ..).slot hk
  have hcell : (pureRun (x.usedAt n k (u ++ us).eraseDups)).cell n = (x.cell n).setSlot k (x.usedSlot n k (u ++ us).eraseDups) :=
    (UsedLike.usedAt ..).cell
  have h3 : ((pureRun (x.usedAt n k (u ++ us).eraseDups)).cell n).caskHit (x.usedSlot n k (u ++ us).eraseDups).reader
      (as.map (offOf ps)) = false := (Cell.caskHit_congr _ _ (UsedLike.usedAt ..).casks _ _).trans hc
  have h6 : ((pureRun (x.usedAt n k (u ++ us).eraseDups)).cell n).addsWrite k (as.map (offOf ps)) = false :=
    (Cell.addsWrite_congr _ _ (UsedLike.usedAt ..).casks _ _).trans ha
  have hb : (x.usedSlot n k (u ++ us).eraseDups).readBuf = ((x.cell n).slot k).readBuf := rfl
  have hop : (x.usedSlot n k (u ++ us).eraseDups).nextOp = some o := ho
  have hne : (!(missing ((x.cell n).slot k).readBuf (((as.map (offOf ps)).map (· / 64)).eraseDups)).isEmpty) = true := by
    simpa using hn
  simp only [Run.fetch, Run.resolve_ok l hk ht, h2, h6, hb, hop, hne, if_true, Bool.false_eq_true, if_false]
  refine (if_neg ?_).trans (congrArg Except.error ?_)
  · have := Bool.eq_false_iff.mp h3
    rwa [Slot.reader, hop] at this
  · rw [hcell]
    exact congrArg pureRun (((UsedLike.usedAt x n k (u ++ us).eraseDups).set_cell _).trans
      (congrArg (x.setCell n) (Cell.setSlot_setSlot ((x.cell n).request ..) k _ _)))
end

/-- Settles O13. -/
theorem memoryWaits : Obligations.MemoryWaits := by
  unfold Obligations.MemoryWaits
  intro s a x o q ps us c0 k c offs need waits hm ht hc h
  obtain ⟨r, hr, hstep⟩ := h.exec_mem hm
  let x0 := askInst x a.cell a.slot o.isFeed
  have hcell : x0.cell a.cell = c := askInst_cell ..
  have hk : a.slot < (x0.cell a.cell).slots.length := by
    rw [hcell, show c = askCell c0 a.slot o.isFeed from rfl, askCell_slots]
    exact h.slot_lt
  have hslot : (x0.cell a.cell).slot a.slot = k := askInst_slot ..
  have hop : k.nextOp = some o := h.2.2.2.2.2.1
  have hpre := Run.fetch_nil (e := s.env a.inst) (UsedLike.self x0 a.cell a.slot) hk
  have ht0 : x0.trans a.cell (x0.vc (ownerOf ((x0.cell a.cell).slot a.slot).launch)).asid false q.reads = .ok ps us := by
    rw [hslot, askInst_trans, askInst_vc]
    exact ht
  have hc0 : (x0.cell a.cell).caskHit ((x0.cell a.cell).slot a.slot).reader offs = false := by
    rw [hslot, Slot.reader_eq hop, hcell, show c = askCell c0 a.slot o.isFeed from rfl, askCell_caskHit]
    exact hc
  have hadds : (x0.cell a.cell).addsWrite a.slot offs = c0.addsWrite a.slot offs := by
    rw [hcell, show c = askCell c0 a.slot o.isFeed from rfl, askCell_addsWrite]
  have hwait (w : Wait) (u : List (Nat × Nat)) : waitSlot x0 a.cell a.slot u w = waits w u := by
    rw [waitSlot, Inst.usedSlot, hslot]
  unfold memStep at hstep
  rw [hpre] at hstep
  dsimp only at hstep
  have hdone {d : Cell} (hd : r = pureRun (x0.setCell a.cell d)) :
      CellRun (cmdOf o a k.prologue) s a.at_ x d := by
    subst hd
    refine hr.trans (congrArg Host.Outcome.next ?_)
    exact congrArg (s.setInst a.inst) (askInst_setCell ..)
  refine ⟨fun ha hn => ?_, fun ha => ?_⟩
  · have hneed : missing ((x0.cell a.cell).slot a.slot).readBuf (((q.reads.map (offOf ps)).map (· / 64)).eraseDups) = need := by
      rw [hslot]
    rw [fetch_lines (UsedLike.usedAt ..) hk ht0 hc0 (hslot ▸ hop) (hadds.trans ha) (hneed ▸ hn)] at hstep
    rw [hneed, hwait, hcell] at hstep
    exact ⟨_, hdone hstep⟩
  · rw [fetch_adds (UsedLike.usedAt ..) hk ht0 hc0 (hadds.trans ha)] at hstep
    rw [hwait, hcell] at hstep
    exact ⟨_, hdone hstep⟩

/-! ### Instructions that run to their end -/

/-- No output of these plans holds a gather. -/
def GatherFree (r : Except MemStop MemAsk) : Prop :=
  ∀ ask, r = .ok ask → ∀ rd1 p, ask.plan rd1 = .ok p → ∀ rd m, p.fin rd = .ok m → m.gather = none

theorem GatherFree.error (e : MemStop) : GatherFree (.error e) := nofun

theorem GatherFree.of_fin {ask : MemAsk} (h : ∀ rd1 p, ask.plan rd1 = .ok p → ∀ rd m, p.fin rd = .ok m → m.gather = none) :
    GatherFree (.ok ask) := fun _ ha => (Except.ok.inj ha) ▸ h

theorem GatherFree.now {p : MemPlan} (h : ∀ rd m, p.fin rd = .ok m → m.gather = none) : GatherFree (.ok (MemAsk.now p)) :=
  .of_fin fun _ _ hp => (Except.ok.inj hp) ▸ h

theorem GatherFree.ite {c : Prop} [Decidable c] {a b : Except MemStop MemAsk} (ha : GatherFree a) (hb : GatherFree b) :
    GatherFree (if c then a else b) := by
  split
  · exact ha
  · exact hb

theorem GatherFree.withDesc {d : Desc} {w a : Bool} {k : Fmt → Except MemStop MemAsk} (h : ∀ f, GatherFree (k f)) :
    GatherFree (withDesc d w a k) := by
  unfold Machine.withDesc
  split
  · exact .error _
  · exact .ite (.error _) (.ite (.error _) (h _))

/-- A feed request holds no gather of a steep pass. -/
theorem planFeed_gatherFree (e : MemEnv) (tail : Mask) (mk dk map : Nat) (vit : Bool) (i opfmt : Nat) (beta : Int) (xpose gather : Bool)
    (gk rep : Nat) (side : Bool) (pro : Prologue) :
    GatherFree (planFeed e tail mk dk map vit i opfmt beta xpose gather gk rep side pro) := by
  have hok {m n : MemOut} (hn : n.gather = none) (h : (.ok n : Except Nat MemOut) = .ok m) : m.gather = none := (Except.ok.inj h) ▸ hn
  unfold planFeed
  split
  · exact .error _
  · dsimp only
    refine .ite (.error _) (.ite (.error _) (.ite (.ite (.now fun rd m h => hok rfl h) (.withDesc fun _ => .now fun rd m h => hok rfl h))
      (.ite (.error _) (.withDesc fun sf => .ite ?_ (.now fun rd m h => hok rfl h)))))
    split
    · exact .error _
    · refine .of_fin fun rd1 p hp rd m h => ?_
      dsimp only at hp
      split at hp
      · exact absurd hp nofun
      · rw [← Except.ok.inj hp] at h
        exact hok rfl h

theorem feed_gather {e : MemEnv} {o : TileOp} {q : MemPlan} {rd : Rd} {m : MemOut} (ho : o.isFeed = true)
    (h : memAsk e o = some (.ok (MemAsk.now q))) (hm : q.fin rd = .ok m) : m.gather = none := by
  cases o with
  | vldFeed mk d map vit i opfmt beta xpose gather gk rep side =>
    exact planFeed_gatherFree e _ mk d map vit i opfmt beta xpose gather gk rep side _ _ (Option.some.inj h) (fun _ => 0) q rfl rd m hm
  | _ => exact absurd ho nofun

section
variable {s : State} {a : Site} {x : Inst} {o : TileOp} {q : MemPlan} {rps rus wps wus : List (Nat × Nat)} {m : MemOut}
  (h : Ready s a x o) (hm : memAsk ((pureRun x).memEnv a.cell a.slot) o = some (.ok (MemAsk.now q)))
  (hheld : Held o a x q.reads rps rus)
  (hff : firstFail q.checks (fun b => bufByte (x.slot a.cell a.slot).readBuf (offOf rps b)) = none)
  (hfin : q.fin (fun b => bufByte (x.slot a.cell a.slot).readBuf (offOf rps b)) = .ok m)
  (hp : Placed a x (m.writes.map Prod.fst) wps wus)
include h hm hheld hff hfin hp

/-- An instruction on memory whose bytes are there, and whose output is translated, applies its output. -/
theorem memStep_ends : ∃ u r, Machine.exec (cmdOf o a (x.slot a.cell a.slot).prologue) s
      = .next ((s.setInst a.inst r.x).effs a.inst r.effs)
    ∧ (∀ g, m.gather = some g → r = (pureRun ((askInst x a.cell a.slot o.isFeed).usedAt a.cell a.slot u)).applyGather a.cell a.slot g)
    ∧ (m.gather = none → r = if o.isFeed
        then (pureRun ((askInst x a.cell a.slot o.isFeed).usedAt a.cell a.slot u)).applyFeed a.cell a.slot m
        else (pureRun ((askInst x a.cell a.slot o.isFeed).usedAt a.cell a.slot u)).applyOut a.cell a.slot m
          (m.writes.map fun w => { addr := offOf wps w.1, byte := w.2, index := (x.slot a.cell a.slot).idx })) := by
  obtain ⟨r, hr, hstep⟩ := h.exec_mem hm
  obtain ⟨ht, hc, ha, hl, hresp⟩ := hheld
  obtain ⟨hwt, hwc⟩ := hp
  let x0 := askInst x a.cell a.slot o.isFeed
  have hcell : x0.cell a.cell = askCell (x.cell a.cell) a.slot o.isFeed := askInst_cell ..
  have hk : a.slot < (x0.cell a.cell).slots.length := by
    rw [hcell, askCell_slots]
    exact h.slot_lt
  have hslot : (x0.cell a.cell).slot a.slot = x.slot a.cell a.slot := askInst_slot ..
  have hop : (x.slot a.cell a.slot).nextOp = some o := h.2.2.2.2.2.1
  have hasid : (x0.vc (ownerOf ((x0.cell a.cell).slot a.slot).launch)).asid = (x.vc (ownerOf (x.slot a.cell a.slot).launch)).asid := by
    rw [hslot, askInst_vc]
  have ht0 : x0.trans a.cell (x0.vc (ownerOf ((x0.cell a.cell).slot a.slot).launch)).asid false q.reads = .ok rps rus := by
    rw [hasid, askInst_trans]
    exact ht
  have hwt0 : x0.trans a.cell (x0.vc (ownerOf ((x0.cell a.cell).slot a.slot).launch)).asid true (m.writes.map Prod.fst) = .ok wps wus := by
    rw [hasid, askInst_trans]
    exact hwt
  have hc0 : (x0.cell a.cell).caskHit ((x0.cell a.cell).slot a.slot).reader (q.reads.map (offOf rps)) = false := by
    rw [hslot, Slot.reader_eq hop, hcell, askCell_caskHit]
    exact hc
  have hwc0 : (x0.cell a.cell).caskHit none ((m.writes.map Prod.fst).map (offOf wps)) = false := by
    rw [hcell, askCell_caskHit]
    exact hwc
  have ha0 : (x0.cell a.cell).addsWrite a.slot (q.reads.map (offOf rps)) = false := by
    rw [hcell, askCell_addsWrite]
    exact ha
  have hl0 : ∀ b ∈ q.reads, ∃ l ∈ ((x0.cell a.cell).slot a.slot).readBuf, l.line = offOf rps b / 64 := by
    rw [hslot]
    exact hl
  have hresp0 : ∀ l ∈ ((x0.cell a.cell).slot a.slot).readBuf, l.resp = 0 := by
    rw [hslot]
    exact hresp
  have hpre := Run.fetch_nil (e := s.env a.inst) (UsedLike.self x0 a.cell a.slot) hk
  unfold memStep at hstep
  rw [hpre] at hstep
  dsimp only at hstep
  rw [Run.fetch_ok (UsedLike.usedAt ..) hk ht0 hc0 ha0 hl0 (Or.inr hresp0)] at hstep
  dsimp only at hstep
  rw [hslot, hff] at hstep
  dsimp only at hstep
  rw [hfin] at hstep
  dsimp only at hstep
  rw [Run.place_ok (UsedLike.usedAt ..) hk hwt0 hwc0] at hstep
  dsimp only at hstep
  rw [hslot] at hstep
  cases hg : m.gather with
  | some g =>
    rw [hg] at hstep
    exact ⟨_, r, hr, fun g' hg' => (Option.some.inj hg') ▸ hstep, nofun⟩
  | none =>
    rw [hg] at hstep
    exact ⟨_, r, hr, nofun, fun _ => hstep⟩
end

/-- An instruction that has run to its end and changed its cell alone. -/
theorem MemEnds.of_step {s : State} {a : Site} {x : Inst} {o : TileOp} {d : List (Nat × Nat) → Cell} {u : List (Nat × Nat)} {r : Run}
    (h : Machine.exec (cmdOf o a (x.slot a.cell a.slot).prologue) s = .next ((s.setInst a.inst r.x).effs a.inst r.effs))
    (hr : r = pureRun ((askInst x a.cell a.slot o.isFeed).setCell a.cell (d u))) : MemEnds o s a x d := by
  subst hr
  rw [askInst_setCell] at h
  exact ⟨_, u, h, ⟨rfl, fun _ hn => Inst.cell_setCell_other _ _ _ _ hn⟩, Inst.cell_setCell ..⟩

/-- A feed request issues with the prologue that its command brings, whatever its slot held (R168, R198). -/
theorem feed_brings {s : State} {a : Site} {x : Inst} {o : TileOp} {pro : Prologue} (hx : s.insts[a.inst]? = some x) (ho : o.isFeed = true)
    (h : Ready (s.setInst a.inst (x.setSlot a.cell a.slot { x.slot a.cell a.slot with prologue := pro })) a
      (x.setSlot a.cell a.slot { x.slot a.cell a.slot with prologue := pro }) o) :
    exec (.vldFeed { site := a, pro := pro }) s = exec (.vldFeed { site := a, pro := pro })
      (s.setInst a.inst (x.setSlot a.cell a.slot { x.slot a.cell a.slot with prologue := pro })) := by
  let k1 : Slot := { x.slot a.cell a.slot with prologue := pro }
  let x1 : Inst := x.setSlot a.cell a.slot k1
  have hslot : (x1.cell a.cell).slot a.slot = k1 := by
    have hlt : a.slot < (x.cell a.cell).slots.length := by
      have := h.slot_lt
      rw [show x1.cell a.cell = (x.cell a.cell).setSlot a.slot k1 from Inst.cell_setCell .., Cell.setSlot, List.length_set] at this
      exact this
    rw [show x1.cell a.cell = (x.cell a.cell).setSlot a.slot k1 from Inst.cell_setCell .., Cell.slot_setSlot _ _ _ hlt]
  have hagain : x1.setSlot a.cell a.slot { x1.slot a.cell a.slot with prologue := pro } = x1 := by
    have hk : ({ x1.slot a.cell a.slot with prologue := pro } : Slot) = k1 := by
      rw [show x1.slot a.cell a.slot = k1 from hslot]
    rw [hk]
    refine (Inst.setCell_setCell x a.cell _ _).trans (congrArg (x.setCell a.cell) ?_)
    rw [show x1.cell a.cell = (x.cell a.cell).setSlot a.slot k1 from Inst.cell_setCell ..]
    exact Cell.setSlot_setSlot ..
  have hfeed (y : Inst) (hy : y.setSlot a.cell a.slot { y.slot a.cell a.slot with prologue := pro } = x1) (e : Env) :
      issueFeed pro a.cell a.slot e y = (pureRun x1).issue e a.cell a.slot o := by
    have hmod : (pureRun y).modSlot a.cell a.slot (fun s => { s with prologue := pro }) = pureRun x1 := congrArg pureRun hy
    have hn : ((pureRun x1).slot a.cell a.slot).nextOp = some o := h.2.2.2.2.2.1
    unfold issueFeed
    simp only [hmod, hn]
    exact if_pos ⟨TileOp.row_feed ho, h.mayIssue⟩
  have hcmd (t : State) : exec (.vldFeed { site := a, pro := pro }) t = onSlot t a (issueFeed pro) := rfl
  rw [hcmd, hcmd, onSlot_some _ hx h.2.1 h.injected, onSlot_some _ h.1.1 h.2.1 h.injected]
  refine congrArg Host.Outcome.next ?_
  rw [State.runAt_eq (hfeed x rfl _), State.runAt_eq (hfeed x1 hagain _), State.setInst_setInst]
  rw [show (s.setInst a.inst x1).env a.inst = s.env a.inst from env_setCell _ hx]

/-- Settles O12. -/
theorem memoryRuns : Obligations.MemoryRuns := by
  unfold Obligations.MemoryRuns
  intro s a x o k
  refine ⟨?_, fun pro => feed_brings⟩
  intro q m rps rus wps wus rd hm hheld hff hfin hp h
  obtain ⟨u, r, hr, hgather, hout⟩ := memStep_ends h hm hheld hff hfin hp
  have hk : a.slot < ((askInst x a.cell a.slot o.isFeed).cell a.cell).slots.length := by
    rw [askInst_cell, askCell_slots]
    exact h.slot_lt
  refine ⟨fun hg ho => ?_, fun g hg => ?_, fun hg ho => ?_⟩
  · have he := (hout hg).trans (if_neg (by rw [ho]; nofun))
    rw [Run.applyOut_used hk] at he
    refine MemEnds.of_step (u := u) hr (he.trans ?_)
    simp only [askInst, ho, Bool.false_eq_true, if_false]
    rfl
  · have ho : o.isFeed = false := by
      by_contra ho
      exact absurd ((feed_gather (eq_true_of_ne_false ho) hm hfin).symm.trans hg) nofun
    have he := hgather g hg
    rw [Run.applyGather_used hk] at he
    refine MemEnds.of_step (u := u) hr (he.trans ?_)
    simp only [askInst, ho, Bool.false_eq_true, if_false]
  · have he := (hout hg).trans (if_pos ho)
    rw [Run.applyFeed_used hk] at he
    refine MemEnds.of_step (u := u) hr (he.trans ?_)
    have hcell : (askInst x a.cell a.slot o.isFeed).cell a.cell = (x.cell a.cell).openWins a.slot := by
      rw [askInst_cell, askCell, ho, if_pos rfl]
    rw [hcell]
    rfl
end Sys2Proof


/-! SUPPORT. VLD in load form (R228). -/
namespace Sys2Proof
open Sys2Proof.Machine

/-- A vitrine whose lanes take the values of a tile where it has one. -/
def putLanes (old : List Word) (vs : List (Option XV)) (g : XV → Word) : List Word := (old.zip vs).map fun q => match q.2 with
  | some x => g x
  | none => q.1

theorem tileVals_length (d : Desc) (tabs : List (BitVec 16)) (f : Fmt) (rd : Nat → Nat) (t : TIdx) (en : Mask) :
    (d.tileVals tabs f rd t en).length = 1024 := by rw [Desc.tileVals, List.length_map, lanes_length]

theorem putLanes_length {old : List Word} {vs : List (Option XV)} {g : XV → Word} (ho : old.length = 1024) (hv : vs.length = 1024) :
    (putLanes old vs g).length = 1024 := by
  rw [putLanes, List.length_map, List.length_zip, ho, hv]
  rfl

theorem tileVals_get {d : Desc} {tabs : List (BitVec 16)} {f : Fmt} {rd : Nat → Nat} {t : TIdx} {en : Mask} {r c : Nat} (hr : r < 32)
    (hc : c < 32) : (d.tileVals tabs f rd t en)[32 * r + c]?
      = some (if laneOn en r c then some (d.laneVal tabs f rd t r c) else none) := by
  rw [Desc.tileVals, List.getElem?_map, lanes_get r c hr hc]
  rfl

theorem putLanes_elem {old : List Word} {d : Desc} {tabs : List (BitVec 16)} {f : Fmt} {rd : Nat → Nat} {t : TIdx} {en : Mask}
    {g : XV → Word} {r c : Nat} (ho : old.length = 1024) (hr : r < 32) (hc : c < 32) :
    elemAt (putLanes old (d.tileVals tabs f rd t en) g) r c
      = if en.getLsbD (32 * r + c) then g (d.laneVal tabs f rd t r c) else elemAt old r c := by
  have hold : old[32 * r + c]? = some (elemAt old r c) := by
    rw [elemAt_eq (by omega), List.getElem?_eq_getElem]
  unfold elemAt putLanes
  rw [List.getD_eq_getElem?_getD, List.getElem?_map, List.getElem?_zip_eq_some (z := (elemAt old r c,
    if laneOn en r c then some (d.laneVal tabs f rd t r c) else none)) |>.2 ⟨hold, tileVals_get hr hc⟩]
  unfold laneOn
  cases en.getLsbD (32 * r + c) <;> rfl

/-- A stream of which nothing is compared does not fail. -/
theorem firstFail_nothing (d : Desc) (rd : Rd) : firstFail [{ d := d, ps := [] }] rd = none := rfl

theorem readPlan_unchecked {d : Desc} (h : d.nw.checked = false) (t : TIdx) (en : Mask) : (d.readPlan t en).2 = [] := by
  have h35 : ¬(d.nw.mode = 3 ∨ d.nw.mode = 5) := by simpa [NumWord.checked] using h
  unfold Desc.readPlan
  dsimp only
  rw [if_neg h35]
  split_ifs <;> rfl

/-- Addresses of the window need no translation. -/
theorem trans_window (x : Inst) (n : Nat) (asid : BitVec 16) (w : Bool) {as : List Adr} (h : ∀ b ∈ as, b.virt = false ∧ b.addr < 2 ^ 20) :
    x.trans n asid w as = .ok [] [] := by
  have hany : (as.any fun a => !a.virt && decide (2 ^ 20 ≤ a.addr)) = false := by
    rw [List.any_eq_false]
    intro b hb
    rw [(h b hb).1, decide_eq_false (Nat.not_le.2 (h b hb).2)]
    nofun
  have hfil : as.filter (·.virt) = [] := by
    rw [List.filter_eq_nil_iff]
    intro b hb
    simp [(h b hb).1]
  rw [Inst.trans, hany, hfil]
  rfl

theorem offOf_window {b : Adr} (h : b.virt = false) (ps : List (Nat × Nat)) : offOf ps b = b.addr := by
  unfold offOf
  rw [h]
  rfl

/-- What VLD makes of the bytes that it has read. -/
def loadOut (e : MemEnv) (d : Desc) (f : Fmt) (t : TIdx) (en : Mask) (i : Nat) (pair : Bool) (rd : Rd) : MemOut :=
  let vs := d.tileVals e.tabs f (d.rd rd) t en
  let wrote := vs.any fun v => match v with
    | some x => !f32IsFinite (rne x)
    | none => false
  { MemOut.none with
    vits := (i, putLanes (e.cell.vit i) vs fun x => if pair then (toTw x).1 else rne x)
      :: (if pair then [(i + 1, putLanes (e.cell.vit (i + 1)) vs fun x => (toTw x).2)] else [])
    led := (decodeLed vs).add (Led.nonfin wrote) }

theorem planLoad_ok {e : MemEnv} {mk dk map i : Nat} {pair : Bool} {f : Fmt} (hf : (e.slot.desc dk).nw.fmt = some f)
    (he : (e.slot.desc dk).isEmpty = false) (hi : (e.slot.desc dk).illegal false false = false) :
    planLoad e mk dk map i pair = .ok (MemAsk.now {
      reads := ((e.slot.desc dk).readPlan (e.slot.tileIdx map)
        (e.cell.mkMask mk &&& tailMask (e.slot.desc dk) (e.slot.tileIdx map))).1.map (e.slot.desc dk).adr
      checks := [{ d := e.slot.desc dk, ps := ((e.slot.desc dk).readPlan (e.slot.tileIdx map)
        (e.cell.mkMask mk &&& tailMask (e.slot.desc dk) (e.slot.tileIdx map))).2 }]
      fin := fun rd => .ok (loadOut e (e.slot.desc dk) f (e.slot.tileIdx map)
        (e.cell.mkMask mk &&& tailMask (e.slot.desc dk) (e.slot.tileIdx map)) i pair rd) }) := by
  unfold planLoad Machine.withDesc
  simp only [hf, he, hi]
  rfl

theorem vit_loadOut {c : Cell} {i : Nat} {pair : Bool} {u v : List Word} (hu : u.length = 1024) (hv : v.length = 1024) :
    (c.writeRegs ((i, u) :: (if pair then [(i + 1, v)] else [])) []).vit i = u
      ∧ (pair = true → (c.writeRegs ((i, u) :: (if pair then [(i + 1, v)] else [])) []).vit (i + 1) = v) := by
  cases pair with
  | false => exact ⟨Cell.vit_setVit _ _ _ hu, nofun⟩
  | true =>
    obtain ⟨h1, h2⟩ := Cell.vit_writeRegs_pair c i u v hu hv
    exact ⟨h1, fun _ => h2⟩

theorem masks_writeRegs (c : Cell) (vs : List (Nat × List Word)) : (c.writeRegs vs []).masks = c.masks :=
  foldl_keeps (P := fun d : Cell => d.masks = c.masks) (f := fun (d : Cell) (p : Nat × List Word) => d.setVit p.1 p.2) (fun _ _ h => h) vs rfl

/-- Settles O14: the run of an instruction on memory (O12), whose plan reads nothing that needs a translation. -/
theorem loadForm : Obligations.LoadForm := by
  unfold Obligations.LoadForm
  intro s a x mk dk map i pair f c k d t en rd val hv hf he hi hch hall hok hhit hadds h
  let e := (pureRun x).memEnv a.cell a.slot
  let p := d.readPlan t en
  let m := loadOut e d f t en i pair rd
  let q : MemPlan := { reads := p.1.map d.adr, checks := [{ d := d, ps := p.2 }], fin := fun rd => .ok (loadOut e d f t en i pair rd) }
  have hask : memAsk e (.vldLoad mk dk map i pair) = some (.ok (MemAsk.now q)) := congrArg some (planLoad_ok hf he hi)
  have hadr (b : Nat) : (d.adr b).virt = false ∧ (d.adr b).addr = b := by
    unfold Desc.adr
    rw [hv]
    exact ⟨rfl, rfl⟩
  have hall' : ∀ b ∈ p.1, b < 2 ^ 20 ∧ ∃ l ∈ k.readBuf, l.line = b / 64 := by
    intro b hb
    have := List.all_eq_true.1 hall b hb
    simpa using this
  have hoffs : (p.1.map d.adr).map (offOf []) = p.1 := by
    rw [List.map_map]
    refine (List.map_congr_left fun b _ => ?_).trans (List.map_id _)
    exact (offOf_window (hadr b).1 []).trans (hadr b).2
  have hread : ∀ b ∈ p.1.map d.adr, b.virt = false ∧ b.addr < 2 ^ 20 := by
    intro b hb
    obtain ⟨n, hn, rfl⟩ := List.mem_map.1 hb
    exact ⟨(hadr n).1, (hadr n).2.symm ▸ (hall' n hn).1⟩
  have hheld : Held (.vldLoad mk dk map i pair) a x q.reads [] [] := by
    refine ⟨trans_window x _ _ _ hread, ?_, ?_, fun b hb => ?_, fun l hl => ?_⟩
    · rw [show q.reads = p.1.map d.adr from rfl, hoffs]
      exact hhit
    · rw [show q.reads = p.1.map d.adr from rfl, hoffs]
      exact hadds
    · obtain ⟨n, hn, rfl⟩ := List.mem_map.1 hb
      rw [offOf_window (hadr n).1, (hadr n).2]
      exact (hall' n hn).2
    · simpa using List.all_eq_true.1 hok l hl
  have hreader : (fun b => bufByte (x.slot a.cell a.slot).readBuf (offOf [] b)) = fun b => bufByte k.readBuf (offOf [] b) := rfl
  have hff : firstFail q.checks (fun b => bufByte (x.slot a.cell a.slot).readBuf (offOf [] b)) = none := by
    rw [show q.checks = [{ d := d, ps := p.2 }] from rfl, show p.2 = [] from readPlan_unchecked hch t en]
    exact firstFail_nothing ..
  have hrd : d.rd (fun b => bufByte k.readBuf (offOf [] b)) = d.rd rd := by
    funext b
    unfold Desc.rd
    dsimp only
    rw [offOf_window (hadr b).1]
  have hfin : q.fin (fun b => bufByte (x.slot a.cell a.slot).readBuf (offOf [] b)) = .ok m := by
    refine congrArg Except.ok ?_
    unfold loadOut
    rw [hreader, hrd]
    rfl
  have hplaced : Placed a x (m.writes.map Prod.fst) [] [] := ⟨rfl, by simp [m, loadOut, MemOut.none, Cell.caskHit]⟩
  obtain ⟨y, used, hex, honly, hcell⟩ := ((memoryRuns s a x (.vldLoad mk dk map i pair)).1 q m [] [] [] [] hask hheld hff hfin hplaced h).1
    rfl rfl
  have hvl (n : Nat) (g : XV → Word) : (putLanes (c.vit n) (d.tileVals e.tabs f (d.rd rd) t en) g).length = 1024 :=
    putLanes_length (Cell.vit_length ..) (tileVals_length ..)
  have hvit (j : Nat) : (y.cell a.cell).vit j = (c.writeRegs m.vits []).vit j := by
    rw [hcell]
    rfl
  have hslot : a.slot < (c.writeRegs m.vits m.masks).slots.length := by
    rw [Cell.writeRegs_frame]
    exact h.slot_lt
  have hyslot : y.slot a.cell a.slot = _ := (congrArg (fun c : Cell => c.slot a.slot) hcell).trans (Cell.slot_setSlot _ _ _ hslot)
  obtain ⟨hv1, hv2⟩ := vit_loadOut (c := c) (i := i) (pair := pair) (hvl i fun x => if pair then (toTw x).1 else rne x)
    (hvl (i + 1) fun x => (toTw x).2)
  refine ⟨y, hex, honly, fun j hj hp => ?_, ?_, ?_, ?_, ?_, fun r j hr hj => ⟨?_, fun hpair => ?_⟩⟩
  · rw [hvit]
    refine Cell.vit_writeRegs _ _ _ _ fun hin => ?_
    have hin : j ∈ ((i, putLanes (c.vit i) _ _) :: (if pair then [(i + 1, putLanes (c.vit (i + 1)) _ _)] else [])).map Prod.fst := hin
    rcases List.mem_cons.1 hin with hin | hin
    · exact hj hin
    · cases pair with
      | false => exact absurd hin List.not_mem_nil
      | true => exact hp ⟨rfl, List.mem_singleton.1 hin⟩
  · rw [hcell]
    exact masks_writeRegs ..
  · rw [hcell]
    show (c.writeRegs m.vits m.masks).spWrites = c.spWrites
    rw [Cell.writeRegs_frame]
  · rw [hyslot]
    rfl
  · rw [hyslot]
    exact List.append_nil _
  · rw [hvit]
    refine (congrArg (fun l => elemAt l r j) hv1).trans ((putLanes_elem (Cell.vit_length ..) hr hj).trans ?_)
    rfl
  · rw [hvit]
    refine (congrArg (fun l => elemAt l r j) (hv2 hpair)).trans ((putLanes_elem (Cell.vit_length ..) hr hj).trans ?_)
    rfl
end Sys2Proof


/-! SUPPORT. The commit point and the write returns of a transfer (R307 to R312, R319, R338). -/
namespace Sys2Proof
open Sys2Proof.Machine

/-! ### Transfer tiles (R309) -/

theorem mem_cutInto {α : Type} {n : Nat} (k : Nat) : ∀ l : List α, l.length ≤ n * k → ∀ b ∈ l, ∃ p ∈ cutInto n k l, b ∈ p := by
  induction k with
  | zero =>
    intro l hl b hb
    rw [List.length_eq_zero_iff.1 (Nat.le_zero.1 hl)] at hb
    exact absurd hb List.not_mem_nil
  | succ k ih =>
    intro l hl b hb
    cases l with
    | nil => exact absurd hb List.not_mem_nil
    | cons a l =>
      show ∃ p ∈ (a :: l).take n :: cutInto n k ((a :: l).drop n), b ∈ p
      rw [← List.take_append_drop n (a :: l)] at hb
      rcases List.mem_append.1 hb with hb | hb
      · exact ⟨_, List.mem_cons_self, hb⟩
      · obtain ⟨p, hp, hbp⟩ := ih ((a :: l).drop n) (by rw [List.length_drop]; rw [Nat.mul_succ] at hl; omega) b hb
        exact ⟨p, List.mem_cons_of_mem _ hp, hbp⟩

/-- One piece of a stream takes the lines whose first byte lies in it. -/
def takePiece (t : Xfer) (acc : List SeWrite × List (List SeWrite)) (piece : List XByte) : List SeWrite × List (List SeWrite) :=
  let ls := (piece.map fun b => t.lineOf true b.addr).eraseDups
  (acc.1.filter fun w => !ls.contains w.addr, acc.2 ++ [acc.1.filter fun w => ls.contains w.addr])

theorem takePieces_perm (t : Xfer) : ∀ (pieces : List (List XByte)) (ws : List SeWrite) (acc : List (List SeWrite)),
    (∀ w ∈ ws, ∃ p ∈ pieces, ∃ b ∈ p, t.lineOf true b.addr = w.addr) →
    (pieces.foldl (takePiece t) (ws, acc)).2.flatten.Perm (acc.flatten ++ ws)
  | [], ws, acc, h => by
    have : ws = [] := List.eq_nil_iff_forall_not_mem.2 fun w hw => by
      obtain ⟨p, hp, -⟩ := h w hw
      exact absurd hp List.not_mem_nil
    simp [this]
  | p :: pieces, ws, acc, h => by
    let ls := (p.map fun b => t.lineOf true b.addr).eraseDups
    rw [List.foldl_cons]
    refine (takePieces_perm t pieces _ _ fun w hw => ?_).trans ?_
    · obtain ⟨hw, hn⟩ := List.mem_filter.1 hw
      obtain ⟨q, hq, b, hb, he⟩ := h w hw
      rcases List.mem_cons.1 hq with rfl | hq
      · refine absurd hn ?_
        have : w.addr ∈ ls := List.mem_eraseDups.2 (List.mem_map.2 ⟨b, hb, he⟩)
        simpa [ls] using this
      · exact ⟨q, hq, b, hb, he⟩
    · rw [List.flatten_append, List.flatten_singleton, List.append_assoc]
      exact (List.filter_append_perm (fun w : SeWrite => ls.contains w.addr) ws).append_left _

theorem streamTiles_perm (t : Xfer) (bs : List XByte) : (t.streamTiles bs).flatten.Perm (t.lineWrites bs) := by
  refine takePieces_perm t (cutInto 4096 (bs.length / 4096 + 1) bs) (t.lineWrites bs) [] fun w hw => ?_
  obtain ⟨l, hl, rfl⟩ := List.mem_map.1 hw
  obtain ⟨q, hq, rfl⟩ := List.mem_map.1 (List.mem_eraseDups.1 hl)
  obtain ⟨b, hb, rfl⟩ := List.mem_map.1 hq
  obtain ⟨p, hp, hbp⟩ := mem_cutInto (n := 4096) (bs.length / 4096 + 1) bs (by omega) b hb
  exact ⟨p, hp, b, hbp, rfl⟩

/-! ### The commit point (R307 to R310) -/

theorem commitPoint_commits {e : Env} {x : Inst} {t : Xfer} (hx : x.xfer t.id = some t) (haw : x.awake = true)
    (hr : x.readDone t = true) (hk : xKind t.words = 0) : commitPoint t.id e x = (pureRun x).commitXfer e t := by
  unfold commitPoint
  simp only [hx]
  exact if_pos ⟨hr, hk, haw⟩

theorem commitXfer_error {e : Env} {r : Run} {t : Xfer} {code : Nat} (h : t.image r.x = .error code) :
    r.commitXfer e t = { x := without r.x t, effs := r.effs ++ xferErrs t code 0 } := by
  unfold Run.commitXfer
  simp only [h]
  exact xferFail_eq ..

theorem image_copies {t : Xfer} {x : Inst} (h : converts t.words t.sd t.dd (t.dec x) (t.enc x) = false) :
    t.image x = .ok (copyImg t.sd t.dd t.raw) := by
  unfold Xfer.image
  simp only [h]
  rfl

theorem enc_of_copies {t : Xfer} {x : Inst} (h : converts t.words t.sd t.dd (t.dec x) (t.enc x) = false) : t.enc x = false := by
  simp only [converts, Bool.or_eq_false_iff] at h
  exact h.2

/-- The one stage of a write-out that has something to write begins. -/
theorem nextStage_begins {e : Env} {r : Run} {t : Xfer} {s : XStage} (h : (s.tiles.filter fun ws => !ws.isEmpty) ≠ []) :
    r.nextStage e t [s] = (r.setXfer (r.x.noteSent { t with
      stages := [s], tiles := t.tiles ++ (s.tiles.filter fun ws => !ws.isEmpty).map writeTile, failed := false } [s])).serve := by
  unfold Run.nextStage
  dsimp only
  exact if_neg (by simpa using h)

/-- The ledger update of a move that only copies: the fingerprint of its image (R338). -/
def copyLed (t : Xfer) : Led :=
  let m := copyImg t.sd t.dd t.raw
  Led.zero.add { Led.zero with fp := commitCrc t.dd 0 (m.elems.map XByte.byte) (m.scales.map XByte.byte) [] }

/-- A move that only copies begins its write-out: the lines of both streams, in transfer tiles, each once. -/
theorem commitXfer_copies {e : Env} {x : Inst} {t : Xfer} (h : converts t.words t.sd t.dd (t.dec x) (t.enc x) = false)
    (htiles : t.tiles = [])
    (hne : t.lineWrites (copyImg t.sd t.dd t.raw).elems ++ t.lineWrites (copyImg t.sd t.dd t.raw).scales ≠ []) :
    ∃ (t1 : Xfer) (tiles : List (List SeWrite)), (pureRun x).commitXfer e t = pureRun (x.setXfer t1).serve
      ∧ t1 = { t with phase := .writing, got := [], failed := false, tiles := tiles.map writeTile
                      bytes := (copyImg t.sd t.dd t.raw).elems.length + (copyImg t.sd t.dd t.raw).scales.length
                      led := t1.led, poisoned := t1.poisoned, firstBad := t1.firstBad, stages := t1.stages, sentAt := t1.sentAt }
      ∧ tiles.flatten.Perm (t.lineWrites (copyImg t.sd t.dd t.raw).elems ++ t.lineWrites (copyImg t.sd t.dd t.raw).scales)
      ∧ t1.led = (copyLed t).add t.waitsLed := by
  let m := copyImg t.sd t.dd t.raw
  let stage : XStage := { tiles := [m.elems, m.scales].flatMap t.streamTiles ++ lineTiles (t.lineWrites []), send := false }
  let tiles := stage.tiles.filter fun ws => !ws.isEmpty
  have hflat : tiles.flatten.Perm (t.lineWrites m.elems ++ t.lineWrites m.scales) := by
    rw [List.flatten_filter_not_isEmpty]
    have : stage.tiles = t.streamTiles m.elems ++ t.streamTiles m.scales := by
      show [m.elems, m.scales].flatMap t.streamTiles ++ [] = _
      simp
    rw [this, List.flatten_append]
    exact (streamTiles_perm t m.elems).append (streamTiles_perm t m.scales)
  have hsome : tiles ≠ [] := fun h0 => by
    rw [h0] at hflat
    exact hne (List.Perm.eq_nil hflat.symm)
  let led := (m.led.add { Led.zero with fp := commitCrc t.dd 0 (m.elems.map XByte.byte) (m.scales.map XByte.byte) [] }).add t.waitsLed
  let t0 : Xfer := { t with
    phase := .writing, led := led, bytes := m.elems.length + m.scales.length + 0
    poisoned := (poisonLines t m.elems).length + (poisonLines t m.scales).length
    firstBad := match poisonFirst t m.elems, poisonFirst t m.scales with
      | some o, _ => o
      | none, some o => o + 2 ^ 31
      | none, none => 0
    got := [] }
  let t1 : Xfer := x.noteSent { t0 with stages := [stage], tiles := t0.tiles ++ tiles.map writeTile, failed := false } [stage]
  have hrun : (pureRun x).commitXfer e t = (pureRun x).nextStage e t0 [stage] := by
    unfold Run.commitXfer
    simp only [image_copies (t := t) (x := (pureRun x).x) h, enc_of_copies (t := t) (x := (pureRun x).x) h]
    rfl
  refine ⟨t1, tiles, hrun.trans (nextStage_begins hsome), ?_, hflat, rfl⟩
  have ht : t1.tiles = tiles.map writeTile := by
    show t.tiles ++ tiles.map writeTile = _
    rw [htiles, List.nil_append]
  refine Eq.trans (b := { t1 with tiles := tiles.map writeTile }) ?_ rfl
  rw [← ht]

/-! ### Write returns (R302, R307) -/

section
variable {e : Env} {x : Inst} {t : Xfer} {q : SeReq} {port ident : Nat} {err : Bool}
  (hq : x.seReqs.find? (fun q => q.port == port && q.ident == ident && !q.writes.isEmpty) = some q) (hqx : q.xfer = some t.id)
  (hx : x.xfer t.id = some t)

include hq hqx hx in
theorem seWriteDone_eq : seWriteDone port ident err e x
    = ((pureRun { x with seReqs := x.seReqs.erase q }).writeDone e t err).serve.ackInvalidations := by
  unfold seWriteDone
  simp only [hq, hqx]
  have hb : ((some t.id).bind (pureRun { x with seReqs := x.seReqs.erase q }).x.xfer) = some t := hx
  rw [hb]

theorem writeDone_waits {r : Run} (h : r.x.writesLeft t = true) : r.writeDone e t err = r.setXfer { t with failed := t.failed || err } :=
  if_pos h

theorem writeDone_fails {r : Run} (h : r.x.writesLeft t = false) (hp : t.phase = .writing) (hf : (t.failed || err) = true) :
    r.writeDone e t err = { x := without r.x t
                            effs := r.effs ++ xferErrs t errMemWrite (Config.partialBytes (wordAt t.words 0) (xTag t.words) t.bytes) } := by
  unfold Run.writeDone
  dsimp only
  rw [if_neg (by rw [h]; nofun), if_pos (by rw [hf, hp]; rfl), if_pos hp]
  exact xferFail_eq ..

theorem writeDone_next {r : Run} {st : XStage} (h : r.x.writesLeft t = false) (hs : t.stages = [st])
    (hf : (t.failed || err) = false ∨ t.phase = .finishing) :
    r.writeDone e t err = r.nextStage e { t with failed := t.failed || err } [] := by
  unfold Run.writeDone
  dsimp only
  rw [if_neg (by rw [h]; nofun), if_neg ?_, hs]
  · rfl
  · rcases hf with hf | hf
    · rw [hf]; nofun
    · rw [hf]; simp

theorem nextStage_written {r : Run} (hp : t.phase = .writing) (hf : r.x.flt.failstop = false) (hu : r.x.useWrites e t = []) :
    r.nextStage e t [] = { x := without (r.x.book t.vc t.led) t, effs := r.effs ++ xferEnds t false } := by
  unfold Run.nextStage
  simp only [hp]
  unfold Run.writtenOut
  dsimp only
  rw [if_neg (by rw [show (r.x.book t.vc t.led).flt.failstop = r.x.flt.failstop from rfl, hf]; nofun),
    if_pos (by rw [show (r.x.book t.vc t.led).useWrites e t = r.x.useWrites e t from rfl, hu]; rfl)]
  exact xferFinish_eq ..

theorem nextStage_finished {r : Run} (hp : t.phase = .finishing) :
    r.nextStage e t [] = { x := without r.x t, effs := r.effs ++ xferEnds t false } := by
  unfold Run.nextStage
  simp only [hp]
  exact xferFinish_eq ..
end

/-- A transfer that leaves a die whose ports have nothing to issue. -/
theorem serve_without {x : Inst} {t : Xfer} (h : ∀ u ∈ x.xfers, u.tiles = []) (es : List Eff) :
    Run.serve { x := without x t, effs := es } = { x := without x t, effs := es } :=
  congrArg (fun y : Inst => (⟨y, es⟩ : Run)) (serve_none fun v hv => h v (mem_without hv).1)

/-- Settles O39. -/
theorem transferCommits : Obligations.TransferCommits := by
  unfold Obligations.TransferCommits
  intro s i x t hw hx
  obtain ⟨hmem, -⟩ := xfer_spec hx
  refine ⟨fun hr hk => ⟨fun code hc => ?_, ?_⟩, ?_⟩
  · exact HubRun.of_inst (f := commitPoint t.id) rfl hw.1
      ((commitPoint_commits hx hw.2 hr hk).trans (commitXfer_error (r := pureRun x) hc))
  · intro hconv move elems scales hne
    have htiles : t.tiles = [] := by
      simp only [Inst.readDone, Bool.and_eq_true] at hr
      exact List.isEmpty_iff.1 hr.1.2
    obtain ⟨t1, tiles, hrun, hframe, hperm, hled⟩ := commitXfer_copies (e := s.env i) hconv htiles hne
    refine ⟨t1, tiles, ?_, hframe, fun w => hperm.mem_iff, hperm.length_eq, ?_, ?_⟩
    · exact HubRun.of_inst (f := commitPoint t.id) rfl hw.1 ((commitPoint_commits hx hw.2 hr hk).trans hrun)
    · have hwait : t.waitsLed.fp = 0 := by unfold Xfer.waitsLed; split <;> rfl
      rw [hled]
      simp only [copyLed, Led.add, hwait, Led.zero, Nat.zero_add, Nat.add_zero, Nat.mod_mod]
      rfl
    · have hwait : t.waitsLed.sat = 0 := by unfold Xfer.waitsLed; split <;> rfl
      rw [hled]
      simp only [copyLed, Led.add, hwait, Led.zero]
      rfl
  · intro q port ident err st hq hqx htiles hst hinj x1 c
    have hmend {y : Inst} {es : List Eff} (h : ((pureRun x1).writeDone (s.env i) t err).serve.ackInvalidations = { x := y, effs := es }) :
        MendRun c s i y es :=
      MendRun.of_inst (f := portUse port ident (seWriteDone port ident err)) rfl hw.1
        ((portUse_none hinj).trans ((seWriteDone_eq hq hqx hx).trans h))
    have hleaves {y : Inst} {es : List Eff} (hy : ∀ u ∈ y.xfers, u.tiles = [])
        (h : (pureRun x1).writeDone (s.env i) t err = { x := without y t, effs := es }) :
        MendRun c s i (without y t).ackInvalidations es := hmend (by rw [h, serve_without hy]; rfl)
    refine ⟨fun hp hl => hmend ?_, fun hp hl hf => ?_, fun hp hl hf hu => ?_, fun hp hl => ?_⟩
    · rw [writeDone_waits hl]
      have hs : ((pureRun x1).setXfer { t with failed := t.failed || err }).serve
          = pureRun (x1.setXfer { t with failed := t.failed || err }) := congrArg pureRun (serve_none fun v hv => by
        rcases mem_setXfer hv with rfl | ⟨hm, -⟩
        · exact htiles t hmem
        · exact htiles v hm)
      rw [hs]
      rfl
    · exact hleaves (y := x1) htiles (writeDone_fails hl hp hf)
    · refine hleaves (y := x1.book t.vc t.led) htiles ((writeDone_next hl hst (Or.inl hf)).trans ?_)
      exact nextStage_written (r := pureRun x1) (t := { t with failed := t.failed || err }) hp (Inst.awake_parts hw.2).2.1 hu
    · refine hleaves (y := x1) htiles ((writeDone_next hl hst (Or.inr hp)).trans ?_)
      exact nextStage_finished (r := pureRun x1) (t := { t with failed := t.failed || err }) hp
end Sys2Proof


/-! SUPPORT. The packets of a collective (R331, R332, R336, R425). -/
namespace Sys2Proof
open Sys2Proof.Machine

/-! ### Polls (R332) -/

theorem lineTiles_one {α : Type} (a : α) : lineTiles [a] = [[a]] := by simp [lineTiles, cutInto]

theorem collPoll_eq {e : Env} {x : Inst} {t : Xfer} (gather : Bool) (idx : Nat) (hx : x.xfer t.id = some t) :
    collPoll t.id gather idx e x =
      if t.phase ≠ .exchanging ∨ !x.awake
        ∨ !(t.open_.any fun a => a.slot == t.slotNo gather idx && decide (a.phase = if gather then 1 else 0))
        ∨ t.polls.any (fun k => k.slot == t.slotNo gather idx) then pureRun x
      else pureRun (x.setXfer { t with
        polls := t.polls ++ [{ slot := t.slotNo gather idx, head := false, got := [] }]
        tiles := t.tiles ++ (lineTiles (t.pollReads x (t.slotNo gather idx) 0 1)).map readTile }).serve := by
  unfold collPoll
  simp only [hx]

theorem pollReads_header (t : Xfer) (x : Inst) (slot : Nat) : (lineTiles (t.pollReads x slot 0 1)).map readTile
    = [[SeReq.waiting [{ va := (t.plan_.recv + slotBytes t.plan_ t.dd * slot) % 2 ^ 52 / 64
                         pa := t.lineOf false (64 * ((t.plan_.recv + slotBytes t.plan_ t.dd * slot) % 2 ^ 52 / 64))
                         tier := x.tier (t.lineOf false (64 * ((t.plan_.recv + slotBytes t.plan_ t.dd * slot) % 2 ^ 52 / 64)) / 64)
                         again := false, poll := some slot }] []]] := by
  unfold Xfer.pollReads
  rw [show List.range 1 = [0] from rfl, List.map_singleton, lineTiles_one]
  rfl

/-! ### Reads of the receive window (R317, R332) -/

/-- No transfer of this number reads its source. -/
def NoneReads (id : Nat) (x : Inst) : Prop := ∀ u ∈ x.xfers, u.id = id → u.phase ≠ .reading

theorem NoneReads.issueTile {id : Nat} {x : Inst} (h : NoneReads id x) (v : Nat) : NoneReads id (x.issueTile v).1 := by
  unfold Inst.issueTile
  split
  · exact h
  · rename_i t ht
    split
    · exact h
    · rename_i tile rest he
      dsimp only
      intro u hu hi
      rcases mem_setXfer hu with rfl | ⟨hm, -⟩
      · exact h t (List.mem_of_find?_eq_some ht) hi
      · rw [issueReqs_frame] at hm
        exact h u hm hi

theorem NoneReads.rounds {id : Nat} (n : Nat) : ∀ {x : Inst}, NoneReads id x → NoneReads id (Inst.rounds n x) := by
  induction n with
  | zero => exact fun h => h
  | succ n ih =>
    intro x h
    rw [Inst.rounds]
    split
    · split
      · exact h
      · exact ih (x := { x with seRound := _ }) h
    · split
      · exact ih (x := { x with seRound := _ }) h
      · dsimp only
        split
        · exact ih (x := { (x.issueTile _).1 with seRound := _ }) (h.issueTile _)
        · exact h.issueTile _

theorem NoneReads.serve {id : Nat} {x : Inst} (h : NoneReads id x) : NoneReads id x.serve := by
  unfold Inst.serve
  dsimp only
  split
  · exact h
  · exact h.rounds _

theorem beginExchange_noneReads {e : Env} {r : Run} {id : Nat} (h : NoneReads id r.x) : r.beginExchange e id = r := by
  unfold Run.beginExchange
  split
  · rfl
  · rename_i t ht
    obtain ⟨hm, hi⟩ := xfer_spec ht
    refine if_neg fun hc => ?_
    have : t.phase = .reading := by
      have h1 := hc.1
      simp only [Inst.readDone, Bool.and_eq_true, decide_eq_true_iff] at h1
      exact h1.1.1
    exact h t hm hi this

/-- A collective in its exchange goes no further in the step of a read return. -/
theorem polled_settles {e : Env} {x : Inst} {t u : Xfer} (hi : u.id = t.id) (hp : u.phase = .exchanging) :
    (pureRun (x.setXfer u)).serve.beginExchange e t.id = pureRun (x.setXfer u).serve := by
  refine beginExchange_noneReads (r := pureRun (x.setXfer u).serve) (NoneReads.serve fun v hv hid => ?_)
  rcases mem_setXfer hv with rfl | ⟨-, hne⟩
  · rw [hp]; nofun
  · exact absurd (hid.trans hi.symm) hne

section
variable {e : Env} {r : Run} {t : Xfer} {p : SeRead} {a : Await} {k : Poll} (hx : r.x.xfer t.id = some t) (hp : p.poll = some a.slot)
  (ha : t.open_.find? (fun b => b.slot == a.slot) = some a) (hk : t.polls.find? (fun j => j.slot == a.slot) = some k)

/-- The poll of a slot with one more line. -/
def pollLine (k : Poll) (p : SeRead) (data : Line) : Poll :=
  { k with head := true, got := k.got ++ [{ va := p.va, data := data, bad := false }] }

/-- A collective whose poll of a slot is another. -/
def withPoll (t : Xfer) (slot : Nat) (k : Poll) : Xfer := { t with polls := t.polls.map fun j => if j.slot = slot then k else j }

/-- A collective without the poll of a slot. -/
def unpolled (t : Xfer) (slot : Nat) : Xfer := { t with polls := t.polls.filter fun j => j.slot != slot }

include hx hp ha hk in
theorem pollReturn_eq (status : BitVec 2) (data : Line) : r.lineReturn e t.id p status data =
    if status = 2 then (if k.head then r.xferFail t errPoison 0 else r.setXfer (unpolled t a.slot))
    else if status ≠ 0 then r.xferFail t errMemRead 0
    else if k.head then
      (if (pollLine k p data).got.length = ceilDiv (t.plan_.expect t.dd a).2.2 64 + 1
        then r.pollVerify e (withPoll t a.slot (pollLine k p data)) a (pollLine k p data).bytes
        else r.setXfer (withPoll t a.slot (pollLine k p data)))
    else if !t.plan_.headerIs a (lineBytes data) then r.setXfer (unpolled t a.slot)
    else if ceilDiv (t.plan_.expect t.dd a).2.2 64 = 0
      then r.pollVerify e (withPoll t a.slot (pollLine k p data)) a (pollLine k p data).bytes
    else r.setXfer { withPoll t a.slot (pollLine k p data) with
      tiles := t.tiles ++ (lineTiles (t.pollReads r.x a.slot 1 (ceilDiv (t.plan_.expect t.dd a).2.2 64))).map readTile } := by
  unfold Run.lineReturn
  rw [hx, hp]
  dsimp only
  unfold Run.pollReturn
  rw [ha, hk]
  rfl

include hk in
/-- A slot's poll that is dropped is dropped whatever it had read. -/
theorem unpolled_withPoll {k1 : Poll} (hs : k1.slot = k.slot) : unpolled (withPoll t a.slot k1) a.slot = unpolled t a.slot := by
  have hk : k.slot = a.slot := by simpa using List.find?_some hk
  refine congrArg (fun l => { t with polls := l }) ?_
  unfold withPoll
  dsimp only
  generalize t.polls = l
  induction l with
  | nil => rfl
  | cons j l ih =>
    rw [List.map_cons, List.filter_cons, List.filter_cons, ih]
    by_cases hj : j.slot = a.slot <;> simp [hj, hs, hk]

include hk in
theorem pollVerify_fails {k1 : Poll} {bs : List Byte} (hs : k1.slot = k.slot) {code : Nat} (hc : t.plan_.packetCode t.dd a bs = code)
    (h0 : code ≠ 0) : r.pollVerify e (withPoll t a.slot k1) a bs = r.xferFail (unpolled t a.slot) code 0 := by
  subst hc
  unfold Run.pollVerify
  refine (if_pos h0).trans ?_
  exact congrArg (fun u => r.xferFail u (t.plan_.packetCode t.dd a bs) 0) (unpolled_withPoll hk hs)

/-- A collective that has accepted the packet of a slot. -/
def accepting (t : Xfer) (a : Await) (bs : List Byte) : Xfer := { unpolled t a.slot with
  accepted := t.accepted ++ [{ slot := a.slot, bytes := (bs.drop 32).take 32 ++ (bs.drop 64).take (t.plan_.expect t.dd a).2.2 }] }

/-- A collective of op 2 that awaits another slot takes a packet and goes on waiting. -/
theorem collGo_waits (hx : r.x.xfer t.id = some t) {u : Xfer} (hi : u.id = t.id) (hop : u.plan_.op = 2) (hopen : u.open_ ≠ []) :
    r.collGo e u = r.setXfer u := by
  have hred : r.reduceReady e u = r.setXfer u := if_pos hop
  have hfind : (r.setXfer u).x.xfer u.id = some u := by rw [hi]; exact xfer_setXfer hx hi
  have hcommit : (r.setXfer u).collCommit e u = (r.setXfer u).setXfer u := by
    unfold Run.collCommit
    refine if_pos ?_
    rw [show u.open_.isEmpty = false by simpa using hopen]
    rfl
  unfold Run.collGo
  simp only [hred, hfind, hcommit]
  exact congrArg (fun y : Inst => (⟨y, r.effs⟩ : Run)) (setXfer_setXfer r.x rfl)

include hx hk in
theorem pollVerify_waits {k1 : Poll} {bs : List Byte} (hs : k1.slot = k.slot) (hc : t.plan_.packetCode t.dd a bs = 0)
    (hop : t.plan_.op = 2) (hopen : ∃ b ∈ t.open_, b.slot ≠ a.slot) :
    r.pollVerify e (withPoll t a.slot k1) a bs = r.setXfer (accepting t a bs) := by
  unfold Run.pollVerify
  refine (if_neg (not_not.2 hc)).trans ?_
  have hun := unpolled_withPoll (k1 := k1) hk hs
  refine Eq.trans (congrArg (fun u : Xfer => r.collGo e { u with
    accepted := t.accepted ++ [{ slot := a.slot, bytes := (bs.drop 32).take 32 ++ (bs.drop 64).take (t.plan_.expect t.dd a).2.2 }] })
    hun) (collGo_waits hx rfl hop fun h0 => ?_)
  obtain ⟨b, hb, hne⟩ := hopen
  obtain ⟨hbm, hbo⟩ := List.mem_filter.1 hb
  have : b ∈ (accepting t a bs).open_ := by
    refine List.mem_filter.2 ⟨hbm, ?_⟩
    unfold accepting
    dsimp only
    rw [List.all_append, hbo]
    simp [Ne.symm hne]
  rw [show (accepting t a bs).open_ = [] from h0] at this
  exact absurd this List.not_mem_nil
end

/-! ### Packets of local peers (R331) -/

theorem localPacket_eq {s : State} {i j : Nat} {x z : Inst} {q : Nat × List Byte} (hx : s.insts[i]? = some x) (hz : s.insts[j]? = some z)
    (hq : z.linkOut.find? (fun q => q.1 == i) = some q) : s.localPacket i j =
      if !s.linked j i then s
      else if s.sleepers j i ≠ [] then s.wakeNext j i
      else if !x.awake then s
      else if !x.packetRoom q.2 then s
      else (s.setInst j { z with linkOut := z.linkOut.erase q }.sendsEnd).run i (takePacket q.2) := by
  unfold State.localPacket
  simp only [hx, hz, hq]

/-- A packet that the hub has room for arrives. -/
theorem localPacket_arrives {s : State} {i j : Nat} {x y z : Inst} {q : Nat × List Byte} (hw : AtWork s i x) (hij : j ≠ i)
    (hz : s.insts[j]? = some z) (hq : z.linkOut.find? (fun q => q.1 == i) = some q) (hl : s.linked j i = true)
    (hs : s.sleepers j i = []) (hroom : x.packetRoom q.2 = true) (hy : ∀ e, takePacket q.2 e x = pureRun y) :
    s.localPacket i j = (s.setInst j { z with linkOut := z.linkOut.erase q }.sendsEnd).setInst i y := by
  have hx : (s.setInst j { z with linkOut := z.linkOut.erase q }.sendsEnd).insts[i]? = some x :=
    (State.getElem_setInst_other _ _ _ _ (Ne.symm hij)).trans hw.1
  rw [localPacket_eq hw.1 hz hq, if_neg (by rw [hl]; nofun), if_neg (not_not.2 hs), if_neg (by rw [hw.2]; nofun),
    if_neg (by rw [hroom]; nofun)]
  unfold State.run
  rw [hx]
  exact State.runAt_pure (hy _)

theorem storePacket_stores {e : Env} {x : Inst} {t : Xfer} {bs : List Byte} {a : Await} (hst : t.stages = [])
    (ha : (t.plan_.awaits t.dd).find? (fun a => t.plan_.headerIs a bs) = some a)
    (hnow : ((lineTiles (t.lineWrites (bytesAt (t.plan_.recv + slotBytes t.plan_ t.dd * a.slot + 64) (bs.drop 64)))).filter
      fun ws => !ws.isEmpty) ≠ []) :
    (pureRun x).storePacket e t bs = pureRun (x.setXfer { t with
      stages := [{ tiles := lineTiles (t.lineWrites (bytesAt (t.plan_.recv + slotBytes t.plan_ t.dd * a.slot + 64) (bs.drop 64)))
                   send := false },
                 { tiles := [t.lineWrites (bytesAt (t.plan_.recv + slotBytes t.plan_ t.dd * a.slot) (bs.take 64))], send := false }]
      tiles := t.tiles ++ ((lineTiles (t.lineWrites (bytesAt (t.plan_.recv + slotBytes t.plan_ t.dd * a.slot + 64)
        (bs.drop 64)))).filter fun ws => !ws.isEmpty).map writeTile
      failed := false, sentAt := if x.linkOwes t then none else some (t.sentAt.getD x.ticks) }).serve := by
  unfold Run.storePacket
  simp only [ha]
  unfold Run.addStages
  rw [if_pos (by rw [hst]; rfl)]
  unfold Run.nextStage
  dsimp only
  rw [if_neg (by simpa using hnow)]
  rfl

/-! ### Timeouts (R336) -/

theorem collTimeout_eq {e : Env} {x : Inst} {t : Xfer} {sent : Nat} (hx : x.xfer t.id = some t) (hs : t.sentAt = some sent) :
    collTimeout t.id e x =
      if t.phase ≠ .exchanging ∨ x.collCtrl.toNat / 2 ^ 16 = 0 ∨ x.ticks < sent + x.collCtrl.toNat / 2 ^ 16 * 1024
        ∨ (t.open_.filter fun a => !t.polls.any fun k => k.head && k.slot == a.slot).isEmpty ∨ !x.awake then pureRun x
      else (pureRun { x with collOut := min (x.collOut + 1) 0xFFFF }).xferFail t errCollTimeout 0 := by
  unfold collTimeout
  simp only [hx, hs]
  rfl

/-- Settles O40. -/
theorem collectivePort : Obligations.CollectivePort := by
  unfold Obligations.CollectivePort
  intro s i x hw
  refine ⟨?_, ?_, ?_, ?_⟩
  · intro t gather idx slot awaited va header hx hp
    have hslot : t.slotNo gather idx = slot := by cases gather <;> rfl
    have hany : (t.open_.any fun a => a.slot == t.slotNo gather idx && decide (a.phase = if gather then 1 else 0)) = true ↔ awaited := by
      rw [hslot, List.any_eq_true]
      exact exists_congr fun a => and_congr_right fun _ => by rw [Bool.and_eq_true, beq_iff_eq, decide_eq_true_iff]
    have hpoll : (t.polls.any fun k => k.slot == t.slotNo gather idx) = true ↔ ∃ k ∈ t.polls, k.slot = slot := by
      rw [hslot, List.any_eq_true]
      exact exists_congr fun k => and_congr_right fun _ => beq_iff_eq
    refine ⟨fun h => ?_, fun ha hn => ?_⟩
    · refine HubRun.of_inst (f := collPoll t.id gather idx) rfl hw.1 ((collPoll_eq gather idx hx).trans (if_pos ?_))
      rcases h with h | h
      · refine Or.inr (Or.inr (Or.inl ?_))
        rw [eq_false_of_ne_true (hany.not.2 h)]
        rfl
      · exact Or.inr (Or.inr (Or.inr (hpoll.2 h)))
    · refine HubRun.of_inst (f := collPoll t.id gather idx) rfl hw.1 ((collPoll_eq gather idx hx).trans ((if_neg ?_).trans ?_))
      · rintro (h | h | h | h)
        · exact h hp
        · rw [hw.2] at h; exact absurd h nofun
        · rw [hany.2 ha] at h; exact absurd h nofun
        · obtain ⟨k, hk, he⟩ := hpoll.1 h
          exact hn k hk he
      · rw [hslot, pollReads_header]
        rfl
  · intro t q p a k port ident lower upper hx hq hqx hreads hpoll ha hk hp htiles hinj c x1 n k1 t1 unread arrived ends
    have hx1 : x1 = { x with seReqs := readsLeft x q } := by
      unfold readsLeft
      rw [hreads]
      rfl
    have ht : t.tiles = [] := htiles t (xfer_spec hx).1
    have hfind : x1.xfer t.id = some t := hx
    have hks : k1.slot = k.slot := rfl
    have hline := pollReturn_eq (e := s.env i) (r := pureRun x1) hfind hpoll ha hk lower.1 lower.2
    have hmend {y : Inst} {es : List Eff} (h : ((pureRun x1).lineReturn (s.env i) t.id p lower.1 lower.2).serve.beginExchange (s.env i) t.id
        = { x := y, effs := es }) : MendRun c s i y es := by
      refine MendRun.of_inst (f := portUse port ident (seReadReturn port ident lower upper)) rfl hw.1
        ((portUse_none hinj).trans ((seReadReturn_lines hq hqx).trans (Eq.trans ?_ h)))
      rw [hreads, ← hx1]
      rfl
    have hends {code : Nat} {u : Xfer} (hu : without x1 u = without x1 t) (he : xferErrs u code 0 = xferErrs t code 0)
        (h : (pureRun x1).lineReturn (s.env i) t.id p lower.1 lower.2 = (pureRun x1).xferFail u code 0) : ends code := by
      refine hmend ?_
      rw [h, xferFail_eq, show (pureRun x1).x = x1 from rfl, hu, he]
      exact fails_settles (x := x1) htiles _
    have hgoes {u : Xfer} (hi : u.id = t.id) (hph : u.phase = .exchanging)
        (h : (pureRun x1).lineReturn (s.env i) t.id p lower.1 lower.2 = (pureRun x1).setXfer u) :
        MendRun c s i (x1.setXfer u).serve [] := hmend (by rw [h]; exact polled_settles hi hph)
    have hkept {u : Xfer} (hi : u.id = t.id) (hph : u.phase = .exchanging) (hut : u.tiles = [])
        (h : (pureRun x1).lineReturn (s.env i) t.id p lower.1 lower.2 = (pureRun x1).setXfer u) : MendRun c s i (x1.setXfer u) [] := by
      have hserve : (x1.setXfer u).serve = x1.setXfer u := serve_none fun v hv => by
        rcases mem_setXfer hv with rfl | ⟨hm, -⟩
        · exact hut
        · exact htiles v hm
      have := hgoes hi hph h
      rwa [hserve] at this
    have hok (h0 : lower.1 = 0) := hline.trans ((if_neg (by rw [h0]; decide)).trans (if_neg (not_not.2 h0)))
    have hhead (h : k.head = false) : ¬k.head = true := fun h' => absurd (h.symm.trans h') nofun
    refine ⟨fun h2 => ⟨fun h => ?_, fun h => ?_⟩, fun h13 => ?_, fun h0 h hn => ?_, fun h0 h harr hn => ?_, fun h0 h hn => ?_,
      fun h0 hlast => ?_⟩
    · exact hkept rfl hp ht (hline.trans ((if_pos h2).trans (if_neg (hhead h))))
    · exact hends rfl rfl (hline.trans ((if_pos h2).trans (if_pos h)))
    · have h02 : lower.1 ≠ 2 ∧ lower.1 ≠ 0 := by rcases h13 with h | h <;> rw [h] <;> decide
      exact hends rfl rfl (hline.trans ((if_neg h02.1).trans (if_pos h02.2)))
    · refine hkept rfl hp ht ((hok h0).trans ((if_neg (hhead h)).trans (if_pos ?_)))
      rw [eq_false_of_ne_true hn]
      rfl
    · refine hgoes rfl hp ((hok h0).trans ((if_neg (hhead h)).trans ((if_neg ?_).trans ((if_neg hn).trans ?_))))
      · rw [show t.plan_.headerIs a (lineBytes lower.2) = true from harr]
        nofun
      · rw [ht]
        rfl
    · exact hkept rfl hp ht ((hok h0).trans ((if_pos h).trans (if_neg hn)))
    · have hver : (pureRun x1).lineReturn (s.env i) t.id p lower.1 lower.2
          = (pureRun x1).pollVerify (s.env i) (withPoll t a.slot k1) a k1.bytes := by
        rcases hlast with ⟨h, harr, hn⟩ | ⟨h, hn⟩
        · refine (hok h0).trans ((if_neg (hhead h)).trans ((if_neg ?_).trans (if_pos hn)))
          rw [show t.plan_.headerIs a (lineBytes lower.2) = true from harr]
          nofun
        · exact (hok h0).trans ((if_pos h).trans (if_pos hn))
      refine ⟨fun hc => ?_, fun hc hop hopen => ?_⟩
      · exact hends (u := unpolled t a.slot) rfl rfl (hver.trans (pollVerify_fails hk hks rfl hc))
      · exact hkept (u := accepting t a k1.bytes) rfl hp ht (hver.trans (pollVerify_waits hfind hk hks hc hop hopen))
  · intro j z q hij hz hq bs c sent arrives
    have hex : exec c s = .next (s.localPacket i j) := rfl
    have hloc := localPacket_eq hw.1 hz hq
    refine ⟨fun hl => ?_, fun hl k rest y hk hy => ?_, fun hl hs => ⟨fun hh => ⟨fun hr => ?_, fun hr => ?_⟩, fun t hh ho => ?_, ?_⟩⟩
    · exact hex.trans (congrArg _ (hloc.trans (if_pos (by rw [hl]; rfl))))
    · refine hex.trans (congrArg _ (hloc.trans ((if_neg (by rw [hl]; nofun)).trans ((if_pos (by rw [hk]; nofun)).trans ?_))))
      simp only [State.wakeNext, hk, hy]
    · refine hex.trans (congrArg _ (localPacket_arrives hw hij hz hq hl hs ?_ fun e => ?_))
      · simp [Inst.packetRoom, hr]
      · unfold takePacket
        rw [show x.packetHome q.2 = none from hh]
    · refine hex.trans (congrArg _ (hloc.trans ((if_neg (by rw [hl]; nofun)).trans ((if_neg (not_not.2 hs)).trans
        ((if_neg (by rw [hw.2]; nofun)).trans (if_pos ?_))))))
      simp [Inst.packetRoom, show x.packetHome q.2 = none from hh, hr]
    · refine hex.trans (congrArg _ (localPacket_arrives hw hij hz hq hl hs ?_ fun e => ?_))
      · simp [Inst.packetRoom, show x.packetHome q.2 = some t from hh]
      · unfold takePacket
        rw [show x.packetHome q.2 = some t from hh]
        exact if_neg (by rw [ho]; nofun)
    · intro t a hh ho hst ha base pay head now hnow
      refine hex.trans (congrArg _ (localPacket_arrives hw hij hz hq hl hs ?_ fun e => ?_))
      · simp [Inst.packetRoom, show x.packetHome q.2 = some t from hh]
      · unfold takePacket
        rw [show x.packetHome q.2 = some t from hh]
        exact (if_pos ho).trans (storePacket_stores hst ha hnow)
  · intro t sent limit late hx hp hs hlim htime
    have heq := collTimeout_eq (e := s.env i) hx hs
    have hleft : (t.open_.filter fun a => !t.polls.any fun k => k.head && k.slot == a.slot).isEmpty = true ↔ ¬late := by
      rw [List.isEmpty_iff, List.filter_eq_nil_iff]
      simp [late]
    refine ⟨fun hl => ?_, fun hl => ?_⟩
    · refine HubRun.of_inst (f := collTimeout t.id) rfl hw.1 (heq.trans ((if_neg ?_).trans (xferFail_eq ..)))
      rintro (h | h | h | h | h)
      · exact h hp
      · exact hlim h
      · exact absurd htime (Nat.not_le.2 h)
      · exact hleft.1 h hl
      · rw [hw.2] at h; exact absurd h nofun
    · exact HubRun.of_inst (f := collTimeout t.id) rfl hw.1 (heq.trans (if_pos (Or.inr (Or.inr (Or.inr (Or.inl (hleft.2 hl)))))))
end Sys2Proof


/-! SUPPORT. The stores and the commits of adds (R129, R130, R189): what the cell's adds going on leaves of its casks, and when a
store begins. -/

namespace Sys2Proof

open Sys2Proof.Machine

/-! ### What is left of the casks -/

/-- A cask of which only the progress of its adds differs. -/
def CaskLike (q r : Cask) : Prop := r = { q with adds := r.adds } ∧ r.adds.map CaskAdd.slot = q.adds.map CaskAdd.slot

theorem CaskLike.refl (q : Cask) : CaskLike q q := ⟨rfl, rfl⟩

theorem CaskLike.trans {a b c : Cask} (h1 : CaskLike a b) (h2 : CaskLike b c) : CaskLike a c := by
  obtain ⟨hb, hbs⟩ := h1
  obtain ⟨hc, hcs⟩ := h2
  refine ⟨?_, hcs.trans hbs⟩
  rw [hc, hb]

/-- The entry of the same number, of which only the progress of its adds differs. -/
def EntryLike (p r : Nat × Cask) : Prop := r.1 = p.1 ∧ CaskLike p.2 r.2

theorem EntryLike.refl (p : Nat × Cask) : EntryLike p p := ⟨rfl, .refl _⟩

/-- The entry numbers of a cell's casks rise. -/
def KeysRise (c : Cell) : Prop := (c.casks.map Prod.fst).Pairwise (· < ·)

/-- The casks of a cell whose adds have gone on: each keeps all but their progress, and a table in order keeps its entries. -/
def Stirred (c d : Cell) : Prop :=
  (∀ e q, Cell.caskAt c e = some q → ∃ r, Cell.caskAt d e = some r ∧ CaskLike q r)
    ∧ (KeysRise c → List.Forall₂ EntryLike c.casks d.casks)

theorem entries_trans {l m n : List (Nat × Cask)} (h1 : List.Forall₂ EntryLike l m) (h2 : List.Forall₂ EntryLike m n) :
    List.Forall₂ EntryLike l n := by
  induction h1 generalizing n with
  | nil => exact h2
  | cons hp _ ih =>
    cases h2 with
    | cons hq h2 => exact .cons ⟨hq.1.trans hp.1, hp.2.trans hq.2⟩ (ih h2)

theorem entries_keys {l m : List (Nat × Cask)} (h : List.Forall₂ EntryLike l m) : m.map Prod.fst = l.map Prod.fst := by
  induction h with
  | nil => rfl
  | cons h _ ih => simp [ih, h.1]

theorem Stirred.refl (c : Cell) : Stirred c c :=
  ⟨fun _ q h => ⟨q, h, .refl q⟩, fun _ => List.forall₂_same.2 fun p _ => .refl p⟩

theorem Stirred.trans {a b c : Cell} (h1 : Stirred a b) (h2 : Stirred b c) : Stirred a c := by
  refine ⟨fun e q h => ?_, fun hs => ?_⟩
  · obtain ⟨r, hr, hl⟩ := h1.1 e q h
    obtain ⟨t, ht, hm⟩ := h2.1 e r hr
    exact ⟨t, ht, hl.trans hm⟩
  · have hab := h1.2 hs
    have hbc := h2.2 (by rw [KeysRise, entries_keys hab]; exact hs)
    exact entries_trans hab hbc

/-- One entry of a table in order is changed. -/
theorem forall₂_put {R : Nat × Cask → Nat × Cask → Prop} (hR : ∀ p, R p p) {t : Tbl Cask} {e : Nat} {q r : Cask}
    (hs : (t.map Prod.fst).Pairwise (· < ·)) (hq : t.find? (fun p => p.1 == e) = some (e, q)) (h : R (e, q) (e, r)) :
    List.Forall₂ R t (Tbl.put e r t) := by
  induction t with
  | nil => simp at hq
  | cons p t ih =>
    obtain ⟨i, w⟩ := p
    obtain ⟨hlt, hs⟩ := List.pairwise_cons.1 hs
    simp only [Tbl.put]
    by_cases hi : e = i
    · subst hi
      obtain rfl : w = q := by simpa using hq
      rw [if_neg (lt_irrefl e), if_pos rfl]
      exact .cons h (List.forall₂_same.2 fun p _ => hR p)
    · rw [List.find?_cons_of_neg (by simpa using Ne.symm hi)] at hq
      have hmem : e ∈ t.map Prod.fst := List.mem_map.2 ⟨_, List.mem_of_find?_eq_some hq, rfl⟩
      have hie : i < e := hlt e hmem
      rw [if_neg (not_lt_of_gt hie), if_neg hi]
      exact .cons (hR _) (ih hs hq)

/-- What an entry number finds is its cask. -/
theorem find_of_caskAt {c : Cell} {e : Nat} {q : Cask} (h : Cell.caskAt c e = some q) :
    c.casks.find? (fun p => p.1 == e) = some (e, q) := by
  obtain ⟨p, hp, rfl⟩ := Option.map_eq_some_iff.1 h
  have he : p.1 = e := by simpa using List.find?_some hp
  rw [hp, ← he]

theorem caskAt_put_other {c d : Cell} {e f : Nat} {r : Cask} (hd : d.casks = Tbl.put e r c.casks) (hf : f ≠ e) :
    Cell.caskAt d f = Cell.caskAt c f := by
  rw [Cell.caskAt, hd, find_put_other r c.casks hf, Cell.caskAt]

theorem caskAt_put_same {c d : Cell} {e : Nat} {r : Cask} (hd : d.casks = Tbl.put e r c.casks) : Cell.caskAt d e = some r := by
  rw [Cell.caskAt, hd, find_put]; rfl

theorem stirred_put {c d : Cell} {e : Nat} {q r : Cask} (hq : Cell.caskAt c e = some q) (hd : d.casks = Tbl.put e r c.casks)
    (hr : CaskLike q r) : Stirred c d := by
  refine ⟨fun f p hp => ?_, fun hs => ?_⟩
  · by_cases hf : f = e
    · subst hf
      obtain rfl : q = p := Option.some.inj (hq.symm.trans hp)
      exact ⟨r, caskAt_put_same hd, hr⟩
    · exact ⟨p, (caskAt_put_other hd hf).trans hp, .refl p⟩
  · rw [hd]
    exact forall₂_put EntryLike.refl hs (find_of_caskAt hq) ⟨rfl, hr⟩

/-- What holds of every cell and its loads and stores that begin holds of its adds going on. -/
theorem runAdds_rel {R : Cell → Cell → Prop} (refl : ∀ c, R c c) (trans : ∀ {a b c}, R a b → R b c → R a c)
    (load : ∀ c e, R c (c.startLoad e)) (store : ∀ c e, R c (c.startStore e)) (c : Cell) : R c c.runAdds := by
  have hloads : R c c.startLoads := by
    unfold Cell.startLoads
    split
    · exact refl c
    · split
      · exact refl c
      · exact load _ _
      · split
        · exact load _ _
        · exact trans (load _ _) (load _ _)
  have hstores (d : Cell) : R d d.startStores := by
    unfold Cell.startStores
    split
    · exact refl d
    · dsimp only
      split
      · exact store _ _
      · split
        · exact trans (store _ _) (store _ _)
        · exact store _ _
  exact trans hloads (hstores _)

theorem startLoad_stirred (c : Cell) (e : Nat) : Stirred c (c.startLoad e) := by
  unfold Cell.startLoad
  split
  · exact .refl c
  · rename_i p hp
    split
    · exact .refl c
    · rename_i a rest ha
      dsimp only
      split
      · exact .refl c
      · exact stirred_put (caskAt_of_find hp) rfl ⟨rfl, by simp [ha]⟩

/-- The sums of the add at the head of a cask can be formed: what that says. -/
theorem addReady_iff {c : Cell} {e : Nat} {q : Cask} {a : CaskAdd} {ls : List SpLine} {src : List Tw} :
    c.addReady e = some (q, a, ls, src) ↔ Cell.caskAt c e = some q ∧ q.adds = a :: q.adds.drop 1 ∧ a.load = some ls
      ∧ c.addSource a = some src ∧ ls.length = 128 := by
  unfold Cell.addReady
  constructor
  · intro h
    split at h
    · exact absurd h (by simp)
    · rename_i p hp
      split at h
      · exact absurd h (by simp)
      · rename_i b rest hb
        split at h
        · rename_i ls' src' hl hs
          split at h
          · rename_i hlen
            simp only [Option.some.injEq, Prod.mk.injEq] at h
            obtain ⟨rfl, rfl, rfl, rfl⟩ := h
            exact ⟨caskAt_of_find hp, by rw [hb]; rfl, hl, hs, hlen⟩
          · exact absurd h (by simp)
        · exact absurd h (by simp)
  · rintro ⟨hq, ha, hl, hs, hlen⟩
    simp only [find_of_caskAt hq]
    rw [ha]
    simp only [hl, hs, if_pos hlen]

theorem startStore_stirred (c : Cell) (e : Nat) : Stirred c (c.startStore e) := by
  unfold Cell.startStore
  split
  · exact .refl c
  · rename_i q a ls src hr
    split
    · exact .refl c
    · have hr' : c.addReady e = some (q, a, ls, src) := by
        split at hr
        · exact absurd hr (by simp)
        · exact hr
      obtain ⟨hq, ha, -⟩ := addReady_iff.1 hr'
      refine stirred_put hq rfl ⟨rfl, ?_⟩
      rw [ha]; rfl

theorem runAdds_stirred (c : Cell) : Stirred c c.runAdds :=
  runAdds_rel Stirred.refl Stirred.trans startLoad_stirred startStore_stirred c

/-! ### When a store begins -/

/-- No store of the add at the head of cask f may begin: its sums cannot be formed, or are being stored. -/
def NoStore (c : Cell) (f : Nat) : Prop :=
  ∀ q a ls src, c.addReady f = some (q, a, ls, src) → a.storing = true

theorem startStore_waits {c : Cell} {f : Nat} (h : NoStore c f) : c.startStore f = c := by
  unfold Cell.startStore
  split
  · rfl
  · rename_i q a ls src hr
    have hr' : c.addReady f = some (q, a, ls, src) := by
      split at hr
      · exact absurd hr (by simp)
      · exact hr
    rw [if_pos (h q a ls src hr')]

theorem startStores_waits {c : Cell} (h : ∀ p ∈ c.addQ.take 2, NoStore c p.2) : c.startStores = c := by
  unfold Cell.startStores
  split
  · rfl
  · rename_i a rest hq
    have ha : c.startStore a.2 = c := startStore_waits (h a (by simp [hq]))
    simp only [ha]
    split
    · rfl
    · rename_i b _
      split
      · exact startStore_waits (h b (by simp [hq]))
      · rfl

/-- Whether a store may begin depends on the cask and on the drained tiles. -/
theorem noStore_of {c d : Cell} {f : Nat} (h : NoStore c f) (hq : Cell.caskAt d f = Cell.caskAt c f)
    (hs : ∀ a src, d.addSource a = some src → c.addSource a = some src) : NoStore d f := by
  intro q a ls src hr
  obtain ⟨h1, h2, h3, h4, h5⟩ := addReady_iff.1 hr
  exact h q a ls src (addReady_iff.2 ⟨hq ▸ h1, h2, h3, hs a src h4, h5⟩)

theorem addSource_congr {c d : Cell} (h : d.drain = c.drain) (a : CaskAdd) : d.addSource a = c.addSource a := by
  have hb : d.tileBeats = c.tileBeats := funext fun id => by simp only [Cell.tileBeats, h]
  simp only [Cell.addSource, Cell.tileWords, hb]

/-- A tile that is freed is no source any more, and the others stay. -/
theorem addSource_freeTile {c : Cell} {id : Nat} {a : CaskAdd} {src : List Tw} (h : (c.freeTile id).addSource a = some src) :
    c.addSource a = some src := by
  cases hs : a.src with
  | words ts =>
    simp only [Cell.addSource, hs] at h ⊢
    exact h
  | tile j =>
    have hbeats : j ≠ id → (c.freeTile id).tileBeats j = c.tileBeats j := by
      intro hj
      simp only [Cell.tileBeats, Cell.freeTile, List.find?_filter]
      congr 1
      refine List.find?_congr fun t _ => ?_
      by_cases ht : t.id = j
      · subst ht; simp [hj]
      · simp [ht]
    by_cases hj : j = id
    · subst hj
      have : (c.freeTile j).tileBeats j = [] := by
        simp only [Cell.tileBeats, Cell.freeTile, List.find?_filter]
        rw [List.find?_eq_none.2 fun t _ => by simp]
      simp [Cell.addSource, hs, this] at h
    · simp only [Cell.addSource, hs, Cell.tileWords, hbeats hj] at h ⊢
      exact h

theorem startLoad_noStore {c : Cell} {e f : Nat} (h : NoStore c f) : NoStore (c.startLoad e) f := by
  have hdrain : (c.startLoad e).drain = c.drain := by rw [Cell.startLoad_frame]
  have hsource : ∀ a src, (c.startLoad e).addSource a = some src → c.addSource a = some src :=
    fun a src hs => (addSource_congr hdrain a).symm.trans hs
  by_cases hf : f = e
  · subst hf
    unfold Cell.startLoad
    split
    · exact h
    · split
      · exact h
      · rename_i p hp a rest ha
        dsimp only
        split
        · exact h
        · intro q z ls src hr
          obtain ⟨h1, h2, h3, -, h5⟩ := addReady_iff.1 hr
          rw [caskAt_put_same rfl, Option.some.injEq] at h1
          subst h1
          obtain ⟨rfl, -⟩ := List.cons.inj h2
          obtain rfl : [] = ls := Option.some.inj h3
          simp at h5
  · refine noStore_of h ?_ hsource
    unfold Cell.startLoad
    split
    · rfl
    · split
      · rfl
      · dsimp only
        split
        · rfl
        · exact caskAt_put_other rfl hf

theorem startLoads_noStore {c : Cell} {f : Nat} (h : NoStore c f) : NoStore c.startLoads f := by
  unfold Cell.startLoads
  split
  · exact h
  · split
    · exact h
    · exact startLoad_noStore h
    · split
      · exact startLoad_noStore h
      · exact startLoad_noStore (startLoad_noStore h)

/-- No store begins while none of the cell's adds may store. -/
theorem runAdds_noStore {c : Cell} (h : ∀ p ∈ c.addQ, NoStore c p.2) : c.runAdds = c.startLoads := by
  have hq : c.startLoads.addQ = c.addQ := by rw [Cell.startLoads_frame]
  exact startStores_waits fun p hp => startLoads_noStore (h p (List.mem_of_mem_take (hq ▸ hp)))

/-! ### The sums of an add -/

/-- The terms of the sums of an add (R130, R189). -/
def addTerms (q : Cask) (z : CaskAdd) (ls : List SpLine) (src : List Tw) : List (Tw × Tw) :=
  let plain := (if q.D = 0 ∧ q.init = false then List.replicate src.length Tw.zero else tileFrom ls (q.half (q.D % 2))).zip src
  if q.chain then
    plain.zipIdx.map fun p => (twScale p.1.1 (z.stepAt (p.2 / 32) 5), twScale p.1.2 (z.stepAt (p.2 / 32) 6))
  else plain

/-- The terms of the row sum of a chain (R189). -/
def rowTerms (z : CaskAdd) (r : Nat) (w : RowState) : Tw × Tw :=
  (twScale w.l (z.stepAt r 5), twScale { hi := z.stepAt r 2, lo := z.stepAt r 3 } (z.stepAt r 6))

/-- The row state of a chain after the commit of an add (R189). -/
def rowAfter (z : CaskAdd) (p : RowState × Nat) : RowState :=
  { p.1 with l := twAdd (rowTerms z p.2 p.1).1 (rowTerms z p.2 p.1).2, posC := p.1.posC + (z.stepAt p.2 4).toNat
             mC := z.stepAt p.2 1 }

theorem tileFrom_length (ls : List SpLine) (l : Nat) : (tileFrom ls l).length = 1024 := by
  simp [tileFrom, List.length_flatMap]

theorem addOnto_eq (q : Cask) (ls : List SpLine) (src : List Tw) : q.addOnto ls src =
    if q.D = 0 ∧ q.init = false then List.replicate src.length Tw.zero else tileFrom ls (q.half (q.D % 2)) := by
  simp [Cask.addOnto, Cask.discards, List.map_const']

theorem addSums_eq {q : Cask} {z : CaskAdd} {ls : List SpLine} {src : List Tw} (h : src.length = 1024) :
    addSums q z (q.addOnto ls src) src = ((addTerms q z ls src).map (fun p => twAdd p.1 p.2), q.rows.zipIdx.map (rowAfter z),
      (addTerms q z ls src).any (fun p => twAddFlags p.1 p.2)
        || q.rows.zipIdx.any fun p => twAddFlags (rowTerms z p.2 p.1).1 (rowTerms z p.2 p.1).2) := by
  have hold : (q.addOnto ls src).length = 1024 := by
    rw [addOnto_eq]
    split
    · rw [List.length_replicate, h]
    · exact tileFrom_length _ _
  have hzip : ((q.addOnto ls src).zip src).length = 1024 := by rw [List.length_zip, hold, h, Nat.min_self]
  have hos : (lanes.zip ((q.addOnto ls src).zip src)).map (fun p =>
      if q.chain then (twScale p.2.1 (z.stepAt p.1.1 5), twScale p.2.2 (z.stepAt p.1.1 6)) else p.2) = addTerms q z ls src := by
    rw [addTerms, ← addOnto_eq]
    cases q.chain with
    | false =>
      simp only [Bool.false_eq_true, if_false]
      exact List.map_snd_zip (by rw [lanes_length, hzip])
    | true =>
      simp only [if_true]
      refine List.ext_getElem ?_ fun i h1 h2 => ?_
      · rw [List.length_map, List.length_map, List.length_zip, lanes_length, List.length_zipIdx, hzip, Nat.min_self]
      · have hi : i < 1024 := by rwa [List.length_map, List.length_zipIdx, hzip] at h2
        have hlane : lanes[i]'(by rw [lanes_length]; exact hi) = (i / 32, i % 32) := by
          have := lanes_get (i / 32) (i % 32) (by omega) (by omega)
          rw [Nat.div_add_mod] at this
          exact (List.getElem?_eq_some_iff.1 this).2
        simp only [List.getElem_map, List.getElem_zip, List.getElem_zipIdx, hlane, Nat.zero_add]
  unfold addSums
  dsimp only
  rw [hos, List.map_map, List.any_map]
  rfl

/-! ### The store of an add whose last lines have come -/

/-- A changed entry that is changed again. -/
theorem put_put {α : Type} (k : Nat) (v w : α) (t : Tbl α) : Tbl.put k w (Tbl.put k v t) = Tbl.put k w t := by
  induction t with
  | nil => simp [Tbl.put]
  | cons p t ih =>
    obtain ⟨i, u⟩ := p
    simp only [Tbl.put]
    split
    · simp [Tbl.put]
    · split
      · simp [Tbl.put]
      · rename_i h1 h2
        simp only [Tbl.put]
        rw [if_neg h1, if_neg h2, ih]

/-- The writes of the store of sums (R130). -/
def storeWrites (q : Cask) (z : CaskAdd) (e : Nat) (ts : List Tw) : List SpWrite :=
  (List.range 32).map fun j =>
    { line := q.half ((q.D + 1) % 2) + 4 * j
      outs := (List.range 4).map fun i => { data := tileLine ts (4 * j + i), be := BitVec.allOnes 64, poison := false }
      who := .add e, rank := 2, index := z.index, iter := z.iter }

/-- The cell of the add at the head of a cask once all the lines of its load are there. -/
def loadedCell (d : Cell) (e : Nat) (q : Cask) (z : CaskAdd) (zs : List CaskAdd) (full : List SpLine) : Cell :=
  d.setCask e { q with adds := { z with load := some full } :: zs }

/-- The cell whose store of the sums of the add at the head of a cask has begun. -/
def storedCell (d : Cell) (e : Nat) (q : Cask) (z : CaskAdd) (zs : List CaskAdd) (full : List SpLine) (src : List Tw) : Cell :=
  { d.setCask e { q with adds := { z with load := some full, storing := true } :: zs } with
    spWrites := d.spWrites ++ storeWrites q z e ((addTerms q z full src).map fun p => twAdd p.1 p.2) }

section
variable {d : Cell} {e : Nat} {q : Cask} {z : CaskAdd} {zs : List CaskAdd} {full : List SpLine} {src : List Tw}

theorem loaded_stores (hp : d.paused = false) (hlen : full.length = 128) (hst : z.storing = false) (hs : d.addSource z = some src)
    (h : src.length = 1024) : (loadedCell d e q z zs full).startStore e = storedCell d e q z zs full src := by
  have hr : (loadedCell d e q z zs full).addReady e
      = some ({ q with adds := { z with load := some full } :: zs }, { z with load := some full }, full, src) :=
    addReady_iff.2 ⟨caskAt_setCask .., rfl, rfl, hs, hlen⟩
  have hp' : (loadedCell d e q z zs full).paused = false := hp
  have hsums := addSums_eq (q := { q with adds := { z with load := some full } :: zs }) (z := { z with load := some full })
    (ls := full) h
  unfold Cell.startStore
  rw [hp', if_neg (by decide), hr]
  dsimp only
  rw [if_neg (by rw [hst]; decide), hsums]
  have hcasks : (loadedCell d e q z zs full).setCask e { q with adds := { z with load := some full, storing := true } :: zs }
      = d.setCask e { q with adds := { z with load := some full, storing := true } :: zs } := by
    simp only [loadedCell, Cell.setCask, put_put]
  let ws := d.spWrites ++ storeWrites q z e ((addTerms q z full src).map fun p => twAdd p.1 p.2)
  exact congrArg (fun c : Cell => { c with spWrites := ws }) hcasks

theorem loaded_noStore {f : Nat} (hf : f ≠ e) (h : NoStore d f) : NoStore (loadedCell d e q z zs full) f :=
  noStore_of h (caskAt_put_other rfl hf) fun _ _ hs => hs

theorem loaded_storing {f : Nat} (hf : f ≠ e) : (loadedCell d e q z zs full).storing f = d.storing f := by
  have hput : ∀ (t : Tbl Cask) (g : Nat × Cask → Bool) (r : Cask), (∀ p : Nat × Cask, p.1 ≠ f → g p = false) →
      (Tbl.put e r t).any g = t.any g := by
    intro t g r hg
    induction t with
    | nil => simp [Tbl.put, hg (e, r) hf.symm]
    | cons p t ih =>
      obtain ⟨i, w⟩ := p
      simp only [Tbl.put]
      split
      · simp [hg (e, r) hf.symm]
      · split
        · rename_i hi
          subst hi
          simp [hg (e, _) hf.symm]
        · simp [ih]
  exact hput _ _ _ fun p hp => by simp [hp]

theorem stored_storing : (storedCell d e q z zs full src).storing e = true := by
  have hmem : (e, { q with adds := { z with load := some full, storing := true } :: zs }) ∈ (storedCell d e q z zs full src).casks :=
    List.mem_of_find?_eq_some (find_of_caskAt (caskAt_setCask d e _))
  exact List.any_eq_true.2 ⟨_, hmem, by simp⟩

/-- The store begins in its turn, and not before it (R122, R129). -/
theorem loaded_startStores (hp : d.paused = false) (hlen : full.length = 128) (hst : z.storing = false)
    (hs : d.addSource z = some src) (h : src.length = 1024) (hq : ∀ p ∈ d.addQ.take 2, p.2 ≠ e → NoStore d p.2) :
    let turn := d.addQ.head?.map Prod.snd = some e ∨ ∃ p b rest, d.addQ = p :: b :: rest ∧ b.2 = e ∧ p.2 ≠ e ∧ d.storing p.2 = true
    (turn → (loadedCell d e q z zs full).startStores = storedCell d e q z zs full src)
    ∧ (¬turn → (loadedCell d e q z zs full).startStores = loadedCell d e q z zs full) := by
  intro turn
  have hmine : (loadedCell d e q z zs full).startStore e = storedCell d e q z zs full src := loaded_stores hp hlen hst hs h
  have hother : ∀ p ∈ d.addQ.take 2, p.2 ≠ e → (loadedCell d e q z zs full).startStore p.2 = loadedCell d e q z zs full :=
    fun p hp hne => startStore_waits (loaded_noStore hne (hq p hp hne))
  have hqueue : (loadedCell d e q z zs full).addQ = d.addQ := rfl
  unfold Cell.startStores
  rw [hqueue]
  cases haq : d.addQ with
  | nil =>
    refine ⟨?_, fun _ => rfl⟩
    rintro (h1 | ⟨p, b, rest, h1, -⟩) <;> rw [haq] at h1 <;> simp at h1
  | cons a rest =>
    have ha : a ∈ d.addQ.take 2 := by simp [haq]
    dsimp only
    by_cases hae : a.2 = e
    · have hturn : turn := .inl (by rw [haq, ← hae]; rfl)
      refine ⟨fun _ => ?_, fun hn => absurd hturn hn⟩
      rw [hae, hmine]
      cases rest with
      | nil => rfl
      | cons b rest =>
        dsimp only
        split
        · rename_i hb
          have hwait : NoStore (storedCell d e q z zs full src) b.2 :=
            noStore_of (hq b (by simp [haq]) hb.1) (caskAt_put_other rfl hb.1) fun _ _ hs => hs
          exact startStore_waits hwait
        · rfl
    · rw [hother a ha hae]
      cases rest with
      | nil =>
        refine ⟨?_, fun _ => rfl⟩
        rintro (h1 | ⟨p, b, rest, h1, -⟩) <;> rw [haq] at h1
        · exact absurd (Option.some.inj h1) hae
        · simp at h1
      | cons b rest =>
        dsimp only
        rw [loaded_storing hae]
        by_cases hbe : b.2 = e
        · have hturn : turn ↔ d.storing a.2 = true := by
            constructor
            · rintro (h1 | ⟨p, b', rest', h1, -, -, h4⟩) <;> rw [haq] at h1
              · exact absurd (Option.some.inj h1) hae
              · obtain ⟨rfl, -⟩ := List.cons.inj h1
                exact h4
            · exact fun h1 => .inr ⟨a, b, rest, haq, hbe, hae, h1⟩
          rw [hbe, hturn, hmine]
          exact ⟨fun h1 => if_pos ⟨Ne.symm hae, h1⟩, fun h1 => if_neg fun h2 => h1 h2.2⟩
        · have hturn : ¬turn := by
            rintro (h1 | ⟨p, b', rest', h1, h2, -⟩) <;> rw [haq] at h1
            · exact hae (Option.some.inj h1)
            · obtain ⟨-, h1⟩ := List.cons.inj h1
              obtain ⟨rfl, -⟩ := List.cons.inj h1
              exact hbe h2
          refine ⟨fun h1 => absurd h1 hturn, fun _ => ?_⟩
          rw [hother b (by simp [haq]) hbe, ite_self]

/-- The store of the second add may begin behind it (R122, R129). -/
theorem loaded_startStores_next {p b : Nat × Nat} {rest : List (Nat × Nat)} (hp : d.paused = false) (hlen : full.length = 128)
    (hst : z.storing = false) (hs : d.addSource z = some src) (h : src.length = 1024) (haq : d.addQ = p :: b :: rest)
    (hpe : p.2 = e) (hbe : b.2 ≠ e) :
    (loadedCell d e q z zs full).startStores = (storedCell d e q z zs full src).startStore b.2 := by
  have hqueue : (loadedCell d e q z zs full).addQ = p :: b :: rest := haq
  unfold Cell.startStores
  rw [hqueue]
  dsimp only
  rw [hpe, loaded_stores hp hlen hst hs h, if_pos ⟨hbe, stored_storing⟩]

end

end Sys2Proof


/-! SUPPORT. The commit of an add (R130, R189) and the end of its program, and the proof of the statement about both. -/

namespace Sys2Proof

open Sys2Proof.Machine

/-! ### The commit of an add -/

/-- The cell whose drained source is free. -/
def sourceFreed (d : Cell) (z : CaskAdd) : Cell := match z.src with
  | .tile id => d.freeTile id
  | .words _ => d

/-- The cask once the add at its head has committed (R130, R189). -/
def committedCask (q : Cask) (z : CaskAdd) : Cask :=
  { q with D := q.D + 1, adds := q.adds.drop 1, rows := q.rows.zipIdx.map (rowAfter z) }.reissue

/-- The cell of that cask: the sums are in its cask tile slot (R149). -/
def committedCell (d : Cell) (e : Nat) (q : Cask) (z : CaskAdd) (ts : List Tw) : Cell :=
  { (sourceFreed d z).setCask e (committedCask q z) with
    caskSlots := ((sourceFreed d z).caskSlots.filter fun s => s.at_ != z.tslot)
      ++ [({ at_ := z.tslot, entry := e, d := q.D + 1, sums := ts } : CaskSlot)]
    addQ := (sourceFreed d z).addQ.drop 1 }

/-- A program whose tile has nothing left behind stands at a settled place. -/
def settledCell (c : Cell) (k : Nat) : Cell :=
  if (c.pendingAdds k).isEmpty ∧ (c.slot k).idx = (c.slot k).tile.start then c.settled k else c

/-- What the ledger of the channel takes (R130, R137). -/
def addLed (q : Cask) (z : CaskAdd) (ls : List SpLine) (src : List Tw) : Led :=
  ((Led.nonfin ((addTerms q z ls src).any (fun p => twAddFlags p.1 p.2)
    || q.rows.zipIdx.any fun p => twAddFlags (rowTerms z p.2 p.1).1 (rowTerms z p.2 p.1).2)).add z.led).add { Led.zero with tiles := 1 }

theorem sourceFreed_frame (d : Cell) (z : CaskAdd) : sourceFreed d z = { d with drain := (sourceFreed d z).drain } := by
  unfold sourceFreed
  split <;> rfl

theorem committedCell_frame (d : Cell) (e : Nat) (q : Cask) (z : CaskAdd) (ts : List Tw) : committedCell d e q z ts = { d with
    casks := Tbl.put e (committedCask q z) d.casks, drain := (committedCell d e q z ts).drain
    caskSlots := (committedCell d e q z ts).caskSlots, addQ := d.addQ.drop 1 } := by
  unfold committedCell
  rw [sourceFreed_frame]
  rfl

theorem settledCell_frame (c : Cell) (k : Nat) : settledCell c k = { c with recov := (settledCell c k).recov } := by
  unfold settledCell
  split <;> rfl

/-- The cell after the commit, its other adds going on. -/
def addedCell (d : Cell) (e : Nat) (q : Cask) (z : CaskAdd) (ts : List Tw) : Cell :=
  (settledCell (committedCell d e q z ts) z.slot).runAdds

/-- The add at the head of a cask commits in its turn (R129, R130). -/
theorem Run.addCommit_eq {r : Run} {n e : Nat} {q : Cask} {z : CaskAdd} {ls : List SpLine} {src : List Tw}
    (hr : (r.cell n).addReady e = some (q, z, ls, src)) (hz : z.storing = true)
    (hw : (r.cell n).spWrites.all (fun w => decide (w.who ≠ .add e)) = true) (hq : (r.cell n).addQ.head? = some (z.slot, e))
    (hl : src.length = 1024) :
    r.addCommit n e = Run.endIfDone { r with
      x := (r.x.setCell n (addedCell (r.cell n) e q z ((addTerms q z ls src).map fun p => twAdd p.1 p.2))).book q.owner
        (addLed q z ls src) } n z.slot := by
  have hstored : (r.cell n).addStored e z = true := by rw [Cell.addStored, hz, hw]; rfl
  simp only [Run.addCommit, hr, hstored, hq, addSums_eq hl]
  rw [if_neg (by simp)]
  rfl

section
variable (d : Cell) (e : Nat) (q : Cask) (z : CaskAdd) (ts : List Tw)

theorem addedCell_frame : addedCell d e q z ts = { d with
    casks := (addedCell d e q z ts).casks, drain := (addedCell d e q z ts).drain, caskSlots := (addedCell d e q z ts).caskSlots
    addQ := d.addQ.drop 1, recov := (addedCell d e q z ts).recov, tileSlot := (addedCell d e q z ts).tileSlot
    spReads := (addedCell d e q z ts).spReads, spWrites := (addedCell d e q z ts).spWrites } := by
  unfold addedCell
  rw [Cell.runAdds_frame, settledCell_frame, committedCell_frame]

theorem settled_casks : (settledCell (committedCell d e q z ts) z.slot).casks = Tbl.put e (committedCask q z) d.casks := by
  rw [settledCell_frame, committedCell_frame]

theorem addedCell_stirred : Stirred (settledCell (committedCell d e q z ts) z.slot) (addedCell d e q z ts) := runAdds_stirred _

/-- The cask counts one more term (R130). -/
theorem addedCell_cask : ∃ r, Cell.caskAt (addedCell d e q z ts) e = some r ∧ CaskLike (committedCask q z) r :=
  (addedCell_stirred d e q z ts).1 e _ (caskAt_put_same (c := d) (settled_casks d e q z ts))

theorem committedCask_row {i : Nat} {w : RowState} (h : q.rows[i]? = some w) : ∃ w1, (committedCask q z).rows[i]? = some w1
    ∧ w1.l = twAdd (rowTerms z i w).1 (rowTerms z i w).2 ∧ w1.posC = w.posC + (z.stepAt i 4).toNat ∧ w1.mC = z.stepAt i 1 := by
  have hfold : ∀ (l : List CaskAdd) (j : Nat) (s : RowState),
      (l.foldl (fun s a => { s with mI := a.stepAt j 1, posI := s.posI + (a.stepAt j 4).toNat }) s).l = s.l
      ∧ (l.foldl (fun s a => { s with mI := a.stepAt j 1, posI := s.posI + (a.stepAt j 4).toNat }) s).posC = s.posC
      ∧ (l.foldl (fun s a => { s with mI := a.stepAt j 1, posI := s.posI + (a.stepAt j 4).toNat }) s).mC = s.mC := by
    intro l j
    induction l with
    | nil => exact fun s => ⟨rfl, rfl, rfl⟩
    | cons a l ih => exact fun s => ih _
  have hrow : (q.rows.zipIdx.map (rowAfter z))[i]? = some (rowAfter z (w, i)) := by
    simp [List.getElem?_map, List.getElem?_zipIdx, h]
  obtain ⟨h1, h2, h3⟩ := hfold (q.adds.drop 1) i { rowAfter z (w, i) with mI := (rowAfter z (w, i)).mC, posI := (rowAfter z (w, i)).posC }
  refine ⟨_, ?_, h1, h2, h3⟩
  simp only [committedCask, Cask.reissue, List.getElem?_map, List.getElem?_zipIdx, hrow, Option.map_some, Nat.zero_add]

end

section
variable {d : Cell} {e : Nat} {q : Cask} {z : CaskAdd} {ts : List Tw}

/-- Without other adds its sums stay in the cask tile slot (R149). -/
theorem addedCell_slot (h : d.addQ.length = 1) :
    ({ at_ := z.tslot, entry := e, d := q.D + 1, sums := ts } : CaskSlot) ∈ (addedCell d e q z ts).caskSlots := by
  have hq : (settledCell (committedCell d e q z ts) z.slot).addQ = [] := by
    rw [settledCell_frame, committedCell_frame]
    exact List.drop_eq_nil_of_le (le_of_eq h)
  have hidle : addedCell d e q z ts = settledCell (committedCell d e q z ts) z.slot := by
    have hload : (settledCell (committedCell d e q z ts) z.slot).startLoads = settledCell (committedCell d e q z ts) z.slot := by
      unfold Cell.startLoads
      rw [hq]
      exact ite_self _
    rw [addedCell, Cell.runAdds, hload]
    exact startStores_waits (by rw [hq]; simp)
  rw [hidle, settledCell_frame]
  exact List.mem_append_right _ List.mem_cons_self

theorem addedCell_writes (h : ∀ p ∈ d.addQ.drop 1, p.2 ≠ e ∧ NoStore d p.2) : (addedCell d e q z ts).spWrites = d.spWrites := by
  have hsource : ∀ a src, (settledCell (committedCell d e q z ts) z.slot).addSource a = some src → d.addSource a = some src := by
    intro a src hs
    have hdrain : (settledCell (committedCell d e q z ts) z.slot).drain = (sourceFreed d z).drain := by
      rw [settledCell_frame]; rfl
    rw [addSource_congr hdrain] at hs
    unfold sourceFreed at hs
    split at hs
    · exact addSource_freeTile hs
    · exact hs
  have hq : (settledCell (committedCell d e q z ts) z.slot).addQ = d.addQ.drop 1 := by
    rw [settledCell_frame, committedCell_frame]
  rw [addedCell, runAdds_noStore fun p hp => noStore_of (h p (hq ▸ hp)).2
    (caskAt_put_other (settled_casks d e q z ts) (h p (hq ▸ hp)).1) hsource]
  rw [Cell.startLoads_frame, settledCell_frame, committedCell_frame]

/-- The range of an entry stays, and its counts stay in order. -/
def RangeLike (p r : Nat × Cask) : Prop := r.1 = p.1 ∧ r.2.base = p.2.base
  ∧ (p.2.I = p.2.D + p.2.adds.length ∧ p.2.I ≤ p.2.A → r.2.I = r.2.D + r.2.adds.length ∧ r.2.I ≤ r.2.A)

theorem casksOk_of_entries {c c' : Cell} (h : List.Forall₂ RangeLike c.casks c'.casks) (hc : CasksOk c) : CasksOk c' := by
  obtain ⟨hkeys, hall, hapart⟩ := hc
  have hmaps : ∀ {l m : List (Nat × Cask)}, List.Forall₂ RangeLike l m → m.map Prod.fst = l.map Prod.fst
      ∧ m.map (fun p => p.2.base) = l.map (fun p => p.2.base) := by
    intro l m hlm
    induction hlm with
    | nil => exact ⟨rfl, rfl⟩
    | cons hp _ ih => exact ⟨by simp [ih.1, hp.1], by simp [ih.2, hp.2.1]⟩
  obtain ⟨hfst, hbase⟩ := hmaps h
  refine ⟨by rw [hfst]; exact hkeys, fun r hr => ?_, ?_⟩
  · obtain ⟨i, hi, rfl⟩ := List.getElem_of_mem hr
    have hlen := h.length_eq
    obtain ⟨-, hb, hI⟩ := (List.forall₂_iff_get.1 h).2 i (by omega) hi
    obtain ⟨h1, h2, h3⟩ := hall _ (List.getElem_mem (by omega : i < c.casks.length))
    exact ⟨le_of_eq_of_le (congrArg (· + 0x4000) hb) h1, hI ⟨h2, h3⟩⟩
  · have hpair : ∀ l : List (Nat × Cask), l.Pairwise Apart
        ↔ (l.map fun p => p.2.base).Pairwise fun a b => a + 0x4000 ≤ b ∨ b + 0x4000 ≤ a :=
      fun l => by rw [List.pairwise_map]; exact Iff.rfl
    exact (hpair _).2 (hbase ▸ (hpair _).1 hapart)

theorem addedCell_casksOk (hq : Cell.caskAt d e = some q) (hz : q.adds = z :: q.adds.drop 1) (h : CasksOk d) :
    CasksOk (addedCell d e q z ts) := by
  have hcommit : CasksOk (settledCell (committedCell d e q z ts) z.slot) := by
    refine casksOk_of_entries ?_ h
    rw [settled_casks]
    refine forall₂_put (fun p => ⟨rfl, rfl, id⟩) h.1 (find_of_caskAt hq) ⟨rfl, rfl, fun hI => ?_⟩
    have hlen : q.adds.length = (q.adds.drop 1).length + 1 := by rw [hz]; simp
    have hI1 : (committedCask q z).I = q.D + 1 + (q.adds.drop 1).length := rfl
    dsimp only at hI
    exact ⟨rfl, by rw [hI1]; show _ ≤ q.A; omega⟩
  refine casksOk_of_entries (((addedCell_stirred d e q z ts).2 hcommit.1).imp fun p r hr => ?_) hcommit
  obtain ⟨hk, hl, hs⟩ := hr
  have hlen : r.2.adds.length = p.2.adds.length := by simpa using congrArg List.length hs
  refine ⟨hk, by rw [hl], fun hI => ?_⟩
  rw [hl]
  dsimp only
  rw [hlen]
  exact hI

/-- How many adds of a slot wait in a table. -/
def pendCount (k : Nat) (t : List (Nat × Cask)) : Nat := (t.map fun p => (p.2.adds.map CaskAdd.slot).count k).sum

theorem pendingAdds_length (c : Cell) (k : Nat) : (c.pendingAdds k).length = pendCount k c.casks := by
  have hcount : ∀ l : List CaskAdd, (l.filter fun a => a.slot == k).length = (l.map CaskAdd.slot).count k := fun l => by
    rw [List.count, List.countP_map, List.countP_eq_length_filter]; rfl
  rw [Cell.pendingAdds, List.length_flatMap, pendCount]
  exact congrArg List.sum (List.map_congr_left fun p _ => hcount _)

theorem pendCount_like {k : Nat} {l m : List (Nat × Cask)} (h : List.Forall₂ EntryLike l m) : pendCount k m = pendCount k l := by
  have hmap : (m.map fun p => (p.2.adds.map CaskAdd.slot).count k) = l.map fun p => (p.2.adds.map CaskAdd.slot).count k := by
    induction h with
    | nil => rfl
    | cons hp _ ih => simp only [List.map_cons, ih, hp.2.2]
  rw [pendCount, hmap, pendCount]

/-- One add less at the head of an entry is one less in the table. -/
theorem pendCount_put {t : Tbl Cask} {e : Nat} {q r : Cask} {z : CaskAdd} (hs : (t.map Prod.fst).Pairwise (· < ·))
    (hq : t.find? (fun p => p.1 == e) = some (e, q)) (h : q.adds = z :: r.adds) :
    pendCount z.slot t = pendCount z.slot (Tbl.put e r t) + 1 := by
  induction t with
  | nil => simp at hq
  | cons p t ih =>
    obtain ⟨i, w⟩ := p
    obtain ⟨hlt, hs⟩ := List.pairwise_cons.1 hs
    simp only [Tbl.put]
    by_cases hi : e = i
    · subst hi
      obtain rfl : w = q := by simpa using hq
      rw [if_neg (lt_irrefl e), if_pos rfl]
      simp only [pendCount, List.map_cons, List.sum_cons, h, List.count_cons_self]
      omega
    · rw [List.find?_cons_of_neg (by simpa using Ne.symm hi)] at hq
      have hie : i < e := hlt e (List.mem_map.2 ⟨_, List.mem_of_find?_eq_some hq, rfl⟩)
      rw [if_neg (not_lt_of_gt hie), if_neg hi]
      have := ih hs hq
      simp only [pendCount, List.map_cons, List.sum_cons] at this ⊢
      omega

/-- The last add of a slot leaves none behind. -/
theorem addedCell_none (hs : KeysRise d) (hq : Cell.caskAt d e = some q) (hz : q.adds = z :: q.adds.drop 1)
    (hone : d.pendingAdds z.slot = [z]) : (addedCell d e q z ts).addsOpen z.slot = false := by
  have hcasks := settled_casks d e q z ts
  have hrise : KeysRise (settledCell (committedCell d e q z ts) z.slot) := by
    rw [KeysRise, hcasks]
    exact put_keys hs
  have h1 : pendCount z.slot d.casks = 1 := by rw [← pendingAdds_length, hone]; rfl
  have h2 := pendCount_put (r := committedCask q z) hs (find_of_caskAt hq) hz
  have h3 := pendCount_like (k := z.slot) ((addedCell_stirred d e q z ts).2 hrise)
  rw [hcasks] at h3
  have hzero : ((addedCell d e q z ts).pendingAdds z.slot).length = 0 := by rw [pendingAdds_length]; omega
  rw [Cell.addsOpen, List.length_eq_zero_iff.1 hzero]
  rfl

end

/-- No slot waits for adds: nobody goes on when one commits. -/
theorem Run.readersGoOn_none {e : Env} {r : Run} {n : Nat} (h : ∀ j, (r.slot n j).wait ≠ .adds) : r.readersGoOn e n = r := by
  refine foldl_keeps (P := fun q => q = r) (fun q k hq => ?_) _ rfl
  subst hq
  exact if_neg fun hn => h k hn.2

theorem setCell_book (x : Inst) (n v : Nat) (c : Cell) (l : Led) : (x.setCell n c).book v l = (x.book v l).setCell n c := rfl

theorem led_book (x : Inst) (v : Nat) (l : Led) : ((x.book v l).vc v).led = (x.vc v).led.add l := by
  have : ((x.book v l).vc v) = { x.vc v with led := (x.vc v).led.add l, slice := (x.vc v).slice + l.tiles } :=
    Tbl.get_set_same ..
  rw [this]

/-- A program that has not come to its end, and does not end with an error, goes on as before. -/
theorem Run.endIfDone_stays {r : Run} {n k : Nat} (hi : (r.slot n k).idx < (r.slot n k).prog.length)
    (hf : ∀ code index cs, (r.slot n k).wait ≠ .fail code index cs) : r.endIfDone n k = r := by
  have hslot : (r.cell n).slot k = r.slot n k := rfl
  simp only [Run.endIfDone, hslot]
  split
  · split
    · rename_i code index cs hw
      exact absurd hw (hf code index cs)
    · rw [if_neg fun h => by omega]
    · rfl
  · rfl

/-- The casks of a cell that a program has left keep all but the windows of its feed requests. -/
theorem leftCell_cask {c : Cell} {k e : Nat} {v : Word} {q : Cask} (hw : (c.slot k).wait = .ready) (hq : Cell.caskAt c e = some q) :
    Cell.caskAt (leftCell c false k v) e = some { q with wins := q.wins.filter (· != k) } := by
  obtain ⟨d, hd, hframe⟩ := dropTile_kept hw
  have hcasks : (leftCell c false k v).casks = c.casks.map fun p => (p.1, { p.2 with wins := p.2.wins.filter (· != k) }) := by
    have : (leftCell c false k v).casks = (c.dropTile false k).casks := rfl
    rw [this, hd, hframe]
  rw [Cell.caskAt, hcasks, List.find?_map]
  have hfind := find_of_caskAt hq
  have hpred : ((fun p : Nat × Cask => p.1 == e) ∘ fun p : Nat × Cask => (p.1, { p.2 with wins := p.2.wins.filter (· != k) }))
      = fun p => p.1 == e := rfl
  rw [hpred, hfind]
  rfl

theorem leftCell_slots {c : Cell} {k : Nat} {v : Word} (hw : (c.slot k).wait = .ready) :
    (leftCell c false k v).slots = (c.setSlot k Slot.idle).slots := by
  obtain ⟨d, hd, hframe⟩ := dropTile_kept hw
  have : (leftCell c false k v).slots = ((c.dropTile false k).setSlot k Slot.idle).slots := rfl
  rw [this, hd, hframe]
  rfl

/-- Settles O24: the store begins in its turn; then the commit, and the end of its program. -/
theorem caskAddCommits : Obligations.CaskAddCommits := by
  unfold Obligations.CaskAddCommits
  intro s c x e q z ls src d k terms sums rowT stores hw hb hu hlen
  have hp : d.paused = false := hu.1
  refine ⟨fun w resp data zs => ?_, fun hr hz hwr hq hinj hwait => ?_⟩
  · intro full hn hwho hcask hadds hload hcount hfull hresp hst hsrc stored loaded turn
    let d0 : Cell := { d with spReads := d.spReads.erase w }
    have hex : exec (.spReadData c resp data) s = onCell s c (spRead c.cell (resp.zip data)) := rfl
    have hrun : ∀ f : Cell, (loadedCell d0 e q z zs full).startStores = f → CellRun (.spReadData c resp data) s c x f := by
      rintro f rfl
      refine CellRun.of_cell hex hw.1 hb (((spRead_some hn hcount).2.1 e hwho).trans ?_)
      refine (Run.addLines_keeps (r := pureRun x) (n := c.cell) (e := e) (d := d0) hcask hadds (.inl hresp)).trans ?_
      rw [hload]
      rfl
    refine ⟨fun hother => ?_, fun p b rest haq hpe hbe => ?_⟩
    · obtain ⟨h1, h2⟩ := loaded_startStores (d := d0) (zs := zs) (q := q) (e := e) hp hfull hst hsrc hlen hother
      exact ⟨fun ht => hrun _ (h1 ht), fun ht => hrun _ (h2 ht)⟩
    · exact hrun _ (loaded_startStores_next (d := d0) (zs := zs) (q := q) (e := e) hp hfull hst hsrc hlen haq hpe hbe)
  · obtain ⟨hcask, hadds, -⟩ := addReady_iff.1 hr
    let y0 : Inst := (x.setCell c.cell (addedCell d e q z (sums ls))).book q.owner (addLed q z ls src)
    let r0 : Run := pureRun y0
    have hcell : r0.cell c.cell = addedCell d e q z (sums ls) := Inst.cell_setCell ..
    have hslots : ∀ j, r0.slot c.cell j = d.slot j := fun j => by
      have : (r0.cell c.cell).slot j = d.slot j := by rw [hcell, addedCell_frame]; rfl
      exact this
    have hexec : ∀ r : Run, r0.endIfDone c.cell z.slot = r → (∀ j, (r.slot c.cell j).wait ≠ .adds) →
        exec (.caskAddCommit c e) s = .next ((s.setInst c.inst r.x).effs c.inst r.effs) := by
      rintro r hend hnone
      have hstep : (pureRun x).addCommit c.cell e = r := (Run.addCommit_eq (r := pureRun x) hr hz hwr hq hlen).trans hend
      refine (onCell_some (a := c) _ hw.1 hb).trans (congrArg _ (State.runAt_eq ?_))
      rw [withInjection_none hinj, if_pos (CellUp.cellRuns hw.2 hu), hstep, Run.readersGoOn_none hnone]
    obtain ⟨q1, hq1, hlike⟩ := addedCell_cask d e q z (sums ls)
    have hD : q1.D = q.D + 1 := by rw [hlike.1]; rfl
    refine ⟨fun hi hf => ?_, fun hph hwt hi hstart hone hroom hrise => ?_⟩
    · have hstay : r0.endIfDone c.cell z.slot = r0 :=
        Run.endIfDone_stays (by rw [hslots]; exact hi) (by rw [hslots]; exact hf)
      have hyc : y0.cell c.cell = addedCell d e q z (sums ls) := hcell
      refine ⟨_, y0, q1, hexec r0 hstay (fun j => by rw [hslots]; exact hwait j), rfl, by rw [hyc]; exact hq1, hD, ?_⟩
      rw [hyc]
      refine ⟨fun h1 => addedCell_slot h1, fun i w hrow => ?_, fun h1 => addedCell_writes h1, ?_, ?_,
        fun hok => addedCell_casksOk hcask hadds hok, ?_, ?_, led_book _ _ _⟩
      · rw [hlike.1]
        exact committedCask_row q z hrow
      all_goals rw [addedCell_frame]
      rfl
    · have hk : z.slot < d.slots.length := Cell.slot_lt _ _ fun he => by
        rw [show k = Slot.idle from he] at hph
        simp [Slot.idle] at hph
      have hslotk : r0.slot c.cell z.slot = k := hslots _
      have hwait0 : ((addedCell d e q z (sums ls)).slot z.slot).wait = .ready := by
        rw [← hcell]
        exact (congrArg Slot.wait hslotk).trans hwt
      have hlen0 : z.slot < (r0.cell c.cell).slots.length := by rw [hcell, addedCell_frame]; exact hk
      have hends : r0.endIfDone c.cell z.slot = r0.endProgram c.cell z.slot 0 false 0 [] :=
        Run.endIfDone_ends (by rw [hslotk]; exact hph) (by rw [hcell]; exact addedCell_none hrise hcask hadds hone)
          (by rw [hslotk]; exact hwt) (by rw [hslotk]; exact hi) (by rw [hslotk]; exact hstart) (Inst.awake_parts hw.2).2.1
      have hok := Run.endProgram_ok (r := r0) hlen0 (by rw [hslotk]; exact hwt) (by rw [hcell, addedCell_frame]; exact hroom)
      rw [hslotk, hcell] at hok
      let left : Cell := leftCell (addedCell d e q z (sums ls)) false z.slot (BitVec.ofNat 32 (flagAt k.empty 16))
      let y : Inst := (y0.orphanXlate c.cell z.slot).setCell c.cell left
      have hleft : y.cell c.cell = left := Inst.cell_setCell ..
      have hslot : ∀ j, left.slot j = if j = z.slot then Slot.idle else d.slot j := by
        intro j
        have hset : left.slot j = ((addedCell d e q z (sums ls)).setSlot z.slot Slot.idle).slot j := by
          rw [Cell.slot, leftCell_slots hwait0]; rfl
        rw [hset]
        split
        · rename_i hj
          subst hj
          exact Cell.slot_setSlot _ _ _ (by rw [← hcell]; exact hlen0)
        · rename_i hj
          rw [Cell.slot_setSlot_other _ _ _ _ hj, ← hcell]
          exact hslots j
      refine ⟨y, { q1 with wins := q1.wins.filter (· != z.slot) }, ?_, ?_, hD, ?_⟩
      · refine hexec _ (hends.trans hok) fun j => ?_
        have : (y.cell c.cell).slot j = if j = z.slot then Slot.idle else d.slot j := by rw [hleft, hslot]
        refine fun hn => ?_
        have hn' : ((y.cell c.cell).slot j).wait = .adds := hn
        rw [this] at hn'
        split at hn'
        · simp [Slot.idle] at hn'
        · exact hwait j hn'
      · rw [hleft]
        exact leftCell_cask hwait0 hq1
      · rw [hleft, hslot, if_pos rfl]

end Sys2Proof


/-! SUPPORT. The statement about drains fails on a cell with two casks at one entry and two drained tiles of one number: the release
of the entry unbinds the tile of the other cask's add, whose dropped first entry was all that kept a third cask's add waiting. -/

namespace Sys2Proof

open Sys2Proof.Machine

/-- An add from drained tile 5, whose committed half is loaded. -/
def tileAdd : CaskAdd := { loadedAdd with src := .tile 5 }

/-- Entry 0 twice, with that add and, in group 7, without terms; the same add at the head of entry 1; tile 5 twice, without its
beats and with them; and a slot whose drain of group 7 waits. -/
def doubledTiles : Cell :=
  let q : Cask := { no := 0, owner := 0, group := 7, base := 0, A := 0, I := 0, D := 0, init := false, bound := true, chain := false
                    rows := [], adds := [], wins := [], closing := false }
  let t : DrainTile := { id := 5, tag := 0, beats := [], bound := some (.add 0) }
  { Cell.reset with
    slots := [{ wordSlot 0x4200000078400000#64 with wait := .drain }, Slot.idle, Slot.idle, Slot.idle]
    casks := [(0, { q with group := 8, adds := [tileAdd] }), (0, q), (1, { q with group := 9, adds := [tileAdd] })]
    drain := [t, { t with beats := [[], [], [], []] }]
    addQ := [(1, 1)] }

/-- The writes of cell 0 of die 0 after a command. -/
def writesAfter : Host.Outcome State Fault Refusal → Option Nat
  | .next t => t.insts[0]?.map fun x => (x.cell 0).spWrites.length
  | _ => none

/-- The store of the add at entry 1 has begun. -/
theorem doubledTiles_stores : writesAfter (exec (.caskDrainComplete site0) (soleDie (runningDie doubledTiles))) = some 32 := by
  decide +kernel

/-- The sums of no add can be formed before the drain: of tile 5 the unit finds the entry without beats. -/
theorem doubledTiles_noStore : NoStore doubledTiles 1 := by
  have hnone : doubledTiles.addReady 1 = none := by decide +kernel
  intro q a ls src hr
  exact absurd (hnone.symm.trans hr) (by simp)

/-- Refutes O25: the release of entry 0 by a drain of its second cask, which has no adds, begins a store. -/
theorem not_caskDrains : ¬ Obligations.CaskDrains := by
  unfold Obligations.CaskDrains
  intro h
  obtain ⟨-, -, hdone⟩ := h (soleDie (runningDie doubledTiles)) site0 (runningDie doubledTiles) 0 0 0 7 2 0 true false 0 false
  obtain ⟨hvit, -⟩ := hdone 0 _ rfl (by decide) (.inr (.inr rfl)) rfl rfl rfl ⟨rfl, by decide +kernel⟩ (by decide)
    ⟨rfl, by decide, by decide⟩ rfl rfl rfl (by decide +kernel) (by decide +kernel) rfl (by decide +kernel) (by decide +kernel)
  obtain ⟨y, hrun, -, -, -, hwrites, -⟩ := hvit (by decide) rfl (by unfold GoesOn; decide +kernel)
  have hspw : (y.cell 0).spWrites = [] := hwrites rfl fun p hp => by
    obtain rfl : p = (1, 1) := List.mem_singleton.1 hp
    exact doubledTiles_noStore
  have hafter : writesAfter (exec (.caskDrainComplete site0) (soleDie (runningDie doubledTiles))) = some (y.cell 0).spWrites.length := by
    rw [hrun]
    rfl
  rw [doubledTiles_stores, hspw] at hafter
  exact absurd hafter (by decide)

end Sys2Proof


/-! SUPPORT. How an instruction on memory that is not a feed request runs from its plan (R225, R295 to R301). -/

namespace Sys2Proof

open Sys2Proof.Machine

/-! ### A zero extent (R225) -/

/-- With an extent of 0 an instruction has no other effect than EMPTY. -/
theorem Ready.ends_empty {s : State} {a : Site} {x : Inst} {o : TileOp} (h : Ready s a x o)
    (hm : memAsk ((pureRun x).memEnv a.cell a.slot) o = some (.error .empty)) :
    SlotRun (cmdOf o a (x.slot a.cell a.slot).prologue) s a x { (x.slot a.cell a.slot).next with empty := true } := by
  have hissue (z : Inst) (hz : (pureRun z).memEnv a.cell a.slot = (pureRun x).memEnv a.cell a.slot) :
      (pureRun z).issue (s.env a.inst) a.cell a.slot o
        = (pureRun z).modSlot a.cell a.slot fun k => { k.next with empty := true } := by
    simp only [Run.issue, hz, hm]
    rfl
  by_cases ho : o.isFeed = true
  · have hc : (x.cell a.cell).setSlot a.slot (x.slot a.cell a.slot) = x.cell a.cell := Cell.setSlot_slot ..
    let z : Inst := x.setSlot a.cell a.slot (x.slot a.cell a.slot)
    have hz : z = x.setCell a.cell (x.cell a.cell) := congrArg (x.setCell a.cell) hc
    have hcell : z.cell a.cell = x.cell a.cell := by rw [hz, Inst.cell_setCell]
    have henv : (pureRun z).memEnv a.cell a.slot = (pureRun x).memEnv a.cell a.slot := by
      simp only [Run.memEnv, Run.cell, pureRun, hcell]
      rfl
    refine (h.exec_feed ho).trans (congrArg Host.Outcome.next (State.runAt_pure ((hissue z henv).trans ?_)))
    have hslot : (pureRun z).slot a.cell a.slot = x.slot a.cell a.slot := congrArg (fun c : Cell => c.slot a.slot) hcell
    rw [Run.modSlot, hslot, Run.setSlot_eq, show (pureRun z).cell a.cell = x.cell a.cell from hcell, hz]
    exact congrArg pureRun (Inst.setCell_setCell ..)
  · exact h.slot_run (eq_false_of_ne_true ho) (hissue x rfl)

theorem withDesc_empty {d : Desc} {w aux : Bool} {k : Fmt → Except MemStop MemAsk} (hf : d.nw.fmt ≠ none) (he : d.isEmpty = true) :
    Machine.withDesc d w aux k = .error .empty := by
  unfold Machine.withDesc
  split
  · exact absurd ‹_› hf
  · rw [if_pos he]

theorem withDesc_legal {d : Desc} {w aux : Bool} {k : Fmt → Except MemStop MemAsk} {f : Fmt} (hf : d.nw.fmt = some f)
    (he : d.isEmpty = false) (hi : d.illegal w aux = false) : Machine.withDesc d w aux k = k f := by
  unfold Machine.withDesc
  rw [hf]
  dsimp only
  rw [if_neg (by rw [he]; nofun), if_neg (by rw [hi]; nofun)]

/-! ### Bytes that are there -/

/-- The bytes that a plan reads are held, or there are none, and none of its streams fails. -/
def ReadsHeld (o : TileOp) (a : Site) (x : Inst) (reads : List Adr) (checks : List Check) (rps : List (Nat × Nat)) : Prop :=
  (reads = [] ∧ rps = [] ∨ ∃ rus, Held o a x reads rps rus)
    ∧ firstFail checks (fun b => bufByte (x.slot a.cell a.slot).readBuf (offOf rps b)) = none

section
variable {s : State} {a : Site} {x : Inst} {o : TileOp} {q : MemPlan} {rps : List (Nat × Nat)}

theorem fetch_held (h : Ready s a x o) (hh : ReadsHeld o a x q.reads q.checks rps) {u : List (Nat × Nat)} :
    ∃ v, (pureRun (x.usedAt a.cell a.slot u)).fetch (s.env a.inst) a.cell a.slot q.reads
      = .ok (pureRun (x.usedAt a.cell a.slot v), fun b => bufByte (x.slot a.cell a.slot).readBuf (offOf rps b)) := by
  obtain ⟨⟨hr, rfl⟩ | ⟨rus, ht, hc, ha, hl, hresp⟩, -⟩ := hh
  · rw [hr]
    exact ⟨_, Run.fetch_nil (UsedLike.usedAt ..) h.slot_lt⟩
  · have hop : (x.slot a.cell a.slot).nextOp = some o := h.2.2.2.2.2.1
    refine ⟨_, Run.fetch_ok (UsedLike.usedAt ..) h.slot_lt ht ?_ ha hl (.inr hresp)⟩
    have hreader : ((x.cell a.cell).slot a.slot).reader = readerOf o (x.slot a.cell a.slot) := Slot.reader_eq hop
    rw [hreader]
    exact hc

/-- The step of an instruction whose bytes are there: an error, or its output. -/
theorem issue_held (h : Ready s a x o) (ho : o.isFeed = false)
    (hm : memAsk ((pureRun x).memEnv a.cell a.slot) o = some (.ok (MemAsk.now q))) (hh : ReadsHeld o a x q.reads q.checks rps) :
    ∃ u, (∀ code, q.fin (fun b => bufByte (x.slot a.cell a.slot).readBuf (offOf rps b)) = .error code →
        (pureRun x).issue (s.env a.inst) a.cell a.slot o = (pureRun (x.usedAt a.cell a.slot u)).failHere a.cell a.slot code)
      ∧ ∀ m wps wus, q.fin (fun b => bufByte (x.slot a.cell a.slot).readBuf (offOf rps b)) = .ok m →
        Placed a x (m.writes.map Prod.fst) wps wus → ∃ v,
        (pureRun x).issue (s.env a.inst) a.cell a.slot o = match (generalizing := false) m.gather with
          | some g => (pureRun (x.usedAt a.cell a.slot v)).applyGather a.cell a.slot g
          | none => (pureRun (x.usedAt a.cell a.slot v)).applyOut a.cell a.slot m
            (m.writes.map fun w => { addr := offOf wps w.1, byte := w.2, index := (x.slot a.cell a.slot).idx }) := by
  have hpre := Run.fetch_nil (e := s.env a.inst) (UsedLike.self x a.cell a.slot) h.slot_lt
  obtain ⟨v, hread⟩ := fetch_held h hh (u := ((x.cell a.cell).slot a.slot).tile.used.eraseDups)
  refine ⟨v, fun code hfin => ?_, fun m wps wus hfin hp => ?_⟩
  · simp only [Run.issue, hm, Run.memIssue, ho, MemAsk.now, Bool.false_eq_true, if_false, hpre, hread, hh.2, hfin]
  · obtain ⟨ht, hc⟩ := hp
    refine ⟨(v ++ wus).eraseDups, ?_⟩
    simp only [Run.issue, hm, Run.memIssue, ho, MemAsk.now, Bool.false_eq_true, if_false, hpre, hread, hh.2, hfin,
      Run.place_ok (UsedLike.usedAt ..) h.slot_lt ht hc]
    cases m.gather <;> rfl

/-- It runs to its end with its output. -/
theorem MemRun.of_held {m : MemOut} {wps wus : List (Nat × Nat)} (h : Ready s a x o) (ho : o.isFeed = false)
    (hm : memAsk ((pureRun x).memEnv a.cell a.slot) o = some (.ok (MemAsk.now q))) (hh : ReadsHeld o a x q.reads q.checks rps)
    (hfin : q.fin (fun b => bufByte (x.slot a.cell a.slot).readBuf (offOf rps b)) = .ok m) (hg : m.gather = none)
    (hp : Placed a x (m.writes.map Prod.fst) wps wus) : MemRun o s a x m wps := by
  obtain ⟨u, -, hout⟩ := issue_held h ho hm hh
  obtain ⟨v, hi⟩ := hout m wps wus hfin hp
  rw [hg] at hi
  exact MemEnds.of_issue v h ho (hi.trans (Run.applyOut_used h.slot_lt m _))

/-- A gather is held in its tile. -/
theorem GatherRun.of_held {m : MemOut} {g : Gather} {wps wus : List (Nat × Nat)} (h : Ready s a x o) (ho : o.isFeed = false)
    (hm : memAsk ((pureRun x).memEnv a.cell a.slot) o = some (.ok (MemAsk.now q))) (hh : ReadsHeld o a x q.reads q.checks rps)
    (hfin : q.fin (fun b => bufByte (x.slot a.cell a.slot).readBuf (offOf rps b)) = .ok m) (hg : m.gather = some g)
    (hp : Placed a x (m.writes.map Prod.fst) wps wus) : GatherRun o s a x g := by
  obtain ⟨u, -, hout⟩ := issue_held h ho hm hh
  obtain ⟨v, hi⟩ := hout m wps wus hfin hp
  rw [hg] at hi
  exact MemEnds.of_issue v h ho (hi.trans (Run.applyGather_used h.slot_lt g))

/-- An error that its bytes show ends the program. -/
theorem Ready.fails_held {code : Nat} {pro : Prologue} (h : Ready s a x o) (ho : o.isFeed = false)
    (hm : memAsk ((pureRun x).memEnv a.cell a.slot) o = some (.ok (MemAsk.now q))) (hh : ReadsHeld o a x q.reads q.checks rps)
    (hfin : q.fin (fun b => bufByte (x.slot a.cell a.slot).readBuf (offOf rps b)) = .error code) :
    ∃ used, Machine.exec (cmdOf o a pro) s = .next (s.runAt a.inst x fun _ y =>
      (pureRun (y.setSlot a.cell a.slot { x.slot a.cell a.slot with tile := { (x.slot a.cell a.slot).tile with used := used } })).fail
        a.cell a.slot code (x.slot a.cell a.slot).idx (x.slot a.cell a.slot).counters4) := by
  obtain ⟨u, hfail, -⟩ := issue_held h ho hm hh
  refine ⟨u, (h.exec ho).trans (congrArg Host.Outcome.next ?_)⟩
  have hslot : ((pureRun (x.usedAt a.cell a.slot u)).cell a.cell).slot a.slot = x.usedSlot a.cell a.slot u :=
    (UsedLike.usedAt ..).slot h.slot_lt
  have hn : (x.usedSlot a.cell a.slot u).nextOp = some o := h.2.2.2.2.2.1
  have hhere : (pureRun (x.usedAt a.cell a.slot u)).failHere a.cell a.slot code = (pureRun (x.usedAt a.cell a.slot u)).fail a.cell
      a.slot code (x.slot a.cell a.slot).idx (x.slot a.cell a.slot).counters4 := by
    simp only [Run.failHere, hslot, hn, ho]
    exact Run.fail_setCell ..
  simp only [State.runAt, hfail code hfin, hhere]
  rfl

/-- An instruction whose output goes to one descriptor runs to its end. -/
theorem commit_runs {d : Desc} {i : Nat} {es ss au bs : List (Nat × Byte)} {led : Led} {wps wus : List (Nat × Nat)} (h : Ready s a x o)
    (ho : o.isFeed = false) (hm : memAsk ((pureRun x).memEnv a.cell a.slot) o = some (.ok (MemAsk.now q)))
    (hh : ReadsHeld o a x q.reads q.checks rps)
    (hfin : q.fin (fun b => bufByte (x.slot a.cell a.slot).readBuf (offOf rps b)) = .ok (d.commit i es ss au led))
    (hbs : es ++ ss ++ au = bs) (hp : Placed a x (bs.map fun q => d.adr q.1) wps wus) :
    ∃ m : MemOut, m.vits = [] ∧ m.masks = [] ∧ m.feed = [] ∧ m.gather = none ∧ m.writes = bs.map (fun q => (d.adr q.1, q.2))
      ∧ MemRun o s a x m wps := by
  subst hbs
  refine ⟨d.commit i es ss au led, rfl, rfl, rfl, rfl, rfl, MemRun.of_held (wus := wus) h ho hm hh hfin rfl ?_⟩
  have hfst : (d.commit i es ss au led).writes.map Prod.fst = (es ++ ss ++ au).map fun q => d.adr q.1 := List.map_map ..
  rw [hfst]
  exact hp

end

end Sys2Proof


/-! SUPPORT. The plans of the instructions that write tensors: what they are with a zero extent, and with legal descriptors. -/

namespace Sys2Proof

open Sys2Proof.Machine

section
variable {e : MemEnv} {dk : Nat}

/-! ### With a zero extent -/

theorem planSettle_empty {sa sb : Nat} (hf : (e.slot.desc dk).nw.fmt ≠ none) (he : (e.slot.desc dk).isEmpty = true)
    (hm : (e.slot.desc dk).nw.mode = 1 ∨ (e.slot.desc dk).nw.mode = 2 ∨ (e.slot.desc dk).nw.mode = 5) :
    planSettle e dk sa sb = .error .empty := by
  obtain ⟨f, hf⟩ := Option.ne_none_iff_exists'.1 hf
  unfold planSettle
  simp only [hf]
  rw [if_neg (not_not.2 hm), if_pos he]

/-- The drop-out factor of KILN is positive (R323). -/
def PositiveAt (e : MemEnv) (q : Nat) : Prop :=
  (f32 (scalarOf e.slot.launch q)).isFin = true ∧ (f32 (scalarOf e.slot.launch q)).isNeg = false
    ∧ (f32 (scalarOf e.slot.launch q)).isZero = false

theorem positive_check {q : Nat} {drop : Bool} (h : drop = true → PositiveAt e q) :
    ¬(drop && !((f32 (scalarOf e.slot.launch q)).isFin && !(f32 (scalarOf e.slot.launch q)).isNeg
      && !(f32 (scalarOf e.slot.launch q)).isZero)) = true := by
  cases drop with
  | false => exact nofun
  | true =>
    obtain ⟨h1, h2, h3⟩ := h rfl
    rw [h1, h2, h3]
    exact nofun

theorem planKiln_empty {mk map i step tag thr q : Nat} {pair drop ctr : Bool} (hf : (e.slot.desc dk).nw.fmt ≠ none)
    (he : (e.slot.desc dk).isEmpty = true) (hq : drop = true → PositiveAt e q) :
    planKiln e mk dk map i pair drop ctr step tag thr q = .error .empty := by
  obtain ⟨f, hf'⟩ := Option.ne_none_iff_exists'.1 hf
  unfold planKiln
  simp only [hf']
  rw [if_neg (positive_check hq)]
  exact withDesc_empty hf he

theorem planTail_empty {md : Nat} (hf : (e.slot.desc dk).nw.fmt ≠ none) (he : (e.slot.desc dk).isEmpty = true) :
    planTail e md dk = .error .empty := by
  obtain ⟨f, hf⟩ := Option.ne_none_iff_exists'.1 hf
  unfold planTail
  simp only [hf]
  rw [if_pos he]

theorem planFeed_empty {tail : Mask} {mk map i opfmt gk rep : Nat} {vit xpose gather side : Bool} {beta : Int} {pro : Prologue}
    (hf : (e.slot.desc dk).nw.fmt ≠ none) (he : (e.slot.desc dk).isEmpty = true) (ho : opFmt opfmt ≠ none)
    (hx : (xpose && decide (opfmt = 0x01 ∨ opfmt = 0x02)) = false) (hg : (vit && gather) = false)
    (hp : proClaimed e.slot.launch pro = true) (hv : vit = true → pro ≠ .none)
    (hz : vit = false → (e.slot.desc dk).nw.fmt = some .uint8zp → decide (opfmt = 0x01 ∨ opfmt = 0x02) = true) :
    planFeed e tail mk dk map vit i opfmt beta xpose gather gk rep side pro = .error .empty := by
  obtain ⟨g, hg'⟩ := Option.ne_none_iff_exists'.1 ho
  have hwide : (decide (opfmt = 0x01) || decide (opfmt = 0x02)) = decide (opfmt = 0x01 ∨ opfmt = 0x02) := Bool.decide_or .. |>.symm
  unfold planFeed
  simp only [hg', hwide, hx, hg, hp]
  rw [if_neg (by decide), if_neg (by decide)]
  cases vit with
  | true =>
    rw [if_pos rfl, if_neg (hv rfl)]
    exact withDesc_empty hf he
  | false =>
    rw [if_neg (by decide), if_neg]
    · exact withDesc_empty hf he
    · intro h
      obtain ⟨h1, h2⟩ := Bool.and_eq_true_iff.1 h
      rw [hz rfl (of_decide_eq_true h1)] at h2
      exact absurd h2 (by decide)

section
variable {d2k map map2 mk : Nat} (h1 : (e.slot.desc dk).nw.fmt ≠ none) (h2 : (e.slot.desc d2k).nw.fmt ≠ none)
  (he : (e.slot.desc dk).isEmpty = true ∨ (e.slot.desc d2k).isEmpty = true)
include h1 h2 he

theorem planCvt_empty : planCvt e mk dk map d2k map2 = .error .empty := by
  obtain ⟨f, hf⟩ := Option.ne_none_iff_exists'.1 h1
  obtain ⟨g, hg⟩ := Option.ne_none_iff_exists'.1 h2
  unfold planCvt
  simp only [hf, hg]
  rw [if_pos (by simpa using he)]

theorem planFold_empty {delta : Int} : planFold e dk map d2k map2 delta = .error .empty := by
  obtain ⟨f, hf⟩ := Option.ne_none_iff_exists'.1 h1
  obtain ⟨g, hg⟩ := Option.ne_none_iff_exists'.1 h2
  unfold planFold
  simp only [hf, hg]
  rw [if_neg nofun, if_pos (by simpa using he)]

end

/-! ### MSK TAIL and LOAD (R243) -/

/-- A mask alone. -/
def maskOut (md : Nat) (v : Mask) : MemOut := { MemOut.none with masks := [(md, v)] }

theorem planTail_legal {md : Nat} (hf : (e.slot.desc dk).nw.fmt ≠ none) (he : (e.slot.desc dk).isEmpty = false)
    (hi : (e.slot.desc dk).illegal false false = false) :
    planTail e md dk = .ok (MemAsk.now (unread (maskOut md (tailMask (e.slot.desc dk) e.slot.walkIdx)))) := by
  obtain ⟨f, hf⟩ := Option.ne_none_iff_exists'.1 hf
  unfold planTail
  simp only [hf]
  rw [if_neg (by rw [he]; nofun), if_neg (by rw [hi]; nofun)]
  rfl

theorem offsetOf_ok {launch : List Word} {q : Nat} (h : (scalarOf launch q).toNat < 2 ^ 20) :
    offsetOf launch q = .ok (scalarOf launch q).toNat := if_pos h

/-- The addresses of n bytes of the window. -/
def windowBytes (off n : Nat) : List Adr := (List.range n).map fun j => .win (off + j)

/-- The mask that 128 bytes give. -/
def maskOfBytes (rd : Nat → Nat) : Mask := BitVec.ofNat 1024 ((List.range 128).foldl (fun acc j => acc + rd j * 256 ^ j) 0)

theorem planMaskLoad_legal {md q : Nat} (h : (scalarOf e.slot.launch q).toNat < 2 ^ 20) (h0 : (scalarOf e.slot.launch q).toNat % 128 = 0) :
    planMaskLoad e md q = .ok (MemAsk.now {
      reads := windowBytes (scalarOf e.slot.launch q).toNat 128, checks := []
      fin := fun rd => .ok (maskOut md (maskOfBytes fun j => rd (.win ((scalarOf e.slot.launch q).toNat + j)))) }) := by
  unfold planMaskLoad
  simp only [offsetOf_ok h]
  rw [if_neg (not_not.2 h0)]
  rfl

end

/-- The bits of a number written in bytes. -/
theorem bytes_testBit (rd : Nat → Nat) (h : ∀ j, rd j < 256) (n p : Nat) (hp : p < 8 * n) :
    ((List.range n).foldl (fun acc j => acc + rd j * 256 ^ j) 0).testBit p = (rd (p / 8)).testBit (p % 8) := by
  have hlt : ∀ n, (List.range n).foldl (fun acc j => acc + rd j * 256 ^ j) 0 < 2 ^ (8 * n) := by
    intro n
    induction n with
    | zero => simp
    | succ n ih =>
      rw [List.range_succ, List.foldl_append, List.foldl_cons, List.foldl_nil]
      have h256 : 256 ^ n = 2 ^ (8 * n) := by rw [show 256 = 2 ^ 8 from rfl, ← Nat.pow_mul]
      have hmul : rd n * 2 ^ (8 * n) ≤ 255 * 2 ^ (8 * n) := Nat.mul_le_mul_right _ (by have := h n; omega)
      rw [h256, show 8 * (n + 1) = 8 * n + 8 by omega, Nat.pow_add]
      omega
  induction n with
  | zero => omega
  | succ n ih =>
    rw [List.range_succ, List.foldl_append, List.foldl_cons, List.foldl_nil]
    have h256 : 256 ^ n = 2 ^ (8 * n) := by rw [show 256 = 2 ^ 8 from rfl, ← Nat.pow_mul]
    rw [h256, Nat.add_comm, Nat.mul_comm, Nat.testBit_two_pow_mul_add _ (hlt n)]
    split
    · rename_i hp'
      exact ih hp'
    · have h1 : p / 8 = n := by omega
      have h2 : p - 8 * n = p % 8 := by omega
      rw [h1, h2]

theorem bufByte_lt (buf : List SpLine) (o : Nat) : bufByte buf o < 256 := by
  unfold bufByte
  split
  · exact (lineByte _ _).isLt
  · decide

theorem maskOfBytes_bit {rd : Nat → Nat} (h : ∀ j, rd j < 256) {p : Nat} (hp : p < 1024) :
    (maskOfBytes rd).getLsbD p = (rd (p / 8)).testBit (p % 8) := by
  rw [maskOfBytes, BitVec.getLsbD_ofNat, bytes_testBit rd h 128 p hp, decide_eq_true hp, Bool.true_and]

end Sys2Proof


/-! SUPPORT. STEEP (R81 to R87, R97, R238): what a gather folds, and what the settles write. -/

namespace Sys2Proof

open Sys2Proof.Machine

/-! ### The fold of a gather (R82) -/

section
variable {xs : List Word} {r : Steep} {w : Word} (h : Folds xs r) (hl : xs.length + 1 < 2 ^ 28)
include h hl

theorem folds_count : satAdd 28 r.count 1 = (xs ++ [w]).length := by
  rw [satAdd, h.1, List.length_append, List.length_singleton]
  omega

/-- An infinity or a NaN sets its flag. -/
theorem folds_special (hfin : (f32 w).isFin = false) (v : Nat) (h2 : v.testBit 2 = decide (f32 w = XV.nan))
    (h1 : v.testBit 1 = decide (f32 w = XV.inf false)) (h0 : v.testBit 0 = decide (f32 w = XV.inf true)) :
    Folds (xs ++ [w]) { r with count := satAdd 28 r.count 1, flags := r.flags ||| v } := by
  have hc := folds_count (w := w) h hl
  obtain ⟨-, hnan, hpos, hneg, hamax, hmin, hmax⟩ := h
  have hfil : (xs ++ [w]).filter f32IsFinite = xs.filter f32IsFinite := by
    rw [List.filter_append, List.filter_cons_of_neg (by rw [f32IsFinite, hfin]; nofun), List.filter_nil, List.append_nil]
  unfold Folds
  simp only [hfil, List.any_append, List.any_cons, List.any_nil, Bool.or_false, Nat.testBit_or, hnan, hpos, hneg, h2, h1, h0]
  exact ⟨hc, trivial, trivial, trivial, hamax, hmin, hmax⟩

/-- A finite element counts among the values. -/
theorem folds_finite (hfin : (f32 w).isFin = true) : Folds (xs ++ [w]) { r with
    count := satAdd 28 r.count 1, amax := fMax r.amax (w &&& 0x7FFFFFFF#32), vmin := fMin r.vmin w, vmax := fMax r.vmax w } := by
  have hc := folds_count (w := w) h hl
  obtain ⟨-, hnan, hpos, hneg, hamax, hmin, hmax⟩ := h
  have hfil : (xs ++ [w]).filter f32IsFinite = xs.filter f32IsFinite ++ [w] := by
    rw [List.filter_append, List.filter_cons_of_pos (by rw [f32IsFinite, hfin]), List.filter_nil]
  have hne {v : XV} (hv : v.isFin = false) : decide (f32 w = v) = false :=
    decide_eq_false fun hw => by rw [hw, hv] at hfin; exact absurd hfin nofun
  unfold Folds
  simp only [hfil, List.any_append, List.any_cons, List.any_nil, Bool.or_false, hnan, hpos, hneg, List.foldl_append, List.foldl_cons,
    List.foldl_nil, ← hamax, ← hmin, ← hmax, hne (v := XV.nan) rfl, hne (v := XV.inf false) rfl, hne (v := XV.inf true) rfl]
  exact ⟨hc, trivial, trivial, trivial, trivial, trivial, trivial⟩

/-- One more element in a record (R82). -/
theorem folds_add : Folds (xs ++ [w]) (r.add w) := by
  unfold Steep.add
  dsimp only
  split <;> rename_i hw
  · exact folds_special h hl (by rw [hw]; rfl) 4 (by rw [hw]; rfl) (by rw [hw]; rfl) (by rw [hw]; rfl)
  · exact folds_special h hl (by rw [hw]; rfl) 2 (by rw [hw]; rfl) (by rw [hw]; rfl) (by rw [hw]; rfl)
  · exact folds_special h hl (by rw [hw]; rfl) 1 (by rw [hw]; rfl) (by rw [hw]; rfl) (by rw [hw]; rfl)
  · exact folds_finite h hl (by rw [hw]; rfl)

end

/-- The record of a group holds what R81 and R82 say of its elements. -/
theorem folds_foldl (xs : List Word) (h : xs.length < 2 ^ 28) : Folds xs (xs.foldl Steep.add Steep.init) := by
  induction xs using List.reverseRecOn with
  | nil => exact ⟨rfl, rfl, rfl, rfl, rfl, rfl, rfl⟩
  | append_singleton xs w ih =>
    rw [List.length_append, List.length_singleton] at h
    rw [List.foldl_append, List.foldl_cons, List.foldl_nil]
    exact folds_add (ih (by omega)) h

/-- The group of a lane (R82). -/
def groupOf (g : Nat) (t : TIdx) (p : Nat × Nat) : Nat := if g = 0 then 0 else if g = 1 then 32 * t.t1 + p.1 else 32 * t.t0 + p.2

/-- The enabled lanes of a gather. -/
def gatherOn (en : Mask) : List (Nat × Nat) := lanes.filter fun p => laneOn en p.1 p.2

/-- The groups of a gather, in the order of their first lanes. -/
def gatherGroups (en : Mask) (g : Nat) (t : TIdx) : List Nat := ((gatherOn en).map (groupOf g t)).eraseDups

/-- The record of group j. -/
def gatherRec (en : Mask) (g : Nat) (t : TIdx) (v : List Word) (j : Nat) : Steep :=
  ((gatherOn en).filter fun p => groupOf g t p == j).foldl (fun (s : Steep) p => s.add (elemAt v p.1 p.2)) Steep.init

/-- The output of a gather. -/
def gatherOut (e : MemEnv) (d : Desc) (t : TIdx) (en : Mask) (i : Nat) (accum : Bool) (g off : Nat) : MemOut :=
  let recs := (gatherGroups en g t).map fun j => (off + 16 * j, gatherRec en g t (e.cell.vit i) j)
  { MemOut.none with
    writes := recs.flatMap fun q => q.2.bytes.zipIdx.map fun b => (.win (q.1 + b.2), b.1)
    gather := some { index := e.slot.idx, accum := accum, obj := d.obj, lane := d.laneIndex t 0 0, recs := recs } }

theorem planGather_legal {e : MemEnv} {mk dk map i g sa : Nat} {accum : Bool} (hf : (e.slot.desc dk).nw.fmt ≠ none)
    (he : (e.slot.desc dk).isEmpty = false) (hi : (e.slot.desc dk).illegal false false = false)
    (hs : (scalarOf e.slot.launch sa).toNat < 2 ^ 20) :
    planGather e mk dk map i accum g sa = .ok (MemAsk.now (unread (gatherOut e (e.slot.desc dk) (e.slot.tileIdx map)
      (e.cell.mkMask mk &&& tailMask (e.slot.desc dk) (e.slot.tileIdx map)) i accum g (scalarOf e.slot.launch sa).toNat))) := by
  obtain ⟨f, hf⟩ := Option.ne_none_iff_exists'.1 hf
  unfold planGather
  dsimp only
  rw [withDesc_legal hf he hi, offsetOf_ok hs]
  rfl

theorem gatherRec_folds (en : Mask) (g : Nat) (t : TIdx) (v : List Word) (j : Nat) :
    Folds (((gatherOn en).filter fun p => groupOf g t p == j).map fun p => elemAt v p.1 p.2) (gatherRec en g t v j) := by
  rw [gatherRec, ← List.foldl_map (f := fun p : Nat × Nat => elemAt v p.1 p.2) (g := Steep.add)]
  refine folds_foldl _ ?_
  have h1 := (List.filter_sublist (l := gatherOn en) (p := fun p => groupOf g t p == j)).length_le
  have h2 := (List.filter_sublist (l := lanes) (p := fun p => laneOn en p.1 p.2)).length_le
  rw [lanes_length] at h2
  rw [List.length_map]
  have h3 : (gatherOn en).length ≤ 1024 := h2
  omega

theorem steepBytes_length (r : Steep) : r.bytes.length = 16 := by
  simp [Steep.bytes, wordsBytes, leBytes]

/-- The bytes of a gather lie where its records do. -/
theorem gatherOut_places (e : MemEnv) (d : Desc) (t : TIdx) (en : Mask) (i : Nat) (accum : Bool) (g off : Nat) :
    (gatherOut e d t en i accum g off).writes.map Prod.fst = (gatherGroups en g t).flatMap fun j => windowBytes (off + 16 * j) 16 := by
  have hrec (r : Steep) (b : Nat) : (r.bytes.zipIdx.map fun q => ((Adr.win (b + q.2), q.1) : Adr × Byte)).map Prod.fst = windowBytes b 16 := by
    rw [List.map_map, windowBytes, ← steepBytes_length r]
    refine List.ext_getElem (by simp) fun n h1 h2 => ?_
    simp
  simp only [gatherOut, List.flatMap_map, List.map_flatMap, hrec]

/-! ### Settles (R84, R97) -/

theorem recordReads_ok {off n : Nat} (h : off + 16 * n ≤ 2 ^ 20) : recordReads off n = some (windowBytes off (16 * n)) := if_pos h

/-- The entry of group j under a settle. -/
def settleEntry (e : MemEnv) (f : Fmt) (d : Desc) (off per : Nat) (rd : Rd) (j : Nat) : Nat × Led :=
  settle e.tabs f d.nw (steepGroup rd off per j)

/-- The bytes of a settle (R84, R108). -/
def settleBytes (d : Desc) (groups : Nat) (entry : Nat → Nat) : List (Nat × Byte) :=
  if d.nw.mode = 5 then d.tailBytes (entry 0 % 128)
  else (List.range groups).flatMap fun j =>
    [(d.scale + 2 * j, BitVec.ofNat 8 (entry j)), (d.scale + 2 * j + 1, BitVec.ofNat 8 (entry j / 256))]

/-- A list made from its positions, with them. -/
theorem zipIdx_range {α : Type} (n : Nat) (f : Nat → α) : ((List.range n).map f).zipIdx = (List.range n).map fun j => (f j, j) := by
  refine List.ext_getElem (by simp) fun i h1 h2 => ?_
  simp

section
variable {e : MemEnv} {dk sa sb : Nat} {f : Fmt} (hf : (e.slot.desc dk).nw.fmt = some f) (he : (e.slot.desc dk).isEmpty = false)
  (hi : (e.slot.desc dk).illegal true false = false) (hsa : (scalarOf e.slot.launch sa).toNat < 2 ^ 20)
include hf he hi hsa

theorem planSettle_legal
    (hm : (e.slot.desc dk).nw.mode = 1 ∨ (e.slot.desc dk).nw.mode = 2 ∨ (e.slot.desc dk).nw.mode = 5) {off per groups : Nat}
    (ho : off = (scalarOf e.slot.launch sa).toNat) (hp : per = (scalarOf e.slot.launch sb).toNat)
    (hg : groups = if (e.slot.desc dk).nw.mode = 2 then (e.slot.desc dk).e1 else 1) (hfit : off + 16 * (per * groups) ≤ 2 ^ 20) :
    planSettle e dk sa sb = .ok (MemAsk.now {
      reads := windowBytes off (16 * (per * groups)), checks := []
      fin := fun rd => .ok ((e.slot.desc dk).commit 0 []
        (settleBytes (e.slot.desc dk) groups fun j => (settleEntry e f (e.slot.desc dk) off per rd j).1) []
        (Led.sum ((List.range groups).map fun j => (settleEntry e f (e.slot.desc dk) off per rd j).2))) }) := by
  subst ho hp hg
  unfold planSettle
  simp only [hf]
  rw [if_neg (not_not.2 hm), if_neg (by rw [he]; nofun), if_neg (by rw [hi]; nofun), offsetOf_ok hsa]
  dsimp only
  rw [recordReads_ok hfit]
  refine congrArg (fun g => Except.ok (MemAsk.now { reads := _, checks := [], fin := g })) (funext fun rd => ?_)
  have hled : ((List.range (if (e.slot.desc dk).nw.mode = 2 then (e.slot.desc dk).e1 else 1)).map fun g =>
      settle e.tabs f (e.slot.desc dk).nw (steepGroup rd (scalarOf e.slot.launch sa).toNat (scalarOf e.slot.launch sb).toNat g)).map Prod.snd
      = (List.range (if (e.slot.desc dk).nw.mode = 2 then (e.slot.desc dk).e1 else 1)).map fun j => (settleEntry e f (e.slot.desc dk)
        (scalarOf e.slot.launch sa).toNat (scalarOf e.slot.launch sb).toNat rd j).2 := List.map_map ..
  rw [hled]
  refine congrArg (fun bs => Except.ok ((e.slot.desc dk).commit 0 [] bs [] _)) ?_
  unfold settleBytes
  split
  · rename_i h5
    rw [if_neg (by rw [h5]; decide)]
    rfl
  · rw [zipIdx_range, List.flatMap_map]
    rfl

theorem planSmooth_legal {sc oa ob per : Nat} (hsb : (scalarOf e.slot.launch sb).toNat < 2 ^ 20)
    (hoa : oa = (scalarOf e.slot.launch sa).toNat) (hob : ob = (scalarOf e.slot.launch sb).toNat)
    (hp : per = (scalarOf e.slot.launch sc).toNat) (ha : oa + 16 * (per * (e.slot.desc dk).e0) ≤ 2 ^ 20)
    (hb : ob + 16 * (per * (e.slot.desc dk).e0) ≤ 2 ^ 20) :
    planSmooth e dk sa sb sc = .ok (MemAsk.now {
      reads := windowBytes oa (16 * (per * (e.slot.desc dk).e0)) ++ windowBytes ob (16 * (per * (e.slot.desc dk).e0)), checks := []
      fin := fun rd => .ok ((e.slot.desc dk).commit 0 [] ((List.range (e.slot.desc dk).e0).map fun j =>
        ((e.slot.desc dk).scale + j, BitVec.ofNat 8 (smoothByte (steepGroup rd oa per j) (steepGroup rd ob per j)))) [] Led.zero) }) := by
  subst hoa hob hp
  unfold planSmooth
  dsimp only
  rw [withDesc_legal hf he hi, offsetOf_ok hsa, offsetOf_ok hsb]
  dsimp only
  rw [recordReads_ok ha, recordReads_ok hb]

end

/-- A magnitude is not zero. -/
theorem mag_ne_zero {w : Word} {p : Nat × Nat} (h : Steep.mag w = some p) : (f32 w).isZero = false := by
  unfold Steep.mag at h
  cases hw : f32 w with
  | nan => rfl
  | inf neg => rfl
  | fin neg n d =>
    rw [hw] at h
    dsimp only at h
    by_cases hn : n = 0
    · rw [if_pos hn] at h
      exact absurd h nofun
    · simp [XV.isZero, hn]

/-- settle (R84) case by case. -/
theorem settle_cases (tabs : List (BitVec 16)) (f : Fmt) (n : NumWord) (r : Steep) :
    (r.count = 0 → (settle tabs f n r).1 = 0)
    ∧ (r.count ≠ 0 → (f32 r.amax).isZero = true → (settle tabs f n r).1 = 0)
    ∧ (r.count ≠ 0 → f.isZp = true → (settle tabs f n r).1 = (settleAsym n r).1)
    ∧ (r.count ≠ 0 → f.isZp = false → ∀ a b, Steep.mag r.amax = some (a, b) → (fmtMax tabs f n.mode).1 ≠ 0 →
      (settle tabs f n r).1 = (clampByte 126 (scaleK a b (fmtMax tabs f n.mode).1 (fmtMax tabs f n.mode).2 n.rule + 63)).1) := by
  refine ⟨fun hc => ?_, fun hc hz => ?_, fun hc hzp => ?_, fun hc hzp a b hm hmax => ?_⟩
  · rw [settle, if_pos hc]
  · rw [settle, if_neg hc, hz]
    split
    · simp only [settleAsym, hz, if_true]
    · rfl
  · rw [settle, if_neg hc, if_pos hzp]
  · rw [settle, if_neg hc, if_neg (by rw [hzp]; nofun), if_neg (by rw [mag_ne_zero hm]; nofun), hm]
    dsimp only
    rw [if_neg hmax]
    rfl

/-- smooth (R97) case by case. -/
theorem smoothByte_cases (a w : Steep) :
    (a.count = 0 ∨ w.count = 0 ∨ (f32 a.amax).isZero = true ∨ (f32 w.amax).isZero = true → smoothByte a w = 63)
    ∧ (a.count ≠ 0 → w.count ≠ 0 → ∀ an ad wn wd, Steep.mag a.amax = some (an, ad) → Steep.mag w.amax = some (wn, wd) →
      smoothByte a w = (clampByte 126 (63 + (floorLog2 an ad - floorLog2 wn wd) / 2)).1) := by
  refine ⟨fun h => ?_, fun ha hw an ad wn wd hma hmw => ?_⟩
  · rw [smoothByte, if_pos]
    obtain h | h | h | h := h <;> simp [h]
  · rw [smoothByte, if_neg (by simp [mag_ne_zero hma, mag_ne_zero hmw, ha, hw]), hma, hmw]

end Sys2Proof


/-! SUPPORT. The records of RED (R166, R197) and the folds of scale bytes (R98, R232): what their plans write. -/

namespace Sys2Proof

open Sys2Proof.Machine

/-! ### Records of rows -/

/-- The valid elements of row r of an operand. -/
def rowVals (c : Cell) (launch : List Word) (av : Nat) (en : Mask) (r : Nat) : List Word := (List.range 32).filterMap fun j =>
  if laneOn en r j then some (srcElem c launch av r j) else none

theorem rowVals_eq (c : Cell) (launch : List Word) (av : Nat) (en : Mask) {r : Nat} (hr : r < 32) :
    (validOf en (c.srcList launch av) false r).map Prod.snd = rowVals c launch av en r := by
  rw [validOf, List.map_filterMap]
  refine List.filterMap_congr fun j hj => ?_
  have hj : j < 32 := List.mem_range.1 hj
  simp only [Bool.false_eq_true, if_false]
  split
  · rw [Option.map_some, srcList_elem _ _ _ _ _ hr hj]
  · rfl

/-- The records of a tile, one for each row inside the extent, at the side address. -/
def recordBytes (d : Desc) (t : TIdx) (words : Nat → List Word) : List (Nat × Byte) :=
  ((List.range 32).filter (rowOn (tailMask d t))).flatMap fun r => (wordsBytes (words r)).zipIdx.map fun q =>
    (d.aux + 4 * (words r).length * (d.row (32 * t.t1 + r) t.t2 t.t3 * ceilDiv d.e0 32 + t.t0) + q.2, q.1)

theorem planRecords_legal {e : MemEnv} {dk map size : Nat} {rec : Nat → List Byte} {led : Led} {words : Nat → List Word}
    (hf : (e.slot.desc dk).nw.fmt ≠ none) (he : (e.slot.desc dk).isEmpty = false) (hi : (e.slot.desc dk).illegal false true = false)
    (hrec : ∀ r, r < 32 → rec r = wordsBytes (words r) ∧ size = 4 * (words r).length) :
    planRecords e dk map size rec led = .ok (MemAsk.now (unread ((e.slot.desc dk).commit
      ((e.slot.desc dk).laneIndex (e.slot.tileIdx map) 0 0) [] [] (recordBytes (e.slot.desc dk) (e.slot.tileIdx map) words) led))) := by
  obtain ⟨f, hf⟩ := Option.ne_none_iff_exists'.1 hf
  unfold planRecords
  dsimp only
  rw [withDesc_legal hf he hi]
  refine congrArg (fun bs => Except.ok (MemAsk.now (unread ((e.slot.desc dk).commit _ [] [] bs led)))) ?_
  refine List.flatMap_congr fun r hr => ?_
  obtain ⟨h1, h2⟩ := hrec r (List.mem_range.1 (List.mem_of_mem_filter hr))
  rw [h1, h2]

section
variable {e : MemEnv} {dk mk map av : Nat} (hf : (e.slot.desc dk).nw.fmt ≠ none) (he : (e.slot.desc dk).isEmpty = false)
  (hi : (e.slot.desc dk).illegal false true = false)
include hf he hi

/-- The words of a row record (R166). -/
def rowRecordWords (xs : List Word) : List Word :=
  [(redSum false xs).lo, (redSum false xs).hi, (redSum true xs).lo, (redSum true xs).hi, redMax xs, redMin xs
  , BitVec.ofNat 32 xs.length, 0#32]

theorem planRowRecord_legal : ∃ led, planRowRecord e mk av dk map = .ok (MemAsk.now (unread ((e.slot.desc dk).commit
    ((e.slot.desc dk).laneIndex (e.slot.tileIdx map) 0 0) [] [] (recordBytes (e.slot.desc dk) (e.slot.tileIdx map) fun r =>
      rowRecordWords (rowVals e.cell e.slot.launch av (e.cell.mkMask mk &&& tailMask (e.slot.desc dk) (e.slot.tileIdx map)) r)) led))) :=
  ⟨_, planRecords_legal hf he hi fun r hr => ⟨by dsimp only; rw [rowVals_eq _ _ _ _ hr]; rfl, rfl⟩⟩

theorem planSoftmaxRecord_legal {sv : Nat} : planSoftmaxRecord e mk av dk map sv = .ok (MemAsk.now (unread ((e.slot.desc dk).commit
    ((e.slot.desc dk).laneIndex (e.slot.tileIdx map) 0 0) [] [] (recordBytes (e.slot.desc dk) (e.slot.tileIdx map) fun r =>
      [elemAt (e.cell.vit sv) r 1, elemAt (e.cell.vit sv) r 4 &&& 0x7FFFFF#32
      , (redSum false (rowVals e.cell e.slot.launch av (e.cell.mkMask mk &&& tailMask (e.slot.desc dk) (e.slot.tileIdx map)) r)).lo
      , (redSum false (rowVals e.cell e.slot.launch av (e.cell.mkMask mk &&& tailMask (e.slot.desc dk) (e.slot.tileIdx map)) r)).hi])
    Led.zero))) :=
  planRecords_legal hf he hi fun r hr => ⟨by dsimp only; rw [rowVals_eq _ _ _ _ hr], rfl⟩

end

/-! ### Folds of scale bytes -/

/-- Where the byte or the entry of position p lies. -/
def foldAt (d : Desc) (p : Nat) : Nat := if d.nw.mode = 1 ∨ d.nw.mode = 2 then 2 * p else p

/-- The positions that a fold compares (R111). -/
def foldChecks (d : Desc) (ps : List Nat) : List Nat :=
  if d.nw.checked && !ps.isEmpty then d.streamPositions ps (decide (d.nw.mode = 5)) else []

/-- The addresses that a fold reads. -/
def foldReads (d : Desc) (ps : List Nat) : List Nat :=
  if d.nw.mode = 1 ∨ d.nw.mode = 2 then ps.flatMap fun p => [d.scale + 2 * p, d.scale + 2 * p + 1]
  else (if d.nw.checked then foldChecks d ps else ps).map (d.scale + ·)

/-- The bytes that a fold writes. -/
def foldBytes (s d : Desc) (ps : List Nat) (rd : Nat → Nat) (new : Nat → Nat) : List (Nat × Byte) :=
  ps.flatMap fun p => (d.scale + foldAt s p, BitVec.ofNat 8 (new p))
    :: if s.nw.mode = 1 ∨ s.nw.mode = 2 then [(d.scale + foldAt s p + 1, BitVec.ofNat 8 (rd (s.scale + foldAt s p + 1)))] else []

/-- What a fold makes of the bytes that it has read (R98). -/
def foldFin (s d : Desc) (ps : List Nat) (delta : Int) (i : Nat) (rd : Nat → Nat) : Except Nat MemOut :=
  let new (p : Nat) : Option Nat := foldByte s.nw.mode delta (rd (s.scale + foldAt s p))
  if ps.any fun p => (new p).isNone then .error errScaleRange
  else .ok (d.commit i [] (foldBytes s d ps rd fun p => (new p).getD 0) [] Led.zero)

theorem planFold_legal {e : MemEnv} {dk d2k map map2 : Nat} {delta : Int} (h1 : (e.slot.desc dk).nw.fmt ≠ none)
    (h2 : (e.slot.desc d2k).nw.fmt ≠ none) (he1 : (e.slot.desc dk).isEmpty = false) (he2 : (e.slot.desc d2k).isEmpty = false)
    (hi1 : (e.slot.desc dk).illegal false false = false) (hi2 : (e.slot.desc d2k).illegal true false = false)
    (hm : (e.slot.desc dk).nw.mode = (e.slot.desc d2k).nw.mode) (hb : (e.slot.desc dk).nw.blk16 = (e.slot.desc d2k).nw.blk16)
    (hx : (e.slot.desc dk).e0 = (e.slot.desc d2k).e0 ∧ (e.slot.desc dk).e1 = (e.slot.desc d2k).e1
      ∧ (e.slot.desc dk).e2 = (e.slot.desc d2k).e2 ∧ (e.slot.desc dk).e3 = (e.slot.desc d2k).e3) :
    planFold e dk map d2k map2 delta = .ok (MemAsk.now {
      reads := (foldReads (e.slot.desc dk) ((e.slot.desc dk).foldPositions (e.slot.tileIdx map))).map (e.slot.desc dk).adr
      checks := [{ d := e.slot.desc dk, ps := foldChecks (e.slot.desc dk) ((e.slot.desc dk).foldPositions (e.slot.tileIdx map)) }]
      fin := fun rd => foldFin (e.slot.desc dk) (e.slot.desc d2k) ((e.slot.desc dk).foldPositions (e.slot.tileIdx map)) delta
        ((e.slot.desc d2k).laneIndex (e.slot.tileIdx map2) 0 0) ((e.slot.desc dk).rd rd) }) := by
  obtain ⟨f, hf⟩ := Option.ne_none_iff_exists'.1 h1
  obtain ⟨g, hg⟩ := Option.ne_none_iff_exists'.1 h2
  generalize hs : e.slot.desc dk = s at *
  generalize hd : e.slot.desc d2k = d at *
  unfold planFold
  simp only [hs, hd]
  rw [hf, hg, if_neg nofun, he1, he2, if_neg nofun, if_neg (by rintro (h | h) <;> exact h (by assumption)), hi1, hi2,
    if_neg (by simp [hx])]
  have hwide : ((decide (s.nw.mode = 1) || decide (s.nw.mode = 2)) = true) = (s.nw.mode = 1 ∨ s.nw.mode = 2) := by simp
  have hreads : (if s.nw.mode = 1 ∨ s.nw.mode = 2 then
        (s.foldPositions (e.slot.tileIdx map)).flatMap fun p => [s.scale + 2 * p, s.scale + 2 * p + 1]
      else if s.nw.checked then (foldChecks s (s.foldPositions (e.slot.tileIdx map))).map (s.scale + ·)
      else (s.foldPositions (e.slot.tileIdx map)).map (s.scale + ·)) = foldReads s (s.foldPositions (e.slot.tileIdx map)) := by
    unfold foldReads
    split
    · rfl
    · split <;> rfl
  simp only [hwide]
  refine congrArg (fun q => Except.ok (MemAsk.now q)) ?_
  rw [← hreads]
  refine congrArg (fun g => ({ reads := _, checks := _, fin := g } : MemPlan)) (funext fun rd => ?_)
  unfold foldFin
  dsimp only
  rw [List.any_map, List.flatMap_map]
  rfl

/-- A fold of bytes that all stay in their range. -/
theorem foldFin_ok {s d : Desc} {ps : List Nat} {delta : Int} {i : Nat} {rd new : Nat → Nat}
    (h : ∀ p ∈ ps, foldByte s.nw.mode delta (rd (s.scale + foldAt s p)) = some (new p)) :
    foldFin s d ps delta i rd = .ok (d.commit i [] (foldBytes s d ps rd new) [] Led.zero) := by
  have hnone : (ps.any fun p => (foldByte s.nw.mode delta (rd (s.scale + foldAt s p))).isNone) = false := by
    rw [List.any_eq_false]
    intro p hp
    rw [h p hp]
    nofun
  have hbytes : (foldBytes s d ps rd fun p => (foldByte s.nw.mode delta (rd (s.scale + foldAt s p))).getD 0) = foldBytes s d ps rd new :=
    List.flatMap_congr fun p hp => by dsimp only; rw [h p hp, Option.getD_some]
  unfold foldFin
  dsimp only
  rw [hnone, hbytes]
  rfl

/-- One that leaves it (R98). -/
theorem foldFin_range {s d : Desc} {ps : List Nat} {delta : Int} {i : Nat} {rd : Nat → Nat}
    (h : ∃ p ∈ ps, foldByte s.nw.mode delta (rd (s.scale + foldAt s p)) = none) : foldFin s d ps delta i rd = .error errScaleRange := by
  obtain ⟨p, hp, hn⟩ := h
  exact if_pos (List.any_eq_true.2 ⟨p, hp, by dsimp only; rw [hn]; rfl⟩)

end Sys2Proof


/-! SUPPORT. What the kiln writes (R54 to R60, R72 to R79, R107, R108, R224): the bytes of an encoded tile, row by row and block by
block. -/

namespace Sys2Proof

open Sys2Proof.Machine

/-! ### Rows of a tile -/

/-- A row of what every lane gives. -/
theorem lanes_row {α : Type} (f : Nat × Nat → α) {r : Nat} (hr : r < 32) :
    ((lanes.map f).drop (32 * r)).take 32 = (List.range 32).map fun c => f (r, c) := by
  refine List.ext_getElem ?_ fun c h1 h2 => ?_
  · rw [List.length_take, List.length_drop, List.length_map, lanes_length, List.length_map, List.length_range]
    omega
  · have hc : c < 32 := by simpa using h2
    have hlane := (List.getElem?_eq_some_iff.1 (lanes_get r c hr hc)).2
    rw [List.getElem_take, List.getElem_drop, List.getElem_map, hlane, List.getElem_map, List.getElem_range]

/-- A part of a list made from its positions. -/
theorem range_part {α : Type} (f : Nat → α) {n c k : Nat} (h : c + k ≤ n) :
    (((List.range n).map f).drop c).take k = (List.range k).map fun j => f (c + j) := by
  refine List.ext_getElem ?_ fun j h1 h2 => ?_
  · rw [List.length_take, List.length_drop, List.length_map, List.length_range, List.length_map, List.length_range]
    omega
  · rw [List.getElem_take, List.getElem_drop, List.getElem_map, List.getElem_map, List.getElem_range, List.getElem_range]

/-- What the kiln takes of a lane: its scaled value where it is enabled. -/
def kilnLane (d : Desc) (en : Mask) (v : Nat → Nat → KIn) (r c : Nat) : Option KIn :=
  if laneOn en r c then some ((v r c).scale (.fin false 1 1) d.shift) else none

theorem kilnLane_isSome (d : Desc) (en : Mask) (v : Nat → Nat → KIn) (r c : Nat) : (kilnLane d en v r c).isSome = laneOn en r c := by
  unfold kilnLane
  cases laneOn en r c <;> rfl

/-- Only codes and written columns make the bytes of a row. -/
theorem bytes_congr {o p : RowOut} (hc : o.codes = p.codes) (hw : o.wr = p.wr) (bits nc base : Nat) (old : Nat → Nat) :
    o.bytes bits nc base old = p.bytes bits nc base old := by
  unfold RowOut.bytes
  rw [hc, hw]

/-! ### Rows without blocks -/

section
variable (d : Desc) (env : KEnv) (f : Fmt) (t : TIdx) (en : Mask) (v : Nat → Nat → KIn)

/-- The code of a lane under the supplied scale, NaN under a NaN scale. -/
def flatCode (s : Option Int × Nat) (r c : Nat) : Nat := match s with
  | (some k, zp) => (stored d env f t zp k r c ((v r c).scale (.fin false 1 1) d.shift).val).code
  | (none, zp) => (stored d env f t zp 0 r c .nan).code

theorem encodeFlatRow_codes (s : Option Int × Nat) (r : Nat) :
    (encodeFlatRow env f d.nw s.1 s.2 (fun c => d.laneIndex t r c) ((List.range 32).map (kilnLane d en v r))).codes
      = (List.range 32).map fun c => if laneOn en r c then flatCode d env f t v s r c else 0 := by
  unfold encodeFlatRow
  dsimp only
  rw [zipIdx_range, List.map_map, List.map_map]
  refine List.map_congr_left fun c _ => ?_
  obtain ⟨k, zp⟩ := s
  simp only [Function.comp, kilnLane]
  cases laneOn en r c with
  | false => rfl
  | true => cases k <;> rfl

theorem encodeFlatRow_wr (s : Option Int × Nat) (r : Nat) :
    (encodeFlatRow env f d.nw s.1 s.2 (fun c => d.laneIndex t r c) ((List.range 32).map (kilnLane d en v r))).wr
      = (List.range 32).map (laneOn en r) := by
  unfold encodeFlatRow
  dsimp only
  rw [List.map_map]
  exact List.map_congr_left fun c _ => kilnLane_isSome d en v r c

end

/-! ### Blocks -/

/-- The inputs of a block: NaN under a NaN tensor byte (R56). -/
def blockIns (n : NumWord) (tb : Nat) (l : List (Option KIn)) : List (Option KIn) :=
  if decide (n.mode = 5) && decide (tb = 127) then l.map fun o => o.map fun _ => KIn.plain .nan else l

/-- The scale exponent of a block (R76 to R79). -/
def blockExp (env : KEnv) (f : Fmt) (n : NumWord) (tb : Nat) (l : List (Option KIn)) : Int :=
  match addExp (scaleExp n.mode (blockByte env.tabs f n tb (blockAmax l)).1) (if n.mode = 5 then scaleExp 5 tb else some 0) with
  | some k => k
  | none => 0

/-- An element of a block under its exponent. -/
def blockElem (env : KEnv) (f : Fmt) (n : NumWord) (k : Int) (i : Nat) (x : XV) : Enc :=
  encodeElem env.tabs f n.mode 0 n.rnd n.sat (env.draw n i) (x.scale (-k))

theorem encodeBlock_list (env : KEnv) (f : Fmt) (n : NumWord) (tb : Nat) (idx : Nat → Nat) (l0 : List (Option KIn)) :
    let l := blockIns n tb l0
    let k := blockExp env f n tb l
    let es := l.zipIdx.map fun p => p.1.map fun x => blockElem env f n k (idx p.2) x.val
    let o := encodeBlock env f n tb idx l0
    (o.1, o.2.1) = if es.any fun o => o.any fun e => e.nanRule then (l.map fun _ => 0, if n.mode = 4 then 255 else 127)
      else (es.map fun o => (o.map fun e => e.code).getD 0, (blockByte env.tabs f n tb (blockAmax l)).1) := by
  intro l k es o
  let ps := l.zipIdx.map fun p => p.1.map fun x => (x.val, blockElem env f n k (idx p.2) x.val)
  have hqs : es = ps.map (Option.map Prod.snd) := by
    simp only [es, ps, List.map_map]
    refine List.map_congr_left fun p _ => ?_
    simp only [Function.comp, Option.map_map]
    rfl
  let nan (q : Option (XV × Enc)) : Bool := match q with
    | some (_, e) => e.nanRule
    | none => false
  let out (q : Option (XV × Enc)) : Nat := match q with
    | some (_, e) => e.code
    | none => 0
  have hnan (q : Option (XV × Enc)) : nan q = (q.map Prod.snd).any fun e => e.nanRule := by cases q <;> rfl
  have hout (q : Option (XV × Enc)) : out q = ((q.map Prod.snd).map fun e => e.code).getD 0 := by cases q <;> rfl
  have hanys : (es.any fun o => o.any fun e => e.nanRule) = ps.any nan := by
    rw [hqs, List.any_map]
    exact congrArg ps.any (funext fun q => (hnan q).symm)
  have hcodes : (es.map fun o => (o.map fun e => e.code).getD 0) = ps.map out := by
    rw [hqs, List.map_map]
    exact List.map_congr_left fun q _ => (hout q).symm
  have hdef : ∃ a b, o = if ps.any nan then (l.map fun _ => 0, if n.mode = 4 then 255 else 127, a)
      else (ps.map out, (blockByte env.tabs f n tb (blockAmax l)).1, b) := ⟨_, _, rfl⟩
  obtain ⟨a, b, hdef⟩ := hdef
  rw [hanys, hcodes, hdef]
  split <;> rfl

/-- What the kiln takes of column j of a block row. -/
def blockIn (n : NumWord) (tb : Nat) (xs : Nat → Option KIn) (j : Nat) : Option KIn :=
  if n.mode = 5 ∧ tb = 127 then (xs j).map fun _ => KIn.plain .nan else xs j

theorem blockIns_range (n : NumWord) (tb c : Nat) (xs : Nat → Option KIn) :
    blockIns n tb ((List.range n.block).map fun j => xs (c + j)) = (List.range n.block).map fun j => blockIn n tb xs (c + j) := by
  unfold blockIns blockIn
  by_cases h : n.mode = 5 ∧ tb = 127
  · rw [if_pos (by simpa using h), List.map_map]
    simp only [if_pos h]
    rfl
  · rw [if_neg (by simpa using h)]
    simp only [if_neg h]

/-- A block of the kiln: its codes and its scale byte. -/
theorem encodeBlock_eq (d : Desc) (env : KEnv) (f : Fmt) (t : TIdx) (tb r c : Nat) (xs : Nat → Option KIn) :
    let o := encodeBlock env f d.nw tb (fun j => d.laneIndex t r (c + j)) ((List.range d.nw.block).map fun j => xs (c + j))
    (o.1, o.2.1) = ((List.range d.nw.block).map fun j => (storedBlock d env f t tb r c xs).1 (c + j), (storedBlock d env f t tb r c xs).2) := by
  intro o
  let k := blockExp env f d.nw tb ((List.range d.nw.block).map fun j => blockIn d.nw tb xs (c + j))
  let code (j : Nat) : Option Enc := (blockIn d.nw tb xs j).map fun x => stored d env f t 0 k r j x.val
  have hk (A : Option Int) : A.getD 0 = match A with
      | some k => k
      | none => 0 := by cases A <;> rfl
  have hstored : storedBlock d env f t tb r c xs = if (List.range d.nw.block).any fun j => (code (c + j)).any fun e => e.nanRule then
      (fun _ => 0, if d.nw.mode = 4 then 255 else 127) else (fun j => ((code j).map fun e => e.code).getD 0,
        (blockByte env.tabs f d.nw tb (blockAmax ((List.range d.nw.block).map fun j => blockIn d.nw tb xs (c + j)))).1) := by
    simp only [storedBlock, hk]
    rfl
  have hes : ((List.range d.nw.block).map fun j => (blockIn d.nw tb xs (c + j), j)).map (fun p => p.1.map fun x =>
      blockElem env f d.nw k (d.laneIndex t r (c + p.2)) x.val) = (List.range d.nw.block).map fun j => code (c + j) := List.map_map ..
  have hlist := encodeBlock_list env f d.nw tb (fun j => d.laneIndex t r (c + j)) ((List.range d.nw.block).map fun j => xs (c + j))
  dsimp only at hlist
  rw [blockIns_range, zipIdx_range, hes, List.any_map, List.map_map, List.map_map] at hlist
  rw [hstored]
  refine hlist.trans ?_
  simp only [Function.comp_def]
  split <;> rfl

/-! ### Rows of blocks -/

/-- The columns of a row, block by block. -/
theorem blockCols_flatMap {α : Type} (d : Desc) (h : Nat → Nat → α) :
    (d.blockCols.flatMap fun c => (List.range d.nw.block).map fun j => h c (c + j))
      = (List.range 32).map fun c => h (c / d.nw.block * d.nw.block) c := by
  unfold Desc.blockCols NumWord.block
  cases d.nw.blk16 with
  | false =>
    simp only [Bool.false_eq_true, if_false, List.flatMap_cons, List.flatMap_nil, List.append_nil]
    refine List.map_congr_left fun c hc => ?_
    have hc : c < 32 := List.mem_range.1 hc
    rw [Nat.zero_add, Nat.div_eq_of_lt hc, Nat.zero_mul]
  | true =>
    simp only [if_true, List.flatMap_cons, List.flatMap_nil, List.append_nil]
    rw [show List.range 32 = List.range 16 ++ (List.range 16).map (16 + ·) from rfl, List.map_append, List.map_map]
    refine congrArg₂ (· ++ ·) (List.map_congr_left fun c hc => ?_) (List.map_congr_left fun c hc => ?_)
    · have hc : c < 16 := List.mem_range.1 hc
      rw [Nat.zero_add, Nat.div_eq_of_lt hc, Nat.zero_mul]
    · have hc : c < 16 := List.mem_range.1 hc
      have hdiv : (16 + c) / 16 * 16 = 16 := by omega
      simp only [Function.comp, hdiv]

theorem blockCols_fit {d : Desc} {c : Nat} (h : c ∈ d.blockCols) : c + d.nw.block ≤ 32 := by
  unfold Desc.blockCols at h
  unfold NumWord.block
  cases hb : d.nw.blk16 with
  | false =>
    rw [hb, if_neg nofun, List.mem_singleton] at h
    rw [if_neg nofun, h]
  | true =>
    rw [hb, if_pos rfl] at h
    rw [if_pos rfl]
    simp only [List.mem_cons, List.not_mem_nil, or_false] at h
    omega

/-- A row that a transcode copies gives the same codes and the same scale byte; such rows are one block. -/
def Copies (d : Desc) (direct : DirectMap) (copied : Nat → Option ((Nat → Nat) × Nat)) (r : Nat) : Prop :=
  direct r = none ∧ copied r = none
    ∨ ∃ g b l, direct r = some ((List.range 32).map g, b, l) ∧ copied r = some (g, b) ∧ d.nw.blk16 = false

/-- The lane is inside the extent. -/
def insideTile (d : Desc) (t : TIdx) (r c : Nat) : Bool :=
  decide (32 * t.t1 + r < d.e1 ∧ 32 * t.t0 + c < d.e0 ∧ t.t2 < d.e2 ∧ t.t3 < d.e3)

section
variable (d : Desc) (env : KEnv) (f : Fmt) (t : TIdx) (tb : Nat) (copied : Nat → Option ((Nat → Nat) × Nat)) (en : Mask)
  (v : Nat → Nat → KIn)

/-- A block of a row: its own, or the copied one where a lane of it is enabled. -/
def kilnBlock (r c : Nat) : (Nat → Nat) × Nat :=
  if (List.range d.nw.block).any fun j => laneOn en r (c + j) then (copied r).getD (storedBlock d env f t tb r c (kilnLane d en v r))
  else storedBlock d env f t tb r c (kilnLane d en v r)

/-- The block as the model forms it. -/
def rowBlock (direct : DirectMap) (r c : Nat) : List Nat × Nat × Led :=
  let ys := (((List.range 32).map (kilnLane d en v r)).drop c).take d.nw.block
  match (if ys.all Option.isNone then none else direct r) with
  | some q => q
  | none => encodeBlock env f d.nw tb (fun j => d.laneIndex t r (c + j)) ys

theorem rowBlock_eq {direct : DirectMap} {r c : Nat} (hc : c ∈ d.blockCols) (hd : Copies d direct copied r) :
    ((rowBlock d env f t tb en v direct r c).1, (rowBlock d env f t tb en v direct r c).2.1)
      = ((List.range d.nw.block).map fun j => (kilnBlock d env f t tb copied en v r c).1 (c + j), (kilnBlock d env f t tb copied en v r c).2) := by
  have hys : (((List.range 32).map (kilnLane d en v r)).drop c).take d.nw.block = (List.range d.nw.block).map fun j => kilnLane d en v r (c + j) :=
    range_part _ (blockCols_fit hc)
  have hall : ((List.range d.nw.block).map fun j => kilnLane d en v r (c + j)).all Option.isNone
      = !(List.range d.nw.block).any fun j => laneOn en r (c + j) := by
    rw [List.all_map, List.not_any_eq_all_not]
    refine congrArg (List.all _) (funext fun j => ?_)
    simp only [Function.comp, ← kilnLane_isSome d en v r (c + j)]
    cases kilnLane d en v r (c + j) <;> rfl
  have hown := encodeBlock_eq d env f t tb r c (kilnLane d en v r)
  unfold rowBlock kilnBlock
  dsimp only
  rw [hys, hall]
  cases (List.range d.nw.block).any fun j => laneOn en r (c + j) with
  | false => exact hown
  | true =>
    obtain ⟨h1, h2⟩ | ⟨g, b, l, h1, h2, hb⟩ := hd
    · simp only [Bool.not_true, Bool.false_eq_true, if_false, if_true, h1, h2, Option.getD_none]
      exact hown
    · simp only [Bool.not_true, Bool.false_eq_true, if_false, if_true, h1, h2, Option.getD_some]
      have hc0 : c = 0 := by simpa [Desc.blockCols, hb] using hc
      have hb32 : d.nw.block = 32 := by simp [NumWord.block, hb]
      subst hc0
      rw [hb32]
      simp only [Nat.zero_add]

/-- The blocks of a row that the model stores. -/
def rowBlocks (direct : DirectMap) (r : Nat) : List (Option (Nat × List Nat × Nat × Led)) := d.blockCols.map fun c =>
  if insideTile d t r c then some (d.posOf t r c, rowBlock d env f t tb en v direct r c) else none

theorem rowBlocks_eq (direct : DirectMap) (r : Nat) :
    let o := encodeBlockRow env f d t tb direct r ((List.range 32).map (kilnLane d en v r))
    let bs := rowBlocks d env f t tb en v direct r
    o.codes = bs.flatMap (fun o => (o.map fun b => b.2.1).getD (List.replicate d.nw.block 0))
      ∧ o.wr = bs.flatMap (fun o => List.replicate d.nw.block o.isSome)
      ∧ o.scales = bs.filterMap fun o => o.map fun b => (b.1, b.2.2.1) := by
  intro o bs
  have hinside (c : Nat) : (decide (32 * t.t1 + r < d.e1) && decide (32 * t.t0 + c < d.e0) && decide (t.t2 < d.e2) && decide (t.t3 < d.e3))
      = insideTile d t r c := by
    unfold insideTile
    simp only [Bool.decide_and, Bool.and_assoc]
  have hbs : bs = d.blockCols.map fun c => if (decide (32 * t.t1 + r < d.e1) && decide (32 * t.t0 + c < d.e0) && decide (t.t2 < d.e2)
      && decide (t.t3 < d.e3)) = true then some (d.posOf t r c, rowBlock d env f t tb en v direct r c) else none := by
    simp only [hinside]
    rfl
  refine ⟨?_, ?_, ?_⟩
  · let codes (o : Option (Nat × List Nat × Nat × Led)) : List Nat := match o with
      | some b => b.2.1
      | none => List.replicate d.nw.block 0
    have h : o.codes = bs.flatMap codes := by rw [hbs]; rfl
    rw [h]
    refine List.flatMap_congr fun o _ => ?_
    cases o <;> rfl
  · rw [hbs]
    rfl
  · rw [hbs]
    rfl

section
variable {direct : DirectMap} {r : Nat} (hd : Copies d direct copied r)
include hd

theorem encodeBlockRow_codes :
    (encodeBlockRow env f d t tb direct r ((List.range 32).map (kilnLane d en v r))).codes = (List.range 32).map fun c =>
      if insideTile d t r (c / d.nw.block * d.nw.block)
      then (kilnBlock d env f t tb copied en v r (c / d.nw.block * d.nw.block)).1 c else 0 := by
  rw [(rowBlocks_eq d env f t tb en v direct r).1, rowBlocks, List.flatMap_map,
    ← blockCols_flatMap d fun c0 c => if insideTile d t r c0 then (kilnBlock d env f t tb copied en v r c0).1 c else 0]
  refine List.flatMap_congr fun c hc => ?_
  cases insideTile d t r c with
  | false =>
    refine Eq.trans ?_ (List.map_const' (l := List.range d.nw.block) (b := 0)).symm
    rw [List.length_range]
    rfl
  | true => exact congrArg Prod.fst (rowBlock_eq d env f t tb copied en v hc hd)

omit hd in
theorem encodeBlockRow_wr :
    (encodeBlockRow env f d t tb direct r ((List.range 32).map (kilnLane d en v r))).wr
      = (List.range 32).map fun c => insideTile d t r (c / d.nw.block * d.nw.block) := by
  rw [(rowBlocks_eq d env f t tb en v direct r).2.1, rowBlocks, List.flatMap_map, ← blockCols_flatMap d fun c0 _ => insideTile d t r c0]
  refine List.flatMap_congr fun c _ => ?_
  rw [List.map_const', List.length_range]
  cases insideTile d t r c <;> rfl

theorem encodeBlockRow_scales :
    (encodeBlockRow env f d t tb direct r ((List.range 32).map (kilnLane d en v r))).scales
      = (d.blockCols.filter (insideTile d t r)).map fun c => (d.posOf t r c, (kilnBlock d env f t tb copied en v r c).2) := by
  rw [(rowBlocks_eq d env f t tb en v direct r).2.2, rowBlocks, List.filterMap_map, ← List.filterMap_eq_map, List.filterMap_filter]
  refine List.filterMap_congr fun c hc => ?_
  have h := congrArg Prod.snd (rowBlock_eq d env f t tb copied en v hc hd)
  dsimp only at h
  simp only [Function.comp, ← h]
  cases insideTile d t r c <;> rfl

end

end

end Sys2Proof


/-! SUPPORT. The bytes of an encoded tile are what the kiln stores (R54, R58, R72, R107, R108, R224), and the lanes that KILN and CVT
give it. -/

namespace Sys2Proof

open Sys2Proof.Machine

section
variable (d : Desc) (env : KEnv) (f : Fmt) (rd : Nat → Nat) (t : TIdx) (direct : DirectMap)
  (copied : Nat → Option ((Nat → Nat) × Nat)) (en : Mask) (v : Nat → Nat → KIn)

/-- The supplied scale of row r, which no row without enabled lanes reads. -/
def rowScale (r : Nat) : Option Int × Nat :=
  if ((List.range 32).map (kilnLane d en v r)).all Option.isNone then (some 0, 0) else d.laneScale f rd t r 0

/-- A row of the tile. -/
def tileRowOut (r : Nat) : RowOut :=
  if d.nw.isBlock then encodeBlockRow env f d t (if d.nw.mode = 5 then d.tensorByte rd else 0) direct r ((List.range 32).map (kilnLane d en v r))
  else encodeFlatRow env f d.nw (rowScale d f rd t en v r).1 (rowScale d f rd t en v r).2 (fun c => d.laneIndex t r c)
    ((List.range 32).map (kilnLane d en v r))

/-- The bytes of a row, if it has written columns. -/
def rowBytes (o : RowOut) (r : Nat) : List (Nat × Byte) :=
  if o.wr.any id then o.bytes d.bits (d.tileCols t) (d.tileRow t r) rd else []

/-- The scale bytes of a list of positions. -/
def scaleBytes (l : List (Nat × Nat)) : List (Nat × Byte) :=
  l.map (fun p => (d.scale + p.1, if d.nw.mode = 4 then BitVec.ofNat 8 p.2 else seqByte d.seed p.1 p.2))

variable {vals : List (Option KIn)}
  (hvals : vals = lanes.map fun p => if laneOn en p.1 p.2 then some (v p.1 p.2) else none)
include hvals

theorem encodeTile_parts :
    (encodeTile env f d rd t direct vals).elems = (List.range 32).flatMap (fun r => rowBytes d rd t (tileRowOut d env f rd t direct en v r) r)
      ∧ (encodeTile env f d rd t direct vals).scales
        = let sc := (List.range 32).flatMap fun r => (tileRowOut d env f rd t direct en v r).scales
          scaleBytes d sc ++ (if d.nw.checked && sc.any fun p => decide (p.1 + 1 = d.positions)
            then d.tailBytes (if d.nw.mode = 5 then d.tensorByte rd else 0) else []) := by
  have hxs : (vals.map fun o => o.map fun x => x.scale (.fin false 1 1) d.shift) = lanes.map fun p => kilnLane d en v p.1 p.2 := by
    rw [hvals, List.map_map]
    refine List.map_congr_left fun p _ => ?_
    simp only [Function.comp, kilnLane]
    split <;> rfl
  have hrows : ((List.range 32).map fun r => (r, if d.nw.isBlock then encodeBlockRow env f d t
        (if d.nw.mode = 5 then d.tensorByte rd else 0) direct r (((lanes.map fun p => kilnLane d en v p.1 p.2).drop (32 * r)).take 32)
      else encodeFlatRow env f d.nw (if (((lanes.map fun p => kilnLane d en v p.1 p.2).drop (32 * r)).take 32).all Option.isNone then (some 0, 0)
        else d.laneScale f rd t r 0).1 (if (((lanes.map fun p => kilnLane d en v p.1 p.2).drop (32 * r)).take 32).all Option.isNone then (some 0, 0)
        else d.laneScale f rd t r 0).2 (fun c => d.laneIndex t r c) (((lanes.map fun p => kilnLane d en v p.1 p.2).drop (32 * r)).take 32)))
      = (List.range 32).map fun r => (r, tileRowOut d env f rd t direct en v r) := by
    refine List.map_congr_left fun r hr => ?_
    rw [lanes_row _ (List.mem_range.1 hr)]
    rfl
  unfold encodeTile
  dsimp only
  rw [hxs, hrows, List.flatMap_map, List.flatMap_map]
  exact ⟨rfl, rfl⟩

end

theorem rowBytes_congr (d : Desc) (rd : Nat → Nat) (t : TIdx) {o p : RowOut} (hc : o.codes = p.codes) (hw : o.wr = p.wr) (r : Nat) :
    rowBytes d rd t o r = rowBytes d rd t p r := by
  unfold rowBytes
  rw [hw, bytes_congr hc hw]

/-- A row of codes and of written columns. -/
def plainRow (codes : Nat → Nat) (wr : Nat → Bool) : RowOut :=
  { codes := (List.range 32).map codes, wr := (List.range 32).map wr, scales := [], led := Led.zero }

theorem rowBytes_plain (d : Desc) (rd : Nat → Nat) (t : TIdx) (codes : Nat → Nat) (wr : Nat → Bool) (r : Nat) :
    rowBytes d rd t (plainRow codes wr) r = if (List.range 32).any wr then (plainRow codes wr).bytes d.bits (d.tileCols t) (d.tileRow t r) rd
      else [] := by
  unfold rowBytes
  have h : (plainRow codes wr).wr.any id = (List.range 32).any wr := List.any_map
  rw [h]

section
variable {d : Desc} {env : KEnv} {f : Fmt} {rd : Nat → Nat} {t : TIdx} {direct : DirectMap} {copied : Nat → Option ((Nat → Nat) × Nat)}
  {en : Mask} {v : Nat → Nat → KIn} {vals : List (Option KIn)}
  (hvals : vals = lanes.map fun p => if laneOn en p.1 p.2 then some (v p.1 p.2) else none)

/-- A mode without blocks stores the enabled lanes. -/
theorem encoded_flat (h : d.nw.isBlock = false) : encoded d env f rd t copied en v = (List.range 32).flatMap fun r =>
    rowBytes d rd t (plainRow (fun c => if laneOn en r c then flatCode d env f t v (d.laneScale f rd t r 0) r c else 0) (laneOn en r)) r := by
  unfold encoded
  dsimp only
  rw [if_neg (by rw [h]; nofun)]
  refine List.flatMap_congr fun r _ => ?_
  rw [rowBytes_plain]
  have hcode : (fun c => if laneOn en r c = true then (match d.laneScale f rd t r 0 with
      | (some k, zp) => (stored d env f t zp k r c ((v r c).scale (.fin false 1 1) d.shift).val).code
      | (none, zp) => (stored d env f t zp 0 r c .nan).code) else 0)
      = fun c => if laneOn en r c then flatCode d env f t v (d.laneScale f rd t r 0) r c else 0 := by
    funext c
    unfold flatCode
    rfl
  exact congrArg (fun codes => if (List.range 32).any (laneOn en r) then
    (plainRow codes (laneOn en r)).bytes d.bits (d.tileCols t) (d.tileRow t r) rd else []) hcode

/-- A block mode stores the blocks inside the extent, and the tail behind the last one. -/
theorem encoded_blocks (h : d.nw.isBlock = true) : encoded d env f rd t copied en v =
    let tb := if d.nw.mode = 5 then d.tensorByte rd else 0
    let sc := (List.range 32).flatMap fun r => (d.blockCols.filter (insideTile d t r)).map fun c =>
      (d.posOf t r c, (kilnBlock d env f t tb copied en v r c).2)
    ((List.range 32).flatMap fun r => rowBytes d rd t (plainRow (fun c => if insideTile d t r (c / d.nw.block * d.nw.block)
        then (kilnBlock d env f t tb copied en v r (c / d.nw.block * d.nw.block)).1 c else 0)
        fun c => insideTile d t r (c / d.nw.block * d.nw.block)) r)
      ++ scaleBytes d sc ++ (if d.nw.checked && sc.any fun p => decide (p.1 + 1 = d.positions) then d.tailBytes tb else []) := by
  unfold encoded
  dsimp only
  rw [if_pos h]
  simp only [rowBytes_plain]
  rfl

include hvals

/-- The bytes of an encoded tile (R54 to R60, R72 to R79, R107, R108, R224). -/
theorem encodeTile_bytes (hd : ∀ r, r < 32 → Copies d direct copied r) :
    (encodeTile env f d rd t direct vals).elems ++ (encodeTile env f d rd t direct vals).scales = encoded d env f rd t copied en v := by
  obtain ⟨hel, hsc⟩ := encodeTile_parts d env f rd t direct en v hvals
  rw [hel, hsc]
  cases hb : d.nw.isBlock with
  | false =>
    have hrow (r : Nat) : tileRowOut d env f rd t direct en v r = encodeFlatRow env f d.nw (rowScale d f rd t en v r).1
        (rowScale d f rd t en v r).2 (fun c => d.laneIndex t r c) ((List.range 32).map (kilnLane d en v r)) :=
      if_neg (by rw [hb]; nofun)
    have hscales : ((List.range 32).flatMap fun r => (tileRowOut d env f rd t direct en v r).scales) = [] :=
      List.flatMap_eq_nil_iff.2 fun r _ => by rw [hrow]; rfl
    have hscale {r c : Nat} (hc : c < 32) (hon : laneOn en r c = true) : rowScale d f rd t en v r = d.laneScale f rd t r 0 := by
      refine if_neg fun hall => ?_
      have hnone := List.all_eq_true.1 hall (kilnLane d en v r c) (List.mem_map_of_mem (List.mem_range.2 hc))
      have hsome := kilnLane_isSome d en v r c
      rw [hon] at hsome
      rw [Option.isNone_iff_eq_none.1 hnone] at hsome
      exact absurd hsome nofun
    rw [encoded_flat hb, hscales]
    simp only [List.any_nil, Bool.and_false, Bool.false_eq_true, if_false]
    refine (List.append_nil _).trans (List.flatMap_congr fun r _ => ?_)
    rw [hrow]
    refine rowBytes_congr d rd t ?_ (encodeFlatRow_wr ..) r
    rw [encodeFlatRow_codes]
    show List.map _ (List.range 32)
      = List.map (fun c => if laneOn en r c then flatCode d env f t v (d.laneScale f rd t r 0) r c else 0) (List.range 32)
    refine List.map_congr_left fun c hc => ?_
    cases hon : laneOn en r c with
    | false => rfl
    | true => rw [hscale (List.mem_range.1 hc) hon]
  | true =>
    have hrow (r : Nat) : tileRowOut d env f rd t direct en v r = encodeBlockRow env f d t (if d.nw.mode = 5 then d.tensorByte rd else 0)
        direct r ((List.range 32).map (kilnLane d en v r)) := if_pos hb
    have hscales : ((List.range 32).flatMap fun r => (tileRowOut d env f rd t direct en v r).scales) = (List.range 32).flatMap fun r =>
        (d.blockCols.filter (insideTile d t r)).map fun c =>
          (d.posOf t r c, (kilnBlock d env f t (if d.nw.mode = 5 then d.tensorByte rd else 0) copied en v r c).2) :=
      List.flatMap_congr fun r hr => by
        rw [hrow, encodeBlockRow_scales _ _ _ _ _ _ _ _ (hd r (List.mem_range.1 hr))]
    rw [encoded_blocks hb]
    dsimp only
    rw [hscales, ← List.append_assoc]
    refine congrArg (fun l => l ++ _ ++ _) (List.flatMap_congr fun r hr => ?_)
    rw [hrow]
    exact rowBytes_congr d rd t (encodeBlockRow_codes _ _ _ _ _ _ _ _ (hd r (List.mem_range.1 hr))) (encodeBlockRow_wr ..) r

end

/-! ### KILN and CVT -/

/-- What KILN takes of a lane, under its drop-out (R323). -/
def dropLane (e : MemEnv) (env : KEnv) (d : Desc) (t : TIdx) (i : Nat) (pair drop : Bool) (thr q r j : Nat) : KIn :=
  let x := if pair then KIn.tw (twVal (elemAt (e.cell.vit i) r j) (elemAt (e.cell.vit (i + 1)) r j))
    else KIn.plain (f32 (elemAt (e.cell.vit i) r j))
  if drop then
    (if decide (rng16 env.seed 1 env.step env.tag (d.laneIndex t r j) < (scalarOf e.slot.launch thr).toNat)
      then x.scale (f32 (scalarOf e.slot.launch q)) 0 else KIn.plain .zero)
  else x

/-- The kiln's environment of KILN, with the counters that the program gives (R322). -/
def kilnEnv (e : MemEnv) (d : Desc) (ctr : Bool) (step tag : Nat) : KEnv :=
  if ctr then { KEnv.ofDesc e.tabs e.seed d with
    step := (scalarOf e.slot.launch step).toNat, tag := (scalarOf e.slot.launch tag).toNat } else KEnv.ofDesc e.tabs e.seed d

section
variable {e : MemEnv} {mk dk map i step tag thr q : Nat} {pair drop ctr : Bool} {f : Fmt}

theorem planKiln_legal (hf : (e.slot.desc dk).nw.fmt = some f) (he : (e.slot.desc dk).isEmpty = false)
    (hi : (e.slot.desc dk).illegal true false = false) (hq : drop = true → PositiveAt e q) :
    let d := e.slot.desc dk
    let t := e.slot.tileIdx map
    let en := e.cell.mkMask mk &&& tailMask d t
    let env := kilnEnv e d ctr step tag
    ∃ fin, planKiln e mk dk map i pair drop ctr step tag thr q = .ok (MemAsk.now {
        reads := (d.encodePlan t en).1.map d.adr, checks := [{ d := d, ps := (d.encodePlan t en).2 }], fin := fin })
      ∧ ∀ rd, ∃ es ss led, fin rd = .ok (d.commit (d.laneIndex t 0 0) es ss [] led)
        ∧ es ++ ss = encoded d env f (d.rd rd) t (fun _ => none) en (dropLane e env d t i pair drop thr q) := by
  intro d t en env
  let vals : List (Option KIn) := lanes.map fun p =>
    if laneOn en p.1 p.2 then some (dropLane e env d t i pair drop thr q p.1 p.2) else none
  have hks : (lanes.map fun l => if laneOn en l.1 l.2 then
      (if !drop then some (if pair then KIn.tw (twVal (elemAt (e.cell.vit i) l.1 l.2) (elemAt (e.cell.vit (i + 1)) l.1 l.2))
          else KIn.plain (f32 (elemAt (e.cell.vit i) l.1 l.2)))
        else if rng16 e.seed 1 env.step env.tag (d.laneIndex t l.1 l.2) < (scalarOf e.slot.launch thr).toNat then
          some ((if pair then KIn.tw (twVal (elemAt (e.cell.vit i) l.1 l.2) (elemAt (e.cell.vit (i + 1)) l.1 l.2))
            else KIn.plain (f32 (elemAt (e.cell.vit i) l.1 l.2))).scale (f32 (scalarOf e.slot.launch q)) 0)
        else some (KIn.plain .zero)) else none) = vals := by
    have hseed : env.seed = e.seed := by
      simp only [env, kilnEnv]
      split <;> rfl
    refine List.map_congr_left fun p _ => ?_
    unfold dropLane
    rw [hseed]
    cases drop with
    | false => rfl
    | true =>
      simp only [Bool.not_true, Bool.false_eq_true, if_false, if_true, decide_eq_true_eq]
      split
      · split <;> rfl
      · rfl
  let o (rd : Rd) : KOut := encodeTile env f d (d.rd rd) t (fun _ => none) vals
  refine ⟨fun rd => .ok (d.commit (d.laneIndex t 0 0) (o rd).elems (o rd).scales [] (o rd).led), ?_, fun rd => ⟨_, _, _, rfl,
    encodeTile_bytes rfl fun r _ => .inl ⟨rfl, rfl⟩⟩⟩
  simp only [o, ← hks]
  unfold planKiln
  simp only [hf]
  rw [if_neg (positive_check hq), withDesc_legal hf he hi]
  rfl

end

/-- A row that CVT copies between modes 3 and 4 (R58). -/
def copiedRow (d1 d : Desc) (t1 : TIdx) (en : Mask) (rd1 : Nat → Nat) (r : Nat) : Option ((Nat → Nat) × Nat) :=
  if directPair d1 d then (directByte d1 d (rd1 (d1.scale + d1.posOf t1 r 0))).map fun b =>
    (fun j => if laneOn en r j ∧ b ≠ (if d.nw.mode = 4 then 255 else 127) then d1.codeAt rd1 t1 r j else 0, b)
  else none

/-- The rows that CVT copies, as the model forms them. -/
def directMap (tabs : List (BitVec 16)) (f : Fmt) (s d : Desc) (t : TIdx) (en : Mask) (rd : Nat → Nat) : DirectMap :=
  if directPair s d then directRow tabs f s d rd t en else fun _ => none

theorem directMap_copies (tabs : List (BitVec 16)) (f : Fmt) (s d : Desc) (t : TIdx) (en : Mask) (rd : Nat → Nat) (r : Nat) :
    Copies d (directMap tabs f s d t en rd) (copiedRow s d t en rd) r := by
  cases hp : directPair s d with
  | false => exact .inl ⟨congrFun (if_neg (by rw [hp]; nofun)) r, if_neg (by rw [hp]; nofun)⟩
  | true =>
    have hmap : directMap tabs f s d t en rd r = directRow tabs f s d rd t en r := congrFun (if_pos hp) r
    have hrow : copiedRow s d t en rd r = (directByte s d (rd (s.scale + s.posOf t r 0))).map fun b =>
        (fun j => if laneOn en r j ∧ b ≠ (if d.nw.mode = 4 then 255 else 127) then s.codeAt rd t r j else 0, b) := if_pos hp
    unfold Copies
    rw [hmap, hrow, directRow]
    cases directByte s d (rd (s.scale + s.posOf t r 0)) with
    | none => exact .inl ⟨rfl, rfl⟩
    | some b =>
      have hblk : d.nw.blk16 = false := by
        simp only [directPair, Bool.and_eq_true, Bool.not_eq_true'] at hp
        exact hp.1.2
      have hnan : (if d.nw.mode = 4 then decide (b = 255) else decide (b = 127)) = decide (b = if d.nw.mode = 4 then 255 else 127) := by
        split <;> rfl
      refine .inr ⟨_, b, _, rfl, ?_, hblk⟩
      rw [Option.map_some]
      refine congrArg (fun g => some (g, b)) (funext fun j => ?_)
      rw [hnan]
      refine if_congr ?_ rfl rfl
      rw [Bool.and_eq_true, Bool.not_eq_true', decide_eq_false_iff_not, and_comm]

section
variable {e : MemEnv} {mk dk d2k map map2 : Nat} {sf df : Fmt}

/-- The value of a lane that CVT has read. -/
def cvtLane (e : MemEnv) (d1 : Desc) (sf : Fmt) (t1 : TIdx) (rd1 : Nat → Nat) (r j : Nat) : KIn :=
  (if sf = .tw64 then KIn.tw else KIn.plain) (d1.laneVal e.tabs sf rd1 t1 r j)

theorem planCvt_legal (hf1 : (e.slot.desc dk).nw.fmt = some sf) (hf2 : (e.slot.desc d2k).nw.fmt = some df)
    (he1 : (e.slot.desc dk).isEmpty = false) (he2 : (e.slot.desc d2k).isEmpty = false)
    (hi1 : (e.slot.desc dk).illegal false false = false) (hi2 : (e.slot.desc d2k).illegal true false = false) :
    let d1 := e.slot.desc dk
    let d := e.slot.desc d2k
    let t1 := e.slot.tileIdx map
    let t := e.slot.tileIdx map2
    let en1 := e.cell.mkMask mk &&& tailMask d1 t1
    let en := en1 &&& tailMask d t
    ∃ fin, planCvt e mk dk map d2k map2 = .ok (MemAsk.now {
        reads := (d1.readPlan t1 en1).1.map d1.adr ++ (d.encodePlan t en).1.map d.adr
        checks := [{ d := d1, ps := (d1.readPlan t1 en1).2 }, { d := d, ps := (d.encodePlan t en).2 }], fin := fin })
      ∧ ∀ rd, ∃ es ss led, fin rd = .ok (d.commit (d.laneIndex t 0 0) es ss [] led)
        ∧ es ++ ss = encoded d (KEnv.ofDesc e.tabs e.seed d) df (d.rd rd) t (copiedRow d1 d t1 en (d1.rd rd)) en
          (cvtLane e d1 sf t1 (d1.rd rd)) := by
  intro d1 d t1 t en1 en
  let vals (rd : Rd) : List (Option KIn) := lanes.map fun p =>
    if laneOn en p.1 p.2 then some (cvtLane e d1 sf t1 (d1.rd rd) p.1 p.2) else none
  have hks (rd : Rd) : ((lanes.zip (d1.tileVals e.tabs sf (d1.rd rd) t1 en1)).map fun v =>
      if laneOn en v.1.1 v.1.2 then v.2.map (if sf = .tw64 then KIn.tw else KIn.plain) else none) = vals rd := by
    have hzip : lanes.zip (d1.tileVals e.tabs sf (d1.rd rd) t1 en1) = lanes.map fun p =>
        (p, if laneOn en1 p.1 p.2 then some (d1.laneVal e.tabs sf (d1.rd rd) t1 p.1 p.2) else none) :=
      (List.map_prod_left_eq_zip ..).symm
    rw [hzip, List.map_map]
    refine List.map_congr_left fun p _ => ?_
    have hand : laneOn en p.1 p.2 = (laneOn en1 p.1 p.2 && laneOn (tailMask d t) p.1 p.2) := BitVec.getLsbD_and ..
    simp only [Function.comp, hand]
    cases laneOn en1 p.1 p.2 with
    | false => rfl
    | true => cases laneOn (tailMask d t) p.1 p.2 <;> rfl
  let o (rd : Rd) : KOut := encodeTile (KEnv.ofDesc e.tabs e.seed d) df d (d.rd rd) t (directMap e.tabs sf d1 d t1 en (d1.rd rd)) (vals rd)
  let led (rd : Rd) : Led := (decodeLedBut (fun r => rowOn en r && (directMap e.tabs sf d1 d t1 en (d1.rd rd) r).isSome)
    (d1.tileVals e.tabs sf (d1.rd rd) t1 en1)).add (o rd).led
  refine ⟨fun rd => .ok (d.commit (d.laneIndex t 0 0) (o rd).elems (o rd).scales [] (led rd)), ?_, fun rd => ⟨_, _, _, rfl,
    encodeTile_bytes rfl fun r _ => directMap_copies ..⟩⟩
  simp only [o, led, ← hks]
  unfold planCvt
  simp only [hf1, hf2]
  rw [if_neg (by rw [he1, he2]; nofun), if_neg (by rw [hi1, hi2]; nofun)]
  rfl

end

end Sys2Proof


/-! SUPPORT. The statement about the instructions that write tensors, clause by clause from their plans. -/

namespace Sys2Proof

open Sys2Proof.Machine

/-- An instruction whose plan reads nothing and whose output goes to one descriptor runs to its end. -/
theorem commit_runs_unread {s : State} {a : Site} {x : Inst} {o : TileOp} {d : Desc} {i : Nat} {es ss au bs : List (Nat × Byte)} {led : Led}
    {wps wus : List (Nat × Nat)} (h : Ready s a x o) (ho : o.isFeed = false)
    (hm : memAsk ((pureRun x).memEnv a.cell a.slot) o = some (.ok (MemAsk.now (unread (d.commit i es ss au led)))))
    (hbs : es ++ ss ++ au = bs) (hp : Placed a x (bs.map fun q => d.adr q.1) wps wus) :
    ∃ m : MemOut, m.vits = [] ∧ m.masks = [] ∧ m.feed = [] ∧ m.gather = none ∧ m.writes = bs.map (fun q => (d.adr q.1, q.2))
      ∧ MemRun o s a x m wps :=
  commit_runs (rps := []) h ho hm ⟨.inl ⟨rfl, rfl⟩, rfl⟩ rfl hbs hp

theorem placed_nothing (a : Site) (x : Inst) : Placed a x [] [] [] := ⟨rfl, by simp [Cell.caskHit]⟩

/-- Settles O16: a plan with a zero extent ends at once; every other one runs to its end from the bytes that are held. -/
theorem tensorOutputs : Obligations.TensorOutputs := by
  unfold Obligations.TensorOutputs
  intro s a x c k sc kenv win empty legal positive ends held writes
  let e := (pureRun x).memEnv a.cell a.slot
  refine ⟨?empties, ?feed, ?pairs, ?kiln, ?cvt, ?fold, ?records, ?gather, ?settle, ?smooth, ?tail, ?load⟩
  case empties =>
    rintro mk dk map i pair ⟨hf, he⟩
    refine ⟨fun h => h.ends_empty (congrArg some (withDesc_empty hf he)),
      fun hn h => h.ends_empty (congrArg some ((if_neg (not_not.2 hn)).trans (withDesc_empty hf he))),
      fun h => h.ends_empty (congrArg some (withDesc_empty hf he)), fun sv h => h.ends_empty (congrArg some (withDesc_empty hf he)),
      fun accum g sa h => h.ends_empty (congrArg some (withDesc_empty hf he)),
      fun sa sb hm h => h.ends_empty (congrArg some (planSettle_empty (e := e) hf he hm)),
      fun sa sb n h => h.ends_empty (congrArg some (withDesc_empty hf he)),
      fun drop ctr step tag thr q hq h => h.ends_empty (congrArg some (planKiln_empty (e := e) hf he hq)),
      fun md ma mb kk q j h => h.ends_empty (congrArg some (planTail_empty (e := e) hf he))⟩
  case feed =>
    intro mk dk map vit i opfmt beta xpose gather gk rep side wide hd ho hx hg hp hv hz h
    exact h.ends_empty (congrArg some (planFeed_empty (e := e) hd.1 hd.2 ho hx hg hp hv hz))
  case pairs =>
    intro mk dk map d2k map2 delta h1 h2 he
    exact ⟨fun h => h.ends_empty (congrArg some (planCvt_empty (e := e) h1 h2 he)),
      fun h => h.ends_empty (congrArg some (planFold_empty (e := e) h1 h2 he))⟩
  case kiln =>
    rintro mk dk map i pair drop ctr step tag thr q f d t en env val kept hf ⟨-, he, hi⟩ hq rps wps wus bs hh hp h
    obtain ⟨fin, hplan, hfin⟩ := planKiln_legal (e := e) (mk := mk) (map := map) (i := i) (step := step) (tag := tag) (thr := thr)
      (pair := pair) (ctr := ctr) hf he hi hq
    obtain ⟨es, ss, led, hout, hbytes⟩ := hfin fun b => bufByte k.readBuf (offOf rps b)
    exact commit_runs h rfl (congrArg some hplan) hh hout ((List.append_nil _).trans hbytes) hp
  case cvt =>
    rintro mk dk map d2k map2 sf df d1 d t1 t en1 en read kept h1 h2 ⟨-, he1, hi1⟩ ⟨-, he2, hi2⟩ rps wps wus rd1 rd copied bs hh hp h
    obtain ⟨fin, hplan, hfin⟩ := planCvt_legal (e := e) (mk := mk) (map := map) (map2 := map2) h1 h2 he1 he2 hi1 hi2
    obtain ⟨es, ss, led, hout, hbytes⟩ := hfin fun b => bufByte k.readBuf (offOf rps b)
    exact commit_runs h rfl (congrArg some hplan) hh hout ((List.append_nil _).trans hbytes) hp
  case fold =>
    rintro mk dk map d2k map2 delta d1 d o ps cs wide at_ reads ⟨hf1, he1, hi1⟩ ⟨hf2, he2, hi2⟩ hm hb hx rps rd hh h
    have hplan := planFold_legal (e := e) (map := map) (map2 := map2) (delta := delta) hf1 hf2 he1 he2 hi1 hi2 hm hb hx
    have hwide : wide = true ↔ (d1.nw.mode = 1 ∨ d1.nw.mode = 2) := decide_eq_true_iff
    have hat (p : Nat) : at_ p = foldAt d1 p := if_congr hwide rfl rfl
    have hreads : ReadsHeld o a x ((foldReads d1 ps).map d1.adr) [{ d := d1, ps := foldChecks d1 ps }] rps := by
      have hr : reads = (foldReads d1 ps).map d1.adr := congrArg (List.map d1.adr) (if_congr hwide rfl rfl)
      rw [← hr]
      exact hh
    constructor
    · intro new hnew bs wps wus hp
      have hbytes : foldBytes d1 d ps rd new = bs := List.flatMap_congr fun p _ => by
        rw [← hat]
        exact congrArg (List.cons _) (if_congr hwide.symm rfl rfl)
      have hok := foldFin_ok (d := d) (delta := delta) (i := d.laneIndex (k.tileIdx map2) 0 0) (rd := rd) (s := d1) (ps := ps) (new := new)
        fun p hp => by rw [← hat]; exact hnew p hp
      exact commit_runs h rfl (congrArg some hplan) hreads hok ((List.append_nil _).trans hbytes) hp
    · rintro ⟨p, hp, hn⟩
      rw [hat] at hn
      exact h.fails_held (pro := .none) rfl (congrArg some hplan) hreads (foldFin_range ⟨p, hp, hn⟩)
  case records =>
    rintro mk av dk map d t en vals rows ⟨hf, he, hi⟩
    obtain ⟨led, hplan⟩ := planRowRecord_legal (e := e) (mk := mk) (map := map) (av := av) hf he hi
    constructor
    · intro rps wps wus bs hh hp h
      exact commit_runs_unread h rfl (congrArg some hplan) rfl hp
    · intro sv rps wps wus bs hh hp h
      exact commit_runs_unread h rfl (congrArg some (planSoftmaxRecord_legal (e := e) hf he hi)) rfl hp
  case gather =>
    rintro mk dk map i accum g sa d t o on group groups ⟨hf, he, hi⟩ hs wps wus hp h
    have hplan := planGather_legal (e := e) (mk := mk) (map := map) (i := i) (g := g) (accum := accum) hf he hi hs
    refine ⟨_, GatherRun.of_held (rps := []) (wps := wps) (wus := wus) h rfl (congrArg some hplan) ⟨.inl ⟨rfl, rfl⟩, rfl⟩ rfl rfl ?_,
      rfl, rfl, rfl, rfl, ?_, fun j hj => ⟨_, List.mem_map_of_mem hj, gatherRec_folds ..⟩⟩
    · rw [gatherOut_places]
      exact hp
    · exact List.map_map ..
  case settle =>
    rintro mk dk map sa sb f d o off per groups hf ⟨-, he, hi⟩ hm hoff hfit rps wps wus rd hh h
    have hplan := planSettle_legal (e := e) hf he hi hoff hm (off := off) (per := per) (groups := groups) rfl rfl rfl hfit
    refine ⟨fun j => (settleEntry e f d off per rd j).1, fun j => settle_cases .., fun hp => ?_⟩
    exact commit_runs h rfl (congrArg some hplan) hh rfl (List.append_nil _) hp
  case smooth =>
    rintro mk dk map sa sb n d o reads recAt fits ⟨hf, he, hi⟩ ⟨hsa, hfa⟩ ⟨hsb, hfb⟩ rps wps wus rd hh h
    obtain ⟨f, hf⟩ := Option.ne_none_iff_exists'.1 hf
    have hplan := planSmooth_legal (e := e) hf he hi hsa hsb rfl rfl rfl hfa hfb
    refine ⟨fun j => smoothByte (recAt rd sa j) (recAt rd sb j), fun j => smoothByte_cases .., fun hp => ?_⟩
    exact commit_runs h rfl (congrArg some hplan) hh rfl (List.append_nil _) hp
  case tail =>
    rintro md ma mb dk kk q j ⟨hf, he, hi⟩ h
    exact ⟨_, MemRun.of_held (rps := []) (wus := []) h rfl (congrArg some (planTail_legal (e := e) hf he hi))
      ⟨.inl ⟨rfl, rfl⟩, rfl⟩ rfl rfl (placed_nothing a x), rfl, rfl, rfl, rfl, rfl, rfl⟩
  case load =>
    intro md ma mb dk kk q j rps o hlt h0 hh h
    exact ⟨_, _, MemRun.of_held (wus := []) h rfl (congrArg some (planMaskLoad_legal (e := e) hlt h0)) hh rfl rfl (placed_nothing a x), rfl, rfl,
      rfl, rfl, rfl, fun p hp => maskOfBytes_bit (fun _ => bufByte_lt ..) hp⟩

end Sys2Proof
